-- ==== Sys2Proof/Word.lean ====
section
/-! DEFINITION. The word types of the Eolyn E1 (R3, R83): 64-bit registers and bytes. -/

namespace Sys2Proof

/-- A 64-bit general register, control register or meter (R83, R309). -/
abbrev Word := BitVec 64

/-- One byte of a store (R3). -/
abbrev Byte := BitVec 8

/-- The five engines of a tile, in the order C, X, V, M, N of the token ring and of R39. -/
inductive Engine where
  | C
  | X
  | V
  | M
  | N
  deriving DecidableEq, Repr

namespace Engine

/-- Position in the order C, X, V, M, N (R39), which is also the ENG code of LDEL (R171) and TRAP_INFO (R311). -/
def idx : Engine → Nat
  | C => 0
  | X => 1
  | V => 2
  | M => 3
  | N => 4

/-- The next engine of the token ring C → X → V → M → N → C. -/
def next : Engine → Engine
  | C => X
  | X => V
  | V => M
  | M => N
  | N => C

/-- The previous engine of the token ring. -/
def prev : Engine → Engine
  | C => N
  | X => C
  | V => X
  | M => V
  | N => M

/-- Instructions per group (R12, R165). -/
def width : Engine → Nat
  | C => 2
  | X => 1
  | V => 2
  | M => 1
  | N => 1

/-- Every engine but X is static (R12). -/
def isStatic : Engine → Bool
  | X => false
  | C => true
  | V => true
  | M => true
  | N => true

/-- All engines in the order of R39. -/
def all : List Engine := [C, X, V, M, N]

end Engine

end Sys2Proof
end

