-- ==== Sys2Proof/Syntax.lean ====
section
/-! DEFINITION. The instructions and events of the Eolyn E1: one constructor per row of the opcode table.
Instruction constructors carry the dependency and stop bits of word 0 (R162) and the fields of their format
(R170 to R182); event constructors carry what names the object the event acts on. -/

namespace Sys2Proof

/-- The dependency bits WP, SP, WN, SN and the stop bit S of word 0 (R16, R162). -/
structure Pre where
  wp : Bool := false
  sp : Bool := false
  wn : Bool := false
  sn : Bool := false
  s : Bool := true
  deriving DecidableEq, Repr

/-- The fields of a synchronisation instruction, format SY (R172). -/
structure SyOps where
  rd : Nat := 0
  ra : Nat := 0
  rb : Nat := 0
  obj : Nat := 0
  mode : Nat := 0
  index : Nat := 0
  tx : Nat := 0
  ty : Nat := 0
  rsel : Bool := false
  rc : Nat := 0
  imm : Bool := false
  deriving DecidableEq, Repr

/-- The fields of a copy instruction, format XC (R175). DIMM is held as its 32-bit pattern. -/
structure XcOps where
  xd : Nat := 0
  xs : Nat := 0
  sem : Nat := 0
  inc : Nat := 0
  arr : Bool := false
  dimm : Nat := 0
  simm : Nat := 0
  aux : Nat := 0
  deriving DecidableEq, Repr

/-- The fields of a vector instruction (R178); D, A and B are the 12-bit operand fields of R179. -/
structure VOps where
  d : Nat := 0
  mask : Nat := 0
  func : Nat := 0
  a : Nat := 0
  b : Nat := 0
  rnd : Nat := 0
  imm : Nat := 0
  deriving DecidableEq, Repr

/-- Why the pitch manager posts a freeze request (R41, R384, R385, R386, R400, R410, R420, R433). -/
inductive FreezeWhy where
  | purse
  | preempt
  | move
  | quantum
  | retire
  | ended
  | tdisp
  | leave
  | seam (boundary : Nat)
  deriving DecidableEq, Repr

/-- The slices that a post over the fabric joins (R292, R403): slice `src` of package `pkg`, and the slice it is for. -/
structure PostRoute where
  pkg : Nat
  src : Nat
  slice : Nat
  deriving DecidableEq, Repr

/-- A source line of a request of a copy (R130): the request, and the line by its place in the copy's source. -/
structure ReqLine where
  req : Nat
  line : Nat
  deriving DecidableEq, Repr

/-- The instructions of the opcode maps (R183 to R186) and the events of the opcode table.
`gd ga gb` name g registers in C and x registers in X; the engine that holds the instruction is the
machine's, not the syntax's. A slice is named by its number, a pitch by its index in the pitch manager's list,
a tile by its index y·W + x in the pitch. -/
inductive Instr where
  -- shared instructions
  | nop (p : Pre)
  | idle (p : Pre) (n : Nat)
  | ends (p : Pre)
  | loop (p : Pre) (lvl : Nat) (src : Bool) (rc body count : Nat)
  -- control engine
  | add (p : Pre) (gd ga gb : Nat)
  | sub (p : Pre) (gd ga gb : Nat)
  | addi (p : Pre) (gd ga : Nat) (imm : Int)
  | mul (p : Pre) (gd ga gb : Nat)
  | mulh (p : Pre) (gd ga gb : Nat)
  | mulhu (p : Pre) (gd ga gb : Nat)
  | div (p : Pre) (gd ga gb : Nat)
  | divu (p : Pre) (gd ga gb : Nat)
  | rem (p : Pre) (gd ga gb : Nat)
  | remu (p : Pre) (gd ga gb : Nat)
  | and (p : Pre) (gd ga gb : Nat)
  | or (p : Pre) (gd ga gb : Nat)
  | xor (p : Pre) (gd ga gb : Nat)
  | andn (p : Pre) (gd ga gb : Nat)
  | shl (p : Pre) (gd ga gb : Nat)
  | shr (p : Pre) (gd ga gb : Nat)
  | sra (p : Pre) (gd ga gb : Nat)
  | rotl (p : Pre) (gd ga gb : Nat)
  | clz (p : Pre) (gd ga : Nat)
  | ctz (p : Pre) (gd ga : Nat)
  | popc (p : Pre) (gd ga : Nat)
  | min (p : Pre) (gd ga gb : Nat)
  | max (p : Pre) (gd ga gb : Nat)
  | minu (p : Pre) (gd ga gb : Nat)
  | maxu (p : Pre) (gd ga gb : Nat)
  | cmpeq (p : Pre) (gd ga gb : Nat)
  | cmpne (p : Pre) (gd ga gb : Nat)
  | cmplt (p : Pre) (gd ga gb : Nat)
  | cmpltu (p : Pre) (gd ga gb : Nat)
  | sel (p : Pre) (gd ga gb gc : Nat)
  | movi (p : Pre) (gd imm : Nat)
  | movk (p : Pre) (gd imm : Nat)
  | ext (p : Pre) (gd ga len pos : Nat)
  | extu (p : Pre) (gd ga len pos : Nat)
  | ins (p : Pre) (gd ga len pos : Nat)
  | ld (p : Pre) (gd ga sz : Nat) (sx : Bool) (off : Int)
  | st (p : Pre) (gs ga sz : Nat) (off : Int)
  | bz (p : Pre) (ga : Nat) (off : Int)
  | bnz (p : Pre) (ga : Nat) (off : Int)
  | j (p : Pre) (off : Int)
  | call (p : Pre) (off : Int)
  | ret (p : Pre)
  | scfg (p : Pre) (ga s wsel : Nat)
  | sget (p : Pre) (gd s wsel : Nat)
  | srst (p : Pre) (s : Nat)
  | ldel (p : Pre) (eng lvl s : Nat) (delta : Int)
  | tcfg (p : Pre) (ga t : Nat)
  | tget (p : Pre) (gd t : Nat)
  | rdvP (p : Pre) (tag : Nat)
  | rendezvousResume (pitch : Nat)
  | rdvT (p : Pre) (ga : Nat)
  | safe (p : Pre)
  | tick (p : Pre) (gd : Nat)
  | getc (p : Pre) (gd csr : Nat)
  | setc (p : Pre) (gs csr sub : Nat)
  | genclr (p : Pre)
  | hardClearDone (pitch tile : Nat)
  | mtrd (p : Pre) (gd num : Nat)
  | trap (p : Pre) (code : Nat)
  -- synchronisation
  | smcfg (p : Pre) (o : SyOps)
  | swait (p : Pre) (o : SyOps)
  | spost (p : Pre) (o : SyOps)
  | sfadd (p : Pre) (o : SyOps)
  | scas (p : Pre) (o : SyOps)
  | srd (p : Pre) (o : SyOps)
  | sexp (p : Pre) (o : SyOps)
  | sphw (p : Pre) (o : SyOps)
  | rcfg (p : Pre) (o : SyOps)
  | rclf (p : Pre) (o : SyOps)
  | rcld (p : Pre) (o : SyOps)
  | rfil (p : Pre) (o : SyOps)
  | rrel (p : Pre) (o : SyOps)
  | rstat (p : Pre) (o : SyOps)
  -- copy engine
  | cpt (p : Pre) (o : XcOps)
  | cld (p : Pre) (o : XcOps)
  | cst (p : Pre) (o : XcOps)
  | ctt (p : Pre) (o : XcOps)
  | cbc (p : Pre) (o : XcOps)
  | cga (p : Pre) (o : XcOps)
  | csc (p : Pre) (o : XcOps)
  | cfb (p : Pre) (o : XcOps)
  | fspost (p : Pre) (xp xa : Nat) (pr ar : Bool) (index pkg amt : Nat)
  | cfen (p : Pre)
  | cdrn (p : Pre)
  | tinfo (p : Pre) (xd xa word : Nat)
  -- vector engine
  | vadd (p : Pre) (o : VOps)
  | vsub (p : Pre) (o : VOps)
  | vmul (p : Pre) (o : VOps)
  | vfma (p : Pre) (o : VOps)
  | vfms (p : Pre) (o : VOps)
  | vneg (p : Pre) (o : VOps)
  | vabs (p : Pre) (o : VOps)
  | vmin (p : Pre) (o : VOps)
  | vmax (p : Pre) (o : VOps)
  | vminn (p : Pre) (o : VOps)
  | vmaxn (p : Pre) (o : VOps)
  | vdiv (p : Pre) (o : VOps)
  | vrcp (p : Pre) (o : VOps)
  | vsqrt (p : Pre) (o : VOps)
  | vrsq (p : Pre) (o : VOps)
  | vexp2 (p : Pre) (o : VOps)
  | vlog2 (p : Pre) (o : VOps)
  | vtanh (p : Pre) (o : VOps)
  | vcmpeq (p : Pre) (o : VOps)
  | vcmplt (p : Pre) (o : VOps)
  | vcmple (p : Pre) (o : VOps)
  | vcmpun (p : Pre) (o : VOps)
  | vsel (p : Pre) (o : VOps)
  | vclass (p : Pre) (o : VOps)
  | viadd (p : Pre) (o : VOps)
  | visub (p : Pre) (o : VOps)
  | vimul (p : Pre) (o : VOps)
  | vand (p : Pre) (o : VOps)
  | vor (p : Pre) (o : VOps)
  | vxor (p : Pre) (o : VOps)
  | vshl (p : Pre) (o : VOps)
  | vshr (p : Pre) (o : VOps)
  | vsra (p : Pre) (o : VOps)
  | vimin (p : Pre) (o : VOps)
  | vimax (p : Pre) (o : VOps)
  | vmix (p : Pre) (o : VOps)
  | viota (p : Pre) (o : VOps)
  | vcvt (p : Pre) (o : VOps)
  | vqnt (p : Pre) (o : VOps)
  | vdqt (p : Pre) (o : VOps)
  | vts8 (p : Pre) (o : VOps)
  | vrsum (p : Pre) (o : VOps)
  | vrmax (p : Pre) (o : VOps)
  | vrmin (p : Pre) (o : VOps)
  | vscan (p : Pre) (o : VOps)
  | vargmx (p : Pre) (o : VOps)
  | vmov (p : Pre) (o : VOps)
  | vbcst (p : Pre) (o : VOps)
  | vspl (p : Pre) (o : VOps)
  | vperm (p : Pre) (o : VOps)
  | vshf (p : Pre) (o : VOps)
  | vrot (p : Pre) (o : VOps)
  | vtrn (p : Pre) (o : VOps)
  | vzip (p : Pre) (o : VOps)
  | vunz (p : Pre) (o : VOps)
  | vext (p : Pre) (o : VOps)
  | vld (p : Pre) (o : VOps)
  | vst (p : Pre) (o : VOps)
  | vgath (p : Pre) (o : VOps)
  | vscat (p : Pre) (o : VOps)
  | vcmpr (p : Pre) (o : VOps)
  | vexpd (p : Pre) (o : VOps)
  | vmand (p : Pre) (o : VOps)
  | vmor (p : Pre) (o : VOps)
  | vmnot (p : Pre) (o : VOps)
  | vmpop (p : Pre) (o : VOps)
  -- matrix engine
  | mma (p : Pre) (tc ta tb : Nat)
  | mmaz (p : Pre) (tc ta tb : Nat)
  | mmas (p : Pre) (tc ta tb tm : Nat)
  | mmal (p : Pre) (tc ta tb : Nat)
  | mrk1 (p : Pre) (tc ta tb idx : Nat)
  | ldt (p : Pre) (t s : Nat)
  | stt (p : Pre) (t s : Nat) (sat : Bool) (rnd : Nat)
  | tzro (p : Pre) (tc : Nat)
  | tcpy (p : Pre) (tc ta : Nat)
  | ldsc (p : Pre) (t s : Nat)
  -- stream-plane engine
  | send (p : Pre) (dx dy : Int) (s off len : Nat)
  | sendl (p : Pre) (dx dy : Int) (dst src : Nat)
  | sendm (p : Pre) (dx dy : Int) (s off len : Nat)
  -- events (no encoding): tile and pitch
  | lookahead (pitch tile : Nat)
  | holdRelease (pitch stop : Nat)
  | freezeRequestPost (pitch : Nat) (why : FreezeWhy)
  | graceWindowExpiry (pitch : Nat)
  | freeze (pitch : Nat)
  | pitchResume (launch : Nat)
  | pitchPlacement (launch : Nat)
  | generationWrapClear (launch : Nat)
  | pitchMove (launch : Nat)
  | pitchComplete (pitch : Nat)
  -- copies, messages and memory
  | copyRequestDispatch (copy : Nat)
  | translationWalkDone (copy : Nat)
  | faultQueueWrite (slice pitch tile : Nat)
  | copySourceRead (copy req : Nat)
  | copyPartArrival (copy part : Nat)
  | tensorWritePerform (copy req : Nat)
  | copyComplete (copy : Nat)
  | remoteSyncArrival (msg : Nat)
  | remoteSyncReply (msg : Nat)
  | sliceSemOp (msg : Nat)
  | fabricPostDelivery (route : PostRoute) (ss amt : Nat)
  | fabricPostAck (msg : Nat) (refused : Option Nat)
  | remoteFailureReport (copy : Nat)
  | hbmUncorrectableRead (copy req : Nat)
  | pcieCompletionError (copy : Nat) (lost : ReqLine)
  | slowPathLossReport (copy : Nat) (lost : ReqLine)
  -- seams and storage errors
  | seamFault (pitch tile at_ : Nat)
  | seamLaneThreshold (boundary : Nat) (copyPlane : Bool) (crossing : Nat)
  | seamServiceRepair (boundary : Nat)
  | copyPlaneCrossingDown (boundary crossing : Nat)
  | sramCorrectedError (phys : Nat)
  | sramUncorrectableError (phys : Nat) (live : Bool)
  -- launches
  | quantumEnd (pitch : Nat)
  | launchReady (launch : Nat)
  | descriptorRead (slice chain : Nat)
  | chTailWrite (slice chain v : Nat)
  | chainEnable (slice chain v : Nat)
  | chainDisable (slice chain v : Nat)
  | chCancel (slice chain v : Nat)
  -- translation, tensor table, slice semaphores, debug
  | xctlResume (slice v : Nat)
  | xctlFatal (slice v : Nat)
  | ptDataWrite (slice v : Nat)
  | shootdownGo (slice v : Nat)
  | shootdownDone (slice : Nat)
  | tensorEntryStage (slice handle word v : Nat)
  | tensorEntryCommit (slice handle v : Nat)
  | sliceSemSet (slice k v : Nat)
  | sliceSemHostPost (slice k v : Nat)
  | debugRead (slice v : Nat)
  | debugWrite (slice v : Nat)
  | debugAccessDone (slice : Nat)
  -- management mailbox and device registers
  | mbLock (v : Nat)
  | mbUnlock (v : Nat)
  | sliceCreate (requester : Nat)
  | sliceDestroy (requester : Nat)
  | sliceResize (requester : Nat)
  | sliceParams (requester : Nat)
  | debugGrant (requester : Nat)
  | purseSet (requester : Nat)
  | attest (requester : Nat)
  | fwStageBoot (requester : Nat)
  | fwStageFlash (requester : Nat)
  | mbBadCmd (requester code : Nat)
  | pkgWrite (v : Nat)
  | rcCfgEnable (v : Nat)
  | rcIntWrite (v : Nat)
  | rcHeadWrite (v : Nat)
  | registerWrite (fn bar off v : Nat)
  | tdispLockInterface (slice : Nat)
  | tdispRun (slice : Nat)
  | tdispError (slice : Nat)
  -- boot, power, the till and the fabric
  | chargeArrival (pitch : Nat)
  | sweepChunkDone (channel : Nat)
  | fabricFlitReceive (port : Nat) (flit : List Nat)
  | fabricNackReceive (port seq : Nat)
  | fabricKeyRotation (port : Nat) (key salt : Nat)
  -- events that name no object
  | idleCountExpiry
  | illegalEncoding
  | mbLockTimeout
  | mbCommandComplete
  | pfFlr
  | boot
  | powerCut
  | powerCapTick
  | stepChange
  | tillMsAccounting
  | purseResumeThreshold
  | receiptIntervalEnd
  | receiptBatchRelease
  deriving DecidableEq, Repr

end Sys2Proof
end

