-- ==== Sys2Proof/WellFormed.lean ====
section
/-! DEFINITION. Which terms of `Instr` are instructions of an engine: the field limits of R167 to R186 and
of the instruction entries, with the cases that are fixed by the encoding (R168). -/

namespace Sys2Proof

/-- Direction code of a grid operand field (R154): 0 `.a`, 1 `.h`, 2 `.c`, 3 `.d`. -/
def gridDir (f : Nat) : Nat := f / 64 % 4

/-- A grid operand names a whole tile register (R154). -/
def gridWhole (f : Nat) : Bool := gridDir f == 0

/-- A 12-bit grid operand; direction 0b00 with a nonzero index is not assigned (R154). -/
def gridOk (f : Nat) : Bool := decide (f < 4096) && (gridDir f != 0 || f % 64 == 0)

/-- A grid operand that names a line. -/
def gridLine (f : Nat) : Bool := gridOk f && !gridWhole f

/-- D and A of one shape (R221): whole with whole, line with line. -/
def shape2 (d a : Nat) : Bool := gridOk d && gridOk a && (gridWhole d == gridWhole a)

/-- D, A and B of one shape (R221): with a whole D, A is whole and B is whole or one named row. -/
def shape3 (d a b : Nat) : Bool :=
  shape2 d a && gridOk b && (if gridWhole d then gridWhole b || gridDir b == 1 else !gridWhole b)

/-- The field widths of a V instruction (R178). -/
def vWidths (o : VOps) : Bool :=
  decide (o.mask < 8) && decide (o.func < 32) && decide (o.rnd < 4) && decide (o.imm < 64)

/-- Three grid operands, FUNC 0, with limits on RND and IMM6 (both exclusive). -/
def vTri (o : VOps) (rndLim immLim : Nat) : Bool :=
  vWidths o && shape3 o.d o.a o.b && o.func == 0 && decide (o.rnd < rndLim) && decide (o.imm < immLim)

/-- Two grid operands D and A, B zero, FUNC 0, with limits on RND and IMM6. -/
def vDuo (o : VOps) (rndLim immLim : Nat) : Bool :=
  vWidths o && shape2 o.d o.a && o.b == 0 && o.func == 0 && decide (o.rnd < rndLim) && decide (o.imm < immLim)

/-- A compare into a mask (R233): lines A and B, a mask index in D. -/
def vCmp (o : VOps) : Bool :=
  vWidths o && decide (o.d < 8) && gridLine o.a && gridLine o.b && o.func == 0 && o.rnd == 0 && o.imm == 0

/-- A shift (R237): FUNC 0 takes B, FUNC 1 takes IMM6 with B zero. -/
def vShift (o : VOps) : Bool :=
  vWidths o && o.rnd == 0 &&
    ((o.func == 0 && o.imm == 0 && shape3 o.d o.a o.b) || (o.func == 1 && o.b == 0 && shape2 o.d o.a))

/-- A reduction (R244): a line D, a line or whole A, B zero. -/
def vRed (o : VOps) (rndLim : Nat) : Bool :=
  vWidths o && gridLine o.d && gridOk o.a && o.b == 0 && o.func == 0 && decide (o.rnd < rndLim)

/-- A permutation of lines without B (R247). -/
def vPerm2 (o : VOps) : Bool :=
  vWidths o && gridLine o.d && gridLine o.a && o.b == 0 && o.func == 0 && o.rnd == 0

/-- A permutation of lines with B (R247). -/
def vPerm3 (o : VOps) (immLim : Nat) : Bool :=
  vWidths o && gridLine o.d && gridLine o.a && gridLine o.b && o.func == 0 && o.rnd == 0 && decide (o.imm < immLim)

/-- VCMPR and VEXPD (R254, R255): B is a row, or whole when D and A are. -/
def vComp (o : VOps) : Bool :=
  vTri o 1 1 && (gridWhole o.b || gridDir o.b == 1)

/-- Mask logic (R256): three mask indices and nothing else. -/
def vMaskOp (o : VOps) (dLim : Nat) (useB : Bool) : Bool :=
  decide (o.d < dLim) && decide (o.a < 8) && (if useB then decide (o.b < 8) else o.b == 0) &&
    o.mask == 0 && o.func == 0 && o.rnd == 0 && o.imm == 0

/-- The number of x or g registers that an engine's register field names (R167). -/
def regLim : Engine → Nat
  | .X => 16
  | .C => 32
  | .V => 32
  | .M => 32
  | .N => 32

/-- C, or X for the rows that R199 marks. -/
def inC (e : Engine) : Bool := e == .C

/-- C and X. -/
def inCX (e : Engine) : Bool := e == .C || e == .X

/-- Register fields of an engine. -/
def reg (e : Engine) (r : Nat) : Bool := decide (r < regLim e)

/-- Format CR with three registers (R171). -/
def cr3 (e : Engine) (gd ga gb : Nat) : Bool := reg e gd && reg e ga && reg e gb

/-- A signed value fits `n` bits. -/
def fitsS (n : Nat) (v : Int) : Bool := decide (-(2 ^ (n - 1) : Int) ≤ v) && decide (v < (2 ^ (n - 1) : Int))

/-- What an instruction of R174 uses of format SY. -/
structure SyUse where
  rd : Bool
  ra : Bool
  rb : Bool
  /-- I = 1 is assigned. -/
  imm : Bool
  /-- Number of MODE values assigned. -/
  modes : Nat
  /-- OBJ values allowed in C. -/
  objC : List Nat
  /-- OBJ values allowed in X. -/
  objX : List Nat
  deriving DecidableEq, Repr

/-- INDEX limit of an OBJ (R173). -/
def objIndexLim (obj : Nat) : Nat :=
  if obj == 2 then 4096 else if obj ≤ 1 then 64 else 16

/-- OBJ 1 and 4 name a remote tile (R173). -/
def objRemote (obj : Nat) : Bool := obj == 1 || obj == 4

/-- Format SY under R172 to R174. -/
def syOk (e : Engine) (u : SyUse) (o : SyOps) : Bool :=
  inCX e && decide (o.obj < 5) && (if e == .C then u.objC.contains o.obj else u.objX.contains o.obj) &&
    (if u.rd then reg e o.rd else o.rd == 0) &&
    (if u.ra then reg e o.ra else o.ra == 0) &&
    (if o.imm then u.imm && decide (o.rb < 32) else if u.rb then reg e o.rb else o.rb == 0) &&
    decide (o.mode < u.modes) && decide (o.index < objIndexLim o.obj) &&
    decide (o.tx < 64) && decide (o.ty < 64) &&
    (if objRemote o.obj then (if o.rsel then reg e o.rc && o.tx == 0 && o.ty == 0 else o.rc == 0)
     else !o.rsel && o.tx == 0 && o.ty == 0 && o.rc == 0)

/-- OBJ lists of R174. -/
def semAll : List Nat := [0, 1, 2]
def semTile : List Nat := [0, 1]
def ringAll : List Nat := [3, 4]

/-- Format XC under R175 and R176; `auxLo` to `auxHi` is the AUX range. -/
def xcOk (e : Engine) (o : XcOps) (auxLo auxHi : Nat) (arrOk : Bool) : Bool :=
  e == .X && decide (o.xd < 16) && decide (o.xs < 16) && decide (o.sem < 64) && decide (o.inc < 16) &&
    (arrOk || !o.arr) && decide (o.dimm < 4294967296) && decide (o.simm < 1048576) &&
    decide (auxLo ≤ o.aux) && decide (o.aux ≤ auxHi)

/-- CSR numbers that SETC may name (R309, R310). -/
def csrWritable (n : Nat) : Bool := n == 0x004 || n == 0x00A || n == 0x00B

/-- A route component of R182. -/
def route (v : Int) : Bool := fitsS 6 v

/-- `i` is an instruction of engine `e` (R167 to R186 and the entries). Events are never instructions. That A of a VEXT is a line
is read from R249, which names no whole form (DEDUCED, notes/assumptions/124.md). -/
def wf (e : Engine) (i : Instr) : Bool :=
  match i with
  | .nop _ => true
  | .idle _ n => e != .X && decide (1 ≤ n) && decide (n < 1048576)
  | .ends _ => true
  | .loop _ lvl src rc body count =>
    decide (lvl < 4) && decide (1 ≤ body) && decide (body < 4096) && decide (count < 4294967296) &&
      (if src then inCX e && reg e rc && count == 0 else rc == 0)
  | .add _ gd ga gb | .sub _ gd ga gb | .and _ gd ga gb | .or _ gd ga gb | .xor _ gd ga gb
  | .shl _ gd ga gb | .shr _ gd ga gb | .min _ gd ga gb | .max _ gd ga gb | .cmpeq _ gd ga gb
  | .cmplt _ gd ga gb | .cmpltu _ gd ga gb => inCX e && cr3 e gd ga gb
  | .mul _ gd ga gb | .mulh _ gd ga gb | .mulhu _ gd ga gb | .div _ gd ga gb | .divu _ gd ga gb
  | .rem _ gd ga gb | .remu _ gd ga gb | .andn _ gd ga gb | .sra _ gd ga gb | .rotl _ gd ga gb
  | .minu _ gd ga gb | .maxu _ gd ga gb | .cmpne _ gd ga gb => inC e && cr3 e gd ga gb
  | .clz _ gd ga | .ctz _ gd ga | .popc _ gd ga => inC e && reg e gd && reg e ga
  | .sel _ gd ga gb gc => inCX e && cr3 e gd ga gb && reg e gc
  | .addi _ gd ga imm => inCX e && reg e gd && reg e ga && fitsS 10 imm
  | .movi _ gd imm | .movk _ gd imm => inCX e && reg e gd && decide (imm < 4294967296)
  | .ext _ gd ga len pos | .extu _ gd ga len pos | .ins _ gd ga len pos =>
    inC e && reg e gd && reg e ga && decide (len < 64) && decide (pos < 64) && decide (pos + len + 1 ≤ 64)
  | .ld _ gd ga sz sx off =>
    inCX e && reg e gd && reg e ga && decide (sz < 4) && (!sx || decide (sz < 3)) && fitsS 7 off
  | .st _ gs ga sz off => inCX e && reg e gs && reg e ga && decide (sz < 4) && fitsS 7 off
  | .bz _ ga off | .bnz _ ga off => inCX e && reg e ga && fitsS 15 off
  | .j _ off => inCX e && fitsS 20 off
  | .call _ off => inC e && fitsS 20 off
  | .ret _ => inC e
  | .scfg _ ga s wsel => inC e && reg e ga && decide (s < 16) && decide (wsel < 6)
  | .sget _ gd s wsel => inC e && reg e gd && decide (s < 16) && decide (wsel < 6)
  | .srst _ s => inC e && decide (s < 16)
  | .ldel _ eng lvl s delta => inC e && decide (eng < 5) && decide (lvl < 4) && decide (s < 16) && fitsS 21 delta
  | .tcfg _ ga t => inC e && reg e ga && decide (t < 16)
  | .tget _ gd t => inC e && reg e gd && decide (t < 16)
  | .rdvP _ tag => inC e && decide (tag < 65536)
  | .rdvT _ ga => inC e && reg e ga
  | .safe _ | .genclr _ => inC e
  | .tick _ gd => inC e && reg e gd
  | .getc _ gd csr => inCX e && reg e gd && decide (csr < 15)
  | .setc _ gs csr sub => inC e && reg e gs && csrWritable csr && decide (sub < 3)
  | .mtrd _ gd num => inC e && reg e gd && decide (num < 10)
  | .trap _ code => inCX e && decide (code < 65536)
  | .smcfg _ o => syOk e ⟨false, true, true, false, 2, [0], [0]⟩ o
  | .swait _ o | .spost _ o => syOk e ⟨false, false, true, true, 1, [0], semAll⟩ o
  | .sfadd _ o => syOk e ⟨true, false, true, true, 1, [0], semAll⟩ o
  | .scas _ o => syOk e ⟨true, true, true, false, 1, [0], semAll⟩ o
  | .srd _ o => syOk e ⟨true, false, false, false, 2, [0], semAll⟩ o
  | .sexp _ o | .sphw _ o => syOk e ⟨false, false, true, true, 1, [0], semTile⟩ o
  | .rcfg _ o => syOk e ⟨false, true, false, false, 1, [3], [3]⟩ o
  | .rclf _ o | .rcld _ o => syOk e ⟨true, false, false, false, 1, [3], ringAll⟩ o
  | .rfil _ o | .rrel _ o => syOk e ⟨false, false, false, false, 1, [3], ringAll⟩ o
  | .rstat _ o => syOk e ⟨true, false, false, false, 2, [3], ringAll⟩ o
  | .cpt _ o => xcOk e o 1 4095 true
  | .cld _ o => xcOk e o 0 0 true
  | .cst _ o | .ctt _ o => xcOk e o 0 0 false
  | .cbc _ o => xcOk e o 0 4095 true
  | .cga _ o => xcOk e o 1 4095 true
  | .csc _ o => xcOk e o 1 4095 false
  | .cfb _ o => xcOk e o 0 0 false && o.simm == 0
  | .fspost _ xp xa pr ar index pkg amt =>
    e == .X && decide (xp < 16) && decide (xa < 16) && decide (index < 4096) && decide (pkg < 16384) &&
      decide (amt < 64) && (if pr then pkg == 0 else xp == 0) && (if ar then amt == 0 else xa == 0 && decide (1 ≤ amt))
  | .cfen _ | .cdrn _ => e == .X
  | .tinfo _ xd xa word => e == .X && reg e xd && reg e xa && decide (word < 4)
  | .vadd _ o | .vsub _ o | .vmul _ o | .vfma _ o | .vfms _ o | .vmin _ o | .vmax _ o | .vminn _ o
  | .vmaxn _ o => e == .V && vTri o 4 1
  | .vneg _ o | .vabs _ o | .vdqt _ o | .vscan _ o => e == .V && vDuo o 4 1
  | .vdiv _ o | .vand _ o | .vor _ o | .vxor _ o | .vimin _ o | .vimax _ o | .vmix _ o => e == .V && vTri o 1 1
  | .vrcp _ o | .vsqrt _ o | .vrsq _ o | .vexp2 _ o | .vlog2 _ o | .vtanh _ o | .vmov _ o => e == .V && vDuo o 1 1
  | .vcmpeq _ o | .vcmplt _ o | .vcmple _ o | .vcmpun _ o => e == .V && vCmp o
  | .vclass _ o =>
    e == .V && vWidths o && decide (o.d < 8) && gridLine o.a && decide (o.b < 512) &&
      o.func == 0 && o.rnd == 0 && o.imm == 0
  | .vsel _ o => e == .V && vTri o 1 8
  | .viadd _ o | .visub _ o | .vimul _ o => e == .V && vTri o 1 2
  | .vshl _ o | .vshr _ o | .vsra _ o => e == .V && vShift o
  | .viota _ o => e == .V && vWidths o && gridOk o.d && o.a == 0 && o.b == 0 && o.func == 0 && o.rnd == 0
  | .vcvt _ o => e == .V && vDuo o 4 2
  | .vqnt _ o => e == .V && vDuo o 4 2 && gridWhole o.d && o.mask == 0
  | .vts8 _ o => e == .V && vDuo o 1 1 && gridWhole o.d && o.mask == 0
  | .vrsum _ o => e == .V && vRed o 4
  | .vrmax _ o | .vrmin _ o | .vargmx _ o => e == .V && vRed o 1
  | .vbcst _ o =>
    e == .V && vWidths o && gridOk o.d && decide (o.a < 32) && o.b == 0 && o.func == 0 && o.rnd == 0 && o.imm == 0
  | .vspl _ o | .vshf _ o | .vrot _ o => e == .V && vPerm2 o
  | .vperm _ o => e == .V && vPerm3 o 1
  | .vzip _ o | .vunz _ o => e == .V && vPerm3 o 2
  | .vtrn _ o => e == .V && vDuo o 1 1 && gridWhole o.d && o.mask == 0 && o.d / 256 != o.a / 256
  | .vext _ o =>
    e == .V && vWidths o && decide (o.d < 32) && gridLine o.a && o.b == 0 && o.mask == 0 && decide (o.func < 2) && o.rnd == 0
  | .vld _ o =>
    e == .V && vWidths o && gridOk o.d && decide (o.a < 16) && o.b == 0 && o.func == 0 && o.rnd == 0 && o.imm == 0
  | .vst _ o =>
    e == .V && vWidths o && decide (o.d < 16) && gridOk o.a && o.b == 0 && o.func == 0 && o.rnd == 0 && o.imm == 0
  | .vgath _ o =>
    e == .V && vWidths o && gridLine o.d && gridLine o.a && decide (o.b < 16) && o.func == 0 && o.rnd == 0 && o.imm == 0
  | .vscat _ o =>
    e == .V && vWidths o && decide (o.d < 16) && gridLine o.a && gridLine o.b && o.func == 0 && o.rnd == 0 && o.imm == 0
  | .vcmpr _ o | .vexpd _ o => e == .V && vComp o
  | .vmand _ o | .vmor _ o => e == .V && vMaskOp o 8 true
  | .vmnot _ o => e == .V && vMaskOp o 8 false
  | .vmpop _ o => e == .V && vMaskOp o 32 false
  | .mma _ tc ta tb | .mmaz _ tc ta tb | .mmal _ tc ta tb =>
    e == .M && decide (tc < 16) && decide (ta < 16) && decide (tb < 16)
  | .mmas _ tc ta tb tm => e == .M && decide (tc < 16) && decide (ta < 16) && decide (tb < 16) && decide (tm < 16)
  | .mrk1 _ tc ta tb idx => e == .M && decide (tc < 16) && decide (ta < 16) && decide (tb < 16) && decide (idx < 64)
  | .ldt _ t s | .ldsc _ t s => e == .M && decide (t < 16) && decide (s < 16)
  | .stt _ t s _ rnd => e == .M && decide (t < 16) && decide (s < 16) && decide (rnd < 4)
  | .tzro _ tc => e == .M && decide (tc < 16)
  | .tcpy _ tc ta => e == .M && decide (tc < 16) && decide (ta < 16)
  | .send _ dx dy s off len | .sendm _ dx dy s off len =>
    e == .N && route dx && route dy && decide (s < 16) && decide (off < 1048576) && decide (1 ≤ len) && decide (len < 4096)
  | .sendl _ dx dy dst src => e == .N && route dx && route dy && gridLine dst && gridLine src
  | _ => false

end Sys2Proof
end

