-- ==== Sys2Proof/Decode.lean ====
section
/-! DEFINITION. The decoder and the encoder of the five opcode spaces, from the formats of R162 to R186. -/

namespace Sys2Proof

/-- Why a word is no instruction (R168). -/
inductive DecodeError where
  /-- The stream ends inside the instruction. -/
  | truncated
  /-- OP is not assigned in the engine's space. -/
  | badOp (e : Engine) (op : Nat)
  /-- A bit that the format marks zero or reserved is 1. -/
  | reserved
  /-- A field value that is not assigned. -/
  | field
  deriving DecidableEq, Repr

/-- The `n` bits of `w` from bit `lo`. -/
def fld (w lo n : Nat) : Nat := w / 2 ^ lo % 2 ^ n

/-- Bit `k` of `w`. -/
def bit (w k : Nat) : Bool := fld w k 1 == 1

/-- An `n`-bit pattern read in two's complement (R170). -/
def toSigned (n v : Nat) : Int := if v < 2 ^ (n - 1) then (v : Int) else (v : Int) - (2 ^ n : Nat)

/-- The `n`-bit two's-complement pattern of `v` (R170). -/
def ofSigned (n : Nat) (v : Int) : Nat := (v % (2 ^ n : Nat)).toNat

/-- A Boolean as a bit. -/
def b2n (b : Bool) : Nat := if b then 1 else 0

/-- The dependency bits and stop bit of word 0 (R162). -/
def preOf (w : Nat) : Pre := ⟨bit w 31, bit w 30, bit w 29, bit w 28, bit w 27⟩

/-- Word 0 from its dependency and stop bits, OP and the fields in [19:0] (R162). -/
def word0 (p : Pre) (op f : Nat) : Nat :=
  b2n p.wp * 2147483648 + b2n p.sp * 1073741824 + b2n p.wn * 536870912 + b2n p.sn * 268435456 +
    b2n p.s * 134217728 + op * 1048576 + f

/-- The bits from `lo` up of width `n` are zero, as a format requires (R168). -/
def zeros (w lo n : Nat) : Bool := fld w lo n == 0

/-- An instruction when its reserved bits are zero. -/
def guardZ (ok : Bool) (i : Instr) : Except DecodeError Instr := if ok then .ok i else .error .reserved

/-- Format CR with two sources (R170). -/
def fCR (w : Nat) (k : Pre → Nat → Nat → Nat → Instr) : Except DecodeError Instr :=
  guardZ (zeros w 0 5) (k (preOf w) (fld w 15 5) (fld w 10 5) (fld w 5 5))

/-- Format CR with one source: gb and sub zero (R171). -/
def fCR1 (w : Nat) (k : Pre → Nat → Nat → Instr) : Except DecodeError Instr :=
  guardZ (zeros w 0 10) (k (preOf w) (fld w 15 5) (fld w 10 5))

/-- Format CZ (R170). -/
def fCZ (w : Nat) (k : Pre → Instr) : Except DecodeError Instr := guardZ (zeros w 0 20) (k (preOf w))

/-- Format CF (R170). -/
def fCF (w w1 : Nat) (k : Pre → Nat → Nat → Nat → Nat → Instr) : Except DecodeError Instr :=
  guardZ (zeros w 0 10 && zeros w1 14 18 && zeros w1 6 2)
    (k (preOf w) (fld w 15 5) (fld w 10 5) (fld w1 8 6) (fld w1 0 6))

/-- Format SY (R172). -/
def fSY (w w1 : Nat) (k : Pre → SyOps → Instr) : Except DecodeError Instr :=
  guardZ (zeros w1 1 1)
    (k (preOf w)
      { rd := fld w 15 5, ra := fld w 10 5, rb := fld w 5 5, obj := fld w 2 3, mode := fld w 0 2,
        index := fld w1 20 12, tx := fld w1 14 6, ty := fld w1 8 6, rsel := bit w1 7, rc := fld w1 2 5,
        imm := bit w1 0 })

/-- Format XC (R175). -/
def fXC (w w1 w2 : Nat) (k : Pre → XcOps → Instr) : Except DecodeError Instr :=
  guardZ (zeros w 0 1)
    (k (preOf w)
      { xd := fld w 16 4, xs := fld w 12 4, sem := fld w 6 6, inc := fld w 2 4, arr := bit w 1,
        dimm := fld w1 0 32, simm := fld w2 12 20, aux := fld w2 0 12 })

/-- The V format (R178). -/
def fV (w w1 : Nat) (k : Pre → VOps → Instr) : Except DecodeError Instr :=
  .ok (k (preOf w)
    { d := fld w 8 12, mask := fld w 5 3, func := fld w 0 5, a := fld w1 20 12, b := fld w1 8 12,
      rnd := fld w1 6 2, imm := fld w1 0 6 })

/-- Format MT with three tile registers and AUX, SUB zero (R180, R181). -/
def fMT (w : Nat) (k : Pre → Nat → Nat → Nat → Instr) : Except DecodeError Instr :=
  guardZ (zeros w 0 8) (k (preOf w) (fld w 16 4) (fld w 12 4) (fld w 8 4))

/-- SEND and SENDM (R182). -/
def fSend (w w1 : Nat) (k : Pre → Int → Int → Nat → Nat → Nat → Instr) : Except DecodeError Instr :=
  guardZ (zeros w 0 4)
    (k (preOf w) (toSigned 6 (fld w 14 6)) (toSigned 6 (fld w 8 6)) (fld w 4 4) (fld w1 12 20) (fld w1 0 12))

/-- Words of an instruction by engine and OP; 0 where OP is not assigned (R183 to R186). -/
def opWords (e : Engine) (op : Nat) : Nat :=
  match e with
  | .C =>
    if op == 0x03 || op == 0x22 || op == 0x23 || op == 0x24 || op == 0x25 || op == 0x26 || op == 0x31 then 2
    else if op ≤ 0x3B then 1
    else if 0x40 ≤ op && op ≤ 0x4D then 2
    else 0
  | .X =>
    if op == 0x03 || op == 0x22 || op == 0x23 || op == 0x58 || (0x40 ≤ op && op ≤ 0x4D) then 2
    else if 0x50 ≤ op && op ≤ 0x57 then 3
    else if op == 0x00 || op == 0x02 || (0x04 ≤ op && op ≤ 0x06) || (0x0E ≤ op && op ≤ 0x10) || op == 0x12 ||
      op == 0x13 || op == 0x19 || op == 0x1A || op == 0x1D || (0x1F ≤ op && op ≤ 0x21) ||
      (0x27 ≤ op && op ≤ 0x2B) || op == 0x37 || op == 0x3B || (0x59 ≤ op && op ≤ 0x5B) then 1
    else 0
  | .V => if op == 0x03 || (0x04 ≤ op && op ≤ 0x45) then 2 else if op ≤ 0x02 then 1 else 0
  | .M => if op == 0x03 then 2 else if op ≤ 0x0D then 1 else 0
  | .N => if 0x03 ≤ op && op ≤ 0x06 then 2 else if op ≤ 0x02 then 1 else 0

/-- The C engine's opcode space (R183). -/
def decodeC (op w w1 : Nat) : Except DecodeError Instr :=
  match op with
  | 0x00 => fCZ w .nop
  | 0x01 => .ok (.idle (preOf w) (fld w 0 20))
  | 0x02 => fCZ w .ends
  | 0x03 => .ok (.loop (preOf w) (fld w 18 2) (bit w 17) (fld w 12 5) (fld w 0 12) (fld w1 0 32))
  | 0x04 => fCR w .add
  | 0x05 => fCR w .sub
  | 0x06 => .ok (.addi (preOf w) (fld w 15 5) (fld w 10 5) (toSigned 10 (fld w 0 10)))
  | 0x07 => fCR w .mul
  | 0x08 => fCR w .mulh
  | 0x09 => fCR w .mulhu
  | 0x0A => fCR w .div
  | 0x0B => fCR w .divu
  | 0x0C => fCR w .rem
  | 0x0D => fCR w .remu
  | 0x0E => fCR w .and
  | 0x0F => fCR w .or
  | 0x10 => fCR w .xor
  | 0x11 => fCR w .andn
  | 0x12 => fCR w .shl
  | 0x13 => fCR w .shr
  | 0x14 => fCR w .sra
  | 0x15 => fCR w .rotl
  | 0x16 => fCR1 w .clz
  | 0x17 => fCR1 w .ctz
  | 0x18 => fCR1 w .popc
  | 0x19 => fCR w .min
  | 0x1A => fCR w .max
  | 0x1B => fCR w .minu
  | 0x1C => fCR w .maxu
  | 0x1D => fCR w .cmpeq
  | 0x1E => fCR w .cmpne
  | 0x1F => fCR w .cmplt
  | 0x20 => fCR w .cmpltu
  | 0x21 => .ok (.sel (preOf w) (fld w 15 5) (fld w 10 5) (fld w 5 5) (fld w 0 5))
  | 0x22 => guardZ (zeros w 0 15) (.movi (preOf w) (fld w 15 5) (fld w1 0 32))
  | 0x23 => guardZ (zeros w 0 15) (.movk (preOf w) (fld w 15 5) (fld w1 0 32))
  | 0x24 => fCF w w1 .ext
  | 0x25 => fCF w w1 .extu
  | 0x26 => fCF w w1 .ins
  | 0x27 => .ok (.ld (preOf w) (fld w 15 5) (fld w 10 5) (fld w 8 2) (bit w 7) (toSigned 7 (fld w 0 7)))
  | 0x28 => guardZ (zeros w 7 1) (.st (preOf w) (fld w 15 5) (fld w 10 5) (fld w 8 2) (toSigned 7 (fld w 0 7)))
  | 0x29 => .ok (.bz (preOf w) (fld w 15 5) (toSigned 15 (fld w 0 15)))
  | 0x2A => .ok (.bnz (preOf w) (fld w 15 5) (toSigned 15 (fld w 0 15)))
  | 0x2B => .ok (.j (preOf w) (toSigned 20 (fld w 0 20)))
  | 0x2C => .ok (.call (preOf w) (toSigned 20 (fld w 0 20)))
  | 0x2D => fCZ w .ret
  | 0x2E => guardZ (zeros w 15 5 && zeros w 0 3) (.scfg (preOf w) (fld w 10 5) (fld w 6 4) (fld w 3 3))
  | 0x2F => guardZ (zeros w 10 5 && zeros w 0 3) (.sget (preOf w) (fld w 15 5) (fld w 6 4) (fld w 3 3))
  | 0x30 => guardZ (zeros w 10 10 && zeros w 0 6) (.srst (preOf w) (fld w 6 4))
  | 0x31 => guardZ (zeros w 0 11 && zeros w1 21 11)
      (.ldel (preOf w) (fld w 17 3) (fld w 15 2) (fld w 11 4) (toSigned 21 (fld w1 0 21)))
  | 0x32 => guardZ (zeros w 15 5 && zeros w 0 6) (.tcfg (preOf w) (fld w 10 5) (fld w 6 4))
  | 0x33 => guardZ (zeros w 10 5 && zeros w 0 6) (.tget (preOf w) (fld w 15 5) (fld w 6 4))
  | 0x34 => if fld w 18 2 == 0 then guardZ (zeros w 16 2) (.rdvP (preOf w) (fld w 0 16))
    else if fld w 18 2 == 1 then guardZ (zeros w 15 3 && zeros w 0 10) (.rdvT (preOf w) (fld w 10 5))
    else .error .field
  | 0x35 => fCZ w .safe
  | 0x36 => guardZ (zeros w 0 15) (.tick (preOf w) (fld w 15 5))
  | 0x37 => guardZ (zeros w 0 3) (.getc (preOf w) (fld w 15 5) (fld w 3 12))
  | 0x38 => .ok (.setc (preOf w) (fld w 15 5) (fld w 3 12) (fld w 0 3))
  | 0x39 => fCZ w .genclr
  | 0x3A => guardZ (zeros w 0 3) (.mtrd (preOf w) (fld w 15 5) (fld w 3 12))
  | 0x3B => guardZ (zeros w 16 4) (.trap (preOf w) (fld w 0 16))
  | 0x40 => fSY w w1 .smcfg
  | 0x41 => fSY w w1 .swait
  | 0x42 => fSY w w1 .spost
  | 0x43 => fSY w w1 .sfadd
  | 0x44 => fSY w w1 .scas
  | 0x45 => fSY w w1 .srd
  | 0x46 => fSY w w1 .sexp
  | 0x47 => fSY w w1 .sphw
  | 0x48 => fSY w w1 .rcfg
  | 0x49 => fSY w w1 .rclf
  | 0x4A => fSY w w1 .rcld
  | 0x4B => fSY w w1 .rfil
  | 0x4C => fSY w w1 .rrel
  | 0x4D => fSY w w1 .rstat
  | _ => .error (.badOp .C op)

/-- The X engine's opcode space (R184). -/
def decodeX (op w w1 w2 : Nat) : Except DecodeError Instr :=
  match op with
  | 0x00 => fCZ w .nop
  | 0x02 => fCZ w .ends
  | 0x03 => .ok (.loop (preOf w) (fld w 18 2) (bit w 17) (fld w 12 5) (fld w 0 12) (fld w1 0 32))
  | 0x04 => fCR w .add
  | 0x05 => fCR w .sub
  | 0x06 => .ok (.addi (preOf w) (fld w 15 5) (fld w 10 5) (toSigned 10 (fld w 0 10)))
  | 0x0E => fCR w .and
  | 0x0F => fCR w .or
  | 0x10 => fCR w .xor
  | 0x12 => fCR w .shl
  | 0x13 => fCR w .shr
  | 0x19 => fCR w .min
  | 0x1A => fCR w .max
  | 0x1D => fCR w .cmpeq
  | 0x1F => fCR w .cmplt
  | 0x20 => fCR w .cmpltu
  | 0x21 => .ok (.sel (preOf w) (fld w 15 5) (fld w 10 5) (fld w 5 5) (fld w 0 5))
  | 0x22 => guardZ (zeros w 0 15) (.movi (preOf w) (fld w 15 5) (fld w1 0 32))
  | 0x23 => guardZ (zeros w 0 15) (.movk (preOf w) (fld w 15 5) (fld w1 0 32))
  | 0x27 => .ok (.ld (preOf w) (fld w 15 5) (fld w 10 5) (fld w 8 2) (bit w 7) (toSigned 7 (fld w 0 7)))
  | 0x28 => guardZ (zeros w 7 1) (.st (preOf w) (fld w 15 5) (fld w 10 5) (fld w 8 2) (toSigned 7 (fld w 0 7)))
  | 0x29 => .ok (.bz (preOf w) (fld w 15 5) (toSigned 15 (fld w 0 15)))
  | 0x2A => .ok (.bnz (preOf w) (fld w 15 5) (toSigned 15 (fld w 0 15)))
  | 0x2B => .ok (.j (preOf w) (toSigned 20 (fld w 0 20)))
  | 0x37 => guardZ (zeros w 0 3) (.getc (preOf w) (fld w 15 5) (fld w 3 12))
  | 0x3B => guardZ (zeros w 16 4) (.trap (preOf w) (fld w 0 16))
  | 0x40 => fSY w w1 .smcfg
  | 0x41 => fSY w w1 .swait
  | 0x42 => fSY w w1 .spost
  | 0x43 => fSY w w1 .sfadd
  | 0x44 => fSY w w1 .scas
  | 0x45 => fSY w w1 .srd
  | 0x46 => fSY w w1 .sexp
  | 0x47 => fSY w w1 .sphw
  | 0x48 => fSY w w1 .rcfg
  | 0x49 => fSY w w1 .rclf
  | 0x4A => fSY w w1 .rcld
  | 0x4B => fSY w w1 .rfil
  | 0x4C => fSY w w1 .rrel
  | 0x4D => fSY w w1 .rstat
  | 0x50 => fXC w w1 w2 .cpt
  | 0x51 => fXC w w1 w2 .cld
  | 0x52 => fXC w w1 w2 .cst
  | 0x53 => fXC w w1 w2 .ctt
  | 0x54 => fXC w w1 w2 .cbc
  | 0x55 => fXC w w1 w2 .cga
  | 0x56 => fXC w w1 w2 .csc
  | 0x57 => fXC w w1 w2 .cfb
  | 0x58 => guardZ (zeros w 2 10)
      (.fspost (preOf w) (fld w 16 4) (fld w 12 4) (bit w 1) (bit w 0) (fld w1 20 12) (fld w1 6 14) (fld w1 0 6))
  | 0x59 => fCZ w .cfen
  | 0x5A => fCZ w .cdrn
  | 0x5B => guardZ (zeros w 5 5) (.tinfo (preOf w) (fld w 15 5) (fld w 10 5) (fld w 0 5))
  | _ => .error (.badOp .X op)

/-- The V engine's opcode space (R185). -/
def decodeV (op w w1 : Nat) : Except DecodeError Instr :=
  match op with
  | 0x00 => fCZ w .nop
  | 0x01 => .ok (.idle (preOf w) (fld w 0 20))
  | 0x02 => fCZ w .ends
  | 0x03 => .ok (.loop (preOf w) (fld w 18 2) (bit w 17) (fld w 12 5) (fld w 0 12) (fld w1 0 32))
  | 0x04 => fV w w1 .vadd
  | 0x05 => fV w w1 .vsub
  | 0x06 => fV w w1 .vmul
  | 0x07 => fV w w1 .vfma
  | 0x08 => fV w w1 .vfms
  | 0x09 => fV w w1 .vneg
  | 0x0A => fV w w1 .vabs
  | 0x0B => fV w w1 .vmin
  | 0x0C => fV w w1 .vmax
  | 0x0D => fV w w1 .vminn
  | 0x0E => fV w w1 .vmaxn
  | 0x0F => fV w w1 .vdiv
  | 0x10 => fV w w1 .vrcp
  | 0x11 => fV w w1 .vsqrt
  | 0x12 => fV w w1 .vrsq
  | 0x13 => fV w w1 .vexp2
  | 0x14 => fV w w1 .vlog2
  | 0x15 => fV w w1 .vtanh
  | 0x16 => fV w w1 .vcmpeq
  | 0x17 => fV w w1 .vcmplt
  | 0x18 => fV w w1 .vcmple
  | 0x19 => fV w w1 .vcmpun
  | 0x1A => fV w w1 .vsel
  | 0x1B => fV w w1 .vclass
  | 0x1C => fV w w1 .viadd
  | 0x1D => fV w w1 .visub
  | 0x1E => fV w w1 .vimul
  | 0x1F => fV w w1 .vand
  | 0x20 => fV w w1 .vor
  | 0x21 => fV w w1 .vxor
  | 0x22 => fV w w1 .vshl
  | 0x23 => fV w w1 .vshr
  | 0x24 => fV w w1 .vsra
  | 0x25 => fV w w1 .vimin
  | 0x26 => fV w w1 .vimax
  | 0x27 => fV w w1 .vmix
  | 0x28 => fV w w1 .viota
  | 0x29 => fV w w1 .vcvt
  | 0x2A => fV w w1 .vqnt
  | 0x2B => fV w w1 .vdqt
  | 0x2C => fV w w1 .vts8
  | 0x2D => fV w w1 .vrsum
  | 0x2E => fV w w1 .vrmax
  | 0x2F => fV w w1 .vrmin
  | 0x30 => fV w w1 .vscan
  | 0x31 => fV w w1 .vargmx
  | 0x32 => fV w w1 .vmov
  | 0x33 => fV w w1 .vbcst
  | 0x34 => fV w w1 .vspl
  | 0x35 => fV w w1 .vperm
  | 0x36 => fV w w1 .vshf
  | 0x37 => fV w w1 .vrot
  | 0x38 => fV w w1 .vtrn
  | 0x39 => fV w w1 .vzip
  | 0x3A => fV w w1 .vunz
  | 0x3B => fV w w1 .vext
  | 0x3C => fV w w1 .vld
  | 0x3D => fV w w1 .vst
  | 0x3E => fV w w1 .vgath
  | 0x3F => fV w w1 .vscat
  | 0x40 => fV w w1 .vcmpr
  | 0x41 => fV w w1 .vexpd
  | 0x42 => fV w w1 .vmand
  | 0x43 => fV w w1 .vmor
  | 0x44 => fV w w1 .vmnot
  | 0x45 => fV w w1 .vmpop
  | _ => .error (.badOp .V op)

/-- The M engine's opcode space (R186). -/
def decodeM (op w w1 : Nat) : Except DecodeError Instr :=
  match op with
  | 0x00 => fCZ w .nop
  | 0x01 => .ok (.idle (preOf w) (fld w 0 20))
  | 0x02 => fCZ w .ends
  | 0x03 => .ok (.loop (preOf w) (fld w 18 2) (bit w 17) (fld w 12 5) (fld w 0 12) (fld w1 0 32))
  | 0x04 => fMT w .mma
  | 0x05 => fMT w .mmaz
  | 0x06 => guardZ (zeros w 0 4) (.mmas (preOf w) (fld w 16 4) (fld w 12 4) (fld w 8 4) (fld w 4 4))
  | 0x07 => fMT w .mmal
  | 0x08 => .ok (.mrk1 (preOf w) (fld w 16 4) (fld w 12 4) (fld w 8 4) (fld w 0 8))
  | 0x09 => guardZ (zeros w 0 12) (.ldt (preOf w) (fld w 16 4) (fld w 12 4))
  | 0x0A => guardZ (zeros w 3 9) (.stt (preOf w) (fld w 16 4) (fld w 12 4) (bit w 2) (fld w 0 2))
  | 0x0B => guardZ (zeros w 0 16) (.tzro (preOf w) (fld w 16 4))
  | 0x0C => guardZ (zeros w 0 12) (.tcpy (preOf w) (fld w 16 4) (fld w 12 4))
  | 0x0D => guardZ (zeros w 0 12) (.ldsc (preOf w) (fld w 16 4) (fld w 12 4))
  | _ => .error (.badOp .M op)

/-- The N engine's opcode space (R186). -/
def decodeN (op w w1 : Nat) : Except DecodeError Instr :=
  match op with
  | 0x00 => fCZ w .nop
  | 0x01 => .ok (.idle (preOf w) (fld w 0 20))
  | 0x02 => fCZ w .ends
  | 0x03 => .ok (.loop (preOf w) (fld w 18 2) (bit w 17) (fld w 12 5) (fld w 0 12) (fld w1 0 32))
  | 0x04 => fSend w w1 .send
  | 0x05 => guardZ (zeros w 0 8 && zeros w1 0 8)
      (.sendl (preOf w) (toSigned 6 (fld w 14 6)) (toSigned 6 (fld w 8 6)) (fld w1 20 12) (fld w1 8 12))
  | 0x06 => fSend w w1 .sendm
  | _ => .error (.badOp .N op)

/-- The instruction of engine `e` with the words `w`, `w1`, `w2`, before the field limits are checked. -/
def decodeWords (e : Engine) (w w1 w2 : Nat) : Except DecodeError Instr :=
  match e with
  | .C => decodeC (fld w 20 7) w w1
  | .X => decodeX (fld w 20 7) w w1 w2
  | .V => decodeV (fld w 20 7) w w1
  | .M => decodeM (fld w 20 7) w w1
  | .N => decodeN (fld w 20 7) w w1

/-- The first instruction of a word sequence in engine `e`'s opcode space, with its length in words; a word that is
no instruction is rejected by the reason of R168. -/
def decode (e : Engine) (ws : List Nat) : Except DecodeError (Instr × Nat) :=
  match ws with
  | [] => .error .truncated
  | w :: rest =>
    let n := opWords e (fld w 20 7)
    if n == 0 then .error (.badOp e (fld w 20 7))
    else if rest.length + 1 < n then .error .truncated
    else
      match decodeWords e w (rest.getD 0 0) (rest.getD 1 0) with
      | .error r => .error r
      | .ok i => if wf e i then .ok (i, n) else .error .field

/-- The fields of format CR in [19:0] (R170). -/
def eCR (gd ga gb sub : Nat) : Nat := gd * 32768 + ga * 1024 + gb * 32 + sub

/-- The words of format SY (R172). -/
def eSY (p : Pre) (op : Nat) (o : SyOps) : List Nat :=
  [word0 p op (o.rd * 32768 + o.ra * 1024 + o.rb * 32 + o.obj * 4 + o.mode),
   o.index * 1048576 + o.tx * 16384 + o.ty * 256 + b2n o.rsel * 128 + o.rc * 4 + b2n o.imm]

/-- The words of format XC (R175). -/
def eXC (p : Pre) (op : Nat) (o : XcOps) : List Nat :=
  [word0 p op (o.xd * 65536 + o.xs * 4096 + o.sem * 64 + o.inc * 4 + b2n o.arr * 2), o.dimm,
   o.simm * 4096 + o.aux]

/-- The words of the V format (R178). -/
def eV (p : Pre) (op : Nat) (o : VOps) : List Nat :=
  [word0 p op (o.d * 256 + o.mask * 32 + o.func), o.a * 1048576 + o.b * 256 + o.rnd * 64 + o.imm]

/-- The words of format CF (R170). -/
def eCF (p : Pre) (op gd ga len pos : Nat) : List Nat := [word0 p op (gd * 32768 + ga * 1024), len * 256 + pos]

/-- Word 0 of format MT (R180). -/
def eMT (p : Pre) (op tc ta tb low : Nat) : List Nat := [word0 p op (tc * 65536 + ta * 4096 + tb * 256 + low)]

/-- The words of SEND and SENDM (R182). -/
def eSend (p : Pre) (op : Nat) (dx dy : Int) (s off len : Nat) : List Nat :=
  [word0 p op (ofSigned 6 dx * 16384 + ofSigned 6 dy * 256 + s * 16), off * 4096 + len]

/-- The words of a well-formed instruction (R162 to R186); an event has none. -/
def encode (i : Instr) : List Nat :=
  match i with
  | .nop p => [word0 p 0x00 0]
  | .idle p n => [word0 p 0x01 n]
  | .ends p => [word0 p 0x02 0]
  | .loop p lvl src rc body count =>
    [word0 p 0x03 (lvl * 262144 + b2n src * 131072 + rc * 4096 + body), count]
  | .add p gd ga gb => [word0 p 0x04 (eCR gd ga gb 0)]
  | .sub p gd ga gb => [word0 p 0x05 (eCR gd ga gb 0)]
  | .mul p gd ga gb => [word0 p 0x07 (eCR gd ga gb 0)]
  | .mulh p gd ga gb => [word0 p 0x08 (eCR gd ga gb 0)]
  | .mulhu p gd ga gb => [word0 p 0x09 (eCR gd ga gb 0)]
  | .div p gd ga gb => [word0 p 0x0A (eCR gd ga gb 0)]
  | .divu p gd ga gb => [word0 p 0x0B (eCR gd ga gb 0)]
  | .rem p gd ga gb => [word0 p 0x0C (eCR gd ga gb 0)]
  | .remu p gd ga gb => [word0 p 0x0D (eCR gd ga gb 0)]
  | .and p gd ga gb => [word0 p 0x0E (eCR gd ga gb 0)]
  | .or p gd ga gb => [word0 p 0x0F (eCR gd ga gb 0)]
  | .xor p gd ga gb => [word0 p 0x10 (eCR gd ga gb 0)]
  | .andn p gd ga gb => [word0 p 0x11 (eCR gd ga gb 0)]
  | .shl p gd ga gb => [word0 p 0x12 (eCR gd ga gb 0)]
  | .shr p gd ga gb => [word0 p 0x13 (eCR gd ga gb 0)]
  | .sra p gd ga gb => [word0 p 0x14 (eCR gd ga gb 0)]
  | .rotl p gd ga gb => [word0 p 0x15 (eCR gd ga gb 0)]
  | .min p gd ga gb => [word0 p 0x19 (eCR gd ga gb 0)]
  | .max p gd ga gb => [word0 p 0x1A (eCR gd ga gb 0)]
  | .minu p gd ga gb => [word0 p 0x1B (eCR gd ga gb 0)]
  | .maxu p gd ga gb => [word0 p 0x1C (eCR gd ga gb 0)]
  | .cmpeq p gd ga gb => [word0 p 0x1D (eCR gd ga gb 0)]
  | .cmpne p gd ga gb => [word0 p 0x1E (eCR gd ga gb 0)]
  | .cmplt p gd ga gb => [word0 p 0x1F (eCR gd ga gb 0)]
  | .cmpltu p gd ga gb => [word0 p 0x20 (eCR gd ga gb 0)]
  | .addi p gd ga imm => [word0 p 0x06 (gd * 32768 + ga * 1024 + ofSigned 10 imm)]
  | .clz p gd ga => [word0 p 0x16 (eCR gd ga 0 0)]
  | .ctz p gd ga => [word0 p 0x17 (eCR gd ga 0 0)]
  | .popc p gd ga => [word0 p 0x18 (eCR gd ga 0 0)]
  | .sel p gd ga gb gc => [word0 p 0x21 (eCR gd ga gb gc)]
  | .movi p gd imm => [word0 p 0x22 (gd * 32768), imm]
  | .movk p gd imm => [word0 p 0x23 (gd * 32768), imm]
  | .ext p gd ga len pos => eCF p 0x24 gd ga len pos
  | .extu p gd ga len pos => eCF p 0x25 gd ga len pos
  | .ins p gd ga len pos => eCF p 0x26 gd ga len pos
  | .ld p gd ga sz sx off => [word0 p 0x27 (gd * 32768 + ga * 1024 + sz * 256 + b2n sx * 128 + ofSigned 7 off)]
  | .st p gs ga sz off => [word0 p 0x28 (gs * 32768 + ga * 1024 + sz * 256 + ofSigned 7 off)]
  | .bz p ga off => [word0 p 0x29 (ga * 32768 + ofSigned 15 off)]
  | .bnz p ga off => [word0 p 0x2A (ga * 32768 + ofSigned 15 off)]
  | .j p off => [word0 p 0x2B (ofSigned 20 off)]
  | .call p off => [word0 p 0x2C (ofSigned 20 off)]
  | .ret p => [word0 p 0x2D 0]
  | .scfg p ga s wsel => [word0 p 0x2E (ga * 1024 + s * 64 + wsel * 8)]
  | .sget p gd s wsel => [word0 p 0x2F (gd * 32768 + s * 64 + wsel * 8)]
  | .srst p s => [word0 p 0x30 (s * 64)]
  | .ldel p eng lvl s delta => [word0 p 0x31 (eng * 131072 + lvl * 32768 + s * 2048), ofSigned 21 delta]
  | .tcfg p ga t => [word0 p 0x32 (ga * 1024 + t * 64)]
  | .tget p gd t => [word0 p 0x33 (gd * 32768 + t * 64)]
  | .rdvP p tag => [word0 p 0x34 tag]
  | .rdvT p ga => [word0 p 0x34 (262144 + ga * 1024)]
  | .safe p => [word0 p 0x35 0]
  | .tick p gd => [word0 p 0x36 (gd * 32768)]
  | .getc p gd csr => [word0 p 0x37 (gd * 32768 + csr * 8)]
  | .setc p gs csr sub => [word0 p 0x38 (gs * 32768 + csr * 8 + sub)]
  | .genclr p => [word0 p 0x39 0]
  | .mtrd p gd num => [word0 p 0x3A (gd * 32768 + num * 8)]
  | .trap p code => [word0 p 0x3B code]
  | .smcfg p o => eSY p 0x40 o
  | .swait p o => eSY p 0x41 o
  | .spost p o => eSY p 0x42 o
  | .sfadd p o => eSY p 0x43 o
  | .scas p o => eSY p 0x44 o
  | .srd p o => eSY p 0x45 o
  | .sexp p o => eSY p 0x46 o
  | .sphw p o => eSY p 0x47 o
  | .rcfg p o => eSY p 0x48 o
  | .rclf p o => eSY p 0x49 o
  | .rcld p o => eSY p 0x4A o
  | .rfil p o => eSY p 0x4B o
  | .rrel p o => eSY p 0x4C o
  | .rstat p o => eSY p 0x4D o
  | .cpt p o => eXC p 0x50 o
  | .cld p o => eXC p 0x51 o
  | .cst p o => eXC p 0x52 o
  | .ctt p o => eXC p 0x53 o
  | .cbc p o => eXC p 0x54 o
  | .cga p o => eXC p 0x55 o
  | .csc p o => eXC p 0x56 o
  | .cfb p o => eXC p 0x57 o
  | .fspost p xp xa pr ar index pkg amt => 
    [word0 p 0x58 (xp * 65536 + xa * 4096 + b2n pr * 2 + b2n ar), index * 1048576 + pkg * 64 + amt]
  | .cfen p => [word0 p 0x59 0]
  | .cdrn p => [word0 p 0x5A 0]
  | .tinfo p xd xa word => [word0 p 0x5B (xd * 32768 + xa * 1024 + word)]
  | .vadd p o => eV p 0x04 o
  | .vsub p o => eV p 0x05 o
  | .vmul p o => eV p 0x06 o
  | .vfma p o => eV p 0x07 o
  | .vfms p o => eV p 0x08 o
  | .vneg p o => eV p 0x09 o
  | .vabs p o => eV p 0x0A o
  | .vmin p o => eV p 0x0B o
  | .vmax p o => eV p 0x0C o
  | .vminn p o => eV p 0x0D o
  | .vmaxn p o => eV p 0x0E o
  | .vdiv p o => eV p 0x0F o
  | .vrcp p o => eV p 0x10 o
  | .vsqrt p o => eV p 0x11 o
  | .vrsq p o => eV p 0x12 o
  | .vexp2 p o => eV p 0x13 o
  | .vlog2 p o => eV p 0x14 o
  | .vtanh p o => eV p 0x15 o
  | .vcmpeq p o => eV p 0x16 o
  | .vcmplt p o => eV p 0x17 o
  | .vcmple p o => eV p 0x18 o
  | .vcmpun p o => eV p 0x19 o
  | .vsel p o => eV p 0x1A o
  | .vclass p o => eV p 0x1B o
  | .viadd p o => eV p 0x1C o
  | .visub p o => eV p 0x1D o
  | .vimul p o => eV p 0x1E o
  | .vand p o => eV p 0x1F o
  | .vor p o => eV p 0x20 o
  | .vxor p o => eV p 0x21 o
  | .vshl p o => eV p 0x22 o
  | .vshr p o => eV p 0x23 o
  | .vsra p o => eV p 0x24 o
  | .vimin p o => eV p 0x25 o
  | .vimax p o => eV p 0x26 o
  | .vmix p o => eV p 0x27 o
  | .viota p o => eV p 0x28 o
  | .vcvt p o => eV p 0x29 o
  | .vqnt p o => eV p 0x2A o
  | .vdqt p o => eV p 0x2B o
  | .vts8 p o => eV p 0x2C o
  | .vrsum p o => eV p 0x2D o
  | .vrmax p o => eV p 0x2E o
  | .vrmin p o => eV p 0x2F o
  | .vscan p o => eV p 0x30 o
  | .vargmx p o => eV p 0x31 o
  | .vmov p o => eV p 0x32 o
  | .vbcst p o => eV p 0x33 o
  | .vspl p o => eV p 0x34 o
  | .vperm p o => eV p 0x35 o
  | .vshf p o => eV p 0x36 o
  | .vrot p o => eV p 0x37 o
  | .vtrn p o => eV p 0x38 o
  | .vzip p o => eV p 0x39 o
  | .vunz p o => eV p 0x3A o
  | .vext p o => eV p 0x3B o
  | .vld p o => eV p 0x3C o
  | .vst p o => eV p 0x3D o
  | .vgath p o => eV p 0x3E o
  | .vscat p o => eV p 0x3F o
  | .vcmpr p o => eV p 0x40 o
  | .vexpd p o => eV p 0x41 o
  | .vmand p o => eV p 0x42 o
  | .vmor p o => eV p 0x43 o
  | .vmnot p o => eV p 0x44 o
  | .vmpop p o => eV p 0x45 o
  | .mma p tc ta tb => eMT p 0x04 tc ta tb 0
  | .mmaz p tc ta tb => eMT p 0x05 tc ta tb 0
  | .mmas p tc ta tb tm => eMT p 0x06 tc ta tb (tm * 16)
  | .mmal p tc ta tb => eMT p 0x07 tc ta tb 0
  | .mrk1 p tc ta tb idx => eMT p 0x08 tc ta tb idx
  | .ldt p t s => [word0 p 0x09 (t * 65536 + s * 4096)]
  | .stt p t s sat rnd => [word0 p 0x0A (t * 65536 + s * 4096 + b2n sat * 4 + rnd)]
  | .tzro p tc => [word0 p 0x0B (tc * 65536)]
  | .tcpy p tc ta => [word0 p 0x0C (tc * 65536 + ta * 4096)]
  | .ldsc p t s => [word0 p 0x0D (t * 65536 + s * 4096)]
  | .send p dx dy s off len => eSend p 0x04 dx dy s off len
  | .sendl p dx dy dst src => 
    [word0 p 0x05 (ofSigned 6 dx * 16384 + ofSigned 6 dy * 256), dst * 1048576 + src * 256]
  | .sendm p dx dy s off len => eSend p 0x06 dx dy s off len
  | _ => []

/-- The instruction's words laid out as bits, first word least significant (R3, R162). -/
def packWords : List Nat → Nat
  | [] => 0
  | w :: ws => w + packWords ws * 4294967296

/-- The three words that a fetch sees for `nbits` bits `w`: bits above `nbits` are zero. -/
def tableWords (nbits w : Nat) : List Nat :=
  [w % 2 ^ nbits % 4294967296, w % 2 ^ nbits / 4294967296 % 4294967296,
   w % 2 ^ nbits / 18446744073709551616 % 4294967296]

/-- The engine whose opcode space an opcode-table word is read in: the first of C, X, V, M, N that accepts it.
The table names no engine, and one word can be an instruction of several (the chapter's opening, R183 to R186). -/
def tableEngine (nbits w : Nat) : Option Engine :=
  Engine.all.find? fun e => match decode e (tableWords nbits w) with
    | .ok _ => true
    | .error _ => false

/-- What the decoder reads from an instruction of the opcode table, in the engine of `tableEngine`. -/
def decodeTableWord (nbits w : Nat) : Option Instr :=
  match tableEngine nbits w with
  | none => none
  | some e =>
    match decode e (tableWords nbits w) with
    | .ok (i, _) => some i
    | .error _ => none

end Sys2Proof
end

