-- ==== Sys2Proof/Config.lean ====
section
/-! DEFINITION. What an E1 implementation fixes, and the free values. A number or function whose value the manual
does not state is an opaque constant: nothing in Lean can evaluate it or prove a value of it (notes/assumptions/1.md). -/

namespace Sys2Proof.Config

/-- Plain-hop cost h (R19). -/
def hopCost : Nat := 2

/-- Seam-hop cost σ (R19). -/
def seamCost : Nat := 10

/-- Bytes of scratchpad (R78). -/
def spmSize : Nat := 0xC0000

/-- Outstanding slots of a tile (R43, R126). -/
def slotLimit : Nat := 512

/-- Whether the asynchronous item `id` makes its next move in the tick `t`: the delays of copies, messages, walks,
commands and reports are not stated (R15, R285, R299). -/
opaque fires : Nat → Nat → Bool

/-- The calibrated entry of a tile, channel or port for an event and a step, in 2^-48 J, as boot measured it (R428).
Arguments: boot epoch, kind (0 tile, 1 channel, 2 port), index, step, event code. -/
opaque calTable : Nat → Nat → Nat → Nat → Nat → BitVec 32

/-- A calibrated entry as a number. -/
def calEntry (epoch kind index step event : Nat) : Nat := (calTable epoch kind index step event).toNat

/-- The leakage table entry of a boot epoch for a square, step and temperature band, in µW (R428, R429). -/
opaque calLeak : Nat → Nat → Nat → Nat → Nat

/-- A byte that the manual leaves open, by an index that the step advances. -/
opaque freeByte : Nat → Byte

/-- A number that the manual leaves open, by an index that the step advances. -/
opaque freeNat : Nat → Nat

/-- Byte `k` of a DRAM line decrypted under a key and tweak under which it was not written (R119, R121): fixed bytes
with no stated relation to the line's contents. Arguments: line, what it holds, key, tweak, k. -/
opaque garble : Nat → List Byte → Nat → Nat → Nat → Byte

/-- The energy that a square's sensor measures in a millisecond, in 2^-48 J (R430). Arguments: square, millisecond. -/
opaque sqEnergy : Nat → Nat → Int

/-- The mean power of a slice's squares over a millisecond, in mW (R409). Arguments: square, millisecond. -/
opaque sqPower : Nat → Nat → Nat

/-- The temperature of a square at a millisecond, in °C (R409, R430). -/
opaque sqTemp : Nat → Nat → Nat

/-- A house cost of an interval in µJ, by its place in the house record (R439). Arguments: field, epoch, interval. -/
opaque houseEnergy : Nat → Nat → Nat → Nat

/-- The energy that a base die's sensor measures in an interval, in 2^-48 J (R430). Arguments: base die, epoch, interval. -/
opaque baseEnergy : Nat → Nat → Nat → Int

/-- The energy of one tile's hard clear at a placement, in 2^-48 J (R431). Arguments: epoch, tile. -/
opaque clearEnergy : Nat → Nat → Nat

/-- Activates (12) and turnarounds (14) that a burst takes at its channel (R425). Arguments: event, channel, and an index that the
step advances. -/
opaque hbmExtra : Nat → Nat → Nat → Nat

/-- DRAM refresh commands of a channel in a millisecond (R425, R431). Arguments: channel, ms. -/
opaque refreshes : Nat → Nat → Nat

/-- The firmware image in the package flash at manufacture (R417). -/
opaque flashImage : List Byte

/-- Whether SLH-DSA-SHA2-128s accepts a firmware image under the fused key hash (R417). -/
opaque fwVerifies : List Byte → Bool

/-- Security version and firmware version of an image (R402, R417). -/
opaque fwSvn : List Byte → Nat
opaque fwVersion : List Byte → Nat

/-- The fused minimum security version (R417). -/
opaque fusedSvn : Nat

/-- The fused 256-bit unique secret (R419). -/
opaque uds : List Byte

/-- The part is of stepping B0 (R402). -/
opaque steppingB0 : Bool

/-- Stepping of the part: 0 A0, 1 B0 (R402). -/
def stepping : Nat := if steppingB0 then 1 else 0

/-- Tiles that the manufacturing census marks (R399). -/
opaque censusBad : Nat → Bool

/-- Holes of the fused census: at most 256 of the 2,304 tiles (R399). -/
def fusedHoles : List Nat := ((List.range 2304).filter censusBad).take 256

/-- Tiles that the boot census of an epoch fails (R399). Arguments: epoch, tile. -/
opaque censusHole : Nat → Nat → Bool

/-- Steps that calibration of an epoch leaves valid, and their core voltage (R402, R408). -/
opaque stepValid : Nat → Nat → Bool
opaque stepMv : Nat → Nat

/-- Whether a derated or failed boundary trains at full width in an epoch's calibration (R413). -/
opaque trains : Nat → Nat → Bool

/-- Whether a retimed lane or link trains after a repair (R416). Arguments: port or boundary, tick. -/
opaque retrains : Nat → Nat → Bool

/-- A byte of a flit's payload, which the manual does not lay out (R414). Arguments: key, counter, place. -/
opaque payload : Nat → Nat → Nat → BitVec 8

/-- Whether a transmitter with a key in its idle slot goes over to it before its next flit (R415). Arguments: live key, counter. -/
opaque switches : Nat → Nat → Bool

/-- How many flits of the replay buffer an acknowledgement frees (R414). Arguments: key and counter of the slot. -/
opaque acked : Nat → Nat → Nat

/-- Whether one step of a command fails all its attempts (R404). Arguments: step, tick. -/
opaque stepFails : Nat → Nat → Bool

/-- Public key and signature of SLH-DSA from a 48-byte seed (R419, R440, R441). -/
opaque slhPublic : Bool → List Byte → List Byte
opaque slhSign : Bool → List Byte → List Byte → List Byte

/-- The DeviceID certificate, signed by Tavonel at manufacture, and what a certificate of a public key says before its signature
(R419). -/
opaque deviceCert : List Byte
opaque certBody : List Byte → List Byte

/-- The CBOR item of a claim of several values, by its key and what it holds (R445). -/
opaque claimCbor : Int → List Byte → List Byte

/-- Byte `k` of the key that the TRNG gave a slice (R388, R404). Arguments: the key's name, k. -/
opaque sliceKeyByte : Nat → Nat → Byte

/-- The 32 bytes of a slice key. -/
def sliceKey (key : Nat) : List Byte := (List.range 32).map (sliceKeyByte key)

/-- The PLDM sensors (R423). Arguments: sensor, number of its update. -/
opaque sensor : Nat → Nat → Int

end Sys2Proof.Config
end

