-- ==== Sys2Proof/Machine/Num.lean ====
section
/-! DEFINITION. Exact numbers, the element formats and rounding (R50 to R65), and the lane functions of R74. -/

namespace Sys2Proof.Machine

/-- The element formats, in the order of the FMT codes of R81. -/
inductive Fmt where
  | fp32
  | fp16
  | bf16
  | f8a
  | f8b
  | f4
  | ts8
  | i8
  | i32
  | e8
  deriving DecidableEq, Repr

/-- The format of an FMT code; codes 0xA to 0xF are not assigned (R81). -/
def Fmt.ofCode (c : Nat) : Option Fmt :=
  match c with
  | 0 => some .fp32
  | 1 => some .fp16
  | 2 => some .bf16
  | 3 => some .f8a
  | 4 => some .f8b
  | 5 => some .f4
  | 6 => some .ts8
  | 7 => some .i8
  | 8 => some .i32
  | 9 => some .e8
  | _ => none

/-- Element width w in bits (R218). -/
def Fmt.width : Fmt → Nat
  | .fp32 => 32
  | .i32 => 32
  | .fp16 => 16
  | .bf16 => 16
  | .f4 => 4
  | .f8a => 8
  | .f8b => 8
  | .ts8 => 8
  | .i8 => 8
  | .e8 => 8

/-- COLS limit (R81). -/
def Fmt.colsLimit (f : Fmt) : Nat := 1024 / f.width

/-- The scaled formats (R61, R81). -/
def Fmt.scaled : Fmt → Bool
  | .f8a => true
  | .f8b => true
  | .f4 => true
  | .ts8 => true
  | .fp32 => false
  | .fp16 => false
  | .bf16 => false
  | .i8 => false
  | .i32 => false
  | .e8 => false

/-- FP32, FP16 or BF16 (R227). -/
def Fmt.isFloat : Fmt → Bool
  | .fp32 => true
  | .fp16 => true
  | .bf16 => true
  | .f8a => false
  | .f8b => false
  | .f4 => false
  | .ts8 => false
  | .i8 => false
  | .i32 => false
  | .e8 => false

/-- F8A or F8B. -/
def Fmt.isF8 (f : Fmt) : Bool := f == .f8a || f == .f8b

/-- A real value with its zero sign, an infinity or a NaN: `fin neg m e` is (−1)^neg · m · 2^e. -/
inductive Val where
  | nan
  | inf (neg : Bool)
  | fin (neg : Bool) (m : Nat) (e : Int)
  deriving DecidableEq, Repr

/-- Exception flags in the layout of R66. -/
def flagNV : Nat := 16
def flagDZ : Nat := 8
def flagOF : Nat := 4
def flagUF : Nat := 2
def flagNX : Nat := 1

/-- Fraction and exponent widths, bias, and which special codes a floating format has (R50). -/
structure FloatSpec where
  ebits : Nat
  fbits : Nat
  bias : Nat
  /-- The all-ones exponent is reserved for infinity and NaN. -/
  ieee : Bool
  /-- The all-ones code is the format's only NaN (F8A). -/
  topNan : Bool
  deriving DecidableEq, Repr

/-- The floating formats of R50. -/
def Fmt.spec : Fmt → Option FloatSpec
  | .fp32 => some ⟨8, 23, 127, true, false⟩
  | .fp16 => some ⟨5, 10, 15, true, false⟩
  | .bf16 => some ⟨8, 7, 127, true, false⟩
  | .f8a => some ⟨4, 3, 7, false, true⟩
  | .f8b => some ⟨5, 2, 15, true, false⟩
  | .f4 => some ⟨2, 1, 1, false, false⟩
  | .ts8 => none
  | .i8 => none
  | .i32 => none
  | .e8 => none

/-- Value of a floating code (R51). -/
def FloatSpec.decode (p : FloatSpec) (c : Nat) : Val :=
  let f := c % 2 ^ p.fbits
  let x := c / 2 ^ p.fbits % 2 ^ p.ebits
  let neg := c / 2 ^ (p.fbits + p.ebits) % 2 == 1
  let top := 2 ^ p.ebits - 1
  if p.ieee && x == top then (if f == 0 then .inf neg else .nan)
  else if p.topNan && x == top && f == 2 ^ p.fbits - 1 then .nan
  else if x == 0 then .fin neg f (1 - (p.bias : Int) - p.fbits)
  else .fin neg (2 ^ p.fbits + f) ((x : Int) - p.bias - p.fbits)

/-- One term of a TS8 byte in units of 1/64 (R55). -/
def ts8Term (c : Nat) : Nat := if c == 0 then 0 else 2 ^ (7 - c)

/-- Value of a TS8 byte in units of 1/64 (R55). -/
def ts8Value (b : Nat) : Int :=
  let t1 : Int := ts8Term (b / 16 % 8)
  let t2 : Int := ts8Term (b % 8)
  (if b / 128 % 2 == 1 then -t1 else t1) + (if b / 8 % 2 == 1 then -t2 else t2)

/-- A TS8 byte is canonical (R56). -/
def ts8Canonical (b : Nat) : Bool := decide (ts8Term (b % 8) ≤ ts8Term (b / 16 % 8))

/-- An integer as an exact value; zero is +0. -/
def Val.ofInt (z : Int) (e : Int) : Val := .fin (decide (z < 0)) z.natAbs e

/-- `w`-bit pattern in two's complement. -/
def sgnOf (w c : Nat) : Int :=
  if c % 2 ^ w < 2 ^ (w - 1) then ((c % 2 ^ w : Nat) : Int) else ((c % 2 ^ w : Nat) : Int) - (2 ^ w : Nat)

/-- `w`-bit pattern of an integer (wrap(·, w) of R10). -/
def wrapBits (w : Nat) (z : Int) : Nat := (z % (2 ^ w : Nat)).toNat

/-- Value of an E8 byte as a scale (R59). -/
def e8Value (b : Nat) : Val := if b % 256 == 255 then .nan else .fin false 1 (((b % 256 : Nat) : Int) - 127)

/-- Value of an element's code, without its block scale (R51, R54, R55, R58, R59). -/
def Fmt.decode (f : Fmt) (c : Nat) : Val :=
  match f.spec with
  | some p => p.decode c
  | none =>
    match f with
    | .ts8 => Val.ofInt (ts8Value c) (-6)
    | .i8 => Val.ofInt (sgnOf 8 c) 0
    | .i32 => Val.ofInt (sgnOf 32 c) 0
    | _ => e8Value c

/-- Rounding modes of R64, by code. -/
inductive Rnd where
  | rne
  | rz
  | rup
  | rdn
  deriving DecidableEq, Repr

/-- The mode of a rounding code (R64). -/
def Rnd.ofCode (c : Nat) : Rnd :=
  match c with
  | 0 => .rne
  | 1 => .rz
  | 2 => .rup
  | _ => .rdn

/-- Whether a magnitude with quotient `q` and a remainder is rounded away from zero (R64).
`above` and `tie` compare the remainder with half a unit. -/
def Rnd.away (md : Rnd) (neg odd above tie inexact : Bool) : Bool :=
  match md with
  | .rne => above || (tie && odd)
  | .rz => false
  | .rup => inexact && !neg
  | .rdn => inexact && neg

/-- m · 2^s, or floor(m / 2^−s) for a negative s. -/
def shiftZ (m : Nat) (s : Int) : Nat := if 0 ≤ s then m * 2 ^ s.toNat else m / 2 ^ (-s).toNat

/-- The remainder that `shiftZ` drops. -/
def shiftRem (m : Nat) (s : Int) : Nat := if 0 ≤ s then 0 else m % 2 ^ (-s).toNat

/-- Round m · 2^e (plus a positive remainder below 2^e when `sticky`) to a multiple of 2^q in mode `md`:
the multiple, and whether it is inexact. -/
def roundAt (md : Rnd) (neg : Bool) (m : Nat) (e : Int) (sticky : Bool) (q : Int) : Nat × Bool :=
  let s := e - q
  let k := shiftZ m s
  let r := shiftRem m s
  let half := if s < 0 then 2 ^ ((-s).toNat - 1) else 0
  let isBelow := decide (0 ≤ s)
  let inexact := r != 0 || sticky
  let above := !isBelow && (decide (half < r) || (r == half && sticky))
  let tie := !isBelow && r == half && !sticky
  (if md.away neg (k % 2 == 1) above tie inexact then k + 1 else k, inexact)

/-- The largest finite magnitude of a floating format as m with exponent e (R50). -/
def FloatSpec.maxFinite (p : FloatSpec) : Nat × Int :=
  let top : Int := if p.ieee then 2 ^ p.ebits - 2 else 2 ^ p.ebits - 1
  let frac := if p.topNan then 2 ^ (p.fbits + 1) - 2 else 2 ^ (p.fbits + 1) - 1
  (frac, top - p.bias - p.fbits)

/-- Code of a magnitude k · 2^q that lies on the format's grid and does not exceed max. -/
def FloatSpec.encodeMag (p : FloatSpec) (k : Nat) (q : Int) : Nat :=
  if k < 2 ^ p.fbits then k
  else
    let k' := if k < 2 ^ (p.fbits + 1) then k else k / 2
    let q' := if k < 2 ^ (p.fbits + 1) then q else q + 1
    (q' + p.fbits + p.bias).toNat * 2 ^ p.fbits + (k' - 2 ^ p.fbits)

/-- Code of ±max. -/
def FloatSpec.maxCode (p : FloatSpec) : Nat := p.encodeMag p.maxFinite.1 p.maxFinite.2

/-- The canonical NaN of a format, 0 for F4 (R52, R65). -/
def FloatSpec.nanCode (p : FloatSpec) : Nat :=
  if p.ieee then (2 ^ p.ebits - 1) * 2 ^ p.fbits + 2 ^ (p.fbits - 1)
  else if p.topNan then 2 ^ (p.ebits + p.fbits) - 1
  else 0

/-- Code of infinity of a format that has one. -/
def FloatSpec.infCode (p : FloatSpec) : Nat := (2 ^ p.ebits - 1) * 2 ^ p.fbits

/-- Sign bit of a format. -/
def FloatSpec.signBit (p : FloatSpec) (neg : Bool) : Nat := if neg then 2 ^ (p.ebits + p.fbits) else 0

/-- Delivered code when the rounded magnitude exceeds max (R65); `sat` selects F8B with SAT. -/
def FloatSpec.overflow (p : FloatSpec) (md : Rnd) (sat neg : Bool) : Nat :=
  if !p.ieee || sat then p.signBit neg + p.maxCode
  else
    match md with
    | .rne => p.signBit neg + p.infCode
    | .rz => p.signBit neg + p.maxCode
    | .rup => if neg then p.signBit neg + p.maxCode else p.infCode
    | .rdn => if neg then p.signBit neg + p.infCode else p.maxCode

/-- Rounding to a floating format, with its flags (R65). `sticky` adds a nonzero remainder below the last bit of m. -/
def FloatSpec.round (p : FloatSpec) (md : Rnd) (sat sticky : Bool) (v : Val) : Nat × Nat :=
  match v with
  | .nan => (p.nanCode, if p.ieee || p.topNan then 0 else flagNV)
  | .inf neg =>
    if p.ieee && !sat then (p.signBit neg + p.infCode, 0)
    else (p.signBit neg + p.maxCode, flagOF ||| flagNX)
  | .fin neg m e =>
    if m == 0 && !sticky then (p.signBit neg, 0)
    else
      let emin : Int := 1 - p.bias
      let lg : Int := (Nat.log2 m : Int) + e
      let q : Int := (if lg < emin then emin else lg) - p.fbits
      let r := roundAt md neg m e sticky q
      let mx := p.maxFinite
      let lo := emin - p.fbits
      if decide (shiftZ mx.1 (mx.2 - lo) < shiftZ r.1 (q - lo)) then (p.overflow md sat neg, flagOF ||| flagNX)
      else
        let uf := if r.2 && q == lo && decide (r.1 < 2 ^ p.fbits) then flagUF else 0
        (p.signBit neg + p.encodeMag r.1 q, uf ||| (if r.2 then flagNX else 0))

/-- Rounding to a `w`-bit integer with saturation (R65). -/
def roundInt (w : Nat) (md : Rnd) (v : Val) : Nat × Nat :=
  let hi : Int := 2 ^ (w - 1) - 1
  let lo : Int := -(2 ^ (w - 1))
  match v with
  | .nan => (0, flagNV)
  | .inf neg => (wrapBits w (if neg then lo else hi), flagNV)
  | .fin neg m e =>
    let r := roundAt md neg m e false 0
    let z : Int := if neg then -(r.1 : Int) else r.1
    if hi < z then (wrapBits w hi, flagNV)
    else if z < lo then (wrapBits w lo, flagNV)
    else (wrapBits w z, if r.2 then flagNX else 0)

/-- Distance of a TS8 byte's value from the magnitude-signed value z · 2^e, in units of 2^(min e −6). -/
def ts8Dist (z e : Int) (b : Nat) : Nat :=
  let lo : Int := if e < -6 then e else -6
  (ts8Value b * (2 ^ (-6 - lo).toNat : Nat) - z * (2 ^ (e - lo).toNat : Nat)).natAbs

/-- The lowest canonical byte of least distance (R57). -/
def ts8Nearest (z e : Int) : Nat :=
  (List.range 256).foldl
    (fun best b => if ts8Canonical b && decide (ts8Dist z e b < ts8Dist z e best) then b else best) 0

/-- Encoding to TS8 with its flags (R57). -/
def roundTs8 (v : Val) : Nat × Nat :=
  match v with
  | .nan => (0, flagNV)
  | .inf neg => (ts8Nearest (if neg then -2 else 2) 0, flagOF ||| flagNX)
  | .fin neg m e =>
    let z : Int := if neg then -(m : Int) else m
    let past : Bool := decide (0 < e + (Nat.log2 m : Int) - 1) || decide (shiftZ 2 (-e) < m)
    if past && m != 0 then (ts8Nearest (if neg then -2 else 2) 0, flagOF ||| flagNX)
    else
      let b := ts8Nearest z e
      let nx := ts8Dist z e b != 0
      let tiny : Bool := m != 0 && decide ((Nat.log2 m : Int) + e < -6)
      (b, (if nx && tiny then flagUF else 0) ||| (if nx then flagNX else 0))

/-- Rounding a value to any destination format (R57, R65). E8 is no arithmetic destination. -/
def Fmt.round (f : Fmt) (md : Rnd) (sat : Bool) (v : Val) : Nat × Nat :=
  match f.spec with
  | some p => p.round md (sat && f == .f8b) false v
  | none =>
    match f with
    | .i8 => roundInt 8 md v
    | .i32 => roundInt 32 md v
    | .ts8 => roundTs8 v
    | _ => (0, 0)

/-- FP32's format record. -/
def specFp32 : FloatSpec := ⟨8, 23, 127, true, false⟩

/-- Rounding to FP32. -/
def round32 (md : Rnd) (v : Val) : Nat × Nat := specFp32.round md false false v

/-- The canonical FP32 NaN (R52). -/
def nan32 : Nat := 0x7FC00000

/-- Negation, with the sign of zero. -/
def Val.neg : Val → Val
  | .nan => .nan
  | .inf s => .inf (!s)
  | .fin s m e => .fin (!s) m e

/-- Magnitude. -/
def Val.abs : Val → Val
  | .nan => .nan
  | .inf _ => .inf false
  | .fin _ m e => .fin false m e

/-- A finite value as an integer multiple of 2^lo, exact when lo ≤ e. -/
def scaledTo (neg : Bool) (m : Nat) (e lo : Int) : Int :=
  if neg then -((m * 2 ^ (e - lo).toNat : Nat) : Int) else ((m * 2 ^ (e - lo).toNat : Nat) : Int)

/-- Product with the NV of ∞ × 0 (R229). -/
def Val.mul (a b : Val) : Val × Nat :=
  match a, b with
  | .nan, _ => (.nan, 0)
  | _, .nan => (.nan, 0)
  | .inf s, .inf t => (.inf (s != t), 0)
  | .inf s, .fin t m _ => if m == 0 then (.nan, flagNV) else (.inf (s != t), 0)
  | .fin s m _, .inf t => if m == 0 then (.nan, flagNV) else (.inf (s != t), 0)
  | .fin s m e, .fin t n f => (.fin (s != t) (m * n) (e + f), 0)

/-- Sum with the NV of ∞ + (−∞); the sign of an exact zero follows R229. -/
def Val.add (md : Rnd) (a b : Val) : Val × Nat :=
  match a, b with
  | .nan, _ => (.nan, 0)
  | _, .nan => (.nan, 0)
  | .inf s, .inf t => if s == t then (.inf s, 0) else (.nan, flagNV)
  | .inf s, .fin _ _ _ => (.inf s, 0)
  | .fin _ _ _, .inf t => (.inf t, 0)
  | .fin s m e, .fin t n f =>
    let lo := if e < f then e else f
    let z := scaledTo s m e lo + scaledTo t n f lo
    if z == 0 then (.fin (if m == 0 && n == 0 && s == t then s else md == .rdn) 0 0, 0)
    else (.fin (decide (z < 0)) z.natAbs lo, 0)

/-- Numeric order of two values that are no NaN: `a < b`. Zeros are equal. -/
def Val.lt (a b : Val) : Bool :=
  match a, b with
  | .nan, _ => false
  | _, .nan => false
  | .inf s, .inf t => s && !t
  | .inf s, .fin _ _ _ => s
  | .fin _ _ _, .inf t => !t
  | .fin s m e, .fin t n f =>
    let lo := if e < f then e else f
    decide (scaledTo s m e lo < scaledTo t n f lo)

/-- Numeric equality of two values that are no NaN; −0 equals +0. -/
def Val.eqv (a b : Val) : Bool :=
  match a, b with
  | .nan, _ => false
  | _, .nan => false
  | .inf s, .inf t => s == t
  | .inf _, .fin _ _ _ => false
  | .fin _ _ _, .inf _ => false
  | .fin s m e, .fin t n f =>
    let lo := if e < f then e else f
    scaledTo s m e lo == scaledTo t n f lo

/-- A NaN. -/
def Val.isNan (a : Val) : Bool := a == .nan

/-- A zero of either sign. -/
def Val.isZero : Val → Bool
  | .fin _ m _ => m == 0
  | .nan => false
  | .inf _ => false

/-- The sign of a number. -/
def Val.sign : Val → Bool
  | .fin s _ _ => s
  | .inf s => s
  | .nan => false

/-- `a` ranks below `b` for minimum and maximum: −0 is less than +0 (R229). -/
def Val.ltSigned (a b : Val) : Bool := a.lt b || (a.isZero && b.isZero && a.sign && !b.sign)

/-- IEEE minimum (R229). -/
def Val.minimum (a b : Val) : Val := if a.isNan || b.isNan then .nan else if b.ltSigned a then b else a

/-- IEEE maximum (R229). -/
def Val.maximum (a b : Val) : Val := if a.isNan || b.isNan then .nan else if a.ltSigned b then b else a

/-- IEEE minimumNumber (R229). -/
def Val.minimumNumber (a b : Val) : Val := if a.isNan then b else if b.isNan then a else a.minimum b

/-- IEEE maximumNumber (R229). -/
def Val.maximumNumber (a b : Val) : Val := if a.isNan then b else if b.isNan then a else a.maximum b

/-- Integer square root by bits, from bit k down. -/
def isqrtFrom : Nat → Nat → Nat → Nat
  | 0, _, acc => acc
  | k + 1, n, acc => isqrtFrom k n (if (acc + 2 ^ k) * (acc + 2 ^ k) ≤ n then acc + 2 ^ k else acc)

/-- floor(√n). -/
def isqrt (n : Nat) : Nat := isqrtFrom (Nat.log2 n / 2 + 1) n 0

/-- Rounding an inexact real to FP32 under RNE (R74). -/
def round32Sticky (sticky : Bool) (v : Val) : Nat × Nat := specFp32.round .rne false sticky v

/-- VDIV (R74). -/
def divLane (a b : Val) : Nat × Nat :=
  match a, b with
  | .nan, _ => (nan32, 0)
  | _, .nan => (nan32, 0)
  | .inf _, .inf _ => (nan32, flagNV)
  | .inf s, .fin t _ _ => round32 .rne (.inf (s != t))
  | .fin s _ _, .inf t => round32 .rne (.fin (s != t) 0 0)
  | .fin s m e, .fin t n f =>
    if n == 0 then
      if m == 0 then (nan32, flagNV)
      else ((round32 .rne (.inf (s != t))).1, flagDZ)
    else if m == 0 then round32 .rne (.fin (s != t) 0 0)
    else
      let k := Nat.log2 n + 64
      let q := m * 2 ^ k / n
      round32Sticky (m * 2 ^ k % n != 0) (.fin (s != t) q (e - f - k))

/-- VRCP (R74). -/
def rcpLane (a : Val) : Nat × Nat := divLane (.fin false 1 0) a

/-- VSQRT (R74). -/
def sqrtLane (a : Val) : Nat × Nat :=
  match a with
  | .nan => (nan32, 0)
  | .inf s => if s then (nan32, flagNV) else round32 .rne (.inf false)
  | .fin s m e =>
    if m == 0 then round32 .rne (.fin s 0 0)
    else if s then (nan32, flagNV)
    else
      let odd := decide (e % 2 = 1)
      let m2 := (if odd then 2 * m else m) * 2 ^ 128
      let e2 := (if odd then e - 1 else e) - 128
      let r := isqrt m2
      round32Sticky (r * r != m2) (.fin false r (e2 / 2))

/-- VRSQ (R74). -/
def rsqLane (a : Val) : Nat × Nat :=
  match a with
  | .nan => (nan32, 0)
  | .inf s => if s then (nan32, flagNV) else round32 .rne (.fin false 0 0)
  | .fin s m e =>
    if m == 0 then ((round32 .rne (.inf s)).1, flagDZ)
    else if s then (nan32, flagNV)
    else
      let odd := decide (e % 2 = 1)
      let m2 := if odd then 2 * m else m
      let e2 := if odd then e - 1 else e
      let k := 2 * (Nat.log2 m2 + 64)
      let r := isqrt (2 ^ k / m2)
      round32Sticky (r * r * m2 != 2 ^ k) (.fin false r (-(e2 / 2) - ((k / 2 : Nat) : Int)))

/-- Fixed-point precision, in fraction bits, of the transcendental lane functions. -/
def fxBits : Nat := 192

/-- Σ t^k/k! in fixed point, k from the current index, `n` more terms. -/
def expSum : Nat → Nat → Nat → Nat → Nat → Nat
  | 0, _, _, _, acc => acc
  | n + 1, t, k, term, acc => expSum n t (k + 1) (term * t / (2 ^ fxBits * (k + 1))) (acc + term)

/-- e^t for a fixed-point t below 2^5, in fixed point. -/
def fxExp (t : Nat) : Nat := expSum 220 t 0 (2 ^ fxBits) 0

/-- Σ y^(2k+1)/(2k+1) in fixed point: the current odd power is `pw`, its index 2k+1 is `k`. -/
def atanhSum : Nat → Nat → Nat → Nat → Nat → Nat
  | 0, _, _, _, acc => acc
  | n + 1, y2, k, pw, acc => atanhSum n y2 (k + 2) (pw * y2 / 2 ^ fxBits) (acc + pw / k)

/-- 2 · artanh(y) in fixed point. -/
def fxAtanh2 (y : Nat) : Nat := 2 * atanhSum 160 (y * y / 2 ^ fxBits) 1 y 0

/-- ln 2 in fixed point: 2 · artanh(1/3). -/
def fxLn2 : Nat := fxAtanh2 (2 ^ fxBits / 3)

/-- VEXP2 (R74): exact for integers; otherwise 2^n · e^(f·ln 2) with n = floor a. -/
def exp2Lane (a : Val) : Nat × Nat :=
  match a with
  | .nan => (nan32, 0)
  | .inf s => round32 .rne (if s then .fin false 0 0 else .inf false)
  | .fin s m e =>
    let lg := (Nat.log2 m : Int) + e
    if m == 0 then round32 .rne (.fin false 1 0)
    else if 12 ≤ lg then round32Sticky true (if s then .fin false 1 (-400) else .fin false 1 400)
    else if lg < -40 then
      round32Sticky true (if s then .fin false (2 ^ 64 - 1) (-64) else .fin false (2 ^ 64) (-64))
    else
      let fx := scaledTo s (shiftZ m (e + 64)) 0 0
      let n := fx / (2 ^ 64 : Nat)
      let f := (fx % (2 ^ 64 : Nat)).toNat
      if f == 0 then round32 .rne (.fin false 1 n)
      else
        let t := f * fxLn2 / 2 ^ 64
        round32Sticky true (.fin false (fxExp t / 2 ^ 96) (n - ((fxBits - 96 : Nat) : Int)))

/-- VLOG2 (R74): exact for powers of two; otherwise n + ln(x)/ln 2 with x in [1, 2). -/
def log2Lane (a : Val) : Nat × Nat :=
  match a with
  | .nan => (nan32, 0)
  | .inf s => if s then (nan32, flagNV) else round32 .rne (.inf false)
  | .fin s m e =>
    if m == 0 then ((round32 .rne (.inf true)).1, flagDZ)
    else if s then (nan32, flagNV)
    else
      let n := (Nat.log2 m : Int) + e
      if m == 2 ^ Nat.log2 m then round32 .rne (Val.ofInt n 0)
      else
        let x := m * 2 ^ fxBits / 2 ^ Nat.log2 m
        let y := (x - 2 ^ fxBits) * 2 ^ fxBits / (x + 2 ^ fxBits)
        let l := fxAtanh2 y * 2 ^ fxBits / fxLn2
        let z : Int := n * ((2 ^ fxBits : Nat) : Int) + (l : Int)
        round32Sticky true (.fin (decide (z < 0)) (z.natAbs / 2 ^ 64) (64 - (fxBits : Int)))

/-- VTANH (R74). -/
def tanhLane (a : Val) : Nat × Nat :=
  match a with
  | .nan => (nan32, 0)
  | .inf s => round32 .rne (.fin s 1 0)
  | .fin s m e =>
    let lg := (Nat.log2 m : Int) + e
    if m == 0 then round32 .rne (.fin s 0 0)
    else if 4 ≤ lg then round32Sticky true (.fin s (2 ^ 64 - 1) (-64))
    else if lg < -20 then round32Sticky true (.fin s (m * 2 ^ 38 - 1) (e - 38))
    else
      let t := shiftZ (2 * m) (e + fxBits)
      let x := fxExp t
      let q := (x - 2 ^ fxBits) * 2 ^ fxBits / (x + 2 ^ fxBits)
      round32Sticky true (.fin s (q / 2 ^ 64) (64 - (fxBits : Int)))

end Sys2Proof.Machine
end

