-- ==== Sys2Proof/Machine/TileState.lean ====
section
/-! DEFINITION. The state of one tile and of the work in flight around it (chapters "Tiles, streams and time",
"Tile storage, generations, semaphores and rings"), as plain data. -/

namespace Sys2Proof.Machine

/-- A byte store: (address, byte) pairs, addresses strictly rising, no entry 0; an unlisted address reads as 0. -/
abbrev Mem := List Host.Cell

/-- A sparse table of numbers in the same canonical form; an unlisted index reads as 0. -/
abbrev Tab := List (Nat × Nat)

/-- A general register or lane mask with its generation tag (R83, R88). -/
structure Reg where
  val : Word := 0
  tag : Nat := 0
  deriving DecidableEq, Repr

/-- A stream register, by field (R84), with its tag, and whether it is in use (R87). -/
structure Stream where
  base : Nat := 0
  fmt : Nat := 0
  mode : Nat := 0
  scaleA : Nat := 0
  scaleOn : Bool := false
  scaleBase : Nat := 0
  scaleStride : Int := 0
  cur : Nat := 0
  stride : Vector Int 5 := Vector.replicate 5 0
  /-- The EXTENT fields, which hold the extent minus 1. -/
  extent : Vector Nat 5 := Vector.replicate 5 0
  idx : Vector Nat 5 := Vector.replicate 5 0
  tag : Nat := 0
  inUse : Bool := false
  deriving DecidableEq, Repr

/-- A tile-register descriptor without its EPOCH (R80). -/
structure TDesc where
  fmt : Nat := 0
  rows : Nat := 0
  cols : Nat := 0
  kaxis : Bool := false
  scaleA : Nat := 0
  scaleOn : Bool := false
  sslice : Nat := 0
  deriving DecidableEq, Repr

/-- One hardware loop level (R196). -/
structure LoopLvl where
  active : Bool := false
  start : Nat := 0
  stop : Nat := 0
  left : Nat := 0
  order : Nat := 0
  deriving DecidableEq, Repr

/-- The stream state of one engine: its program counter, loop state, loop-delta table, and its units' occupancy. -/
structure EngState where
  pc : Nat := 0
  ended : Bool := false
  /-- A trap has stopped the engine (R37, R38). -/
  halted : Bool := false
  /-- Local cycles of the current IDLE still to come (R194). -/
  idle : Nat := 0
  loops : Vector LoopLvl 4 := Vector.replicate 4 {}
  /-- The issue sequence of LOOPs (R196). -/
  seq : Nat := 0
  /-- DELTA[L][s] at index 16·L + s (R86). -/
  delta : Vector Int 64 := Vector.replicate 64 0
  /-- First local cycle in which unit L (V), the array (M) or the injection port (N) is free (R223, R257, R275). -/
  busyA : Nat := 0
  /-- First local cycle in which unit S (V) or the transfer unit (M) is free. -/
  busyB : Nat := 0
  deriving DecidableEq, Repr

/-- A semaphore (R102). -/
structure Sem where
  count : Nat := 0
  ceiling : Nat := 0xFFFFFFFF
  arrive : Bool := false
  phase : Nat := 0
  expect : Nat := 0
  expValid : Bool := false
  err : Bool := false
  deriving DecidableEq, Repr

/-- A ring (R110). -/
structure Ring where
  base : Nat := 0
  slotSize : Nat := 0
  slots : Nat := 0
  freeSem : Nat := 0
  filledSem : Nat := 0
  head : Nat := 0
  tail : Nat := 0
  claimedP : Nat := 0
  claimedC : Nat := 0
  deriving DecidableEq, Repr

/-- What a waiting group waits for (R18, R26, R97, R302, R303, R304). -/
inductive WaitKind where
  /-- A token from X in the queue into engine `e`; `fromPrev` names the queue. -/
  | token (e : Engine) (fromPrev : Bool)
  /-- Room in the queue from engine `e` into X; `toPrev` names the queue. -/
  | room (e : Engine) (toPrev : Bool)
  | take (sem : Nat)
  | phase (sem : Nat)
  | claim (ring : Nat) (producer : Bool)
  | pkgTime
  | clearDone
  deriving DecidableEq, Repr

/-- A lookahead that has been made (R26): for which group, with what operand value, and whether it passed. -/
structure Look where
  eng : Engine
  /-- The group's issue cycle. -/
  at_ : Nat
  pc : Nat
  /-- Position of the instruction in its group. -/
  pos : Nat
  kind : WaitKind
  amount : Nat
  /-- The operand register was stale in trap mode at the lookahead (R302). -/
  stale : Bool := false
  passed : Bool := true
  /-- What it found stays reserved for its group; a reset of the object discards that (R103, R104). -/
  reserves : Bool := true
  /-- The wall cycle in which a failed condition cleared (R27). -/
  clear : Option Nat := none
  deriving DecidableEq, Repr

/-- One masked byte of a write. -/
structure MByte where
  addr : Nat
  val : Nat
  mask : Nat := 255
  deriving DecidableEq, Repr

/-- Who writes a grid row, which decides writes that meet (R226, R268). -/
inductive GridSrc where
  | vec
  | xfer
  | array
  | plane
  deriving DecidableEq, Repr

/-- What an instruction captured at its issue, for work that goes on in later cycles (R216, R263). -/
structure Cap where
  d : TDesc := {}
  a : TDesc := {}
  b : TDesc := {}
  dOn : Bool := false
  aOn : Bool := false
  bOn : Bool := false
  mask : Word := 0
  /-- The selector mask of VSEL and the g register of VBCST, read at issue (R224, R235). -/
  sel : Word := 0
  g : Word := 0
  /-- Lane codes captured at issue, such as a single B row (R221), or gathered row by row (R243, R248). -/
  rows : List (List Nat) := []
  /-- Byte offsets computed at issue (R85, R270). -/
  offs : List Nat := []
  /-- Flags gathered so far, ORed at the end (R271). -/
  flags : Nat := 0
  deriving DecidableEq, Repr

/-- A stream-plane word on its way: its landing offsets and data, or the codes of a line (R275, R279). -/
inductive PlaneWord where
  | granule (offset : Nat) (data : List Nat)
  | line (dst : Nat) (w : Nat) (on : Bool) (codes : List Nat)
  deriving DecidableEq, Repr

/-- A pending effect of an issued instruction, performed at its own cycle (R24, R43, R447). -/
inductive Eff where
  | g (r : Nat) (v : Word) (byC : Bool)
  | x (r : Nat) (v : Word)
  | mask (r : Nat) (v : Word)
  | grid (t row : Nat) (src : GridSrc) (bytes : List MByte)
  | spm (bytes : List MByte)
  | side (bytes : List MByte)
  | vflags (f : Nat)
  | mflags (f : Nat)
  /-- Work of row `r` (or pass, or beat) of an instruction, done at this cycle. -/
  | job (i : Instr) (cap : Cap) (r : Nat)
  /-- A C LD or ST that has not found its bank cycle (R99, R204). -/
  | access (i : Instr) (a : Nat) (v : Word)
  /-- A stream-plane word that lands. -/
  | land (w : PlaneWord)
  /-- One access through stream `s` advances it (R85). -/
  | advance (s : Nat)
  /-- The group ending at word `e` runs its loop end check or transfers to `target` (R196, R197). -/
  | goto (eng : Engine) (target : Option Nat) (e : Nat)
  | loopStart (eng : Engine) (lvl start stop left : Nat)
  | ends (eng : Engine)
  /-- An IDLE that began has `n` more cycles (R194). -/
  | idle (eng : Engine) (n : Nat)
  /-- The last cycle of an IDLE whose word is at `e`: its loop end check (R197). -/
  | expire (eng : Engine) (e : Nat)
  | tokTake (eng : Engine) (fromPrev : Bool)
  | tokPut (eng : Engine) (toPrev : Bool)
  | scfg (s wsel : Nat) (v : Word)
  | srst (s : Nat)
  | ldel (eng lvl s : Nat) (d : Int)
  | tdesc (t : Nat) (d : TDesc)
  | epoch (t : Nat)
  | csr (n sub : Nat) (v : Word)
  | genclr
  | rdv (tag : Nat)
  /-- `n` events of a code in each of `cycles` cycles from this one (R425). -/
  | charge (code n cycles : Nat)
  deriving DecidableEq, Repr

/-- The instruction that an effect, a bank use or a word belongs to. -/
structure Own where
  eng : Engine := .C
  /-- Number of the group's issue in its tile. -/
  gid : Nat := 0
  /-- Position in the group. -/
  iid : Nat := 0
  /-- Word offset of the group. -/
  off : Nat := 0
  deriving DecidableEq, Repr

/-- A pending effect with its key: local cycle (for X: the pitch's wall cycle) and phase 0 perform, 1 read and
scratchpad write, 2 end of cycle; `iss` is the issue cycle. -/
structure Pend where
  at_ : Nat
  ph : Nat
  own : Own
  iss : Nat
  eff : Eff
  deriving DecidableEq, Repr

/-- A scratchpad bank used by a static access in a local cycle (R99). -/
structure BankUse where
  at_ : Nat
  bank : Nat
  own : Own
  /-- Issue cycle of the access. -/
  iss : Nat := 0
  deriving DecidableEq, Repr

/-- Who operates on a semaphore or ring (R108). -/
inductive SemSrc where
  | c
  | x
  | remote (y x : Nat)
  | copy
  deriving DecidableEq, Repr

/-- An operation on a tile's semaphores and rings (R106, R107, R112). Amounts are exact. -/
inductive SemDo where
  | config (sem count ceiling : Nat) (arrive : Bool)
  | take (sem n : Nat)
  | phaseWait (sem p : Nat)
  | post (sem k : Nat)
  | fadd (sem : Nat) (d : Int)
  | cas (sem e v : Nat)
  | exp (sem e : Nat)
  | arrive (sem n : Nat)
  | lost (sem : Nat)
  | ringConfig (ring : Nat) (v : Word)
  | claim (ring : Nat) (producer : Bool)
  | give (ring : Nat) (producer : Bool)
  | read (sem word : Nat)
  | ringRead (ring word : Nat)
  deriving DecidableEq, Repr

/-- The semaphore that an SPOST, SFADD or SCAS writes (R138). -/
def SemDo.writes (op : SemDo) : Option Nat :=
  match op with
  | .post k _ => some k
  | .fadd k _ => some k
  | .cas k _ _ => some k
  | .config _ _ _ _ => none
  | .take _ _ => none
  | .phaseWait _ _ => none
  | .exp _ _ => none
  | .arrive _ _ => none
  | .lost _ => none
  | .ringConfig _ _ => none
  | .claim _ _ => none
  | .give _ _ => none
  | .read _ _ => none
  | .ringRead _ _ => none

/-- A staged semaphore operation of the current cycle; `msg` is the message of a remote operation. -/
structure SemOp where
  src : SemSrc
  gid : Nat
  iid : Nat
  op : SemDo
  rd : Option Nat := none
  msg : Nat := 0
  deriving DecidableEq, Repr

/-- A trap registered in a tile (R37 to R39, R311). `data` is the fault record's DATA (R448), `info` that of TRAP_INFO. -/
structure TrapRec where
  tau : Nat
  eng : Engine
  code : Nat
  wr : Bool := false
  info : Nat := 0
  data : Nat := 0
  /-- Word offset of the trapping group, and of the first offending word (R169). -/
  off : Nat := 0
  word : Nat := 0
  /-- The tile whose N engine sent the landing that collided here (R99, R276). -/
  sender : Option Nat := none
  /-- Number of the group's issue, where the trap was found after it. -/
  gid : Nat := 0
  deriving DecidableEq, Repr

/-- A target of a copy's completion post and arrival count: a tile of the pitch and its semaphore (R286). -/
structure CopySem where
  tile : Nat
  sem : Nat
  inc : Nat
  arr : Bool
  deriving DecidableEq, Repr

/-- A region descriptor as read (R122). -/
structure RegionDesc where
  handle : Nat := 0
  pad : Bool := false
  clip : Bool := false
  esize : Nat := 0
  offset : Int := 0
  start : Vector Int 4 := Vector.replicate 4 0
  extent : Vector Nat 4 := Vector.replicate 4 0
  stride : Vector Int 4 := Vector.replicate 4 0
  /-- Word 0's reserved bits as they were read; they mean nothing and stand in a COPYQ entry (R122, R391). -/
  rsv : Nat := 0
  deriving DecidableEq, Repr

/-- One side of a copy: contiguous scratchpad bytes in tiles of the pitch, a region with its index list (empty but for
CGA and CSC) and its tensor table entry as read at issue (R395), or the pattern of CFB (R282). -/
inductive Side where
  | spm (tiles : List Nat) (off : Nat)
  | region (d : RegionDesc) (idx : List Int) (ent : Vector Word 4)
  | pattern (v : Nat)
  deriving DecidableEq, Repr

/-- What leaves a tile in the current step, for the pitch and the package to take up. -/
inductive Sig where
  /-- A word that enters links and lands in tile (x, y) at that tile's local cycle. -/
  | word (x y at_ : Nat) (own : Own) (w : PlaneWord)
  /-- A beat enters the directed link from (x, y) in pitch cycle p; direction 0 +x, 1 −x, 2 +y, 3 −y, 4 ejection. -/
  | link (x y dir p : Nat) (own : Own)
  /-- A remote operation; with `wait`, X stays on the instruction until the reply (R105, R298). -/
  | remote (tx ty : Nat) (op : SemDo) (rd : Option Nat) (wait : Bool) (off : Nat)
  | slice (ss : Nat) (op : SemDo) (rd : Option Nat) (wait : Bool) (off : Nat)
  /-- The outcome of message `msg` at its target: a result, or a trap code with its DATA. -/
  | reply (msg : Nat) (v : Option Word) (trap : Option (Nat × Nat))
  /-- A copy's post that the ceiling refused, with the DATA of R448 (R286). -/
  | refused (copy data : Nat)
  | fpost (ss pkg amt off : Nat)
  /-- A copy whose checks passed: `n` elements of `z` bytes from `src` to `dst`; `i` and its resolved operands are
kept for a hamper (R391). -/
  | copy (i : Instr) (opD opS : Word) (src dst : Side) (n z : Nat) (posts : List CopySem) (off : Nat)
  deriving DecidableEq, Repr

/-- Where a tile's local time stands (R19, R32, R42, R97). -/
inductive TileMode where
  /-- The start pulse reaches the tile after `n` more wall cycles. -/
  | pulse (n : Nat)
  /-- After a rendezvous: the tile issues its cycle A after `n` more wall cycles (R32); X goes on. -/
  | anchor (n : Nat)
  | run
  /-- Stopped at an RDV.P with its tag; `at_` is the cycle c_i of the RDV.P. -/
  | rdv (tag at_ : Nat)
  /-- After a resume of a tile that waits at an RDV.P: the restart reaches it after `n` more wall cycles (R45). -/
  | rpulse (n tag at_ : Nat)
  | frozen
  deriving DecidableEq, Repr

/-- The X engine's elastic state. -/
structure XState where
  /-- Stopped by TRANSLATION until the driver acts (R40, R129). -/
  stopped : Bool := false
  /-- Its entry stands in the fault queue (R393). -/
  told : Bool := false
  /-- The virtual address and direction of the fault. -/
  faultVa : Nat := 0
  /-- Word offset of the group of the copy that faulted (R383). -/
  faultOff : Nat := 0
  faultWr : Bool := false
  /-- The copy in issue: X issues nothing until its last request is dispatched (R126). -/
  copying : Option Nat := none
  /-- The last request of a copy was dispatched in this wall cycle: X goes on in the next (R126, R291). -/
  lastSent : Bool := false
  /-- Granules of the next copy instruction's descriptors and index list whose bank cycle X has had (R99, R122, R288). -/
  fetched : List Nat := []
  /-- A remote or slice take or phase wait that has not succeeded, by message (R298). -/
  waiting : Option Nat := none
  /-- A CFEN stands before these copies, by identity (R137). -/
  fence : List Nat := []
  /-- Registers whose replies or load data are still to come (R139, R192). -/
  busyRegs : List Nat := []
  /-- Outstanding slots in use (R126, R298). -/
  slots : Nat := 0
  /-- This X stream's copies that have not completed, and its messages and posts that await their reply (R137, R294). -/
  copies : List Nat := []
  asks : List Nat := []
  /-- Tile wall cycle in which the present LD or ST first reached its bank (R101). -/
  tryAt : Option Nat := none
  deriving DecidableEq, Repr

/-- What an operation of block code does (R366, R367). A native instruction reads its slots from registers of the model's
choice, and leaves its result in one (notes/assumptions/41.md). -/
inductive BlockAct where
  | const (v : Word)
  | liveIn (k : Nat)
  | liveOut (k : Nat)
  | exit (target : Nat)
  | native (e : Engine) (i : Instr)
  deriving DecidableEq, Repr

/-- An operation as translated: its slots with the operations that feed them, its predicate (R364), and where its groups stand
in the translated streams, by engine and word offset. -/
structure BlockStep where
  act : BlockAct := .const 0
  feeds : List (Nat × Nat) := []
  pmode : Nat := 0
  pred : Nat := 0
  groups : List (Nat × Nat) := []
  deriving DecidableEq, Repr

/-- What a block keeps for its commit, in op order (R370): a copy, message or post, or a CFEN between them. -/
inductive Held where
  | sig (g : Sig)
  | fence
  deriving DecidableEq, Repr

/-- Where a tile stands in its block code (R369, R370, R372). -/
structure BlockRun where
  blk : Nat := 0
  /-- The operation in execution; beyond the block's last one, the block commits. -/
  op : Nat := 0
  live : Vector Word 256 := Vector.replicate 256 0
  /-- Results of the block's operations so far, and its LIVEOUTs in op order. -/
  res : List Word := []
  outs : List (Nat × Word) := []
  /-- The exit that fires, with its target. -/
  exit : Option (Nat × Nat) := none
  /-- The engine that has been given the operation, the word offset of its group, and whether it acts outside the tile at
  once. -/
  cmd : Option Engine := none
  at_ : Nat := 0
  direct : Bool := false
  held : List Held := []
  /-- The block has changed a semaphore or ring and has not committed that; a message to the tile itself is under way. -/
  dirty : Bool := false
  self : Bool := false
  /-- The function has ended: every engine issues its ENDS. -/
  ending : Bool := false
  deriving DecidableEq, Repr

/-- One tile of a pitch. -/
structure Tile where
  x : Nat := 0
  y : Nat := 0
  /-- Which class of the image the tile runs. -/
  cls : Nat := 0
  spm : Mem := []
  spmTag : Tab := []
  grid : Mem := []
  /-- Row tags at index 64·t + row. -/
  gridTag : Tab := []
  side : Mem := []
  sideTag : Tab := []
  desc : Vector TDesc 16 := Vector.replicate 16 {}
  descTag : Vector Nat 16 := Vector.replicate 16 0
  epoch : Vector Nat 16 := Vector.replicate 16 0
  /-- Last EPOCH increment of TCFG, TZRO, LDT or TCPY: its cycle + 1 (0: none) and its group (R215, R269). -/
  cutAt : Vector Nat 16 := Vector.replicate 16 0
  cutBy : Vector Nat 16 := Vector.replicate 16 0
  g : Vector Reg 32 := Vector.replicate 32 {}
  xr : Vector Reg 16 := Vector.replicate 16 {}
  m : Vector Reg 8 := Vector.replicate 8 {}
  s : Vector Stream 16 := Vector.replicate 16 {}
  gen : Nat := 0
  pitchGen : Nat := 0
  /-- The largest generation used since the last hard clear (R93). -/
  maxGen : Nat := 0
  staleTrap : Bool := false
  staleArrivals : Nat := 0
  vflags : Nat := 0
  mflags : Nat := 0
  trapInfo : Word := 0
  /-- Tokens in the queue into engine e: index 2·e from its previous engine, 2·e + 1 from its next (R16). -/
  tok : Vector Nat 10 := Vector.replicate 10 0
  sem : Vector Sem 64 := Vector.replicate 64 {}
  ring : Vector Ring 16 := Vector.replicate 16 {}
  eng : Vector EngState 5 := Vector.replicate 5 {}
  xs : XState := {}
  /-- Block code runs in the tile (R370). -/
  blk : Option BlockRun := none
  /-- TIME_LOCAL (R21). -/
  tl : Nat := 0
  mode : TileMode := .pulse 0
  /-- Word offset of C's last RDV.P, which a record of R33 names. -/
  rdvOff : Nat := 0
  /-- C's stream state as that RDV.P issued, which a disagreement found later restores (R33, R37). -/
  rdvEng : EngState := {}
  /-- The present wall cycle is a local cycle of the tile: it is not held, waiting, frozen or before its pulse. -/
  live : Bool := false
  /-- Wall cycle, in the pitch's count, in which the tile reached its present local cycle. -/
  reach : Nat := 0
  /-- The tile's group issues so far; names groups in `Pend.gid`. -/
  gseq : Nat := 0
  pend : List Pend := []
  banks : List BankUse := []
  /-- Banks already served in the current wall cycle (R99). -/
  banksNow : List Nat := []
  /-- Streams that two static engines have moved in the current wall cycle (R87). -/
  collided : List Nat := []
  looks : List Look := []
  semOps : List SemOp := []
  traps : List TrapRec := []
  /-- A hard clear of R97 is running, with its remaining tile-clock cycles. -/
  clearing : Option Nat := none
  /-- Such a clear has ended, and the GENCLR that asked for it has not issued. -/
  cleared : Bool := false
  out : List Sig := []
  /-- Charges in 2^-48 J under meters 1 to 7 (R312, R427), at index meter − 1. -/
  acc : Vector Nat 7 := Vector.replicate 7 0
  cycActive : Nat := 0
  cycOwned : Nat := 0
  /-- Charges not yet at the till, by meter as in `acc` (R432). -/
  unsent : Vector Nat 7 := Vector.replicate 7 0
  /-- An engine of the tile issued in this wall cycle (MTR_CYC_ACTIVE, R312). -/
  issued : Bool := false
  /-- An event 2, 3, 5, 6 or 7 was charged in this cycle (R426). -/
  worked : Bool := false
  deriving DecidableEq, Repr

/-- One stream's code: its words and the word offsets that start groups (R163). -/
structure Code where
  words : List Nat := []
  starts : List Nat := []
  deriving DecidableEq, Repr

/-- What a tile-level operation reads beside its tile: constants of the pitch and package values of the cycle. -/
structure Env where
  w : Nat := 1
  h : Nat := 1
  seamC : List Nat := []
  seamR : List Nat := []
  orient : Nat := 0
  strict : Bool := false
  holdLead : Nat := 0
  sliceId : Nat := 0
  ptc : Nat := 0
  /-- PURSE_LEVEL in µJ. -/
  purse : Int := 0
  /-- Physical index 48·py + px and the step in force, for the calibrated table (R428). -/
  phys : Nat := 0
  step : Nat := 0
  /-- The boot epoch, whose calibration holds (R428). -/
  epoch : Nat := 0
  /-- The pitch's wall cycle count since its start pulse left the origin. -/
  wall : Nat := 0
  /-- The five streams of the tile's class, in engine order. -/
  code : List Code := []
  /-- The blocks of the tile's class, in a pitch of block code. -/
  prog : List (List BlockStep) := []
  pkg : Nat := 0
  /-- Packages whose slice is bound to this one (R292). -/
  bound : List Nat := []
  /-- The slice's tensor table, by handle: the four words (R114). -/
  tensors : List (Nat × Vector Word 4) := []
  deriving DecidableEq, Repr

end Sys2Proof.Machine
end

