-- ==== Sys2Proof/Machine/Ops.lean ====
section
/-! DEFINITION. The named operations over one tile: stores and tags (R78 to R101), registers (R83, R188), streams
(R84 to R87), the staging of effects (R24), taking a trap (R37, R38), bank use (R99), charges (R425). -/

namespace Sys2Proof.Machine

/-- The byte at an address; 0 where nothing is listed. -/
def Mem.read : Mem → Nat → Byte
  | [], _ => 0
  | (a, v) :: m, k => if k == a then v else if k < a then 0 else Mem.read m k

/-- Write one byte, keeping the canonical form. -/
def Mem.write : Mem → Nat → Byte → Mem
  | [], k, v => if v == 0 then [] else [(k, v)]
  | (a, u) :: m, k, v =>
    if k < a then (if v == 0 then (a, u) :: m else (k, v) :: (a, u) :: m)
    else if k == a then (if v == 0 then m else (k, v) :: m)
    else (a, u) :: Mem.write m k v

/-- Addresses from `lo` up, strictly rising, no entry 0. -/
def Mem.wfFrom : Nat → Mem → Bool
  | _, [] => true
  | lo, (a, v) :: m => decide (lo ≤ a) && v != 0 && Mem.wfFrom (a + 1) m

/-- The canonical form of a byte store. -/
def Mem.wf (m : Mem) : Bool := Mem.wfFrom 0 m

/-- The entry at an index; 0 where nothing is listed. -/
def Tab.read : Tab → Nat → Nat
  | [], _ => 0
  | (a, v) :: m, k => if k == a then v else if k < a then 0 else Tab.read m k

/-- Write one entry, keeping the canonical form. -/
def Tab.write : Tab → Nat → Nat → Tab
  | [], k, v => if v == 0 then [] else [(k, v)]
  | (a, u) :: m, k, v =>
    if k < a then (if v == 0 then (a, u) :: m else (k, v) :: (a, u) :: m)
    else if k == a then (if v == 0 then m else (k, v) :: m)
    else (a, u) :: Tab.write m k v

/-- Write a list of bytes from an address up. -/
def Mem.writeAll (m : Mem) (a : Nat) : List Byte → Mem
  | [] => m
  | b :: bs => Mem.writeAll (m.write a b) (a + 1) bs

/-- Read `n` bytes from an address up. -/
def Mem.readAll (m : Mem) (a n : Nat) : List Byte := (List.range n).map fun i => m.read (a + i)

/-- Write the masked bits of one byte. -/
def Mem.writeMasked (m : Mem) (b : MByte) : Mem :=
  let old := (m.read b.addr).toNat
  m.write b.addr (BitVec.ofNat 8 ((old &&& (255 - b.mask % 256)) ||| (b.val &&& b.mask)))

/-- Little-endian value of bytes (R3). -/
def leNat : List Byte → Nat
  | [] => 0
  | b :: bs => b.toNat + 256 * leNat bs

/-- The low `n` bytes of a number, little-endian (R3). -/
def leBytes : Nat → Nat → List Byte
  | 0, _ => []
  | n + 1, v => BitVec.ofNat 8 v :: leBytes n (v / 256)

/-- Element of a vector, with a default beyond its end. -/
def at' {α : Type} {n : Nat} (d : α) (v : Vector α n) (i : Nat) : α := v[i]?.getD d

/-- Insert before the first element that must come after; keeps the order of equals. -/
def insertBy {α : Type} (before : α → α → Bool) (x : α) : List α → List α
  | [] => [x]
  | y :: l => if before y x then y :: insertBy before x l else x :: y :: l

/-- Stable insertion sort by a number. -/
def sortOn {α : Type} (key : α → Nat) (l : List α) : List α :=
  l.foldl (fun acc x => insertBy (fun y z => decide (key y ≤ key z)) x acc) []

/-- A store with 64-byte or 128-byte items and one tag per item, and the tag that makes an item current. -/
structure TagStore where
  mem : Mem
  tags : Tab

/-- A masked write under R90: a stale item is zeroed first, and the tag is set. `sz` is the item size. -/
def TagStore.write (st : TagStore) (sz base item tag : Nat) (bytes : List MByte) : TagStore :=
  let cur := st.tags.read item == tag && tag != 0
  let m0 := if cur then st.mem else st.mem.writeAll base (List.replicate sz 0)
  { mem := bytes.foldl Mem.writeMasked m0, tags := st.tags.write item tag }

/-- Items that a list of byte writes touches, each once, in order of first touch. -/
def itemsOf (sz : Nat) (bytes : List MByte) : List Nat :=
  bytes.foldl (fun acc b => if acc.contains (b.addr / sz) then acc else acc ++ [b.addr / sz]) []

/-- A masked write that may touch several items, each judged separately (R90). -/
def TagStore.writeItems (st : TagStore) (sz tag : Nat) (bytes : List MByte) : TagStore :=
  (itemsOf sz bytes).foldl
    (fun s it => s.write sz (it * sz) it tag (bytes.filter fun b => b.addr / sz == it)) st

/-- A lookahead holds what it found: it passed, or its condition has cleared since, and nothing has discarded it (R26,
R27, R30). -/
def Look.holds (l : Look) : Bool := (l.passed || l.clear.isSome) && l.reserves

/-- The reservation that a lookahead holds is discarded; one that has failed and holds none yet reserves when its condition
clears (R103, R104; notes/assumptions/111.md). -/
def Look.discard (l : Look) : Look := if l.holds then { l with reserves := false } else l

namespace Tile

/-- A granule is current (R88). -/
def spmCur (t : Tile) (gr : Nat) : Bool := t.spmTag.read gr == t.gen && t.gen != 0

/-- A byte of the scratchpad as a read returns it: zero in a stale granule (R90). -/
def spmByte (t : Tile) (a : Nat) : Byte := if t.spmCur (a / 64) then t.spm.read a else 0

/-- `n` bytes of the scratchpad as a read returns them. -/
def spmBytes (t : Tile) (a n : Nat) : List Byte := (List.range n).map fun i => t.spmByte (a + i)

/-- Some granule of a range is stale. -/
def spmStale (t : Tile) (a n : Nat) : Bool :=
  n != 0 && (List.range ((a + n - 1) / 64 - a / 64 + 1)).any fun k => !t.spmCur (a / 64 + k)

/-- A scratchpad write under R90 and R91: the tag is the GEN that stands in the cycle of the write. -/
def spmWrite (t : Tile) (bytes : List MByte) : Tile :=
  let st := TagStore.writeItems ⟨t.spm, t.spmTag⟩ 64 t.gen bytes
  { t with spm := st.mem, spmTag := st.tags }

/-- A descriptor is current (R88). -/
def descCur (t : Tile) (r : Nat) : Bool := at' 0 t.descTag r == t.gen && t.gen != 0

/-- A tile register is configured: its descriptor is current and its ROWS are not 0 (R80, R90). -/
def configured (t : Tile) (r : Nat) : Bool := t.descCur r && (at' {} t.desc r).rows != 0

/-- The descriptor as an instruction reads it: unconfigured when stale (R90). -/
def descOf (t : Tile) (r : Nat) : TDesc := if t.descCur r then at' {} t.desc r else {}

/-- A row is current (R88). -/
def rowCur (t : Tile) (r row : Nat) : Bool :=
  t.descCur r && t.gridTag.read (r * 64 + row) == at' 1 t.epoch r && at' 1 t.epoch r != 0

/-- A byte of a grid row as a read returns it (R90). -/
def gridByte (t : Tile) (r row k : Nat) : Nat :=
  if t.rowCur r row then (t.grid.read (r * 8192 + row * 128 + k)).toNat else 0

/-- Element `c` of width `w` of a row, F4 packed by R53. -/
def gridElem (t : Tile) (r row c w : Nat) : Nat :=
  if w == 4 then t.gridByte r row (c / 2) / 16 ^ (c % 2) % 16
  else leNat ((List.range (w / 8)).map fun k => BitVec.ofNat 8 (t.gridByte r row (c * (w / 8) + k)))

/-- A write of masked bytes of one grid row; `addr` of each byte counts within the row. A register whose descriptor is
stale takes no write (R225). -/
def gridWrite (t : Tile) (r row : Nat) (bytes : List MByte) : Tile :=
  if t.descCur r && !bytes.isEmpty then
    let base := r * 8192 + row * 128
    let st := TagStore.write ⟨t.grid, t.gridTag⟩ 128 base (r * 64 + row) (at' 1 t.epoch r)
      (bytes.map fun b => { b with addr := base + b.addr })
    { t with grid := st.mem, gridTag := st.tags }
  else t

/-- The masked bytes that write element `c` of width `w` of a row. -/
def elemBytes (c w v : Nat) : List MByte :=
  if w == 4 then [{ addr := c / 2, val := v % 16 * 16 ^ (c % 2), mask := 15 * 16 ^ (c % 2) }]
  else (List.range (w / 8)).map fun k => { addr := c * (w / 8) + k, val := v / 256 ^ k % 256 }

/-- A side-file byte is in a current granule (R88). -/
def sideCur (t : Tile) (k : Nat) : Bool := t.sideTag.read (k / 64) == t.gen && t.gen != 0

/-- A side-file byte as a read returns it. -/
def sideByte (t : Tile) (k : Nat) : Nat := if t.sideCur k then (t.side.read k).toNat else 0

/-- A side-file write: partial granule writes under R90. -/
def sideWrite (t : Tile) (bytes : List MByte) : Tile :=
  let st := TagStore.writeItems ⟨t.side, t.sideTag⟩ 64 t.gen bytes
  { t with side := st.mem, sideTag := st.tags }

/-- The engine's stream state. -/
def engOf (t : Tile) (e : Engine) : EngState := at' {} t.eng e.idx

/-- Replace the engine's stream state. -/
def setEng (t : Tile) (e : Engine) (s : EngState) : Tile := { t with eng := t.eng.setIfInBounds e.idx s }

/-- A register field of an engine: x registers in X, g registers elsewhere (R167). -/
def regOf (t : Tile) (e : Engine) (r : Nat) : Reg := if e == .X then at' {} t.xr r else at' {} t.g r

/-- A register is stale (R88, R188). -/
def regStale (t : Tile) (e : Engine) (r : Nat) : Bool := !((t.regOf e r).tag == t.gen && t.gen != 0)

/-- A register as an instruction reads it: zero when stale (R188). -/
def reg (t : Tile) (e : Engine) (r : Nat) : Word := if t.regStale e r then 0 else (t.regOf e r).val

/-- Write a g register and make it current. -/
def setG (t : Tile) (r : Nat) (v : Word) : Tile := { t with g := t.g.setIfInBounds r ⟨v, t.gen⟩ }

/-- Write an x register and make it current. -/
def setX (t : Tile) (r : Nat) (v : Word) : Tile := { t with xr := t.xr.setIfInBounds r ⟨v, t.gen⟩ }

/-- A lane mask is stale. -/
def maskStale (t : Tile) (r : Nat) : Bool := !((at' {} t.m r).tag == t.gen && t.gen != 0)

/-- A lane mask as an instruction reads it (R220). -/
def maskVal (t : Tile) (r : Nat) : Word := if t.maskStale r then 0 else (at' {} t.m r).val

/-- Write a lane mask whole. -/
def setMask (t : Tile) (r : Nat) (v : Word) : Tile := { t with m := t.m.setIfInBounds r ⟨v, t.gen⟩ }

/-- A stream register is stale. -/
def streamStale (t : Tile) (s : Nat) : Bool := !((at' {} t.s s).tag == t.gen && t.gen != 0)

/-- A stream register as an access sees it: all zero when stale (R90). -/
def streamOf (t : Tile) (s : Nat) : Stream := if t.streamStale s then {} else at' {} t.s s

/-- Replace a stream register. -/
def setStream (t : Tile) (s : Nat) (v : Stream) : Tile := { t with s := t.s.setIfInBounds s v }

end Tile

/-- What an issuing instruction knows beside its tile: its engine, its group and its place in the code. -/
structure Ctx where
  env : Env := {}
  eng : Engine := .C
  gid : Nat := 0
  iid : Nat := 0
  /-- Word offset of the group, of the instruction, and the instruction's length in words. -/
  gpc : Nat := 0
  pc : Nat := 0
  len : Nat := 1
  /-- The issue cycle, for work done later. -/
  iss : Nat := 0
  deriving DecidableEq, Repr

/-- Codes of the traps (R36). -/
def trapIllegal : Nat := 0x01
def trapBank : Nat := 0x02
def trapStreamCollision : Nat := 0x03
def trapStreamPhase : Nat := 0x04
def trapLink : Nat := 0x05
def trapMiss : Nat := 0x06
def trapStale : Nat := 0x07
def trapCeiling : Nat := 0x08
def trapToken : Nat := 0x09
def trapBounds : Nat := 0x0A
def trapTranslation : Nat := 0x0B
def trapTensor : Nat := 0x0C
def trapMemory : Nat := 0x0D
def trapSeam : Nat := 0x0E
def trapSoftware : Nat := 0x0F

/-- off(x, y) (R19): the wall cycles by which a tile lags the origin. -/
def Env.off (env : Env) (x y : Nat) : Nat :=
  Config.hopCost * (x + y) + (Config.seamCost - Config.hopCost) *
    ((env.seamC.filter fun n => decide (1 ≤ n) && decide (n ≤ x)).length +
      (env.seamR.filter fun n => decide (1 ≤ n) && decide (n ≤ y)).length)

/-- The five streams' code of a tile. -/
def Env.codeOf (env : Env) (e : Engine) : Code := env.code.getD e.idx {}

/-- A word of a stream's code; every word beyond it reads as 0xFFFF_FFFF (R164). -/
def Code.word (c : Code) (k : Nat) : Nat := c.words.getD k 0xFFFFFFFF

/-- TRAP_INFO (R311). -/
def trapInfoWord (code : Nat) (e : Engine) (wr : Bool) (info : Nat) : Word :=
  BitVec.ofNat 64 (code * 2 ^ 56 + e.idx * 2 ^ 53 + b2n wr * 2 ^ 52 + info % 2 ^ 52)

namespace Tile

/-- The cycle that keys an engine's effects: local time for a static engine, the pitch's wall count for X. -/
def now (t : Tile) (c : Ctx) : Nat := if c.eng == .X then c.env.wall else t.tl

/-- The issuing instruction as the owner of what it stages. -/
def own (c : Ctx) : Own := ⟨c.eng, c.gid, c.iid, c.gpc⟩

/-- Stage an effect of the issuing instruction. -/
def stage (t : Tile) (c : Ctx) (at_ ph : Nat) (eff : Eff) : Tile :=
  { t with pend := t.pend ++ [⟨at_, ph, own c, c.iss, eff⟩] }

/-- The effects of one owner, or of its whole group. -/
def sameOwn (o : Own) (whole : Bool) (q : Own) : Bool :=
  q.eng == o.eng && q.gid == o.gid && (whole || q.iid == o.iid)

/-- Remove the effects of a suppressed group (or of one instruction of it) from cycle `tau` on (R37). -/
def suppress (t : Tile) (o : Own) (whole : Bool) (tau : Nat) : Tile :=
  { t with
    pend := t.pend.filter fun p => !(sameOwn o whole p.own && decide (tau ≤ p.at_))
    banks := t.banks.filter fun b => !(sameOwn o whole b.own && decide (tau ≤ b.at_))
    semOps := t.semOps.filter fun q =>
      !((q.src == .c && o.eng == .C || q.src == .x && o.eng == .X) && q.gid == o.gid && (whole || q.iid == o.iid)) }

/-- Register a trap (R39, R311). -/
def record (t : Tile) (r : TrapRec) : Tile :=
  { t with traps := t.traps ++ [r], trapInfo := trapInfoWord r.code r.eng r.wr r.info }

/-- TAKING A TRAP at the issue cycle (R37, R38): it is registered, the whole group is suppressed, the engine issues
nothing further, and its program counter stays on the group. -/
def trapWith (t : Tile) (c : Ctx) (code info data : Nat) : Tile :=
  let t1 := (t.suppress (own c) true 0).record
    { tau := t.tl, eng := c.eng, code := code, info := info, data := data, off := c.gpc, word := c.pc }
  t1.setEng c.eng { t1.engOf c.eng with halted := true }

/-- A trap at issue whose record names the group (R311). -/
def trap (t : Tile) (c : Ctx) (code : Nat) : Tile := t.trapWith c code c.gpc 0

/-- A trap found in a later cycle `tau` of the group's life (R37): effects from `tau` on are suppressed in that
instruction alone, and the engine goes on. -/
def trapLate (t : Tile) (o : Own) (tau code : Nat) : Tile :=
  (t.suppress o false tau).record
    { tau := tau, eng := o.eng, code := code, info := o.off, off := o.off, word := o.off, gid := o.gid
      sender := if 4096 ≤ o.iid then some (o.iid - 4096) else none }

/-- A trap found in cycle `tau` of an instruction that issued at `iss` (R37): at the issue cycle the whole group is
suppressed and the engine stops; later only the instruction is, and the engine goes on. -/
def trapAny (t : Tile) (o : Own) (iss tau code : Nat) : Tile :=
  if iss == tau && o.gid != 0 then
    let t1 := (t.suppress o true 0).record
      { tau := tau, eng := o.eng, code := code, info := o.off, off := o.off, word := o.off }
    t1.setEng o.eng { t1.engOf o.eng with halted := true }
  else t.trapLate o tau code

/-- The meter of an event code, 1 to 7 (R312, R425). -/
def eventMeter (code : Nat) : Nat :=
  match code with
  | 1 => 2
  | 8 => 3
  | 9 => 4
  | 10 => 5
  | 12 => 6
  | 13 => 6
  | 14 => 6
  | 16 => 7
  | _ => 1

/-- Charge `n` events of a code from the tile's calibrated table (R425, R427). -/
def charge (t : Tile) (env : Env) (code n : Nat) : Tile :=
  let j := n * Config.calEntry env.epoch 0 env.phys env.step code
  let k := eventMeter code - 1
  { t with
    acc := t.acc.setIfInBounds k (at' 0 t.acc k + j)
    unsent := t.unsent.setIfInBounds k (at' 0 t.unsent k + j)
    worked := t.worked || (code == 2 || code == 3 || code == 5 || code == 6 || code == 7) }

/-- Some operand register is stale (R188). -/
def anyStale (t : Tile) (e : Engine) (rs : List Nat) : Bool := rs.any fun r => t.regStale e r

/-- Reading operand registers at issue (R188): STALE_READ in trap mode, otherwise `k` runs, with stale registers
reading as zero. -/
def withRegs (t : Tile) (c : Ctx) (rs : List Nat) (k : Tile → Tile) : Tile :=
  if t.staleTrap && t.anyStale c.eng rs then t.trap c trapStale else k t

/-- Stage a register result: visible at issue + `lat` in C, before the next issue in X (R187, R192). -/
def result (t : Tile) (c : Ctx) (r lat : Nat) (v : Word) : Tile :=
  if c.eng == .X then t.stage c (t.now c + 1) 0 (.x r v)
  else t.stage c (t.tl + lat) 0 (.g r v (c.eng == .C))

/-- Reserve a scratchpad bank for a static access (R99). -/
def useBank (t : Tile) (c : Ctx) (at_ bank : Nat) : Tile :=
  { t with banks := t.banks ++ [⟨at_, bank, own c, c.iss⟩] }

/-- Granules that `n` bytes from `a` touch. -/
def granules (a n : Nat) : List Nat :=
  if n == 0 then [] else (List.range ((a + n - 1) / 64 - a / 64 + 1)).map fun k => a / 64 + k

/-- Reserve the banks of an access of `n` bytes at `a`. -/
def useBanks (t : Tile) (c : Ctx) (at_ a n : Nat) : Tile :=
  (granules a n).foldl (fun s g => s.useBank c at_ (g % 16)) t

/-- EPOCH increment of a register: at 4,095 the row tags go to 0 and EPOCH becomes 1 (R95). -/
def bumpEpoch (t : Tile) (r : Nat) : Tile :=
  if at' 1 t.epoch r + 1 > 4095 then
    { t with
      epoch := t.epoch.setIfInBounds r 1
      gridTag := (List.range 64).foldl (fun m k => m.write (r * 64 + k) 0) t.gridTag }
  else { t with epoch := t.epoch.setIfInBounds r (at' 1 t.epoch r + 1) }

/-- The EPOCH increment of TCFG, TZRO, LDT or TCPY (R95, R269): it also cancels the V and M writes to the register
that issued before the cycle and have not yet performed (R215). -/
def cutEpoch (t : Tile) (r gid : Nat) : Tile :=
  let t1 := t.bumpEpoch r
  { t1 with cutAt := t1.cutAt.setIfInBounds r (t.tl + 1), cutBy := t1.cutBy.setIfInBounds r gid }

/-- A V or M write to register `r` by an instruction that issued at `iss` is cancelled (R215). -/
def cancelled (t : Tile) (r iss gid : Nat) : Bool :=
  decide (iss + 1 < at' 0 t.cutAt r) && at' 0 t.cutBy r != gid

/-- Every semaphore to its reset state and every ring unconfigured; the reservations that stand are discarded (R104). A failed
lookahead that holds none yet still reserves when it clears (DESIGN CHOICE, notes/assumptions/111.md). -/
def resetSync (t : Tile) : Tile :=
  { t with sem := Vector.replicate 64 {}, ring := Vector.replicate 16 {}, looks := t.looks.map fun l =>
      match l.kind with
      | .take _ => l.discard
      | .claim _ _ => l.discard
      | _ => l }

end Tile

/-- Advance of a stream register by one access (R85). -/
def Stream.advance (s : Stream) : Stream :=
  if s.mode == 0 then { s with cur := wrapBits 20 ((s.cur : Int) + at' 0 s.stride 0), inUse := true }
  else
    let step := (List.range 5).foldl
      (fun (acc : Vector Nat 5 × Bool) k =>
        if acc.2 then
          let v := at' 0 acc.1 k + 1
          if v ≥ at' 0 s.extent k + 1 then (acc.1.setIfInBounds k 0, true) else (acc.1.setIfInBounds k v, false)
        else acc) (s.idx, true)
    let sum := (List.range 5).foldl (fun (z : Int) k => z + ((at' 0 step.1 k : Nat) : Int) * at' 0 s.stride k) 0
    { s with idx := step.1, cur := wrapBits 20 ((s.base : Int) + sum), inUse := true }

/-- A stream as an access that issues now uses it: the advances of accesses issued in earlier cycles that take effect
only at the end of a later bank cycle count (R85, R314, R317; notes/assumptions/14.md). -/
def Tile.streamAhead (t : Tile) (s : Nat) : Stream :=
  if t.streamStale s then {}
  else (t.pend.filter fun p => p.eff == .advance s && decide (p.iss < t.tl)).foldl (fun st _ => st.advance) (t.streamOf s)

/-- A loop delta applied to a stream in LOOP mode (R86). -/
def Stream.applyDelta (s : Stream) (d : Int) : Stream := { s with cur := wrapBits 20 ((s.cur : Int) + d) }

/-- The offsets of `n` successive accesses through a stream (R85, R250, R270). -/
def Stream.offsets : Nat → Stream → List Nat
  | 0, _ => []
  | n + 1, s => s.cur :: Stream.offsets n s.advance

/-- A field of a word. -/
def wfld (v : Word) (lo n : Nat) : Nat := fld v.toNat lo n

/-- A signed field of a word. -/
def wsfld (v : Word) (lo n : Nat) : Int := toSigned n (wfld v lo n)

/-- The descriptor value that a register holds (R80), EPOCH left out. -/
def TDesc.ofWord (v : Word) : TDesc :=
  { fmt := wfld v 0 4, rows := wfld v 10 7, cols := wfld v 17 9, kaxis := wfld v 26 1 == 1, scaleA := wfld v 27 3,
    scaleOn := wfld v 30 1 == 1, sslice := wfld v 31 6 }

/-- The descriptor as TGET reads it (R217). -/
def TDesc.toWord (d : TDesc) (epoch : Nat) : Word :=
  BitVec.ofNat 64 (epoch * 2 ^ 37 + d.sslice * 2 ^ 31 + b2n d.scaleOn * 2 ^ 30 + d.scaleA * 2 ^ 27 +
    b2n d.kaxis * 2 ^ 26 + d.cols * 2 ^ 17 + d.rows * 2 ^ 10 + d.fmt)

/-- Kext of R82. -/
def TDesc.kext (d : TDesc) : Nat := if d.kaxis then d.rows else d.cols

/-- Oext of R82. -/
def TDesc.oext (d : TDesc) : Nat := if d.kaxis then d.cols else d.rows

/-- nk of R82. -/
def TDesc.nk (d : TDesc) : Nat := (d.kext + 2 ^ d.scaleA - 1) / 2 ^ d.scaleA

/-- no of R82. -/
def TDesc.no (d : TDesc) : Nat :=
  let b := 32 / 2 ^ d.scaleA
  if b == 0 then 0 else (d.oext + b - 1) / b

/-- A descriptor breaks R81: the ILLEGAL_ENCODING of TCFG and LDT. -/
def TDesc.illegal (d : TDesc) : Bool :=
  match Fmt.ofCode d.fmt with
  | none => true
  | some f =>
    decide (64 < d.rows) || (d.cols == 0 && d.rows != 0) || decide (f.colsLimit < d.cols) || decide (5 < d.scaleA) ||
      (d.scaleOn && !f.scaled)

/-- A descriptor's scales reach beyond the side file: the SCRATCH_BOUNDS of R82. -/
def TDesc.sideOver (d : TDesc) : Bool := d.scaleOn && decide (4096 < d.sslice * 64 + d.nk * d.no)

/-- The format of a descriptor; an unassigned code cannot stand in one (R81). -/
def TDesc.format (d : TDesc) : Fmt := (Fmt.ofCode d.fmt).getD .fp32

/-- Element width of a register. -/
def TDesc.w (d : TDesc) : Nat := d.format.width

/-- Side-file byte of the scale of element (k, o) (R63, R82). -/
def TDesc.scaleByte (d : TDesc) (k o : Nat) : Nat :=
  d.sslice * 64 + o / (32 / 2 ^ d.scaleA) * d.nk + k / 2 ^ d.scaleA

/-- Word `k` of a stream register (R84). -/
def Stream.word (s : Stream) (k : Nat) : Word :=
  let sx (v : Int) : Nat := ofSigned 21 v
  BitVec.ofNat 64 <|
    match k with
    | 0 => s.scaleBase * 2 ^ 32 + b2n s.scaleOn * 2 ^ 29 + s.scaleA * 2 ^ 26 + s.mode * 2 ^ 24 + s.fmt * 2 ^ 20 + s.base
    | 1 => s.cur * 2 ^ 21 + sx s.scaleStride
    | 2 => sx (at' 0 s.stride 2) * 2 ^ 42 + sx (at' 0 s.stride 1) * 2 ^ 21 + sx (at' 0 s.stride 0)
    | 3 => sx (at' 0 s.stride 4) * 2 ^ 21 + sx (at' 0 s.stride 3)
    | 4 => (List.range 5).foldl (fun z i => z + at' 0 s.extent i % 4096 * 4096 ^ i) 0
    | _ => (List.range 5).foldl (fun z i => z + at' 0 s.idx i % 4096 * 4096 ^ i) 0

/-- SCFG's field writes (R210). -/
def Stream.setWord (s : Stream) (k : Nat) (v : Word) : Stream :=
  match k with
  | 0 =>
    { s with base := wfld v 0 20, fmt := wfld v 20 4, mode := wfld v 24 2, scaleA := wfld v 26 3,
             scaleOn := wfld v 29 1 == 1, scaleBase := wfld v 32 20, cur := wfld v 0 20,
             idx := Vector.replicate 5 0, inUse := false }
  | 1 => { s with scaleStride := wsfld v 0 21 }
  | 2 =>
    let lo := (s.stride.setIfInBounds 0 (wsfld v 0 21)).setIfInBounds 1 (wsfld v 21 21)
    { s with stride := lo.setIfInBounds 2 (wsfld v 42 21) }
  | 3 => { s with stride := (s.stride.setIfInBounds 3 (wsfld v 0 21)).setIfInBounds 4 (wsfld v 21 21) }
  | 4 => { s with extent := (List.range 5).foldl (fun e i => e.setIfInBounds i (wfld v (12 * i) 12)) s.extent }
  | _ => s

end Sys2Proof.Machine
end

