-- ==== Sys2Proof/Machine/Flags.lean ====
section
/-! DEFINITION. The exception flags VFLAGS and MFLAGS (R66, R67) and the control-register writes of SETC (R171, R309). -/

namespace Sys2Proof.Machine

/-- ORing flags into a flag register: bits 4 to 0 only, sticky (R66). -/
def orFlags (old f : Nat) : Nat := (old ||| f) % 32

/-- The flags of a list of lane results (R67): every element that is read contributes. -/
def flagsOf (l : List (Nat × Nat × Nat)) : Nat := l.foldl (fun f x => f ||| x.2.2) 0

/-- SETC's new value of a register: sub 0 writes, 1 ORs, 2 clears (R171). -/
def setcValue (sub old v : Nat) : Nat :=
  match sub with
  | 0 => v
  | 1 => old ||| v
  | _ => old &&& (2 ^ 64 - 1 - v)

/-- SETC's write: VFLAGS and MFLAGS keep bits 4 to 0, STALE_MODE bit 0; every other register has no RW field (R309). -/
def Tile.setcWrite (t : Tile) (n sub : Nat) (v : Nat) : Tile :=
  if n == 0x00A then { t with vflags := setcValue sub t.vflags v % 32 }
  else if n == 0x00B then { t with mflags := setcValue sub t.mflags v % 32 }
  else if n == 0x004 then { t with staleTrap := setcValue sub (b2n t.staleTrap) v % 2 == 1 }
  else t

end Sys2Proof.Machine
end

