-- ==== Sys2Proof/Machine/Operands.lean ====
section
/-! DEFINITION. Every operand form of the vector and send instructions: lines of tile registers (R218, R219),
lane masks (R220), the format rules of R227, and the reading of elements with their scales (R59, R61, R63). -/

namespace Sys2Proof.Machine

/-- Tile register of a grid operand field. -/
def fieldTile (f : Nat) : Nat := f / 256 % 16

/-- Row `r` of a whole operand as the field of that row. -/
def rowField (f r : Nat) : Nat := fieldTile f * 256 + 64 + r % 64

/-- Line length n of a line operand; 0 when the line is absent (R218). -/
def lineLen (d : TDesc) (f : Nat) : Nat :=
  let n := f % 64
  match gridDir f with
  | 1 => if d.rows ≤ n then 0 else d.cols
  | _ => if d.cols ≤ n then 0 else d.rows

/-- Row and column of lane i of a line (R218). -/
def linePos (d : TDesc) (f i : Nat) : Nat × Nat :=
  let n := f % 64
  match gridDir f with
  | 1 => (n, i)
  | 2 => (i, n)
  | _ => (i, (i + n) % (if d.cols == 0 then 1 else d.cols))

/-- Byte length of a line (R218). -/
def lineBytes (d : TDesc) (f : Nat) : Nat := (lineLen d f * d.w + 7) / 8

/-- The code of lane i of a line: zero bits beyond its length (R219). -/
def Tile.lane (t : Tile) (d : TDesc) (f i : Nat) : Nat :=
  if i < lineLen d f then
    let p := linePos d f i
    t.gridElem (fieldTile f) p.1 p.2 d.w
  else 0

/-- A read of these lanes of a line meets a stale row (R90, R225). -/
def Tile.laneStale (t : Tile) (d : TDesc) (f : Nat) (lanes : List Nat) : Bool :=
  lanes.any fun i => decide (i < lineLen d f) && !t.rowCur (fieldTile f) (linePos d f i).1

/-- The scale of an element: 2^0 without scale geometry (R59, R61, R63). `k` and `o` are its coordinates. -/
def Tile.scaleOf (t : Tile) (d : TDesc) (k o : Nat) : Val :=
  if d.scaleOn then e8Value (t.sideByte (d.scaleByte k o)) else .fin false 1 0

/-- k and o coordinates of a storage element (R80, R82). -/
def TDesc.ko (d : TDesc) (row col : Nat) : Nat × Nat := if d.kaxis then (row, col) else (col, row)

/-- value() of an element: its code's value times its block scale, exactly (R59, R61, R69). -/
def Tile.elemValue (t : Tile) (d : TDesc) (row col code : Nat) : Val :=
  let ko := d.ko row col
  if d.format.scaled && d.scaleOn then ((d.format.decode code).mul (t.scaleOf d ko.1 ko.2)).1
  else d.format.decode code

/-- Lane i is active under a mask field and value for a driving line of width w (R220). -/
def laneActive (field : Nat) (m : Word) (w i : Nat) : Bool :=
  field == 0 || m.getLsbD (if w < 16 then i * w / 16 else i)

/-- What a lane operation reads: formats, line lengths, codes by lane, and the instruction's fields. -/
structure LaneEnv where
  o : VOps
  fd : Fmt
  fa : Fmt
  fb : Fmt
  nD : Nat
  nA : Nat
  nB : Nat
  A : Nat → Nat
  B : Nat → Nat
  D : Nat → Nat
  /-- A's elements with their block scales. -/
  aVal : Nat → Val
  active : Nat → Bool
  /-- Bits of the selector mask of VSEL, by lane. -/
  sel : Nat → Bool
  /-- The old value of a mask destination, zero when stale (R233). -/
  oldMask : Word
  /-- The value of a g register operand. -/
  g : Word

/-- What a lane operation writes: lanes of D with flags, bytes of B's row, a mask or a g register. -/
structure LineOut where
  lanes : List (Nat × Nat × Nat) := []
  bytesB : List MByte := []
  mask : Option Word := none
  g : Option Word := none
  flags : Nat := 0

/-- A lane operation with the lanes of A, B and D that it reads. -/
structure LineOp where
  line : LaneEnv → LineOut
  readA : LaneEnv → List Nat := fun _ => []
  readB : LaneEnv → List Nat := fun _ => []
  readD : LaneEnv → List Nat := fun _ => []

/-- The active lanes below n. -/
def LaneEnv.lanes (v : LaneEnv) (n : Nat) : List Nat := (List.range n).filter v.active

/-- An element-wise operation over D's line: code and flags of each active lane. -/
def perLane (f : LaneEnv → Nat → Nat × Nat) (v : LaneEnv) : LineOut :=
  let l := (v.lanes v.nD).map fun i => (i, (f v i).1, (f v i).2)
  { lanes := l, flags := flagsOf l }

/-- A lane whose sources are all absent reads no element, so it raises no flag (R67, R219); one with a source present keeps its
flags (DESIGN CHOICE, notes/assumptions/114.md). -/
def ifRead (read : Bool) (r : Nat × Nat) : Nat × Nat := (r.1, if read then r.2 else 0)

/-- Element-wise operation of A and B. -/
def lane2 (f : LaneEnv → Nat → Nat × Nat) : LineOp :=
  { line := perLane fun v i => ifRead (decide (i < v.nA) || decide (i < v.nB)) (f v i)
    readA := fun v => v.lanes v.nD, readB := fun v => v.lanes v.nD }

/-- Element-wise operation of A. -/
def lane1 (f : LaneEnv → Nat → Nat × Nat) : LineOp :=
  { line := perLane fun v i => ifRead (decide (i < v.nA)) (f v i), readA := fun v => v.lanes v.nD }

/-- Formats of configured operands: `none` for an unconfigured one (R227). -/
def fmtOn (on : Bool) (d : TDesc) : Option Fmt := if on then some d.format else none

/-- A property judged only of a configured operand. -/
def ifOn (f : Option Fmt) (p : Fmt → Bool) : Bool :=
  match f with
  | none => true
  | some x => p x

/-- A relation judged only between configured operands (R227). -/
def ifBoth (f g : Option Fmt) (p : Fmt → Fmt → Bool) : Bool :=
  match f, g with
  | some x, some y => p x y
  | none, _ => true
  | _, none => true

/-- Any format but E8. -/
def notE8 (f : Fmt) : Bool := f != .e8

/-- The same element width. -/
def sameW (f g : Fmt) : Bool := f.width == g.width

/-- The operand formats that a V instruction accepts (R227), with the scale conditions of VQNT and VTS8. -/
def vFormatsOk (i : Instr) (d a b : Option Fmt) (dScale : Bool) : Bool :=
  let fl := Fmt.isFloat
  let ints (f : Fmt) : Bool := f == .i8 || f == .i32
  match i with
  | .vadd _ _ | .vsub _ _ | .vmul _ _ | .vmin _ _ | .vmax _ _ | .vminn _ _ | .vmaxn _ _ | .vfma _ _ | .vfms _ _ =>
    ifOn d fl && ifOn a fl && ifOn b fl
  | .vneg _ _ | .vabs _ _ => ifOn d fl && ifOn a fl
  | .vdiv _ _ => ifOn d (· == .fp32) && ifOn a fl && ifOn b fl
  | .vrcp _ _ | .vsqrt _ _ | .vrsq _ _ | .vexp2 _ _ | .vlog2 _ _ | .vtanh _ _ => ifOn d (· == .fp32) && ifOn a fl
  | .vcmpeq _ _ | .vcmplt _ _ | .vcmple _ _ | .vcmpun _ _ =>
    ifOn a (fun f => fl f || f == .i32) && ifOn b (fun f => fl f || f == .i32) && ifBoth a b (fun f g => fl f == fl g)
  | .vclass _ _ => ifOn a fl
  | .viadd _ _ | .visub _ _ | .vimul _ _ | .vimin _ _ | .vimax _ _ | .vshl _ _ | .vshr _ _ | .vsra _ _ =>
    ifOn d ints && ifBoth d a (· == ·) && ifBoth d b (· == ·)
  | .vand _ _ | .vor _ _ | .vxor _ _ => ifBoth d a sameW && ifBoth d b sameW
  | .vmix _ _ => ifOn d (· == .i32) && ifOn a (· == .i32) && ifOn b (· == .i32)
  | .viota _ _ | .vbcst _ _ => ifOn d notE8
  | .vcvt _ o => ifOn d (fun f => notE8 f && (f != .ts8 || o.rnd == 0)) && ifOn a notE8
  | .vqnt _ _ => ifOn d (fun f => (f == .f8a || f == .f8b || f == .f4) && dScale) && ifOn a fl
  | .vts8 _ _ => ifOn d (fun f => f == .ts8 && dScale) && ifOn a fl
  | .vdqt _ _ => ifOn d fl && ifOn a notE8
  | .vrsum _ _ | .vscan _ _ =>
    ifOn d (fun f => fl f || f == .i32) && ifOn a (fun f => fl f || f == .i32) && ifBoth d a (fun f g => fl f == fl g)
  | .vrmax _ _ | .vrmin _ _ => ifOn d fl && ifOn a fl
  | .vargmx _ _ => ifOn d ints && ifOn a fl
  | .vmov _ _ | .vspl _ _ => ifBoth d a sameW
  | .vsel _ _ => ifBoth d a sameW && ifBoth d b sameW
  | .vcmpr _ _ => ifBoth d a sameW && ifBoth d b sameW
  | .vexpd _ _ => ifBoth d a sameW && ifBoth d b sameW
  | .vshf _ _ | .vrot _ _ => ifOn d (fun f => decide (8 ≤ f.width)) && ifOn a (fun f => decide (8 ≤ f.width)) && ifBoth d a sameW
  | .vzip _ _ | .vunz _ _ =>
    ifOn d (fun f => decide (8 ≤ f.width)) && ifOn a (fun f => decide (8 ≤ f.width)) &&
      ifOn b (fun f => decide (8 ≤ f.width)) && ifBoth d a sameW && ifBoth d b sameW
  | .vperm _ _ => ifBoth d a sameW && ifOn b ints
  | .vtrn _ _ => ifOn d (fun f => decide (8 ≤ f.width)) && ifBoth d a sameW
  | .vgath _ _ => ifOn d (fun f => decide (8 ≤ f.width)) && ifOn a (· == .i32)
  | .vscat _ _ => ifOn a (fun f => decide (8 ≤ f.width)) && ifOn b (· == .i32)
  | _ => true

end Sys2Proof.Machine
end

