-- ==== Sys2Proof/Machine/Lanes.lean ====
section
/-! DEFINITION. What each vector instruction computes over the lanes of a line (R229 to R256), apart from where its
operands are read and when its results perform. -/

namespace Sys2Proof.Machine

/-- Value of A's lane i, without a block scale. -/
def LaneEnv.av (v : LaneEnv) (i : Nat) : Val := v.fa.decode (v.A i)

/-- Value of B's lane i. -/
def LaneEnv.bv (v : LaneEnv) (i : Nat) : Val := v.fb.decode (v.B i)

/-- Value of D's lane i as a source. -/
def LaneEnv.dv (v : LaneEnv) (i : Nat) : Val := v.fd.decode (v.D i)

/-- The rounding mode of the RND field. -/
def LaneEnv.rnd (v : LaneEnv) : Rnd := Rnd.ofCode v.o.rnd

/-- Round a result with its own flags to D's format (R65, R229). -/
def LaneEnv.deliver (v : LaneEnv) (r : Val × Nat) : Nat × Nat :=
  let q := v.fd.round v.rnd false r.1
  (q.1, q.2 ||| r.2)

/-- VADD (R229). -/
def laneVadd : LineOp := lane2 fun v i => v.deliver (Val.add v.rnd (v.av i) (v.bv i))

/-- VSUB (R229). -/
def laneVsub : LineOp := lane2 fun v i => v.deliver (Val.add v.rnd (v.av i) (v.bv i).neg)

/-- VMUL (R229). -/
def laneVmul : LineOp := lane2 fun v i => v.deliver (Val.mul (v.av i) (v.bv i))

/-- VMIN (R229). -/
def laneVmin : LineOp := lane2 fun v i => v.deliver (Val.minimum (v.av i) (v.bv i), 0)

/-- VMAX (R229). -/
def laneVmax : LineOp := lane2 fun v i => v.deliver (Val.maximum (v.av i) (v.bv i), 0)

/-- VMINN (R229). -/
def laneVminn : LineOp := lane2 fun v i => v.deliver (Val.minimumNumber (v.av i) (v.bv i), 0)

/-- VMAXN (R229). -/
def laneVmaxn : LineOp := lane2 fun v i => v.deliver (Val.maximumNumber (v.av i) (v.bv i), 0)

/-- A·B + c with one rounding to come: an invalid product keeps its NV whatever the addend (R230). -/
def fusedVal (md : Rnd) (a b c : Val) : Val × Nat :=
  let p := Val.mul a b
  let s := Val.add md p.1 c
  (s.1, p.2 ||| s.2)

/-- VFMA (R230): D is read as a source. -/
def laneVfma : LineOp :=
  { lane2 (fun v i => v.deliver (fusedVal v.rnd (v.av i) (v.bv i) (v.dv i))) with readD := fun v => v.lanes v.nD }

/-- VFMS (R230). -/
def laneVfms : LineOp :=
  { lane2 (fun v i => v.deliver (fusedVal v.rnd (v.av i) (v.bv i) (v.dv i).neg)) with readD := fun v => v.lanes v.nD }

/-- VNEG (R231). -/
def laneVneg : LineOp := lane1 fun v i => v.deliver ((v.av i).neg, 0)

/-- VABS (R231). -/
def laneVabs : LineOp := lane1 fun v i => v.deliver ((v.av i).abs, 0)

/-- VDIV (R232, R74). -/
def laneVdiv : LineOp := lane2 fun v i => divLane (v.av i) (v.bv i)

/-- VRCP (R232, R74). -/
def laneVrcp : LineOp := lane1 fun v i => rcpLane (v.av i)

/-- VSQRT (R232, R74). -/
def laneVsqrt : LineOp := lane1 fun v i => sqrtLane (v.av i)

/-- VRSQ (R232, R74). -/
def laneVrsq : LineOp := lane1 fun v i => rsqLane (v.av i)

/-- VEXP2 (R232, R74). -/
def laneVexp2 : LineOp := lane1 fun v i => exp2Lane (v.av i)

/-- VLOG2 (R232, R74). -/
def laneVlog2 : LineOp := lane1 fun v i => log2Lane (v.av i)

/-- VTANH (R232, R74). -/
def laneVtanh : LineOp := lane1 fun v i => tanhLane (v.av i)

/-- A mask result over A's line: inactive lanes keep the old bit, bits beyond the line are 0 (R233). -/
def maskLine (f : LaneEnv → Nat → Bool × Nat) (v : LaneEnv) : LineOut :=
  let bits := (List.range v.nA).foldl
    (fun (z : Nat) i => if (if v.active i then (f v i).1 else v.oldMask.getLsbD i) then z + 2 ^ i else z) 0
  { mask := some (BitVec.ofNat 64 bits), flags := flagsOf ((v.lanes v.nA).map fun i => (i, 0, (f v i).2)) }

/-- A compare into a mask. -/
def cmpOp (f : Val → Val → Bool × Nat) : LineOp :=
  { line := maskLine fun v i => f (v.av i) (v.bv i)
    readA := fun v => v.lanes v.nA
    readB := fun v => v.lanes v.nA }

/-- VCMPEQ (R233). -/
def laneVcmpeq : LineOp := cmpOp fun a b => (a.eqv b, 0)

/-- VCMPLT (R233): a NaN operand gives 0 and NV. -/
def laneVcmplt : LineOp := cmpOp fun a b => if a.isNan || b.isNan then (false, flagNV) else (a.lt b, 0)

/-- VCMPLE (R233). -/
def laneVcmple : LineOp := cmpOp fun a b => if a.isNan || b.isNan then (false, flagNV) else (a.lt b || a.eqv b, 0)

/-- VCMPUN (R233). -/
def laneVcmpun : LineOp := cmpOp fun a b => (a.isNan || b.isNan, 0)

/-- The class bit of a lane's code in its own format (R234). -/
def classBit (f : Fmt) (c : Nat) : Nat :=
  match f.decode c with
  | .nan => 8
  | .inf neg => if neg then 0 else 7
  | .fin neg m _ =>
    if m == 0 then (if neg then 3 else 4)
    else
      let sub := match f.spec with
        | some p => c / 2 ^ p.fbits % 2 ^ p.ebits == 0
        | none => false
      if sub then (if neg then 2 else 5) else (if neg then 1 else 6)

/-- VCLASS (R234): B holds the class set. -/
def laneVclass : LineOp :=
  { line := maskLine fun v i => (v.o.b / 2 ^ classBit v.fa (v.A i) % 2 == 1, 0), readA := fun v => v.lanes v.nA }

/-- VSEL (R235). Of each source it reads the lanes that it selects; a row of B that serves a whole form is read at issue in every
active lane (DEDUCED, notes/assumptions/127.md). -/
def laneVsel : LineOp :=
  { line := perLane fun v i => (if v.sel i then v.A i else v.B i, 0)
    readA := fun v => (v.lanes v.nD).filter v.sel
    readB := fun v => (v.lanes v.nD).filter fun i => !v.sel i }

/-- An integer result with optional saturation; SAT raises OF (R236). -/
def satLane (v : LaneEnv) (z : Int) : Nat × Nat :=
  let w := v.fd.width
  if v.o.imm % 2 == 1 then
    let hi : Int := 2 ^ (w - 1) - 1
    let lo : Int := -(2 ^ (w - 1))
    if hi < z then (wrapBits w hi, flagOF) else if z < lo then (wrapBits w lo, flagOF) else (wrapBits w z, 0)
  else (wrapBits w z, 0)

/-- Signed lane of A. -/
def LaneEnv.ai (v : LaneEnv) (i : Nat) : Int := sgnOf v.fd.width (v.A i)

/-- Signed lane of B. -/
def LaneEnv.bi (v : LaneEnv) (i : Nat) : Int := sgnOf v.fd.width (v.B i)

/-- VIADD (R236). -/
def laneViadd : LineOp := lane2 fun v i => satLane v (v.ai i + v.bi i)

/-- VISUB (R236). -/
def laneVisub : LineOp := lane2 fun v i => satLane v (v.ai i - v.bi i)

/-- VIMUL (R236). -/
def laneVimul : LineOp := lane2 fun v i => satLane v (v.ai i * v.bi i)

/-- VIMIN (R236). -/
def laneVimin : LineOp := lane2 fun v i => (wrapBits v.fd.width (if v.ai i ≤ v.bi i then v.ai i else v.bi i), 0)

/-- VIMAX (R236). -/
def laneVimax : LineOp := lane2 fun v i => (wrapBits v.fd.width (if v.ai i ≤ v.bi i then v.bi i else v.ai i), 0)

/-- VAND (R236). -/
def laneVand : LineOp := lane2 fun v i => (v.A i &&& v.B i, 0)

/-- VOR (R236). -/
def laneVor : LineOp := lane2 fun v i => (v.A i ||| v.B i, 0)

/-- VXOR (R236). -/
def laneVxor : LineOp := lane2 fun v i => (v.A i ^^^ v.B i, 0)

/-- Shift amount of lane i (R237). -/
def shiftAmount (v : LaneEnv) (i : Nat) : Nat := if v.o.func == 0 then v.B i % v.fd.width else v.o.imm % v.fd.width

/-- A shift: B is read with FUNC 0 only. -/
def shiftOp (f : LaneEnv → Nat → Nat → Nat) : LineOp :=
  { line := perLane fun v i => (f v i (shiftAmount v i), 0)
    readA := fun v => v.lanes v.nD
    readB := fun v => if v.o.func == 0 then v.lanes v.nD else [] }

/-- VSHL (R237). -/
def laneVshl : LineOp := shiftOp fun v i s => v.A i * 2 ^ s % 2 ^ v.fd.width

/-- VSHR (R237). -/
def laneVshr : LineOp := shiftOp fun v i s => v.A i / 2 ^ s

/-- VSRA (R237). -/
def laneVsra : LineOp := shiftOp fun v i s => wrapBits v.fd.width (v.ai i / ((2 ^ s : Nat) : Int))

/-- The mixing function of VMIX (R238). -/
def mix32 (a b : Nat) : Nat :=
  let u0 := (a * 0x9E3779B9 + b) % 2 ^ 32
  let u1 := u0 ^^^ (u0 / 2 ^ 15)
  let u2 := u1 * 0x85EBCA6B % 2 ^ 32
  u2 ^^^ (u2 / 2 ^ 13)

/-- VMIX (R238). -/
def laneVmix : LineOp := lane2 fun v i => (mix32 (v.A i) (v.B i), 0)

/-- VIOTA (R239): start + i in D's format. -/
def laneViota : LineOp :=
  { line := perLane fun v i =>
      let z : Int := (v.o.imm + i : Nat)
      if v.fd == .i8 || v.fd == .i32 then (wrapBits v.fd.width z, 0) else v.fd.round .rne false (Val.ofInt z 0) }

/-- VCVT (R240). -/
def laneVcvt : LineOp := lane1 fun v i => v.fd.round v.rnd (v.o.imm % 2 == 1) (v.av i)

/-- VDQT (R241). -/
def laneVdqt : LineOp := lane1 fun v i => v.fd.round v.rnd false (v.aVal i)

/-- One level of the pairwise tree of R72. -/
def treeLevel {α : Type} (f : α → α → α) : List α → List α
  | a :: b :: l => f a b :: treeLevel f l
  | [a] => [a]
  | [] => []

/-- The pairwise tree of R72, at most `k` levels. -/
def treeFold {α : Type} (f : α → α → α) : Nat → List α → List α
  | 0, l => l
  | k + 1, l => if l.length ≤ 1 then l else treeFold f k (treeLevel f l)

/-- Smallest power of two that is at least n, up to 2^9 (R244). -/
def pow2Above (n : Nat) : Nat :=
  ((List.range 10).find? fun k => decide (n ≤ 2 ^ k)).elim 1024 fun k => 2 ^ k

/-- The lanes of A that enter a tree, absent and inactive ones with a filler (R72, R244). -/
def treeLanes {α : Type} (v : LaneEnv) (f : Nat → α) (absent : α) : List α :=
  (List.range (pow2Above v.nA)).map fun i => if decide (i < v.nA) && v.active i then f i else absent

/-- FP32 addition of codes with flags, as the trees and scans use it (R72, R73). -/
def add32 (md : Rnd) (a b : Nat × Nat) : Nat × Nat :=
  let r := Val.add md (Fmt.fp32.decode a.1) (Fmt.fp32.decode b.1)
  let q := round32 md r.1
  (q.1, a.2 ||| b.2 ||| r.2 ||| q.2)

/-- A lane of A widened to FP32 (R72). -/
def LaneEnv.a32 (v : LaneEnv) (i : Nat) : Nat × Nat := ((round32 .rne (v.av i)).1, 0)

/-- The result of a reduction, written into the lane that the step names. -/
def redOut (v : LaneEnv) (code flags : Nat) : LineOut :=
  { lanes := if v.o.imm < v.nD then [(v.o.imm, code, flags)] else [], flags := flags }

/-- VRSUM (R244, R72). -/
def laneVrsum : LineOp :=
  { line := fun v =>
      if v.fa == .i32 then
        let s := treeFold (fun a b => a + b) 9 (treeLanes v (fun i => sgnOf 32 (v.A i)) 0)
        redOut v (wrapBits 32 (s.getD 0 0)) 0
      else
        let s := (treeFold (add32 v.rnd) 9 (treeLanes v v.a32 (0, 0))).getD 0 (0, 0)
        let q := v.fd.round v.rnd false (Fmt.fp32.decode s.1)
        redOut v q.1 (s.2 ||| q.2)
    readA := fun v => v.lanes v.nA }

/-- VRMAX and VRMIN: the selected value rounded to D's format (R244, R72). -/
def redMinMax (f : Val → Val → Val) (absent : Val) : LineOp :=
  { line := fun v =>
      let s := (treeFold f 9 (treeLanes v v.av absent)).getD 0 absent
      let q := v.fd.round .rne false s
      redOut v q.1 q.2
    readA := fun v => v.lanes v.nA }

/-- VRMAX (R244). -/
def laneVrmax : LineOp := redMinMax Val.maximum (.inf true)

/-- VRMIN (R244). -/
def laneVrmin : LineOp := redMinMax Val.minimum (.inf false)

/-- The lane that VARGMX keeps: a NaN ranks above every number, the lower index wins a tie (R72). -/
def argBetter (a b : Val × Nat) : Val × Nat :=
  if a.1.isNan then a else if b.1.isNan then b else if a.1.lt b.1 then b else a

/-- VARGMX (R244, R72). -/
def laneVargmx : LineOp :=
  { line := fun v =>
      let l := (List.range (pow2Above v.nA)).map fun i =>
        (if decide (i < v.nA) && v.active i then v.av i else .inf true, i)
      let any := !(v.lanes v.nA).isEmpty
      let k := if any then ((treeFold argBetter 9 l).getD 0 (.nan, 0)).2 else 0
      redOut v (wrapBits v.fd.width (k : Int)) 0
    readA := fun v => v.lanes v.nA }

/-- One pass of the Kogge-Stone scan at distance d (R73). -/
def scanPass {α : Type} (f : α → α → α) (d : Nat) (x : List α) : List α :=
  (x.take d) ++ List.zipWith f x (x.drop d)

/-- The Kogge-Stone scan of R73, at most `k` passes from distance d. -/
def scanFrom {α : Type} (f : α → α → α) : Nat → Nat → List α → List α
  | 0, _, x => x
  | k + 1, d, x => if d < x.length then scanFrom f k (2 * d) (scanPass f d x) else x

/-- VSCAN (R245, R73). A lane of D beyond A's line reads zero bits of A, which take part in the scan (R219), so it holds
the running total. The flags of every addition of the scan are raised, those at the positions of inactive lanes included
(notes/assumptions/8.md). -/
def laneVscan : LineOp :=
  { line := fun v =>
      let n := Nat.max v.nA v.nD
      if v.fa == .i32 then
        let x := scanFrom (fun a b => a + b) 9 1
          ((List.range n).map fun i => if decide (i < v.nA) && v.active i then sgnOf 32 (v.A i) else 0)
        { lanes := (v.lanes v.nD).map fun i => (i, wrapBits 32 (x.getD i 0), 0) }
      else
        let x := scanFrom (add32 v.rnd) 9 1
          ((List.range n).map fun i => if decide (i < v.nA) && v.active i then v.a32 i else (0, 0))
        let l := (v.lanes v.nD).map fun i =>
          let q := v.fd.round v.rnd false (Fmt.fp32.decode (x.getD i (0, 0)).1)
          (i, q.1, q.2)
        { lanes := l, flags := x.foldl (fun f p => f ||| p.2) (flagsOf l) }
    readA := fun v => v.lanes v.nA }

/-- VMOV (R246). -/
def laneVmov : LineOp := lane1 fun v i => (v.A i, 0)

/-- VBCST (R246): the low w bits of a g register. -/
def laneVbcst : LineOp := { line := perLane fun v _ => (v.g.toNat % 2 ^ v.fd.width, 0) }

/-- VSPL (R246): one lane of A. -/
def laneVspl : LineOp :=
  { line := perLane fun v _ => (v.A v.o.imm, 0)
    readA := fun v => if (v.lanes v.nD).isEmpty then [] else [v.o.imm] }

/-- A permutation of A's lanes: `f v i` is the source lane of lane i. -/
def permOp (f : LaneEnv → Nat → Nat) : LineOp :=
  { line := perLane fun v i => (v.A (f v i), 0), readA := fun v => (v.lanes v.nD).map (f v) }

/-- VPERM (R247): lane u(B[i]) of A. -/
def laneVperm : LineOp :=
  { permOp (fun v i => v.B i) with readB := fun v => v.lanes v.nD }

/-- VSHF (R247): lane i xor k. -/
def laneVshf : LineOp := permOp fun v i => i ^^^ v.o.imm

/-- VROT (R247): lane (i + k) mod n, n the length of D's line. -/
def laneVrot : LineOp := permOp fun v i => (i + v.o.imm) % (if v.nD == 0 then 1 else v.nD)

/-- VZIP (R247). -/
def laneVzip : LineOp :=
  let src (v : LaneEnv) (i : Nat) : Nat := i / 2 + v.o.imm % 2 * (v.nD / 2)
  { line := perLane fun v i => (if i % 2 == 0 then v.A (src v i) else v.B (src v i), 0)
    readA := fun v => ((v.lanes v.nD).filter fun i => i % 2 == 0).map (src v)
    readB := fun v => ((v.lanes v.nD).filter fun i => i % 2 == 1).map (src v) }

/-- VUNZ (R247): lane 2i + h of A's n lanes followed by B's n lanes. -/
def laneVunz : LineOp :=
  let src (v : LaneEnv) (i : Nat) : Nat := 2 * i + v.o.imm % 2
  { line := perLane fun v i => (if src v i < v.nD then v.A (src v i) else v.B (src v i - v.nD), 0)
    readA := fun v => ((v.lanes v.nD).map (src v)).filter fun j => decide (j < v.nD)
    readB := fun v => (((v.lanes v.nD).map (src v)).filter fun j => decide (v.nD ≤ j)).map fun j => j - v.nD }

/-- VEXT (R249): one lane of A, extended to 64 bits. -/
def laneVext : LineOp :=
  { line := fun v =>
      let c := v.A v.o.imm
      { g := some (BitVec.ofNat 64 (if v.o.func == 1 then wrapBits 64 (sgnOf v.fa.width c) else c)) }
    readA := fun v => [v.o.imm] }

/-- Magnitude order of R75: a NaN above every number. `none` is a NaN. -/
def magLt (a b : Val) : Bool := if a.isNan then false else if b.isNan then true else a.abs.lt b.abs

/-- The index that ranks first among candidates in rising order: the lower index wins a tie (R75). -/
def magBest (mag : Nat → Val) (l : List Nat) : Nat :=
  l.foldl (fun best i => if magLt (mag best) (mag i) then i else best) (l.getD 0 0)

/-- The two kept indices of a group of four, in rising order (R75). -/
def keptPair (mag : Nat → Val) : Nat × Nat :=
  let a := magBest mag [0, 1, 2, 3]
  let b := magBest mag ([0, 1, 2, 3].filter fun i => i != a)
  if a < b then (a, b) else (b, a)

/-- VCMPR (R254, R75, R76): kept elements into D, metadata nibbles into B's row. -/
def laneVcmpr : LineOp :=
  { line := fun v =>
      let grp := (v.nA + 3) / 4
      let code (i : Nat) : Nat := if decide (i < v.nA) && v.active i then v.A i else 0
      let mag (i : Nat) : Val := if decide (i < v.nA) && v.active i then v.av i else .fin false 0 0
      let kept (j : Nat) : Nat × Nat := keptPair fun k => mag (4 * j + k)
      let nib (j : Nat) : Nat := if j < grp then (kept j).1 + 4 * (kept j).2 else 0
      { lanes := ((List.range grp).flatMap fun j =>
          [(2 * j, code (4 * j + (kept j).1), 0), (2 * j + 1, code (4 * j + (kept j).2), 0)]).filter
            fun l => decide (l.1 < v.nD)
        bytesB := (List.range ((grp + 1) / 2)).map fun k => { addr := k, val := nib (2 * k) + 16 * nib (2 * k + 1) } }
    readA := fun v => v.lanes v.nA }

/-- VEXPD (R255, R76); B's lanes here are the nibbles of its row. -/
def laneVexpd : LineOp :=
  { line := perLane fun v i =>
      let j := i / 4
      let nib := v.B j
      let k := i % 4
      (if k == nib / 4 % 4 then v.A (2 * j + 1) else if k == nib % 4 then v.A (2 * j) else 0, 0)
    readA := fun v => (v.lanes v.nD).flatMap fun i => [2 * (i / 4), 2 * (i / 4) + 1]
    readB := fun v => (v.lanes v.nD).map fun i => i / 4 }

/-- A lane operation that has no line of its own. -/
def laneNone : LineOp := { line := fun _ => {} }

/-- The lane operation of a vector instruction. -/
def laneOf (i : Instr) : LineOp :=
  match i with
  | .vadd _ _ => laneVadd
  | .vsub _ _ => laneVsub
  | .vmul _ _ => laneVmul
  | .vfma _ _ => laneVfma
  | .vfms _ _ => laneVfms
  | .vneg _ _ => laneVneg
  | .vabs _ _ => laneVabs
  | .vmin _ _ => laneVmin
  | .vmax _ _ => laneVmax
  | .vminn _ _ => laneVminn
  | .vmaxn _ _ => laneVmaxn
  | .vdiv _ _ => laneVdiv
  | .vrcp _ _ => laneVrcp
  | .vsqrt _ _ => laneVsqrt
  | .vrsq _ _ => laneVrsq
  | .vexp2 _ _ => laneVexp2
  | .vlog2 _ _ => laneVlog2
  | .vtanh _ _ => laneVtanh
  | .vcmpeq _ _ => laneVcmpeq
  | .vcmplt _ _ => laneVcmplt
  | .vcmple _ _ => laneVcmple
  | .vcmpun _ _ => laneVcmpun
  | .vsel _ _ => laneVsel
  | .vclass _ _ => laneVclass
  | .viadd _ _ => laneViadd
  | .visub _ _ => laneVisub
  | .vimul _ _ => laneVimul
  | .vand _ _ => laneVand
  | .vor _ _ => laneVor
  | .vxor _ _ => laneVxor
  | .vshl _ _ => laneVshl
  | .vshr _ _ => laneVshr
  | .vsra _ _ => laneVsra
  | .vimin _ _ => laneVimin
  | .vimax _ _ => laneVimax
  | .vmix _ _ => laneVmix
  | .viota _ _ => laneViota
  | .vcvt _ _ => laneVcvt
  | .vdqt _ _ => laneVdqt
  | .vrsum _ _ => laneVrsum
  | .vrmax _ _ => laneVrmax
  | .vrmin _ _ => laneVrmin
  | .vscan _ _ => laneVscan
  | .vargmx _ _ => laneVargmx
  | .vmov _ _ => laneVmov
  | .vbcst _ _ => laneVbcst
  | .vspl _ _ => laneVspl
  | .vperm _ _ => laneVperm
  | .vshf _ _ => laneVshf
  | .vrot _ _ => laneVrot
  | .vzip _ _ => laneVzip
  | .vunz _ _ => laneVunz
  | .vext _ _ => laneVext
  | .vcmpr _ _ => laneVcmpr
  | .vexpd _ _ => laneVexpd
  | _ => laneNone

end Sys2Proof.Machine
end

