-- ==== Sys2Proof/Machine/Vector.lean ====
section
/-! DEFINITION. The vector engine: when instructions read, occupy their units and perform (R218 to R256). -/

namespace Sys2Proof.Machine

/-- The fields of a vector instruction. -/
def vopsOf (i : Instr) : VOps :=
  match i with
  | .vadd _ o | .vsub _ o | .vmul _ o | .vfma _ o | .vfms _ o | .vneg _ o | .vabs _ o | .vmin _ o | .vmax _ o
  | .vminn _ o | .vmaxn _ o | .vdiv _ o | .vrcp _ o | .vsqrt _ o | .vrsq _ o | .vexp2 _ o | .vlog2 _ o | .vtanh _ o
  | .vcmpeq _ o | .vcmplt _ o | .vcmple _ o | .vcmpun _ o | .vsel _ o | .vclass _ o | .viadd _ o | .visub _ o
  | .vimul _ o | .vand _ o | .vor _ o | .vxor _ o | .vshl _ o | .vshr _ o | .vsra _ o | .vimin _ o | .vimax _ o
  | .vmix _ o | .viota _ o | .vcvt _ o | .vqnt _ o | .vdqt _ o | .vts8 _ o | .vrsum _ o | .vrmax _ o | .vrmin _ o
  | .vscan _ o | .vargmx _ o | .vmov _ o | .vbcst _ o | .vspl _ o | .vperm _ o | .vshf _ o | .vrot _ o | .vtrn _ o
  | .vzip _ o | .vunz _ o | .vext _ o | .vld _ o | .vst _ o | .vgath _ o | .vscat _ o | .vcmpr _ o | .vexpd _ o
  | .vmand _ o | .vmor _ o | .vmnot _ o | .vmpop _ o => o
  | _ => {}

/-- An instruction of V's own opcodes (R184). -/
def isVec (i : Instr) : Bool :=
  match i with
  | .vadd _ _ | .vsub _ _ | .vmul _ _ | .vfma _ _ | .vfms _ _ | .vneg _ _ | .vabs _ _ | .vmin _ _ | .vmax _ _
  | .vminn _ _ | .vmaxn _ _ | .vdiv _ _ | .vrcp _ _ | .vsqrt _ _ | .vrsq _ _ | .vexp2 _ _ | .vlog2 _ _ | .vtanh _ _
  | .vcmpeq _ _ | .vcmplt _ _ | .vcmple _ _ | .vcmpun _ _ | .vsel _ _ | .vclass _ _ | .viadd _ _ | .visub _ _
  | .vimul _ _ | .vand _ _ | .vor _ _ | .vxor _ _ | .vshl _ _ | .vshr _ _ | .vsra _ _ | .vimin _ _ | .vimax _ _
  | .vmix _ _ | .viota _ _ | .vcvt _ _ | .vqnt _ _ | .vdqt _ _ | .vts8 _ _ | .vrsum _ _ | .vrmax _ _ | .vrmin _ _
  | .vscan _ _ | .vargmx _ _ | .vmov _ _ | .vbcst _ _ | .vspl _ _ | .vperm _ _ | .vshf _ _ | .vrot _ _ | .vtrn _ _
  | .vzip _ _ | .vunz _ _ | .vext _ _ | .vld _ _ | .vst _ _ | .vgath _ _ | .vscat _ _ | .vcmpr _ _ | .vexpd _ _
  | .vmand _ _ | .vmor _ _ | .vmnot _ _ | .vmpop _ _ => true
  | _ => false

/-- D holds a grid operand (R179). -/
def vGridD (i : Instr) : Bool :=
  match i with
  | .vcmpeq _ _ | .vcmplt _ _ | .vcmple _ _ | .vcmpun _ _ | .vclass _ _ | .vext _ _ | .vst _ _ | .vscat _ _
  | .vmand _ _ | .vmor _ _ | .vmnot _ _ | .vmpop _ _ => false
  | _ => true

/-- A holds a grid operand (R179). -/
def vGridA (i : Instr) : Bool :=
  match i with
  | .viota _ _ | .vbcst _ _ | .vld _ _ | .vmand _ _ | .vmor _ _ | .vmnot _ _ | .vmpop _ _ => false
  | _ => true

/-- B holds a grid operand (R179). -/
def vGridB (i : Instr) : Bool :=
  match i with
  | .vadd _ _ | .vsub _ _ | .vmul _ _ | .vfma _ _ | .vfms _ _ | .vmin _ _ | .vmax _ _ | .vminn _ _ | .vmaxn _ _
  | .vdiv _ _ | .vcmpeq _ _ | .vcmplt _ _ | .vcmple _ _ | .vcmpun _ _ | .vsel _ _ | .viadd _ _ | .visub _ _
  | .vimul _ _ | .vand _ _ | .vor _ _ | .vxor _ _ | .vimin _ _ | .vimax _ _ | .vmix _ _ | .vperm _ _ | .vzip _ _
  | .vunz _ _ | .vcmpr _ _ | .vexpd _ _ | .vscat _ _ => true
  | .vshl _ o | .vshr _ o | .vsra _ o => o.func == 0
  | _ => false

/-- D is read as a source (R230). -/
def vReadsD (i : Instr) : Bool :=
  match i with
  | .vfma _ _ | .vfms _ _ => true
  | _ => false

/-- B is a destination (R254). -/
def vWritesB (i : Instr) : Bool :=
  match i with
  | .vcmpr _ _ => true
  | _ => false

/-- The driving line is A's (R233, R244, R252, R254). -/
def vDriveA (i : Instr) : Bool :=
  match i with
  | .vcmpeq _ _ | .vcmplt _ _ | .vcmple _ _ | .vcmpun _ _ | .vclass _ _ | .vrsum _ _ | .vrmax _ _ | .vrmin _ _
  | .vargmx _ _ | .vscat _ _ | .vst _ _ | .vcmpr _ _ | .vext _ _ => true
  | _ => false

/-- Latency λ of a line result (R229 to R256). -/
def vLatency (i : Instr) : Nat :=
  match i with
  | .vfma _ _ | .vfms _ _ => 5
  | .vrcp _ _ | .vrsq _ _ | .vexp2 _ _ | .vlog2 _ _ => 10
  | .vtanh _ _ => 12
  | .vdiv _ _ | .vsqrt _ _ => 14
  | .vrsum _ _ | .vrmax _ _ | .vrmin _ _ | .vargmx _ _ | .vscan _ _ => 8
  | _ => 4

/-- The event of an occupancy cycle: VHEAVY or VLINE (R228, R425). -/
def vEvent (i : Instr) : Nat :=
  match i with
  | .vfma _ _ | .vfms _ _ | .vdiv _ _ | .vrcp _ _ | .vsqrt _ _ | .vrsq _ _ | .vexp2 _ _ | .vlog2 _ _
  | .vtanh _ _ => 3
  | _ => 2

/-- The units of R222. -/
inductive VUnit where
  | line
  | storage
  | scalar
  deriving DecidableEq, Repr

/-- The unit that an instruction uses (R222). -/
def vUnit (i : Instr) : VUnit :=
  match i with
  | .vld _ _ | .vst _ _ | .vgath _ _ | .vscat _ _ => .storage
  | .vmand _ _ | .vmor _ _ | .vmnot _ _ | .vmpop _ _ | .vext _ _ => .scalar
  | _ => .line

/-- The descriptor of a grid operand. An unconfigured register has no format and reads as zero bits (R218, R227): its
shape stands, its other fields are left at their zeros. -/
def vOperand (t : Tile) (reg : Nat) : TDesc :=
  let d := t.descOf reg
  if t.configured reg then d else { rows := d.rows, cols := d.cols }

/-- The descriptors, mask and scalars that an instruction captures at issue (R216, R224). -/
def vCapture (i : Instr) (t : Tile) : Cap :=
  let o := vopsOf i
  { d := if vGridD i then vOperand t (fieldTile o.d) else {}
    a := if vGridA i then vOperand t (fieldTile o.a) else {}
    b := if vGridB i then vOperand t (fieldTile o.b) else {}
    dOn := vGridD i && t.configured (fieldTile o.d)
    aOn := vGridA i && t.configured (fieldTile o.a)
    bOn := vGridB i && t.configured (fieldTile o.b)
    mask := if o.mask == 0 then 0 else t.maskVal o.mask
    sel := t.maskVal (o.imm % 8)
    g := t.reg .V (o.a % 32) }

/-- Nibble j of a metadata row (R76, R255). -/
def metaNibble (t : Tile) (d : TDesc) (f j : Nat) : Nat :=
  if f % 64 < d.rows then t.gridByte (fieldTile f) (f % 64) (j / 2) / 16 ^ (j % 2) % 16 else 0

/-- The lanes that a line operation sees, its operands in the line fields `fd`, `fa`, `fb`; `bRow` holds a B row that
was read at issue (R221). -/
def vLanes (i : Instr) (t : Tile) (cap : Cap) (o : VOps) (fd fa fb : Nat) (bRow : Option (List Nat)) : LaneEnv :=
  let drive := if vDriveA i then cap.a else cap.d
  let isExpd := match i with
    | .vexpd _ _ => true
    | _ => false
  { o := o, fd := cap.d.format, fa := cap.a.format, fb := cap.b.format
    nD := if vGridD i then lineLen cap.d fd else 0
    nA := if vGridA i then lineLen cap.a fa else 0
    nB := if vGridB i then lineLen cap.b fb else 0
    A := fun k => if vGridA i then t.lane cap.a fa k else 0
    B := fun k =>
      if vGridB i then
        match bRow with
        | some l => l.getD k 0
        | none => if isExpd then metaNibble t cap.b fb k else t.lane cap.b fb k
      else 0
    D := fun k => if vGridD i then t.lane cap.d fd k else 0
    aVal := fun k =>
      if k < lineLen cap.a fa then t.elemValue cap.a (linePos cap.a fa k).1 (linePos cap.a fa k).2 (t.lane cap.a fa k)
      else .fin false 0 0
    active := laneActive o.mask cap.mask drive.w
    sel := fun k => laneActive 1 cap.sel cap.d.w k
    oldMask := t.maskVal (o.d % 8)
    g := cap.g }

/-- A side-file granule that VDQT's active lanes read is stale (R241). -/
def vScaleStale (i : Instr) (t : Tile) (cap : Cap) (v : LaneEnv) (fa : Nat) : Bool :=
  match i with
  | .vdqt _ _ =>
    cap.a.format.scaled && cap.a.scaleOn && (v.lanes v.nD).any fun k =>
      decide (k < v.nA) &&
        (let p := linePos cap.a fa k
         let ko := cap.a.ko p.1 p.2
         !t.sideCur (cap.a.scaleByte ko.1 ko.2))
  | _ => false

/-- Some element that the line reads lies in a stale row (R225). -/
def vLineStale (i : Instr) (t : Tile) (cap : Cap) (v : LaneEnv) (fd fa fb : Nat) (bFixed : Bool) : Bool :=
  let op := laneOf i
  (vGridA i && t.laneStale cap.a fa (op.readA v)) ||
    (vGridB i && !bFixed &&
      (match i with
        | .vexpd _ _ => !(op.readB v).isEmpty && decide (fb % 64 < cap.b.rows) && !t.rowCur (fieldTile fb) (fb % 64)
        | _ => t.laneStale cap.b fb (op.readB v))) ||
    (vReadsD i && t.laneStale cap.d fd (op.readD v)) || vScaleStale i t cap v fa

/-- Stage the lanes of a line as row writes (R225). -/
def stageLanes (t : Tile) (c : Ctx) (at_ : Nat) (d : TDesc) (fd : Nat) (lanes : List (Nat × Nat × Nat)) : Tile :=
  if gridDir fd == 1 then
    let bytes := lanes.flatMap fun l => Tile.elemBytes (linePos d fd l.1).2 d.w l.2.1
    if bytes.isEmpty then t else t.stage c at_ 0 (.grid (fieldTile fd) (fd % 64) .vec bytes)
  else
    lanes.foldl (fun s l =>
      let p := linePos d fd l.1
      s.stage c at_ 0 (.grid (fieldTile fd) p.1 .vec (Tile.elemBytes p.2 d.w l.2.1))) t

/-- Stage everything that a line operation writes, with its flags (R224). -/
def stageOut (i : Instr) (t : Tile) (c : Ctx) (at_ : Nat) (cap : Cap) (o : VOps) (fd fb : Nat) (r : LineOut) : Tile :=
  let t1 := if vGridD i then stageLanes t c at_ cap.d fd r.lanes else t
  let t2 := if vWritesB i && cap.bOn && decide (fb % 64 < cap.b.rows) && !r.bytesB.isEmpty then
      t1.stage c at_ 0 (.grid (fieldTile fb) (fb % 64) .vec r.bytesB) else t1
  let t3 := match r.mask with
    | some m => t2.stage c at_ 0 (.mask (o.d % 8) m)
    | none => t2
  let t4 := match r.g with
    | some v => t3.stage c at_ 0 (.g (o.d % 32) v false)
    | none => t3
  if r.flags == 0 then t4 else t4.stage c at_ 0 (.vflags r.flags)

/-- Traps that a vector instruction can raise at issue, in the order in which the model judges them
(notes/assumptions/12.md): a busy unit (R223), a stale mask, selector, register or descriptor in trap mode (R90, R220),
formats (R227). -/
def vTrap (i : Instr) (t : Tile) (cap : Cap) : Option Nat :=
  let o := vopsOf i
  let e := t.engOf .V
  let busy := match vUnit i with
    | .line => decide (t.tl < e.busyA)
    | .storage => decide (t.tl < e.busyB)
    | .scalar => false
  let selStale := match i with
    | .vsel _ _ => t.maskStale (o.imm % 8)
    | .vmand _ _ | .vmor _ _ => t.maskStale (o.a % 8) || t.maskStale (o.b % 8)
    | .vmnot _ _ | .vmpop _ _ => t.maskStale (o.a % 8)
    | .vbcst _ _ => t.regStale .V (o.a % 32)
    | _ => false
  let descStale :=
    (vGridA i && !t.descCur (fieldTile o.a)) || (vGridB i && !vWritesB i && !t.descCur (fieldTile o.b)) ||
      (vReadsD i && !t.descCur (fieldTile o.d))
  if busy then some trapMiss
  else if t.staleTrap && ((o.mask != 0 && t.maskStale o.mask) || selStale || descStale) then some trapStale
  else if !vFormatsOk i (fmtOn cap.dOn cap.d) (fmtOn cap.aOn cap.a) (fmtOn cap.bOn cap.b) cap.d.scaleOn then
    some trapIllegal
  else none

/-- Occupy a unit for `occ` cycles and charge its event in each (R223, R228). -/
def vOccupy (i : Instr) (t : Tile) (c : Ctx) (occ : Nat) : Tile :=
  let e := t.engOf .V
  match vUnit i with
  | .line => (t.setEng .V { e with busyA := t.tl + occ }).stage c t.tl 2 (.charge (vEvent i) 1 occ)
  | .storage => (t.setEng .V { e with busyB := t.tl + occ }).stage c t.tl 2 (.charge 2 1 occ)
  | .scalar => t.stage c t.tl 2 (.charge 4 1 1)

/-- Occupancy of a line form: the longest line in 128-byte cycles, at least one (R223). -/
def lineOcc (i : Instr) (cap : Cap) (o : VOps) : Nat :=
  let b (g : Bool) (d : TDesc) (f : Nat) : Nat := if g then lineBytes d f else 0
  let m := Nat.max (b (vGridD i) cap.d o.d) (Nat.max (b (vGridA i) cap.a o.a) (b (vGridB i && !vWritesB i) cap.b o.b))
  Nat.max 1 ((m + 127) / 128)

/-- The instruction works on whole tile registers, row by row (R221, R244). -/
def vWhole (i : Instr) : Bool :=
  let o := vopsOf i
  (vGridD i && gridWhole o.d) || (vGridA i && gridWhole o.a)

/-- Rows that a whole-tile form processes (R221, R244). -/
def vRows (i : Instr) (cap : Cap) : Nat := if vGridD i && gridWhole (vopsOf i).d then cap.d.rows else cap.a.rows

/-- Line operations (R224): read at issue, perform at issue + λ + occ − 1; whole-tile forms run row by row. A single row of B is
read once, at issue, for all of them, so that VEXPD reads its nibbles whichever lanes of D are active (DEDUCED,
notes/assumptions/127.md); and a row occupies one cycle, as the reads of A make it, even where a reduction's D is a longer line
(DEDUCED, notes/assumptions/128.md). -/
def vLineIssue (i : Instr) (t : Tile) (c : Ctx) : Tile :=
  let o := vopsOf i
  let cap := vCapture i t
  match vTrap i t cap with
  | some code => t.trap c code
  | none =>
    if vWhole i then
      let bFixed := vGridB i && !gridWhole o.b && !vWritesB i
      let bRow := if bFixed then
          [match i with
            | .vexpd _ _ => (List.range 64).map (metaNibble t cap.b o.b)
            | _ => (List.range 256).map (t.lane cap.b o.b)]
        else []
      let bStale := bFixed && vRows i cap != 0 &&
        (match i with
          | .vexpd _ _ => decide (o.b % 64 < cap.b.rows) && !t.rowCur (fieldTile o.b) (o.b % 64)
          | _ => t.laneStale cap.b o.b ((List.range cap.d.cols).filter (laneActive o.mask cap.mask cap.d.w)))
      if t.staleTrap && bStale then t.trap c trapStale
      else
        let n := vRows i cap
        let t1 := vOccupy i t c (Nat.max 1 n)
        if n == 0 then t1 else t1.stage c t.tl 1 (.job i { cap with rows := bRow } 0)
    else
      let v := vLanes i t cap o o.d o.a o.b none
      if t.staleTrap && vLineStale i t cap v o.d o.a o.b (vWritesB i) then t.trap c trapStale
      else
        let occ := if vUnit i == .scalar then 1 else lineOcc i cap o
        let t1 := vOccupy i t c occ
        stageOut i t1 c (t.tl + vLatency i + occ - 1) cap o o.d o.b ((laneOf i).line v)

/-- Row r of a whole-tile form (R221, R224): read now, perform λ cycles later, then the next row. -/
def vRowJob (i : Instr) (cap : Cap) (r : Nat) (t : Tile) (c : Ctx) : Tile :=
  let o := vopsOf i
  let dWhole := vGridD i && gridWhole o.d
  let fd := if dWhole then rowField o.d r else o.d
  let fa := if vGridA i && gridWhole o.a then rowField o.a r else o.a
  let fb := if vGridB i && gridWhole o.b then rowField o.b r else o.b
  let o' := if dWhole then o else { o with imm := r }
  let v := vLanes i t cap o' fd fa fb cap.rows.head?
  if t.staleTrap && vLineStale i t cap v fd fa fb (!cap.rows.isEmpty || vWritesB i) then
    t.trapAny (Tile.own c) c.iss t.tl trapStale
  else
    let t1 := stageOut i t c (t.tl + vLatency i) cap o' fd fb ((laneOf i).line v)
    if r + 1 < vRows i cap then t1.stage c (t.tl + 1) 1 (.job i cap (r + 1)) else t1

/-- Mask and scalar instructions of unit K (R256). -/
def vMaskIssue (i : Instr) (t : Tile) (c : Ctx) : Tile :=
  let o := vopsOf i
  let cap := vCapture i t
  match vTrap i t cap with
  | some code => t.trap c code
  | none =>
    let a := t.maskVal (o.a % 8)
    let b := t.maskVal (o.b % 8)
    let t1 := vOccupy i t c 1
    match i with
    | .vmand _ _ => t1.stage c (t.tl + 1) 0 (.mask (o.d % 8) (a &&& b))
    | .vmor _ _ => t1.stage c (t.tl + 1) 0 (.mask (o.d % 8) (a ||| b))
    | .vmnot _ _ => t1.stage c (t.tl + 1) 0 (.mask (o.d % 8) (~~~a))
    | .vmpop _ _ =>
      t1.stage c (t.tl + 4) 0
        (.g (o.d % 32) (BitVec.ofNat 64 (((List.range 64).filter fun k => a.getLsbD k).length)) false)
    | _ => t1

/-- The rows of a register as lane codes. -/
def rowCodes (t : Tile) (d : TDesc) (reg r : Nat) : List Nat :=
  (List.range d.cols).map fun k => t.gridElem reg r k d.w

/-- fmax of a quantized format as m · 2^e (R242). -/
def fmaxOf (f : Fmt) : Val :=
  match f with
  | .f8a => .fin false 448 0
  | .f8b => .fin false 57344 0
  | .f4 => .fin false 6 0
  | _ => .fin false 2 0

/-- Smallest s in 0 to 254 with M ≤ fmax · 2^(s − 127), or 254 (R242). -/
def quantScale (m fmax : Val) : Nat :=
  ((List.range 254).find? fun (s : Nat) => !(match fmax with
    | .fin n k e => (Val.fin n k (e + ((s : Nat) : Int) - 127)).lt m
    | .nan => false
    | .inf _ => false)).getD 254

/-- Largest magnitude of values; a NaN wins (R242). -/
def largestMag (l : List Val) : Val := l.foldl (fun m v => if magLt m v then v.abs else m) (.fin false 0 0)

/-- The E8 scale of a block (R242). -/
def blockScale (f : Fmt) (l : List Val) : Nat :=
  let m := largestMag l
  if m.isNan then 255 else if m.isZero then 127 else quantScale m (fmaxOf f)

/-- One quantized code: x / 2^(e − 127) by R65 or R57 (R242, R243). -/
def quantCode (f : Fmt) (md : Rnd) (sat : Bool) (e : Nat) (x : Val) : Nat × Nat :=
  if e == 255 then (0, 0)
  else
    f.round md sat (match x with
      | .fin n m k => .fin n m (k - ((e : Int) - 127))
      | .nan => .nan
      | .inf s => .inf s)

/-- VQNT and VTS8 at issue (R242, R243). With an unconfigured D the instruction reads, writes and raises nothing (R242);
it occupies its unit for one cycle, and a unit that is still busy is the schedule miss of R223. -/
def vQuantIssue (i : Instr) (t : Tile) (c : Ctx) : Tile :=
  let cap := vCapture i t
  if !cap.dOn then (if t.tl < (t.engOf .V).busyA then t.trap c trapMiss else vOccupy i t c 1)
  else
    match vTrap i t cap with
    | some code => t.trap c code
    | none =>
      if cap.aOn && (cap.d.rows != cap.a.rows || cap.d.cols != cap.a.cols) then t.trap c trapIllegal
      else if cap.d.sideOver then t.trap c trapBounds
      else
        let n := cap.d.rows
        let t1 := vOccupy i t c (Nat.max 1 (2 * n))
        if n == 0 then t1 else t1.stage c t.tl 1 (.job i cap 0)

/-- Values of the elements of block (bk, bo) in rows of codes (R63, R82). -/
def blockVals (d : TDesc) (fa : Fmt) (rows : List (List Nat)) (bk bo : Nat) : List Val :=
  (List.range d.rows).flatMap fun r =>
    ((List.range d.cols).filter fun k =>
        (d.ko r k).1 / 2 ^ d.scaleA == bk && (d.ko r k).2 / (32 / 2 ^ d.scaleA) == bo).map fun k =>
      fa.decode ((rows.getD r []).getD k 0)

/-- The end of VQNT and VTS8 (R242, R243): scales from the first pass, codes from the second. -/
def vQuantFinish (i : Instr) (cap : Cap) (t : Tile) (c : Ctx) : Tile :=
  let o := vopsOf i
  let d := cap.d
  let f := d.format
  let n := d.rows
  let p1 := cap.rows.take n
  let p2 := cap.rows.drop n
  let scale (bk bo : Nat) : Nat := blockScale f (blockVals d cap.a.format p1 bk bo)
  let scales := (List.range d.no).flatMap fun bo => (List.range d.nk).map fun bk =>
    ({ addr := d.sslice * 64 + bo * d.nk + bk, val := scale bk bo } : MByte)
  let eOf (r k : Nat) : Nat :=
    let ko := d.ko r k
    (scales.getD (ko.2 / (32 / 2 ^ d.scaleA) * d.nk + ko.1 / 2 ^ d.scaleA) ⟨0, 127, 255⟩).val
  let code (r k : Nat) : Nat × Nat :=
    quantCode f (Rnd.ofCode o.rnd) (o.imm % 2 == 1) (eOf r k) (cap.a.format.decode ((p2.getD r []).getD k 0))
  let perf := t.tl + 5
  let t1 := t.stage c perf 0 (.side scales)
  let t2 := (List.range n).foldl (fun s r =>
    s.stage c perf 0 (.grid (fieldTile o.d) r .vec
      ((List.range d.cols).flatMap fun k => Tile.elemBytes k d.w (code r k).1))) t1
  let fl := (List.range n).foldl (fun z r => (List.range d.cols).foldl (fun y k => y ||| (code r k).2) z) 0
  if fl == 0 then t2 else t2.stage c perf 0 (.vflags fl)

/-- One cycle of VQNT and VTS8: source row r in the first pass, row r − n in the second (R243). -/
def vQuantJob (i : Instr) (cap : Cap) (r : Nat) (t : Tile) (c : Ctx) : Tile :=
  let o := vopsOf i
  let n := cap.d.rows
  let row := if r < n then r else r - n
  let reg := fieldTile o.a
  if t.staleTrap && cap.aOn && !t.rowCur reg row then t.trapAny (Tile.own c) c.iss t.tl trapStale
  else
    let codes := if cap.aOn then rowCodes t cap.a reg row else []
    let cap' := { cap with rows := cap.rows ++ [codes] }
    if r + 1 < 2 * n then t.stage c (t.tl + 1) 1 (.job i cap' (r + 1)) else vQuantFinish i cap' t c

/-- VTRN at issue (R248). The shapes must match whether or not the registers are configured. -/
def vTrnIssue (i : Instr) (t : Tile) (c : Ctx) : Tile :=
  let cap := vCapture i t
  match vTrap i t cap with
  | some code => t.trap c code
  | none =>
    if cap.d.rows != cap.a.cols || cap.d.cols != cap.a.rows then t.trap c trapIllegal
    else
      let n := Nat.max 1 (Nat.max cap.a.rows cap.d.rows)
      let t1 := vOccupy i t c n
      t1.stage c t.tl 1 (.job i cap 0)

/-- One cycle of VTRN: row r of A is read; after the last cycle every row of D is staged (R248). -/
def vTrnJob (i : Instr) (cap : Cap) (r : Nat) (t : Tile) (c : Ctx) : Tile :=
  let o := vopsOf i
  let n := Nat.max 1 (Nat.max cap.a.rows cap.d.rows)
  let reg := fieldTile o.a
  if t.staleTrap && decide (r < cap.a.rows) && !t.rowCur reg r then t.trapAny (Tile.own c) c.iss t.tl trapStale
  else
    let codes := if r < cap.a.rows then rowCodes t cap.a reg r else []
    let rows := cap.rows ++ [codes]
    if r + 1 < n then t.stage c (t.tl + 1) 1 (.job i { cap with rows := rows } (r + 1))
    else
      (List.range cap.d.rows).foldl (fun s q =>
        s.stage c (t.tl + 5) 0 (.grid (fieldTile o.d) q .vec
          ((List.range cap.d.cols).flatMap fun k => Tile.elemBytes k cap.d.w ((rows.getD k []).getD q 0)))) t

/-- Bytes of a line in the scratchpad (R250). -/
def lineSpan (d : TDesc) (f : Nat) : Nat := lineBytes d f

/-- Row fields of a storage instruction: one line, or every row in turn. -/
def vMemFields (f : Nat) (d : TDesc) : List Nat :=
  if gridWhole f then (List.range d.rows).map (rowField f) else [f]

/-- An offset is aligned to the element and the access ends inside the scratchpad (R250, R270). -/
def spanOk (off w n : Nat) : Bool := off % (Nat.max 1 (w / 8)) == 0 && decide (off + n ≤ Config.spmSize)

/-- VLD and VST at issue (R250, R251): every offset is computed and checked, and every bank reserved. An unconfigured register's CUR
is checked for elements of 4 bytes, the FP32 of a descriptor of zeros (DEDUCED, notes/assumptions/126.md). -/
def vMemIssue (i : Instr) (load : Bool) (t : Tile) (c : Ctx) : Tile :=
  let o := vopsOf i
  let cap := vCapture i t
  let sIdx := (if load then o.a else o.d) % 16
  let f := if load then o.d else o.a
  let d := if load then cap.d else cap.a
  match vTrap i t cap with
  | some code => t.trap c code
  | none =>
    if t.staleTrap && t.streamStale sIdx then t.trap c trapStale
    else
      let fields := vMemFields f d
      let offs := Stream.offsets fields.length (t.streamAhead sIdx)
      let pairs := fields.zip offs
      if !pairs.all fun p => spanOk p.2 d.w (lineSpan d p.1) then t.trap c trapBounds
      else
        let n := fields.length
        let occ := if gridWhole f then Nat.max 1 n else Nat.max 1 ((lineSpan d f + 127) / 128)
        let t1 := vOccupy i t c occ
        let base := t.tl + (if load then 1 else 2)
        let t2 := (List.range n).foldl (fun s r =>
          let p := pairs.getD r (0, 0)
          (s.useBanks c (base + r) p.2 (lineSpan d p.1)).stage c (base + r) 2 (.advance sIdx)) t1
        if n == 0 then t2
        else t2.stage c (if load then t.tl + 1 else t.tl) 1 (.job i { cap with offs := offs } 0)

/-- Codes of the active lanes of a line read from the scratchpad at `off`, F4 packed by R53. -/
def spmLane (t : Tile) (off w k : Nat) : Nat :=
  if w == 4 then (t.spmByte (off + k / 2)).toNat / 16 ^ (k % 2) % 16
  else leNat (t.spmBytes (off + k * (w / 8)) (w / 8))

/-- Bytes of the scratchpad that lane k covers. -/
def lanePlace (off w k : Nat) : Nat × Nat := if w == 4 then (off + k / 2, 1) else (off + k * (w / 8), w / 8)

/-- Distinct granules of a list of byte ranges, in lane order. -/
def distinctGranules (l : List (Nat × Nat)) : List Nat :=
  l.foldl (fun acc p => (Tile.granules p.1 p.2).foldl (fun a g => if a.contains g then a else a ++ [g]) acc) []

/-- Row r of VLD at its bank cycle (R251). -/
def vLdJob (i : Instr) (cap : Cap) (r : Nat) (t : Tile) (c : Ctx) : Tile :=
  let o := vopsOf i
  let fd := if gridWhole o.d then rowField o.d r else o.d
  let off := cap.offs.getD r 0
  let w := cap.d.w
  let lanes := (List.range (lineLen cap.d fd)).filter (laneActive o.mask cap.mask w)
  if t.staleTrap && lanes.any fun k => t.spmStale (lanePlace off w k).1 (lanePlace off w k).2 then
    t.trapAny (Tile.own c) c.iss t.tl trapStale
  else
    let moved := (distinctGranules (lanes.map (lanePlace off w))).length
    let t1 := t.charge c.env 1 moved
    let t2 := stageLanes t1 c (t.tl + 3) cap.d fd (lanes.map fun k => (k, spmLane t off w k, 0))
    if r + 1 < cap.offs.length then t2.stage c (t.tl + 1) 1 (.job i cap (r + 1)) else t2

/-- Row r of VST: read now, written two cycles later at its bank cycle (R251). -/
def vStJob (i : Instr) (cap : Cap) (r : Nat) (t : Tile) (c : Ctx) : Tile :=
  let o := vopsOf i
  let fa := if gridWhole o.a then rowField o.a r else o.a
  let off := cap.offs.getD r 0
  let w := cap.a.w
  let lanes := (List.range (lineLen cap.a fa)).filter (laneActive o.mask cap.mask w)
  if t.staleTrap && t.laneStale cap.a fa lanes then t.trapAny (Tile.own c) c.iss t.tl trapStale
  else
    let bytes := lanes.flatMap fun k => (Tile.elemBytes k w (t.lane cap.a fa k)).map fun b => { b with addr := off + b.addr }
    let t1 := if bytes.isEmpty then t else t.stage c (t.tl + 2) 1 (.spm bytes)
    if r + 1 < cap.offs.length then t1.stage c (t.tl + 1) 1 (.job i cap (r + 1)) else t1

/-- The gathered granule count of each bank exceeds two (R253). -/
def bankOverflow (grs : List Nat) : Bool :=
  (List.range 16).any fun b => decide (2 < (grs.filter fun g => g % 16 == b).length)

/-- VGATH and VSCAT at issue (R252, R253). `load` is VGATH. -/
def vIdxIssue (i : Instr) (load : Bool) (t : Tile) (c : Ctx) : Tile :=
  let o := vopsOf i
  let cap := vCapture i t
  let sIdx := (if load then o.b else o.d) % 16
  let fData := if load then o.d else o.a
  let dData := if load then cap.d else cap.a
  let fIdx := if load then o.a else o.b
  let dIdx := if load then cap.a else cap.b
  match vTrap i t cap with
  | some code => t.trap c code
  | none =>
    let w := dData.w
    let z := w / 8
    let lanes := (List.range (lineLen dData fData)).filter fun k =>
      laneActive o.mask cap.mask w k && decide (k < lineLen dIdx fIdx)
    let addr (k : Nat) : Int := ((t.streamAhead sIdx).cur : Int) + sgnOf 32 (t.lane dIdx fIdx k) * z
    let staleSrc := t.laneStale dIdx fIdx lanes || (!load && t.laneStale dData fData lanes) || t.streamStale sIdx
    if t.staleTrap && staleSrc then t.trap c trapStale
    else if lanes.any fun k => decide (addr k < 0) || decide ((Config.spmSize : Int) - z < addr k) then t.trap c trapBounds
    else
      let occ := Nat.max 1 ((Nat.max (lineBytes dData fData) (lineBytes dIdx fIdx) + 127) / 128)
      let t1 := vOccupy i t c occ
      let t2 := (List.range 16).foldl (fun s b => (s.useBank c (t.tl + 1) b).useBank c (t.tl + 2) b) t1
      let t3 := t2.stage c (t.tl + 1) 2 (.advance sIdx)
      t3.stage c (t.tl + 1) 1
        (.job i { cap with offs := lanes.map fun k => (addr k).toNat
                           rows := [lanes, if load then [] else lanes.map (t.lane dData fData)] } 0)

/-- VGATH and VSCAT in their two bank cycles: job 0 at issue + 1, job 1 at issue + 2 (R253). -/
def vIdxJob (i : Instr) (load : Bool) (cap : Cap) (r : Nat) (t : Tile) (c : Ctx) : Tile :=
  let o := vopsOf i
  let d := if load then cap.d else cap.a
  let w := d.w
  let z := w / 8
  let lanes := cap.rows.getD 0 []
  let grs := distinctGranules (cap.offs.map fun a => (a, z))
  /- The cycle in which a granule is served: 0 for the first of its bank in lane order, 1 for the second. -/
  let slot (g : Nat) : Nat := if (grs.filter fun x => x % 16 == g % 16).head? == some g then 0 else 1
  /- What this cycle brings of a lane's element: the bytes of the granules served in it. -/
  let got (a : Nat) : Nat := leNat ((t.spmBytes a z).mapIdx fun k b => if slot ((a + k) / 64) == r then b else 0)
  if r == 0 && bankOverflow grs then t.trapAny (Tile.own c) c.iss t.tl trapBank
  else
    let now := grs.filter fun g => slot g == r
    if load then
      if t.staleTrap && now.any fun g => !t.spmCur g then t.trapAny (Tile.own c) c.iss t.tl trapStale
      else
        let t1 := t.charge c.env 1 now.length
        if r == 0 then t1.stage c (t.tl + 1) 1 (.job i { cap with rows := [lanes, cap.offs.map got] } 1)
        else stageLanes t1 c (t.tl + 3) d o.d
          ((lanes.zip (cap.offs.zip (cap.rows.getD 1 []))).map fun p => (p.1, p.2.2 + got p.2.1, 0))
    else
      let codes := cap.rows.getD 1 []
      let bytes := (cap.offs.zip codes).flatMap fun p =>
        ((List.range z).map fun k => ({ addr := p.1 + k, val := p.2 / 256 ^ k % 256 } : MByte)).filter
          fun b => slot (b.addr / 64) == r
      let t1 := (t.charge c.env 1 now.length).spmWrite bytes
      if r == 0 then t1.stage c (t.tl + 1) 1 (.job i cap 1) else t1

/-- The vector instructions at issue, by the way they use their operands. -/
def vIssue (i : Instr) (t : Tile) (c : Ctx) : Tile :=
  match i with
  | .vqnt _ _ | .vts8 _ _ => vQuantIssue i t c
  | .vtrn _ _ => vTrnIssue i t c
  | .vld _ _ => vMemIssue i true t c
  | .vst _ _ => vMemIssue i false t c
  | .vgath _ _ => vIdxIssue i true t c
  | .vscat _ _ => vIdxIssue i false t c
  | .vmand _ _ | .vmor _ _ | .vmnot _ _ | .vmpop _ _ => vMaskIssue i t c
  | _ => vLineIssue i t c

/-- The later work of a vector instruction. -/
def vJob (i : Instr) (cap : Cap) (r : Nat) (t : Tile) (c : Ctx) : Tile :=
  match i with
  | .vqnt _ _ | .vts8 _ _ => vQuantJob i cap r t c
  | .vtrn _ _ => vTrnJob i cap r t c
  | .vld _ _ => vLdJob i cap r t c
  | .vst _ _ => vStJob i cap r t c
  | .vgath _ _ => vIdxJob i true cap r t c
  | .vscat _ _ => vIdxJob i false cap r t c
  | _ => vRowJob i cap r t c

end Sys2Proof.Machine
end

