-- ==== Sys2Proof/Machine/Matrix.lean ====
section
/-! DEFINITION. The matrix engine (R257 to R273, R68 to R71). -/

namespace Sys2Proof.Machine

/-- Ks, m_c and n_c of the operand formats, or none for a combination outside the table (R68). -/
def mmaShape (a b c : Fmt) : Option (Nat × Nat × Nat) :=
  match c with
  | .fp32 =>
    if (a == .bf16 && b == .bf16) || (a == .fp16 && b == .fp16) then some (16, 8, 8)
    else if a.isF8 && b.isF8 then some (32, 8, 8)
    else if (a == .f4 && b == .f4) || (a == .ts8 && b.isF8) || (a.isF8 && b == .ts8) then some (32, 16, 8)
    else none
  | .i32 => if a == .i8 && b == .i8 then some (32, 8, 8) else none
  | _ => none

/-- One floating k-step (R69): terms as pairs of exact values; the new accumulator code and the flags. -/
def kstepFloat (acc : Nat) (terms : List (Val × Val)) : Nat × Nat :=
  let prods := terms.map fun p => Val.mul p.1 p.2
  let nv := prods.foldl (fun f p => f ||| p.2) 0
  let vals := prods.map fun p => p.1
  if vals.any Val.isNan then (nan32, nv)
  else
    let pinf := vals.any fun v => v == .inf false
    let ninf := vals.any fun v => v == .inf true
    if pinf && ninf then (nan32, flagNV)
    else
      let top : Option Int := vals.foldl (fun m v => match v with
        | .fin _ k e => if k == 0 then m else
            let lg := (Nat.log2 k : Int) + e
            (match m with
              | none => some lg
              | some x => some (if x < lg then lg else x))
        | .nan => m
        | .inf _ => m) none
      let step : Val × Nat :=
        if pinf then (.inf false, 0)
        else if ninf then (.inf true, 0)
        else
          let q : Int := top.getD 0 - 60
          let parts := vals.map fun v => match v with
            | .fin s k e => (s, shiftZ k (e - q), shiftRem k (e - q))
            | .nan => (false, 0, 0)
            | .inf _ => (false, 0, 0)
          let nx := if parts.any fun p => p.2.2 != 0 then flagNX else 0
          let z := parts.foldl (fun (z : Int) p => if p.1 then z - (p.2.1 : Int) else z + (p.2.1 : Int)) 0
          let negZero := !parts.isEmpty && parts.all fun p => p.1 && p.2.1 == 0
          let s : Val := if z == 0 then .fin negZero 0 0 else .fin (decide (z < 0)) z.natAbs q
          let r := round32 .rne s
          (Fmt.fp32.decode r.1, nx ||| r.2)
      let sum := Val.add .rne (Fmt.fp32.decode acc) step.1
      let out := round32 .rne sum.1
      (out.1, step.2 ||| sum.2 ||| out.2)

/-- One I8 k-step (R71). -/
def kstepInt (acc : Nat) (terms : List (Int × Int)) : Nat × Nat :=
  let z := sgnOf 32 acc + terms.foldl (fun s p => s + p.1 * p.2) 0
  if (2 ^ 31 - 1 : Int) < z then (wrapBits 32 (2 ^ 31 - 1), flagOF)
  else if z < -(2 ^ 31 : Int) then (wrapBits 32 (-(2 ^ 31)), flagOF)
  else (wrapBits 32 z, 0)

/-- Storage position of Ta's element (i, l) or Tb's (l, j), by the k coordinate and the other one (R261). -/
def koPos (d : TDesc) (k o : Nat) : Nat × Nat := if d.kaxis then (k, o) else (o, k)

/-- An element with these coordinates is inside the register (R261). -/
def koIn (on : Bool) (d : TDesc) (k o : Nat) : Bool := on && decide (k < d.kext) && decide (o < d.oext)

/-- The pending result of an earlier array instruction for element (i, j) of a register (R263). -/
def pendingAcc (t : Tile) (tc i j : Nat) : Option Nat :=
  t.pend.foldl (fun r p => match p.eff with
    | .grid q row .array bytes =>
      if q == tc && row == i && !t.cancelled tc p.iss p.own.gid then
        (match bytes.filter fun b => b.addr / 4 == j with
          | [] => r
          | l => some (leNat (l.map fun b => BitVec.ofNat 8 b.val)))
      else r
    | _ => r) none

/-- Tb's k position that compressed position p of row i names (R267). -/
def sparseK (t : Tile) (md : TDesc) (mOn : Bool) (tm i p : Nat) : Nat :=
  let nib := if mOn && decide (i < md.rows) then t.gridByte tm i (p / 4) / 16 ^ (p / 2 % 2) % 16 else 0
  4 * (p / 2) + nib / 4 ^ (p % 2) % 4

/-- The array instructions of R264. -/
inductive ArrayOp where
  | mma
  | mmaz
  | mmas (tm : Nat)
  | mmal
  | mrk1 (idx : Nat)
  deriving DecidableEq, Repr

/-- The pairs (k of Ta, k of Tb) that row i of the result multiplies for the positions `ps` of k (R261, R267). -/
def arrayPairs (t : Tile) (op : ArrayOp) (md : TDesc) (mOn : Bool) (i : Nat) (ps : List Nat) : List (Nat × Nat) :=
  match op with
  | .mrk1 idx => [(idx, idx)]
  | .mmas tm => ps.map fun p => (p, sparseK t md mOn tm i p)
  | .mma => ps.map fun p => (p, p)
  | .mmaz => ps.map fun p => (p, p)
  | .mmal => ps.map fun p => (p, p)

/-- Candidate terms of element (i, j) in step s: (k of Ta, k of Tb), both inside their registers (R69, R267). -/
def stepTerms (t : Tile) (op : ArrayOp) (cap : Cap) (md : TDesc) (mOn : Bool) (ks i j s : Nat) : List (Nat × Nat) :=
  (arrayPairs t op md mOn i ((List.range ks).map fun l => s * ks + l)).filter fun p =>
    koIn cap.aOn cap.a p.1 i && koIn cap.bOn cap.b p.2 j

/-- Whether the instruction writes element (i, j) (R264). -/
def arrayWrites (op : ArrayOp) (i j : Nat) : Bool :=
  match op with
  | .mmal => decide (j ≤ i)
  | _ => true

/-- The result of one element with its flags (R264). -/
def arrayElem (t : Tile) (op : ArrayOp) (cap : Cap) (md : TDesc) (mOn : Bool) (ta tb tc ks steps i j : Nat) : Nat × Nat :=
  let int := cap.d.format == .i32
  let start := match op with
    | .mmaz => if int then 0 else 0x80000000
    | _ => (pendingAcc t tc i j).getD (t.gridElem tc i j 32)
  (List.range steps).foldl (fun (a : Nat × Nat) s =>
    let terms := stepTerms t op cap md mOn ks i j s
    let code (d : TDesc) (r k o : Nat) : Nat := t.gridElem r (koPos d k o).1 (koPos d k o).2 d.w
    let out :=
      if int then kstepInt a.1 (terms.map fun p => (sgnOf 8 (code cap.a ta p.1 i), sgnOf 8 (code cap.b tb p.2 j)))
      else kstepFloat a.1 (terms.map fun p =>
        let pa := koPos cap.a p.1 i
        let pb := koPos cap.b p.2 j
        (t.elemValue cap.a pa.1 pa.2 (code cap.a ta p.1 i), t.elemValue cap.b pb.1 pb.2 (code cap.b tb p.2 j)))
    (out.1, a.2 ||| out.2)) (start, 0)

/-- A stale row or side-file granule among what the instruction reads (R263). Ta and Tb are read each on its own extents,
over the k positions of Ta (R261). -/
def arrayStale (t : Tile) (op : ArrayOp) (cap : Cap) (md : TDesc) (mOn : Bool) (ta tb tc : Nat) : Bool :=
  let sideBad (d : TDesc) (k o : Nat) : Bool := d.format.scaled && d.scaleOn && !t.sideCur (d.scaleByte k o)
  let bad (on : Bool) (d : TDesc) (r k o : Nat) : Bool :=
    koIn on d k o && (!t.rowCur r (koPos d k o).1 || sideBad d k o)
  (List.range cap.d.rows).any fun i =>
    let k := if cap.aOn then cap.a.kext else 0
    let ks := (arrayPairs t op md mOn i (List.range k)).filter fun p => decide (p.1 < k)
    (decide (0 < cap.d.cols) && ks.any fun p => bad cap.aOn cap.a ta p.1 i) ||
    (match op with
      | .mmas tm => mOn && decide (i < md.rows) && cap.aOn && decide (i < cap.a.oext) && !t.rowCur tm i
      | _ => false) ||
    (List.range cap.d.cols).any fun j => arrayWrites op i j &&
      ((match op with
          | .mmaz => false
          | _ => (pendingAcc t tc i j).isNone && !t.rowCur tc i) ||
        ks.any fun p => bad cap.bOn cap.b tb p.2 j)

/-- The event of an array cycle (R260, R425). Where R260 names two classes, MF4, and where it names none, MBF (DESIGN CHOICE,
notes/assumptions/129.md). -/
def arrayEvent (aOn bOn : Bool) (a b : Fmt) : Nat :=
  if bOn && b == .ts8 then 7
  else if !aOn then 5
  else if a == .f4 || a == .ts8 then 7
  else if a.isF8 || a == .i8 then 6
  else 5

/-- An array instruction at issue (R262 to R267): everything is captured now and performs at issue + cyc + 6. -/
def arrayIssue (op : ArrayOp) (tc ta tb : Nat) (t : Tile) (c : Ctx) : Tile :=
  let e := t.engOf .M
  let cap : Cap :=
    { d := t.descOf tc, a := t.descOf ta, b := t.descOf tb, dOn := t.configured tc, aOn := t.configured ta
      bOn := t.configured tb }
  let tm := match op with
    | .mmas tm => tm
    | _ => tc
  let md := t.descOf tm
  let mOn := t.configured tm
  let fa := cap.a.format
  let fb := cap.b.format
  let fc := cap.d.format
  let full := cap.aOn && cap.bOn
  let shape := if full then mmaShape fa fb fc else if fc == .fp32 || fc == .i32 then some (1, 8, 8) else none
  let sparseOk := match op with
    | .mmas _ => !(cap.aOn && cap.a.kaxis) &&
        (!full || (fa == .bf16 && fb == .bf16) || (fa == .fp16 && fb == .fp16) || (fa.isF8 && fb.isF8))
    | _ => true
  let steps (ks : Nat) : Nat := match op with
    | .mrk1 _ => 1
    | _ => if full then Nat.max 1 ((cap.a.kext + ks - 1) / ks) else 1
  if decide (t.tl < e.busyA) then t.trap c trapMiss
  else if t.staleTrap && !(t.descCur tc && t.descCur ta && t.descCur tb && t.descCur tm) then t.trap c trapStale
  else if !cap.dOn then
    (t.setEng .M { e with busyA := t.tl + 1 }).stage c t.tl 2 (.charge (arrayEvent cap.aOn cap.bOn fa fb) 1 1)
  else
    match shape with
    | none => t.trap c trapIllegal
    | some (ks, mc, nc) =>
      if !sparseOk then t.trap c trapIllegal
      else if t.staleTrap && arrayStale t op cap md mOn ta tb tc then t.trap c trapStale
      else
        let cyc := Nat.max 1 ((cap.d.rows + mc - 1) / mc) * Nat.max 1 ((cap.d.cols + nc - 1) / nc) * steps ks
        let perf := t.tl + cyc + 6
        let elem (i j : Nat) : Nat × Nat := arrayElem t op cap md mOn ta tb tc ks (steps ks) i j
        let cols (i : Nat) : List Nat := (List.range cap.d.cols).filter (arrayWrites op i)
        let t1 := (t.setEng .M { e with busyA := t.tl + cyc }).stage c t.tl 2
          (.charge (arrayEvent cap.aOn cap.bOn fa fb) 1 cyc)
        let t2 := (List.range cap.d.rows).foldl (fun s i =>
          s.stage c perf 0 (.grid tc i .array ((cols i).flatMap fun j => Tile.elemBytes j 32 (elem i j).1))) t1
        let fl := (List.range cap.d.rows).foldl (fun z i => (cols i).foldl (fun y j => y ||| (elem i j).2) z) 0
        if fl == 0 then t2 else t2.stage c perf 0 (.mflags fl)

/-- Occupy the transfer unit and charge the issue (R257, R260). -/
def xferOccupy (t : Tile) (c : Ctx) (occ : Nat) : Tile :=
  (t.setEng .M { t.engOf .M with busyB := t.tl + occ }).charge c.env 0 1

/-- The transfer unit is busy, or a descriptor or stream that the instruction reads is stale in trap mode. -/
def xferTrap (t : Tile) (regs streams : List Nat) : Option Nat :=
  if decide (t.tl < (t.engOf .M).busyB) then some trapMiss
  else if t.staleTrap && ((regs.any fun r => !t.descCur r) || streams.any fun s => t.streamStale s) then some trapStale
  else none

/-- LDT at issue (R270). When a row's offset fails, nothing moves and the unit is occupied all the same. -/
def ldtIssue (i : Instr) (tr s : Nat) (t : Tile) (c : Ctx) : Tile :=
  match xferTrap t [tr] [s] with
  | some code => t.trap c code
  | none =>
    let d := t.descOf tr
    let st := t.streamAhead s
    if !t.configured tr then xferOccupy t c 1
    else
      let nd := { d with fmt := st.fmt, scaleOn := st.scaleOn, scaleA := st.scaleA }
      if nd.illegal then t.trap c trapIllegal
      else if nd.sideOver then t.trap c trapBounds
      else
        let l := (nd.cols * nd.w + 7) / 8
        let offs := Stream.offsets d.rows st
        let t1 := xferOccupy t c d.rows
        if !offs.all fun o => spanOk o nd.w l then t1.trap c trapBounds
        else
          let t2 := (t1.stage c t.tl 2 (.tdesc tr nd)).stage c t.tl 2 (.epoch tr)
          let t3 := (List.range d.rows).foldl (fun q r =>
            (q.useBanks c (t.tl + 1 + r) (offs.getD r 0) l).stage c (t.tl + 1 + r) 2 (.advance s)) t2
          t3.stage c (t.tl + 1) 1 (.job i { d := nd, offs := offs } 0)

/-- Row r of LDT at its bank cycle: L bytes from the scratchpad and the rest of the row zero (R270). -/
def ldtJob (i : Instr) (tr : Nat) (cap : Cap) (r : Nat) (t : Tile) (c : Ctx) : Tile :=
  let l := (cap.d.cols * cap.d.w + 7) / 8
  let off := cap.offs.getD r 0
  if t.staleTrap && t.spmStale off l then t.trapAny (Tile.own c) c.iss t.tl trapStale
  else
    let bytes := (List.range 128).map fun k =>
      ({ addr := k, val := if k < l then (t.spmByte (off + k)).toNat else 0 } : MByte)
    let t1 := (t.charge c.env 1 (Tile.granules off l).length).stage c (t.tl + 3) 0 (.grid tr r .xfer bytes)
    if r + 1 < cap.offs.length then t1.stage c (t.tl + 1) 1 (.job i cap (r + 1)) else t1

/-- STT at issue (R271). -/
def sttIssue (i : Instr) (tr s rnd : Nat) (t : Tile) (c : Ctx) : Tile :=
  match xferTrap t [tr] [s] with
  | some code => t.trap c code
  | none =>
    let d := t.descOf tr
    let st := t.streamAhead s
    let f := (Fmt.ofCode st.fmt).getD .fp32
    if f == .e8 || (f == .ts8 && rnd != 0) then t.trap c trapIllegal
    else if !t.configured tr then xferOccupy t c 1
    else
      let l := (d.cols * f.width + 7) / 8
      let offs := Stream.offsets d.rows st
      if !offs.all fun o => spanOk o f.width l then t.trap c trapBounds
      else
        let t1 := xferOccupy t c d.rows
        let t2 := (List.range d.rows).foldl (fun q r =>
          (q.useBanks c (t.tl + 2 + r) (offs.getD r 0) l).stage c (t.tl + 2 + r) 2 (.advance s)) t1
        t2.stage c t.tl 1 (.job i { d := d, b := { fmt := st.fmt }, offs := offs } 0)

/-- Row r of STT: read and converted now, written at its bank cycle two cycles later (R271). -/
def sttJob (i : Instr) (tr rnd : Nat) (sat : Bool) (cap : Cap) (r : Nat) (t : Tile) (c : Ctx) : Tile :=
  let d := cap.d
  let f := cap.b.format
  let w := f.width
  let off := cap.offs.getD r 0
  let sideBad := d.format.scaled && d.scaleOn &&
    (List.range d.cols).any fun k => !t.sideCur (d.scaleByte (d.ko r k).1 (d.ko r k).2)
  if t.staleTrap && (!t.rowCur tr r || sideBad) then t.trapAny (Tile.own c) c.iss t.tl trapStale
  else
    let res (k : Nat) : Nat × Nat :=
      f.round (Rnd.ofCode rnd) sat (t.elemValue d r k (t.gridElem tr r k d.w))
    /- A final F4 byte with one element has its upper nibble written as 0 (R271). -/
    let last := if w == 4 && d.cols % 2 == 1 then Tile.elemBytes d.cols 4 0 else []
    let bytes := (((List.range d.cols).flatMap fun k => Tile.elemBytes k w (res k).1) ++ last).map fun b =>
      { b with addr := off + b.addr }
    let fl := (List.range d.cols).foldl (fun z k => z ||| (res k).2) cap.flags
    let t1 := t.stage c (t.tl + 2) 1 (.spm bytes)
    if r + 1 < cap.offs.length then t1.stage c (t.tl + 1) 1 (.job i { cap with flags := fl } (r + 1))
    else if fl == 0 then t1 else t1.stage c (t.tl + 2) 0 (.mflags fl)

/-- LDSC at issue (R272). -/
def ldscIssue (i : Instr) (tr s : Nat) (t : Tile) (c : Ctx) : Tile :=
  match xferTrap t [tr] [s] with
  | some code => t.trap c code
  | none =>
    let d := t.descOf tr
    let st := t.streamOf s
    if !t.configured tr then xferOccupy t c 1
    else if !d.scaleOn then t.trap c trapIllegal
    else
      let offs := (List.range d.no).map fun (bo : Nat) =>
        wrapBits 20 ((st.scaleBase : Int) + st.cur - st.base + ((bo : Nat) : Int) * st.scaleStride)
      if d.sideOver || offs.any fun o => decide (Config.spmSize < o + d.nk) then t.trap c trapBounds
      else
        let t1 := xferOccupy t c (Nat.max 1 d.no)
        let t2 := (List.range d.no).foldl (fun q k => q.useBanks c (t.tl + 1 + k) (offs.getD k 0) d.nk) t1
        if d.no == 0 then t2 else t2.stage c (t.tl + 1) 1 (.job i { d := d, offs := offs } 0)

/-- Scale row bo of LDSC at its bank cycle (R272). -/
def ldscJob (i : Instr) (cap : Cap) (bo : Nat) (t : Tile) (c : Ctx) : Tile :=
  let d := cap.d
  let off := cap.offs.getD bo 0
  if t.staleTrap && t.spmStale off d.nk then t.trapAny (Tile.own c) c.iss t.tl trapStale
  else
    let bytes := (List.range d.nk).map fun k =>
      ({ addr := d.sslice * 64 + bo * d.nk + k, val := (t.spmByte (off + k)).toNat } : MByte)
    let t1 := (t.charge c.env 1 (Tile.granules off d.nk).length).stage c (t.tl + 3) 0 (.side bytes)
    if bo + 1 < cap.offs.length then t1.stage c (t.tl + 1) 1 (.job i cap (bo + 1)) else t1

/-- TZRO at issue (R273). -/
def tzroIssue (tc : Nat) (t : Tile) (c : Ctx) : Tile :=
  match xferTrap t [] [] with
  | some code => t.trap c code
  | none => (xferOccupy t c 1).stage c t.tl 2 (.epoch tc)

/-- TCPY at issue (R273). -/
def tcpyIssue (i : Instr) (tc ta : Nat) (t : Tile) (c : Ctx) : Tile :=
  match xferTrap t [ta] [] with
  | some code => t.trap c code
  | none =>
    let d := t.descOf ta
    let rows := if t.configured ta then d.rows else 0
    let t1 := xferOccupy t c (Nat.max 1 rows)
    if tc == ta then t1
    else
      let nd := if rows == 0 then {} else d
      let t2 := (t1.stage c t.tl 2 (.tdesc tc nd)).stage c t.tl 2 (.epoch tc)
      if rows == 0 then t2 else t2.stage c t.tl 1 (.job i { d := d } 0)

/-- Row r of TCPY: read now, written two cycles later (R273). -/
def tcpyJob (i : Instr) (tc ta : Nat) (cap : Cap) (r : Nat) (t : Tile) (c : Ctx) : Tile :=
  if t.staleTrap && !t.rowCur ta r then t.trapAny (Tile.own c) c.iss t.tl trapStale
  else
    let bytes := (List.range 128).map fun k => ({ addr := k, val := t.gridByte ta r k } : MByte)
    let t1 := t.stage c (t.tl + 2) 0 (.grid tc r .xfer bytes)
    if r + 1 < cap.d.rows then t1.stage c (t.tl + 1) 1 (.job i cap (r + 1)) else t1

/-- The later work of a transfer instruction. -/
def mJob (i : Instr) (cap : Cap) (r : Nat) (t : Tile) (c : Ctx) : Tile :=
  match i with
  | .ldt _ tr _ => ldtJob i tr cap r t c
  | .stt _ tr _ sat rnd => sttJob i tr rnd sat cap r t c
  | .ldsc _ _ _ => ldscJob i cap r t c
  | .tcpy _ tc ta => tcpyJob i tc ta cap r t c
  | _ => t

end Sys2Proof.Machine
end

