-- ==== Sys2Proof/Machine/Plane.lean ====
section
/-! DEFINITION. The stream-plane engine: routes, arrival cycles, links and the three sends (R22, R274 to R279). -/

namespace Sys2Proof.Machine

/-- Declared seams between two coordinates of one axis. -/
def seamsBetween (l : List Nat) (a b : Nat) : Nat :=
  (l.filter fun n => decide (Nat.min a b < n) && decide (n ≤ Nat.max a b)).length

/-- Arrival cycle of a word that (x, y) sends at local cycle t with route (dx, dy) (R22). -/
def arrival (env : Env) (x y t : Nat) (dx dy : Int) : Nat :=
  let nIn := (if dx < 0 then dx.natAbs else 0) + (if dy < 0 then dy.natAbs else 0)
  let sIn := (if dx < 0 then seamsBetween env.seamC ((x : Int) + dx).toNat x else 0) +
    (if dy < 0 then seamsBetween env.seamR ((y : Int) + dy).toNat y else 0)
  t + 2 + 2 * (Config.hopCost * nIn + (Config.seamCost - Config.hopCost) * sIn)

/-- One hop: its direction (0 +x, 1 −x, 2 +y, 3 −y), the next tile, and whether it crosses a declared seam. -/
def hopFrom (env : Env) (x y dir : Nat) : Nat × Nat × Bool :=
  match dir with
  | 0 => (x + 1, y, env.seamC.contains (x + 1))
  | 1 => (x - 1, y, env.seamC.contains x)
  | 2 => (x, y + 1, env.seamR.contains (y + 1))
  | _ => (x, y - 1, env.seamR.contains y)

/-- Link entries of `n` hops in one direction from pitch cycle p: (x, y, direction, entry cycle, seam) (R276). -/
def hopsAlong (env : Env) (dir : Nat) : Nat → Nat → Nat → Nat → List (Nat × Nat × Nat × Nat × Bool)
  | 0, _, _, _ => []
  | n + 1, x, y, p =>
    let nx := hopFrom env x y dir
    (x, y, dir, p, nx.2.2) ::
      hopsAlong env dir n nx.1 nx.2.1 (p + if nx.2.2 then Config.seamCost else Config.hopCost)

/-- The pitch cycle after a list of hops. -/
def afterHops (p : Nat) (l : List (Nat × Nat × Nat × Nat × Bool)) : Nat :=
  l.foldl (fun q h => q + if h.2.2.2.2 then Config.seamCost else Config.hopCost) p

/-- Direction of a signed component: 0 and 1 along x, 2 and 3 along y. -/
def dirOf (base : Nat) (v : Int) : Nat := if v < 0 then base + 1 else base

/-- Links of the row part of a route. -/
def rowHops (env : Env) (x y p : Nat) (dx : Int) : List (Nat × Nat × Nat × Nat × Bool) :=
  hopsAlong env (dirOf 0 dx) dx.natAbs x y p

/-- Links of the column part of a route, from tile (x, y) at pitch cycle p. -/
def colHops (env : Env) (x y p : Nat) (dy : Int) : List (Nat × Nat × Nat × Nat × Bool) :=
  hopsAlong env (dirOf 2 dy) dy.natAbs x y p

/-- Signed coordinate of a step k along a component. -/
def stepTo (x : Nat) (d : Int) (k : Nat) : Nat := if d < 0 then x - k else x + k

/-- The links of a beat and the landing pitch cycle of each destination: a path for SEND and SENDL, the tree of a
rectangle for SENDM (R276). -/
def beatLinks (env : Env) (multi : Bool) (x y p : Nat) (dx dy : Int) :
    List (Nat × Nat × Nat × Nat × Bool) × List (Nat × Nat × Nat) :=
  let row := rowHops env x y p dx
  if multi then
    let cols := (List.range (dx.natAbs + 1)).map fun k =>
      let x' := stepTo x dx k
      let p' := afterHops p (row.take k)
      (x', p', colHops env x' y p' dy)
    (row ++ cols.flatMap fun q => q.2.2,
      cols.flatMap fun q => (List.range (dy.natAbs + 1)).map fun k =>
        (q.1, stepTo y dy k, afterHops q.2.1 (q.2.2.take k) + 1))
  else
    let p' := afterHops p row
    let col := colHops env (stepTo x dx dx.natAbs) y p' dy
    (row ++ col, [(stepTo x dx dx.natAbs, stepTo y dy dy.natAbs, afterHops p' col + 1)])

/-- The far tile of a route lies inside the pitch (R274). -/
def routeInside (env : Env) (x y : Nat) (dx dy : Int) : Bool :=
  decide (0 ≤ (x : Int) + dx) && decide ((x : Int) + dx < env.w) && decide (0 ≤ (y : Int) + dy) &&
    decide ((y : Int) + dy < env.h)

/-- Emit the links of one beat (R276). -/
def emitLinks (t : Tile) (c : Ctx) (lk : List (Nat × Nat × Nat × Nat × Bool) × List (Nat × Nat × Nat)) : Tile :=
  { t with
    out := t.out ++ (lk.1.map fun h => Sig.link h.1 h.2.1 h.2.2.1 h.2.2.2.1 (Tile.own c)) ++
      lk.2.map fun d => Sig.link d.1 d.2.1 4 d.2.2 (Tile.own c) }

/-- Destinations of a send with their route components. -/
def sendDests (multi : Bool) (dx dy : Int) : List (Int × Int) :=
  if multi then
    (List.range (dx.natAbs + 1)).flatMap fun (i : Nat) => (List.range (dy.natAbs + 1)).map fun (j : Nat) =>
      ((if dx < 0 then -(i : Int) else i), (if dy < 0 then -(j : Int) else j))
  else [(dx, dy)]

/-- The charges of a beat of `units` times 64 B for its hops, with their seams: each in the pitch cycle in which the beat enters
the link, by the sender's local time (R260, R276, R428; notes/assumptions/119.md). -/
def chargeBeat (t : Tile) (c : Ctx) (hops : List (Nat × Nat × Nat × Nat × Bool)) (units : Nat) : Tile :=
  let off := c.env.off t.x t.y
  let all := hops.flatMap fun h => (8, h.2.2.2.1) :: if h.2.2.2.2 then [(10, h.2.2.2.1)] else []
  all.foldl (fun q x => q.stage c (x.2 - off) 2 (.charge x.1 units 1)) t

/-- A beat of a send finds a stale granule in trap mode (R278). -/
def beatStale (off0 len b : Nat) (t : Tile) : Bool :=
  t.staleTrap && t.spmStale (off0 + 512 * b) (64 * Nat.min 8 (len - 8 * b))

/-- SEND and SENDM at issue (R274, R275, R278). -/
def sendIssue (i : Instr) (dx dy : Int) (s off len : Nat) (t : Tile) (c : Ctx) : Tile :=
  let e := t.engOf .N
  let st := t.streamAhead s
  if decide (t.tl < e.busyA) then t.trap c trapMiss
  else if t.staleTrap && t.streamStale s then t.trap c trapStale
  else if !routeInside c.env t.x t.y dx dy || off % 64 != 0 || decide (Config.spmSize < off + 64 * len) ||
      st.cur % 64 != 0 || decide (Config.spmSize < st.cur + 64 * len) then t.trap c trapBounds
  else
    let beats := (len + 7) / 8
    let t1 := t.setEng .N { e with busyA := t.tl + beats }
    let t2 := (List.range beats).foldl (fun q b =>
      q.useBanks c (t.tl + b) (st.cur + 512 * b) (64 * Nat.min 8 (len - 8 * b))) t1
    let t3 := t2.stage c t.tl 2 (.advance s)
    (t3.charge c.env 0 1).stage c t.tl 1 (.job i { offs := [st.cur] } 0)

/-- Beat b of a send: its granules are read now and travel to every destination (R275, R276). -/
def sendJob (i : Instr) (multi : Bool) (dx dy : Int) (off len : Nat) (cap : Cap) (b : Nat) (t : Tile) (c : Ctx) : Tile :=
  let src := cap.offs.getD 0 0 + 512 * b
  let n := Nat.min 8 (len - 8 * b)
  if beatStale (cap.offs.getD 0 0) len b t then t.trapAny (Tile.own c) c.iss t.tl trapStale
  else
    let lk := beatLinks c.env multi t.x t.y (t.tl + c.env.off t.x t.y + 1) dx dy
    let t1 := chargeBeat (emitLinks (t.charge c.env 1 n) c lk) c lk.1 n
    let words := (sendDests multi dx dy).flatMap fun d => (List.range n).map fun k =>
      Sig.word ((t.x : Int) + d.1).toNat ((t.y : Int) + d.2).toNat (arrival c.env t.x t.y t.tl d.1 d.2) (Tile.own c)
        (.granule (off + 512 * b + 64 * k) ((t.spmBytes (src + 64 * k) 64).map BitVec.toNat))
    let t2 := { t1 with out := t1.out ++ words }
    if 8 * (b + 1) < len then t2.stage c (t.tl + 1) 1 (.job i cap (b + 1)) else t2

/-- SENDL at issue (R279): the source line is read now and sent as one beat. -/
def sendlIssue (dx dy : Int) (dst src : Nat) (t : Tile) (c : Ctx) : Tile :=
  let e := t.engOf .N
  let sr := fieldTile src
  let d := t.descOf sr
  let n := lineLen d src
  if decide (t.tl < e.busyA) then t.trap c trapMiss
  else if !routeInside c.env t.x t.y dx dy then t.trap c trapBounds
  else if t.staleTrap && (!t.descCur sr || t.laneStale d src (List.range n)) then t.trap c trapStale
  else
    let t1 := t.setEng .N { e with busyA := t.tl + 1 }
    let lk := beatLinks c.env false t.x t.y (t.tl + c.env.off t.x t.y + 1) dx dy
    let t2 := chargeBeat (emitLinks (t1.charge c.env 0 1) c lk) c lk.1 2
    { t2 with
      out := t2.out ++ [Sig.word ((t.x : Int) + dx).toNat ((t.y : Int) + dy).toNat (arrival c.env t.x t.y t.tl dx dy)
        (Tile.own c) (.line dst d.w (t.configured sr) ((List.range n).map (t.lane d src)))] }

/-- A landing word takes effect in its tile (R275, R279). -/
def landWord (o : Own) (w : PlaneWord) (t : Tile) : Tile :=
  match w with
  | .granule off data =>
    t.spmWrite ((List.range 64).map fun k => { addr := off + k, val := data.getD k 0 })
  | .line dst sw on codes =>
    let r := fieldTile dst
    let d := t.descOf r
    if !t.configured r then t
    else if on && d.w != sw then
      t.record { tau := t.tl, eng := .N, code := trapIllegal, info := o.off, off := o.off, word := o.off }
    else
      (List.range (lineLen d dst)).foldl (fun q k =>
        let p := linePos d dst k
        q.gridWrite r p.1 (Tile.elemBytes p.2 d.w (codes.getD k 0))) t

/-- A beat that will find a stale granule in trap mode at its read of this cycle is trapped before anything lands in it
(R37, R278). -/
def trapBeat (t : Tile) (p : Pend) : Tile :=
  match p.eff with
  | .job (.send _ _ _ _ _ len) cap b => if beatStale (cap.offs.getD 0 0) len b t then t.trapAny p.own p.iss t.tl trapStale else t
  | .job (.sendm _ _ _ _ _ len) cap b => if beatStale (cap.offs.getD 0 0) len b t then t.trapAny p.own p.iss t.tl trapStale else t
  | _ => t

/-- The later work of a send. -/
def nJob (i : Instr) (cap : Cap) (r : Nat) (t : Tile) (c : Ctx) : Tile :=
  match i with
  | .send _ dx dy _ off len => sendJob i false dx dy off len cap r t c
  | .sendm _ dx dy _ off len => sendJob i true dx dy off len cap r t c
  | _ => t

end Sys2Proof.Machine
end

