-- ==== Sys2Proof/Machine/Control.lean ====
section
/-! DEFINITION. The control engine's tile-level operations, and their X forms: the issue of a group's instruction,
integer arithmetic, scratchpad access, control transfer, loop, stream and tile-register configuration (R187 to R217),
and the system instructions that act on one tile (R304 to R312). -/

namespace Sys2Proof.Machine

/-- Stage the dependency bits of word 0: tokens are taken and put at issue and count from the next cycle (R16, R17). -/
def stageTokens (p : Pre) (t : Tile) (c : Ctx) : Tile :=
  let n := t.now c
  let t1 := if p.wp then t.stage c n 2 (.tokTake c.eng true) else t
  let t2 := if p.wn then t1.stage c n 2 (.tokTake c.eng false) else t1
  let t3 := if p.sp then t2.stage c n 2 (.tokPut c.eng true) else t2
  if p.sn then t3.stage c n 2 (.tokPut c.eng false) else t3

/-- Last word offset of the instruction. -/
def Ctx.last (c : Ctx) : Nat := c.pc + c.len - 1

/-- Issue of one instruction: its dependency bits, its body, and, when it closes the group without a transfer of its
own, the step to the next group with the loop end check (R196). -/
def issue (p : Pre) (t : Tile) (c : Ctx) (body : Tile → Tile) : Tile :=
  let t1 := stageTokens p t c
  let t2 := if p.s then t1.stage c (t.now c) 2 (.goto c.eng none c.last) else t1
  body t2

/-- Issue of an instruction that decides the next group itself. -/
def issueCtl (p : Pre) (t : Tile) (c : Ctx) (body : Tile → Tile) : Tile := body (stageTokens p t c)

/-- A transfer to a word offset (R197, R207). -/
def transfer (t : Tile) (c : Ctx) (k : Nat) : Tile := t.stage c (t.now c) 2 (.goto c.eng (some k) c.last)

/-- The step past a branch that is not taken: the end check runs (R197). -/
def fallThrough (t : Tile) (c : Ctx) : Tile := t.stage c (t.now c) 2 (.goto c.eng none c.last)

/-- A word offset starts a group of the stream (R163). -/
def isStart (c : Ctx) (k : Int) : Bool := decide (0 ≤ k) && (c.env.codeOf c.eng).starts.contains k.toNat

/-- CTL: one event 0 (R191, R425). -/
def chargeCtl (t : Tile) (c : Ctx) : Tile := t.charge c.env 0 1

/-- Register operations of format CR and its kin: read, compute, write at issue + 1 (R187, R199). -/
def regOp (t : Tile) (c : Ctx) (srcs : List Nat) (gd : Nat) (f : Tile → Word) : Tile :=
  t.withRegs c srcs fun q => (chargeCtl q c).result c gd 1 (f q)

/-- Two-source form of `regOp`. -/
def regOp2 (t : Tile) (c : Ctx) (gd ga gb : Nat) (f : Word → Word → Word) : Tile :=
  regOp t c [ga, gb] gd fun q => f (q.reg c.eng ga) (q.reg c.eng gb)

/-- One-source form of `regOp`. -/
def regOp1 (t : Tile) (c : Ctx) (gd ga : Nat) (f : Word → Word) : Tile :=
  regOp t c [ga] gd fun q => f (q.reg c.eng ga)

/-- An integer wrapped into a register (wrap(·, 64) of R10). -/
def wrap64 (z : Int) : Word := BitVec.ofInt 64 z

/-- 1 when the comparison holds and 0 when it does not (R199). -/
def boolWord (b : Bool) : Word := if b then 1 else 0

/-- Signed quotient (R60). -/
def divS (a b : Word) : Word :=
  if b == 0 then BitVec.allOnes 64
  else wrap64 (a.toInt.tdiv b.toInt)

/-- Unsigned quotient (R60). -/
def divU (a b : Word) : Word := if b == 0 then BitVec.allOnes 64 else BitVec.ofNat 64 (a.toNat / b.toNat)

/-- Signed remainder (R60). -/
def remS (a b : Word) : Word := if b == 0 then a else wrap64 (a.toInt.tmod b.toInt)

/-- Unsigned remainder (R60). -/
def remU (a b : Word) : Word := if b == 0 then a else BitVec.ofNat 64 (a.toNat % b.toNat)

/-- Shift amount g[b][5:0] (R199). -/
def amount (b : Word) : Nat := b.toNat % 64

/-- Rotate left (R199). -/
def rotl64 (a : Word) (n : Nat) : Word :=
  if n == 0 then a else BitVec.ofNat 64 (a.toNat * 2 ^ n + a.toNat / 2 ^ (64 - n))

/-- Leading zero bits (R199). -/
def clz64 (a : Word) : Nat := if a == 0 then 64 else 63 - Nat.log2 a.toNat

/-- Trailing zero bits (R199). -/
def ctz64 (a : Word) : Nat := ((List.range 64).find? fun k => a.getLsbD k).getD 64

/-- One bits (R199). -/
def popc64 (a : Word) : Nat := ((List.range 64).filter fun k => a.getLsbD k).length

/-- f of R202: LEN + 1 bits of g[a] from POS. -/
def fieldOf (a : Word) (len pos : Nat) : Nat := a.toNat / 2 ^ pos % 2 ^ (len + 1)

/-- INS (R202). -/
def insertField (d a : Word) (len pos : Nat) : Word :=
  let m := (2 ^ (len + 1) - 1) * 2 ^ pos
  BitVec.ofNat 64 ((d.toNat &&& (2 ^ 64 - 1 - m)) ||| (a.toNat % 2 ^ (len + 1) * 2 ^ pos))

/-- The address of an LD or ST (R203). -/
def lsAddr (base : Word) (sz : Nat) (off : Int) : Nat := (wrap64 (base.toInt + off * (2 ^ sz : Nat))).toNat

/-- An LD or ST raises SCRATCH_BOUNDS: out of the scratchpad or not aligned (R203). -/
def lsBad (a sz : Nat) : Bool := decide (Config.spmSize < a + 2 ^ sz) || a % 2 ^ sz != 0

/-- The value that LD writes (R204). -/
def ldValue (bytes : List Byte) (sz : Nat) (sx : Bool) : Word :=
  if sx then wrap64 (sgnOf (8 * 2 ^ sz) (leNat bytes)) else BitVec.ofNat 64 (leNat bytes)

/-- The first of `n` cycles from `k` on in which no use of a list takes a bank. -/
def firstFree (l : List BankUse) (bank : Nat) : Nat → Nat → Option Nat
  | 0, _ => none
  | n + 1, k => if l.any fun u => u.at_ == k && u.bank == bank then firstFree l bank n (k + 1) else some k

/-- The bank cycle of a C access: the one chosen when its group was admitted, else the first of issue + 1 to issue + 6
that the reserved accesses leave free (R99). -/
def bankPick (t : Tile) (c : Ctx) (bank : Nat) : Option Nat :=
  match t.banks.find? fun u => u.own == Tile.own c with
  | some u => some u.at_
  | none => firstFree t.banks bank 6 (t.tl + 1)

/-- LD and ST in C: the access takes its bank cycle, or the group is suppressed where there is none (R99, R204). -/
def lsIssueC (i : Instr) (srcs : List Nat) (ga sz : Nat) (off : Int) (gs : Nat) (t : Tile) (c : Ctx) : Tile :=
  t.withRegs c srcs fun q =>
    let a := lsAddr (q.reg c.eng ga) sz off
    if lsBad a sz then q.trap c trapBounds
    else
      match bankPick q c (a / 64 % 16) with
      | none => q.trap c trapBank
      | some b =>
        let q1 := if q.banks.any fun u => u.own == Tile.own c then q else q.useBank c b (a / 64 % 16)
        (chargeCtl q1 c).stage c b 1 (.access i a (q.reg c.eng gs))

/-- Bytes of a store (R204). -/
def storeBytes (a sz : Nat) (v : Word) : List MByte :=
  (List.range (2 ^ sz)).map fun k => { addr := a + k, val := v.toNat / 256 ^ k % 256 }

/-- A C access in its bank cycle (R99, R204). -/
def cAccess (i : Instr) (a : Nat) (v : Word) (t : Tile) (c : Ctx) : Tile :=
  let t1 := t.charge c.env 1 1
  match i with
  | .ld _ gd _ sz sx _ =>
    if t1.staleTrap && !t1.spmCur (a / 64) then t1.trapAny (Tile.own c) c.iss t.tl trapStale
    else t1.stage c (c.iss + 8) 0 (.g gd (ldValue (t1.spmBytes a (2 ^ sz)) sz sx) true)
  | .st _ _ _ sz _ => t1.spmWrite (storeBytes a sz v)
  | _ => t1

/-- LD in X: it issues in a cycle that leaves its bank free, and its result performs eight cycles later (R206). -/
def ldIssueX (gd ga sz : Nat) (sx : Bool) (off : Int) (t : Tile) (c : Ctx) : Tile :=
  t.withRegs c [ga] fun q =>
    let a := lsAddr (q.reg .X ga) sz off
    if lsBad a sz then q.trap c trapBounds
    else if q.staleTrap && !q.spmCur (a / 64) then q.trap c trapStale
    else
      let q1 := ((chargeCtl q c).charge c.env 1 1).stage c (c.env.wall + 8) 0
        (.x gd (ldValue (q.spmBytes a (2 ^ sz)) sz sx))
      { q1 with banksNow := a / 64 % 16 :: q1.banksNow, xs := { q1.xs with busyRegs := gd :: q1.xs.busyRegs, tryAt := none } }

/-- ST in X: it has performed when it issues (R206). -/
def stIssueX (gs ga sz : Nat) (off : Int) (t : Tile) (c : Ctx) : Tile :=
  t.withRegs c [gs, ga] fun q =>
    let a := lsAddr (q.reg .X ga) sz off
    if lsBad a sz then q.trap c trapBounds
    else
      let q1 := ((chargeCtl q c).charge c.env 1 1).spmWrite (storeBytes a sz (q.reg .X gs))
      { q1 with banksNow := a / 64 % 16 :: q1.banksNow, xs := { q1.xs with tryAt := none } }

/-- A branch: the fixed target is checked whether or not it is taken (R168, R207). DESIGN CHOICE: of a stale register in trap
mode and a bad target STALE_READ is taken (notes/assumptions/112.md). -/
def branchIssue (ga : Nat) (off : Int) (onZero : Bool) (t : Tile) (c : Ctx) : Tile :=
  t.withRegs c [ga] fun q =>
    let tgt : Int := (c.pc : Int) + off
    if !isStart c tgt then q.trap c trapIllegal
    else
      let q1 := chargeCtl q c
      if (q.reg c.eng ga == 0) == onZero then transfer q1 c tgt.toNat else fallThrough q1 c

/-- J (R208). -/
def jumpIssue (off : Int) (t : Tile) (c : Ctx) : Tile :=
  let tgt : Int := (c.pc : Int) + off
  if !isStart c tgt then t.trap c trapIllegal else transfer (chargeCtl t c) c tgt.toNat

/-- CALL (R208): the link is the next group. -/
def callIssue (off : Int) (t : Tile) (c : Ctx) : Tile :=
  let tgt : Int := (c.pc : Int) + off
  if !isStart c tgt then t.trap c trapIllegal
  else transfer ((chargeCtl t c).result c 31 1 (BitVec.ofNat 64 (c.pc + 1))) c tgt.toNat

/-- RET (R209): a stale g31 reads as zero. -/
def retIssue (t : Tile) (c : Ctx) : Tile :=
  t.withRegs c [31] fun q =>
    let tgt : Int := ((q.reg c.eng 31).toNat : Int)
    if !isStart c tgt then q.trap c trapIllegal else transfer (chargeCtl q c) c tgt.toNat

/-- LOOP (R196, R198): a body that does not end before a group start or the end of the code is illegal (R171). -/
def loopIssue (lvl : Nat) (src : Bool) (rc body count : Nat) (t : Tile) (c : Ctx) : Tile :=
  t.withRegs c (if src then [rc] else []) fun q =>
    let n := if src then (q.reg c.eng rc).toNat % 2 ^ 32 else count
    let after := c.pc + 2 + body
    if !(isStart c after || after == (c.env.codeOf c.eng).words.length) then q.trap c trapIllegal
    else
      let q1 := chargeCtl q c
      if n == 0 then transfer q1 c after
      else transfer (q1.stage c (q.now c) 2 (.loopStart c.eng lvl (c.pc + 2) (c.pc + 1 + body) n)) c (c.pc + 2)

/-- ENDS (R195). -/
def endsIssue (t : Tile) (c : Ctx) : Tile := (chargeCtl t c).stage c (t.now c) 2 (.ends c.eng)

/-- IDLE n (R194): its last cycle runs the end check; until then the engine issues nothing. -/
def idleIssue (n : Nat) (t : Tile) (c : Ctx) : Tile :=
  if n ≤ 1 then t.stage c t.tl 2 (.goto c.eng none c.last) else t.stage c t.tl 2 (.idle c.eng (n - 1))

/-- The last cycle of an IDLE (R194, R197): the loop end check runs for it. -/
def idleExpiry (t : Tile) (c : Ctx) : Tile := t.stage c t.tl 2 (.expire c.eng c.pc)

/-- The hardware loop level at which a group that ends at word `e` loops back, if any, and the levels that exit before
it: highest ORDER first (R196). -/
def endCheckLevels (s : EngState) (e : Nat) : List Nat :=
  let act := (List.range 4).filter fun l => (at' {} s.loops l).active && (at' {} s.loops l).stop == e
  (sortOn (fun l => (at' {} s.loops l).order) act).reverse

/-- Outcome of the loop end check: the new loop state, the next word offset and the level whose deltas apply (R196). -/
def loopEndCheck (s : EngState) (e : Nat) : EngState × Option Nat :=
  (endCheckLevels s e).foldl (fun (r : EngState × Option Nat) l =>
    match r.2 with
    | some _ => r
    | none =>
      let v := at' {} r.1.loops l
      if 1 < v.left then
        ({ r.1 with loops := r.1.loops.setIfInBounds l { v with left := v.left - 1 }, pc := v.start }, some l)
      else ({ r.1 with loops := r.1.loops.setIfInBounds l { v with active := false } }, none))
    ({ s with pc := e + 1 }, none)

/-- Streams that a loop-back of level `l` moves: current ones in LOOP mode with a nonzero entry (R86, R90). -/
def deltaStreams (t : Tile) (s : EngState) (l : Nat) : List Nat :=
  (List.range 16).filter fun k =>
    !t.streamStale k && (t.streamOf k).mode == 0 && at' 0 s.delta (16 * l + k) != 0

/-- The deltas of a loop-back (R86). -/
def applyDeltas (t : Tile) (s : EngState) (l : Nat) : Tile :=
  (deltaStreams t s l).foldl (fun q k => q.setStream k ((q.streamOf k).applyDelta (at' 0 s.delta (16 * l + k)))) t

/-- SCFG (R210): the write takes effect at the end of the cycle (R211). -/
def scfgIssue (ga s wsel : Nat) (t : Tile) (c : Ctx) : Tile :=
  t.withRegs c [ga] fun q =>
    let v := q.reg c.eng ga
    let st := q.streamOf s
    let inUse := (at' {} q.s s).inUse
    let phase (x : Nat) : Nat := x / 64 % 16
    if wsel == 0 && (decide (1 < wfld v 24 2) || decide (9 < wfld v 20 4)) then q.trap c trapIllegal
    else if wsel == 0 && inUse && (phase (wfld v 0 20) != phase st.base || phase (wfld v 0 20) != phase st.cur) then
      q.trap c trapStreamPhase
    else (chargeCtl q c).stage c q.tl 2 (.scfg s wsel v)

/-- SGET (R212). -/
def sgetIssue (gd s wsel : Nat) (t : Tile) (c : Ctx) : Tile :=
  if t.staleTrap && t.streamStale s then t.trap c trapStale
  else (chargeCtl t c).result c gd 1 ((t.streamOf s).word wsel)

/-- TCFG (R215): the descriptor value is checked as part of the encoding (R81, R82). -/
def tcfgIssue (ga r : Nat) (t : Tile) (c : Ctx) : Tile :=
  t.withRegs c [ga] fun q =>
    let v := q.reg c.eng ga
    let d := TDesc.ofWord v
    if d.illegal || wfld v 4 6 != 0 || wfld v 49 15 != 0 then q.trap c trapIllegal
    else if d.sideOver then q.trap c trapBounds
    else ((chargeCtl q c).stage c q.tl 2 (.tdesc r d)).stage c q.tl 2 (.epoch r)

/-- TGET (R217). -/
def tgetIssue (gd r : Nat) (t : Tile) (c : Ctx) : Tile :=
  if t.staleTrap && !t.descCur r then t.trap c trapStale
  else (chargeCtl t c).result c gd 1 (if t.descCur r then (t.descOf r).toWord (at' 1 t.epoch r) else 0)

/-- A control register as GETC reads it (R309 to R311). -/
def csrRead (t : Tile) (env : Env) (n : Nat) : Word :=
  match n with
  | 0x000 => BitVec.ofNat 64 (t.y * 256 + t.x)
  | 0x001 => BitVec.ofNat 64 (env.h * 256 + env.w)
  | 0x002 => BitVec.ofNat 64 env.orient
  | 0x003 => BitVec.ofNat 64 (t.pitchGen * 65536 + t.gen)
  | 0x004 => boolWord t.staleTrap
  | 0x005 => BitVec.ofNat 64 t.staleArrivals
  | 0x006 => BitVec.ofNat 64 env.holdLead
  | 0x007 => boolWord env.strict
  | 0x008 => BitVec.ofNat 64 t.tl
  | 0x009 => BitVec.ofNat 64 env.ptc
  | 0x00A => BitVec.ofNat 64 t.vflags
  | 0x00B => BitVec.ofNat 64 t.mflags
  | 0x00C => BitVec.ofNat 64 env.sliceId
  | 0x00D => wrap64 env.purse
  | _ => t.trapInfo

/-- SETC (R309): the write takes effect at the end of the cycle. -/
def setcIssue (gs csr sub : Nat) (t : Tile) (c : Ctx) : Tile :=
  t.withRegs c [gs] fun q => (chargeCtl q c).stage c q.tl 2 (.csr csr sub (q.reg c.eng gs))

/-- A tile meter (R312): energies in 2^-40 J are the accumulators shifted right by 8 bits (R427). -/
def meterRead (t : Tile) (n : Nat) : Nat :=
  match n with
  | 0 => ((List.range 7).foldl (fun z k => z + at' 0 t.acc k) 0) / 256
  | 8 => t.cycActive
  | 9 => t.cycOwned
  | _ => at' 0 t.acc (n - 1) / 256

/-- TRAP (R308): DATA is CODE. -/
def trapIssue (code : Nat) (t : Tile) (c : Ctx) : Tile := t.trapWith c trapSoftware code code

/-- RDV.P (R32): the engine steps to its next group, and the tile stops after this cycle. -/
def rdvpIssue (tag : Nat) (t : Tile) (c : Ctx) : Tile :=
  { (chargeCtl t c).stage c t.tl 2 (.rdv tag) with rdvEng := t.engOf c.eng }

/-- The condition of RDV.T (R304, R34). -/
def rdvtHolds (env : Env) (v : Nat) : Bool := decide (v ≤ env.ptc)

/-- RDV.T at issue (R34): its wait is the lookahead's. -/
def rdvtIssue (t : Tile) (c : Ctx) : Tile := chargeCtl t c

/-- GENCLR (R94, R307): it performs at issue + 1. -/
def genclrIssue (t : Tile) (c : Ctx) : Tile := (chargeCtl t c).stage c t.tl 2 .genclr

/-- The effect of GENCLR: GEN + 1, every EPOCH + 1, semaphores and rings reset, and everything stale (R94). After the hard
clear of R97 GEN stays 1, so what has been written since carries no tag any more. -/
def Tile.genClear (t : Tile) : Tile :=
  let g := if t.cleared then t.gen else t.gen + 1
  let bare (r : Reg) : Reg := { r with tag := 0 }
  let t0 : Tile := if t.cleared then
      { t with
        spmTag := [], sideTag := [], gridTag := [], descTag := Vector.replicate 16 0
        g := t.g.map bare, xr := t.xr.map bare, m := t.m.map bare, s := t.s.map fun r => { r with tag := 0 } }
    else t
  let t1 := (List.range 16).foldl (fun q r => q.bumpEpoch r) t0
  let t2 := t1.resetSync
  { t2 with gen := g, cleared := false, maxGen := Nat.max t2.maxGen g }

end Sys2Proof.Machine
end

