-- ==== Sys2Proof/Machine/Sync.lean ====
section
/-! DEFINITION. Semaphores and rings (R102 to R113, R296 to R303): their operations, one cycle at a tile in the order
of R108, and the issue of the synchronisation instructions in C and X. -/

namespace Sys2Proof.Machine

/-- What an operation answers: a result, a wait that has not succeeded, or a trap with the DATA of R448. -/
inductive SemOut where
  | done (v : Option Word)
  | wait
  | trap (code data : Nat)
  deriving DecidableEq, Repr

/-- 64-bit two's complement of an exact value (R448). -/
def data64 (z : Int) : Nat := (BitVec.ofInt 64 z).toNat

/-- A word of a semaphore's state (R102); of a COUNT that arrivals have carried past its 32 bits the low 32 show
(notes/assumptions/101.md). -/
def Sem.word (s : Sem) (k : Nat) : Word :=
  BitVec.ofNat 64 (if k == 0 then s.ceiling * 2 ^ 32 + s.count % 2 ^ 32
    else b2n s.err * 2 ^ 43 + b2n s.expValid * 2 ^ 42 + b2n s.arrive * 2 ^ 40 + s.phase * 2 ^ 32 + s.expect)

/-- A word of a ring's state (R110). -/
def Ring.word (r : Ring) (k : Nat) : Word :=
  BitVec.ofNat 64 (if k == 0 then
      r.filledSem * 2 ^ 52 + r.freeSem * 2 ^ 46 + r.slots * 2 ^ 37 + r.slotSize * 2 ^ 20 + r.base
    else r.claimedC * 2 ^ 27 + r.claimedP * 2 ^ 18 + r.tail * 2 ^ 8 + r.head)

/-- SMCFG (R103). -/
def Sem.config (count ceiling : Nat) (arrive : Bool) : Sem × SemOut :=
  if ceiling < count then ({}, .trap trapCeiling count)
  else ({ count := count, ceiling := ceiling, arrive := arrive }, .done none)

/-- A take of n (R105, R109, R302). -/
def Sem.take (s : Sem) (n : Nat) : Sem × SemOut :=
  if s.err then (s, .trap trapMemory 0)
  else if s.ceiling < n then (s, .trap trapCeiling n)
  else if s.count < n then (s, .wait)
  else ({ s with count := s.count - n }, .done none)

/-- A phase wait on p (R105, R300). -/
def Sem.phaseWait (s : Sem) (p : Nat) : SemOut :=
  if s.err then .trap trapMemory 0 else if s.phase == p % 256 then .wait else .done none

/-- A post of k (R106). -/
def Sem.post (s : Sem) (k : Nat) : Sem × SemOut :=
  if s.ceiling < s.count + k then (s, .trap trapCeiling (data64 ((s.count + k : Nat) : Int)))
  else ({ s with count := s.count + k }, .done none)

/-- SFADD d (R106). -/
def Sem.fadd (s : Sem) (d : Int) : Sem × SemOut :=
  let z := (s.count : Int) + d
  if z < 0 || (s.ceiling : Int) < z then (s, .trap trapCeiling (data64 z))
  else ({ s with count := z.toNat }, .done (some (BitVec.ofNat 64 s.count)))

/-- SCAS e, v (R106). -/
def Sem.cas (s : Sem) (e v : Nat) : Sem × SemOut :=
  if s.count == e then
    if s.ceiling < v then (s, .trap trapCeiling v) else ({ s with count := v }, .done (some (BitVec.ofNat 64 s.count)))
  else (s, .done (some (BitVec.ofNat 64 s.count)))

/-- SEXP e (R107). -/
def Sem.exp (s : Sem) (e : Nat) : Sem × SemOut :=
  let z := if s.expValid then s.expect + e else e
  if 2 ^ 32 ≤ z then (s, .trap trapCeiling (data64 ((z : Nat) : Int)))
  else ({ s with expect := z, expValid := true }, .done none)

/-- The completion check (R107, step 4 of R108). -/
def Sem.complete (s : Sem) : Sem :=
  if s.arrive && s.expValid && decide (s.expect ≤ s.count) then
    { s with phase := (s.phase + 1) % 256, count := s.count - s.expect, expect := 0, expValid := false }
  else s

/-- The semaphores and rings of a tile while a cycle's operations apply. -/
structure SyncState where
  sem : Vector Sem 64
  ring : Vector Ring 16

namespace SyncState

/-- A semaphore. -/
def s (z : SyncState) (k : Nat) : Sem := at' {} z.sem k

/-- A ring. -/
def r (z : SyncState) (k : Nat) : Ring := at' {} z.ring k

/-- Replace a semaphore. -/
def setS (z : SyncState) (k : Nat) (v : Sem) : SyncState := { z with sem := z.sem.setIfInBounds k v }

/-- Replace a ring. -/
def setR (z : SyncState) (k : Nat) (v : Ring) : SyncState := { z with ring := z.ring.setIfInBounds k v }

/-- Store the semaphore half of an outcome. -/
def put (z : SyncState) (k : Nat) (o : Sem × SemOut) : SyncState × SemOut :=
  match o.2 with
  | .done _ => (z.setS k o.1, o.2)
  | .wait => (z, .wait)
  | .trap _ _ => (z, o.2)

/-- RCFG (R111, R303). -/
def ringConfig (z : SyncState) (k : Nat) (v : Word) : SyncState × SemOut :=
  let g : Ring := { base := wfld v 0 20, slotSize := wfld v 20 13, slots := wfld v 37 9, freeSem := wfld v 46 6,
                    filledSem := wfld v 52 6 }
  if g.base % 64 != 0 || decide (Config.spmSize < g.base + g.slots * g.slotSize * 64) || g.slots == 0 ||
      decide (256 < g.slots) || g.slotSize == 0 || decide (4096 < g.slotSize) || g.freeSem == g.filledSem then
    (z, .trap trapBounds 0)
  else
    let z1 := z.setS g.freeSem { count := g.slots, ceiling := g.slots }
    ((z1.setS g.filledSem { count := 0, ceiling := g.slots }).setR k g, .done none)

/-- RCLF and RCLD (R112, R113): the slot as a byte offset. -/
def claim (z : SyncState) (k : Nat) (producer : Bool) : SyncState × SemOut :=
  let g := z.r k
  let q := if producer then g.freeSem else g.filledSem
  if g.slots == 0 then (z, .trap trapBounds 0)
  else
    let o := (z.s q).take 1
    match o.2 with
    | .done _ =>
      let i := if producer then g.tail else g.head
      let g' := if producer then { g with tail := (g.tail + 1) % g.slots, claimedP := (g.claimedP + 1) % 512 }
        else { g with head := (g.head + 1) % g.slots, claimedC := (g.claimedC + 1) % 512 }
      ((z.setS q o.1).setR k g', .done (some (BitVec.ofNat 64 (g.base + i * g.slotSize * 64))))
    | .wait => (z, .wait)
    | .trap c d => (z, .trap c d)

/-- RFIL and RREL (R112). -/
def give (z : SyncState) (k : Nat) (producer : Bool) : SyncState × SemOut :=
  let g := z.r k
  let q := if producer then g.filledSem else g.freeSem
  if g.slots == 0 then (z, .trap trapBounds 0)
  else
    let o := (z.s q).post 1
    match o.2 with
    | .done _ =>
      ((z.setS q o.1).setR k (if producer then { g with claimedP := g.claimedP - 1 }
        else { g with claimedC := g.claimedC - 1 }), o.2)
    | .wait => (z, .wait)
    | .trap c d => (z, .trap c d)

/-- One operation (R106, R107, R112). Reads of state are answered from the state before step 1, not here. -/
def apply (z : SyncState) (op : SemDo) : SyncState × SemOut :=
  match op with
  | .config k n c a => z.put k (Sem.config n c a)
  | .take k n => z.put k ((z.s k).take n)
  | .phaseWait k p => (z, (z.s k).phaseWait p)
  | .post k n => z.put k ((z.s k).post n)
  | .fadd k d => z.put k ((z.s k).fadd d)
  | .cas k e v => z.put k ((z.s k).cas e v)
  | .exp k e => z.put k ((z.s k).exp e)
  | .arrive k n => (if (z.s k).arrive then z.setS k { z.s k with count := (z.s k).count + n } else z, .done none)
  | .lost k => (z.setS k { z.s k with err := true, phase := ((z.s k).phase + 1) % 256 }, .done none)
  | .ringConfig k v => z.ringConfig k v
  | .claim k p => z.claim k p
  | .give k p => z.give k p
  | .read k w => (z, .done (some ((z.s k).word w)))
  | .ringRead k w => (z, if (z.r k).slots == 0 then .trap trapBounds 0 else .done (some ((z.r k).word w)))

end SyncState

/-- Step of an operation in a cycle (R108, R297); reads come before step 1. -/
def SemDo.step : SemDo → Nat
  | .read _ _ => 0
  | .ringRead _ _ => 0
  | .config _ _ _ _ => 1
  | .ringConfig _ _ => 1
  | .take _ _ => 2
  | .phaseWait _ _ => 2
  | .claim _ _ => 2
  | .post _ _ => 3
  | .fadd _ _ => 3
  | .cas _ _ _ => 3
  | .arrive _ _ => 3
  | .lost _ => 3
  | .give _ _ => 3
  | .exp _ _ => 5

/-- Place of a source within a step: C, X, remote tiles in ascending (y, x), copies (R108, R297). -/
def SemSrc.rank : SemSrc → Nat
  | .c => 0
  | .x => 1
  | .remote ty tx => 2 + ty * 64 + tx
  | .copy => 2 + 64 * 64

/-- Key that puts a cycle's operations into the order of R108; sorting is stable, which keeps group and landing order. -/
def SemOp.key (o : SemOp) : Nat := o.op.step * 8192 + o.src.rank

/-- Apply a list of operations in order. -/
def applyOps (z : SyncState) (l : List SemOp) : SyncState × List (SemOp × SemOut) :=
  l.foldl (fun (r : SyncState × List (SemOp × SemOut)) o =>
    let q := r.1.apply o.op
    (q.1, r.2 ++ [(o, q.2)])) (z, [])

/-- One cycle at a tile's semaphores and rings: steps 1 to 5 of R108. -/
def resolveOps (z : SyncState) (l : List SemOp) : SyncState × List (SemOp × SemOut) :=
  let ops := sortOn SemOp.key l
  let a := applyOps z (ops.filter fun o => decide (o.op.step < 5))
  let b : SyncState := { a.1 with sem := a.1.sem.map Sem.complete }
  let d := applyOps b (ops.filter fun o => o.op.step == 5)
  (d.1, a.2 ++ d.2)

/-- The answer that C's group is suppressed for, with its code: the first failing operation in group order. -/
def firstFail (l : List (SemOp × SemOut)) : Option (SemOp × Nat × Nat) :=
  let bad := l.filterMap fun p => match p.2 with
    | .trap c d => some (p.1, c, d)
    | .wait => some (p.1, trapMiss, 0)
    | .done _ => none
  (sortOn (fun (p : SemOp × Nat × Nat) => p.1.iid) bad).head?

/-- The semaphore from which a claim on a ring takes (R112). -/
def claimSem (t : Tile) (r : Nat) (producer : Bool) : Nat :=
  let g : Machine.Ring := at' {} t.ring r
  if producer then g.freeSem else g.filledSem

/-- Reservations that a reconfigured semaphore or ring discards (R103, R303); the values that their lookaheads read stay
(R302). A failed lookahead that holds none yet still reserves when it clears (DESIGN CHOICE, notes/assumptions/111.md). -/
def dropLooks (t : Tile) (op : SemDo) : Tile :=
  let hit (sem : Nat) : Bool := match op with
    | .config k _ _ _ => k == sem
    | .ringConfig _ v => wfld v 46 6 == sem || wfld v 52 6 == sem
    | _ => false
  let lost (l : Look) : Bool := match l.kind with
    | .take k => hit k
    | .claim r p => hit (claimSem t r p)
    | _ => false
  { t with looks := t.looks.map fun l => if lost l then l.discard else l }

/-- Deliver one answer of a cycle to its source. -/
def deliverOut (env : Env) (t : Tile) (r : SemOp × SemOut) : Tile :=
  let t := match r.2 with
    | .done _ => dropLooks t r.1.op
    | _ => t
  match r.1.src, r.2 with
  | .c, .done v =>
    (match r.1.rd, v with
      | some d, some w => { t with pend := t.pend ++ [⟨t.tl + 1, 0, ⟨.C, r.1.gid, r.1.iid, 0⟩, t.tl, .g d w true⟩] }
      | _, _ => t)
  | .c, .wait => t
  | .c, .trap _ _ => t
  | .x, .done v =>
    (match r.1.rd, v with
      | some d, some w => { t with pend := t.pend ++ [⟨env.wall + 1, 0, ⟨.X, r.1.gid, r.1.iid, 0⟩, env.wall, .x d w⟩] }
      | _, _ => t)
  | .x, .wait => t.suppress ⟨.X, r.1.gid, 0, 0⟩ true 0
  | .x, .trap c d =>
    let pc := (t.engOf .X).pc
    t.trapWith { eng := .X, gid := r.1.gid, gpc := pc, pc := pc } c pc d
  | .remote _ _, .done v => { t with out := t.out ++ [.reply r.1.msg v none] }
  | .remote _ _, .wait => t
  | .remote _ _, .trap c d => { t with out := t.out ++ [.reply r.1.msg none (some (c, d))] }
  | .copy, .trap _ d => { t with out := t.out ++ [.refused r.1.msg d] }
  | .copy, .done _ => t
  | .copy, .wait => t

/-- The ceiling check (R107, step 6 of R108), in the tile's own X engine. -/
def ceilingCheck (t : Tile) : Tile :=
  (List.range 64).foldl (fun q k =>
    let s := at' {} q.sem k
    if s.arrive && decide (s.ceiling < s.count) then
      let pc := (q.engOf .X).pc
      (q.record { tau := q.tl, eng := .X, code := trapCeiling, info := pc, data := s.count, off := pc, word := pc }).setEng
        .X { q.engOf .X with halted := true }
    else q) t

/-- THE SEMAPHORE CYCLE OF A TILE (R108): the operations of C's group apply together or not at all. -/
def semCycle (env : Env) (t : Tile) : Tile :=
  let z : SyncState := ⟨t.sem, t.ring⟩
  let ops := t.semOps
  let isC (o : SemOp) : Bool := o.src == .c
  let whole := resolveOps z ops
  let bad := firstFail (whole.2.filter fun p => isC p.1)
  let use := match bad with
    | none => whole
    | some _ => resolveOps z (ops.filter fun o => !isC o)
  let t1 := match bad with
    | none => t
    | some (o, c, d) =>
      let pc := (t.engOf .C).pc
      t.trapWith { eng := .C, gid := o.gid, gpc := pc, pc := pc } c pc d
  let t2 := { t1 with sem := use.1.sem, ring := use.1.ring, semOps := [] }
  ceilingCheck (use.2.foldl (deliverOut env) t2)

/-- Reservations on a semaphore by lookaheads whose groups have not issued (R26, R105). -/
def reserved (t : Tile) (sem : Nat) : Nat :=
  t.looks.foldl (fun z l =>
    if l.holds then
      match l.kind with
      | .take k => if k == sem then z + l.amount else z
      | .claim r p =>
        if claimSem t r p == sem then z + 1 else z
      | _ => z
    else z) 0

/-- Index of a token queue in `Tile.tok`: the queue into `e` from its previous or its next engine. -/
def tokIdx (e : Engine) (fromPrev : Bool) : Nat := 2 * e.idx + b2n (!fromPrev)

/-- Index of the queue that runs from `e` to its previous or its next engine. -/
def outIdx (e : Engine) (toPrev : Bool) : Nat := if toPrev then tokIdx e.prev false else tokIdx e.next true

/-- Tokens, or places, of one queue that lookaheads have reserved. -/
def reservedTok (t : Tile) (k : WaitKind) : Nat :=
  (t.looks.filter fun l => l.holds && l.kind == k).length

/-- A take can go ahead or can never succeed (R105, R109, R302). -/
def takeHolds (t : Tile) (sem n res : Nat) : Bool :=
  let s := at' {} t.sem sem
  n == 0 || s.err || decide (s.ceiling < n) || decide (n + res ≤ s.count)

/-- The condition of a wait as the state stands, less what lookaheads have reserved (R26, R97, R105, R113, R304). -/
def waitHolds (env : Env) (t : Tile) (k : WaitKind) (n : Nat) : Bool :=
  match k with
  | .token e p => decide (reservedTok t k < at' 0 t.tok (tokIdx e p))
  | .room e p => decide (at' 0 t.tok (outIdx e p) + reservedTok t k < 15)
  | .take s => takeHolds t s n (reserved t s)
  | .phase s => let v := at' {} t.sem s; v.err || v.phase != n % 256
  | .claim r p =>
    let g := at' {} t.ring r
    let q := if p then g.freeSem else g.filledSem
    g.slots != 0 && takeHolds t q 1 (reserved t q)
  | .pkgTime => decide (n ≤ env.ptc)
  | .clearDone => t.gen != 4095 && t.clearing.isNone

/-- The lookahead that was made for the issuing instruction's own wait. -/
def lookOf (t : Tile) (c : Ctx) : Option Look :=
  t.looks.find? fun l => l.eng == c.eng && l.at_ == t.tl && l.pc == c.gpc && l.pos == c.iid &&
    match l.kind with
    | .token _ _ => false
    | .room _ _ => false
    | _ => true

/-- The amount field of a synchronisation instruction: an immediate or a register (R174, R300). -/
def syAmount (t : Tile) (c : Ctx) (o : SyOps) : Nat := if o.imm then o.rb else (t.reg c.eng o.rb).toNat

/-- Registers that the amount field and remote coordinates read. -/
def syRegs (c : Ctx) (o : SyOps) (useB : Bool) : List Nat :=
  (if useB && !o.imm then [o.rb] else []) ++ if c.eng == .X && o.rsel then [o.rc] else []

/-- Remote coordinates (R172, R173). -/
def syCoord (t : Tile) (c : Ctx) (o : SyOps) : Nat × Nat :=
  if o.rsel then let v := t.reg c.eng o.rc; (wfld v 20 6, wfld v 26 6) else (o.tx, o.ty)

/-- Hops and seams of a copy-plane route inside the pitch (R23, R280). -/
def routeCost (env : Env) (x y x' y' : Nat) : Nat × Nat :=
  ((if x ≤ x' then x' - x else x - x') + (if y ≤ y' then y' - y else y - y'),
    seamsBetween env.seamC x x' + seamsBetween env.seamR y y')

/-- Charge a message of the copy plane (R280): event 9 per hop, event 10 per seam. -/
def chargeMessage (t : Tile) (env : Env) (x y : Nat) : Tile :=
  let r := routeCost env t.x t.y x y
  (t.charge env 9 r.1).charge env 10 r.2

/-- Send an operation on its way: local, remote or slice by OBJ (R296). -/
def syDispatch (p : Pre) (o : SyOps) (rd : Option Nat) (waits : Bool) (op : SemDo) (t : Tile) (c : Ctx) : Tile :=
  let local' (t : Tile) : Tile :=
    let t1 := (issue p t c id).stage c (t.now c) 2 (.charge 0 1 1)
    { t1 with semOps := t1.semOps ++ [⟨if c.eng == .C then .c else .x, c.gid, c.iid, op, rd, 0⟩] }
  let away (t : Tile) (sig : Sig) : Tile :=
    let t1 := (if waits then t else issue p t c id).charge c.env 0 1
    { t1 with out := t1.out ++ [sig] }
  match o.obj with
  | 1 | 4 =>
    let xy := syCoord t c o
    if decide (c.env.w ≤ xy.1) || decide (c.env.h ≤ xy.2) then t.trap c trapBounds
    else away (chargeMessage t c.env xy.1 xy.2) (.remote xy.1 xy.2 op rd waits c.gpc)
  | 2 => away (t.charge c.env 9 1) (.slice o.index op rd waits c.gpc)
  | _ => local' t

/-- A synchronisation instruction that does not wait. -/
def syIssue (p : Pre) (o : SyOps) (srcs : List Nat) (rd : Option Nat) (op : Tile → SemDo) (t : Tile) (c : Ctx) : Tile :=
  t.withRegs c srcs fun q => syDispatch p o rd false (op q) q c

/-- SWAIT, SPHW, RCLF, RCLD: in C the amount is the lookahead's (R302); in X the wait stalls X alone (R105). -/
def syWait (p : Pre) (o : SyOps) (useB : Bool) (rd : Option Nat) (op : Nat → SemDo) (t : Tile) (c : Ctx) : Tile :=
  match (if c.eng == .C then lookOf t c else none) with
  | some l => if l.stale then t.trap c trapStale else syDispatch p o rd true (op l.amount) t c
  | none =>
    t.withRegs c (syRegs c o useB) fun q => syDispatch p o rd true (op (if useB then syAmount q c o else 0)) q c

end Sys2Proof.Machine
end

