-- ==== Sys2Proof/Machine/Copy.lean ====
section
/-! DEFINITION. The copy engine's instructions at issue (R122 to R125, R281 to R295): descriptors, regions, every check
of R283, and what goes on to the pitch as a commanded copy, a fabric post or a table read. -/

namespace Sys2Proof.Machine

/-- A signed 64-bit value, or none when a sum or product leaves the range (R123). -/
def fit64 (z : Int) : Option Int := if z < -(2 ^ 63 : Int) || (2 ^ 63 : Int) ≤ z then none else some z

/-- a + (start + j)·stride with the overflow checks of R123. -/
def addTerm (a : Option Int) (start : Int) (j : Int) (stride : Int) : Option Int :=
  match a, fit64 ((start + j) * stride) with
  | some x, some p => fit64 (x + p)
  | _, _ => none

namespace RegionDesc

/-- A region descriptor as read from its granule (R122). -/
def ofBytes (b : List Byte) : RegionDesc :=
  let w (k : Nat) : Nat := leNat ((b.drop (8 * k)).take 8)
  let half (k : Nat) : Nat × Nat := (w k % 2 ^ 32, w k / 2 ^ 32 % 2 ^ 32)
  let four (k : Nat) : Vector Nat 4 := #v[(half k).1, (half k).2, (half (k + 1)).1, (half (k + 1)).2]
  { handle := fld (w 0) 48 16, pad := fld (w 0) 7 1 == 1, clip := fld (w 0) 6 1 == 1, esize := fld (w 0) 0 3,
    offset := toSigned 64 (w 1), start := (four 2).map (toSigned 32), stride := (four 4).map (toSigned 32),
    extent := four 6, rsv := w 0 / 8 % 8 * 8 + w 0 / 256 % 2 ^ 40 * 256 }

/-- The descriptor's 64 bytes, for a hamper (R391). -/
def toBytes (d : RegionDesc) : List Byte :=
  let p (a b : Nat) : Nat := b % 2 ^ 32 * 2 ^ 32 + a % 2 ^ 32
  let s (v : Vector Int 4) (k : Nat) : Nat := ofSigned 32 (at' 0 v k)
  let e (k : Nat) : Nat := at' 0 d.extent k
  let ws := [d.handle * 2 ^ 48 + b2n d.pad * 128 + b2n d.clip * 64 + d.esize + d.rsv, ofSigned 64 d.offset,
    p (s d.start 0) (s d.start 1), p (s d.start 2) (s d.start 3), p (s d.stride 0) (s d.stride 1),
    p (s d.stride 2) (s d.stride 3), p (e 0) (e 1), p (e 2) (e 3)]
  ws.flatMap (leBytes 8)

/-- Element size in bytes. -/
def z (d : RegionDesc) : Nat := 2 ^ d.esize

/-- Number of elements: of the region, or of the gathered region when an index list is given (R123, R288). -/
def count (d : RegionDesc) (idx : List Int) (gathered : Bool) : Nat :=
  let e (k : Nat) : Nat := at' 0 d.extent k
  if gathered then e 0 * idx.length else e 0 * e 1 * e 2 * e 3

/-- Byte address of the element with these indices (R123). -/
def addrAt (d : RegionDesc) (j : List Nat) : Option Int :=
  (List.range 4).foldl (fun a i => addTerm a (at' 0 d.start i) ((j.getD i 0 : Nat) : Int) (at' 0 d.stride i)) (fit64 d.offset)

/-- Byte address of element j0 of item k of a gathered region (R288). -/
def addrGather (d : RegionDesc) (idx : List Int) (j0 k : Nat) : Option Int :=
  addTerm (addTerm (fit64 d.offset) (at' 0 d.start 0) (j0 : Int) (at' 0 d.stride 0))
    (at' 0 d.start 1) (idx.getD k 0) (at' 0 d.stride 1)

/-- Byte address of element n in region order (R123, R288). -/
def addr (d : RegionDesc) (idx : List Int) (n : Nat) : Option Int :=
  let e (k : Nat) : Nat := at' 0 d.extent k
  let q (a b : Nat) : Nat := if b == 0 then 0 else a / b
  let m (a b : Nat) : Nat := if b == 0 then 0 else a % b
  if idx.isEmpty then
    d.addrAt [m n (e 0), m (q n (e 0)) (e 1), m (q n (e 0 * e 1)) (e 2), q n (e 0 * e 1 * e 2)]
  else d.addrGather idx (m n (e 0)) (q n (e 0))

/-- Addresses that decide every check: the corners, or both ends of every gathered line (R124). -/
def corners (d : RegionDesc) (idx : List Int) (gathered : Bool) : List (Option Int) :=
  let ends (k : Nat) : List Nat := [0, at' 0 d.extent k - 1]
  if gathered then
    (List.range idx.length).flatMap fun k => (ends 0).map fun j => d.addrGather idx j k
  else
    (ends 0).flatMap fun a => (ends 1).flatMap fun b => (ends 2).flatMap fun c => (ends 3).map fun e =>
      d.addrAt [a, b, c, e]

/-- An element lies inside its tensor (R123). -/
def inRange (d : RegionDesc) (size : Nat) (a : Int) : Bool := decide (0 ≤ a) && decide (a + d.z ≤ size)

end RegionDesc

/-- SIZE of a tensor table entry (R114). -/
def entSize (e : Vector Word 4) : Nat := wfld (at' 0 e 1) 0 48

/-- BASE of an entry. -/
def entBase (e : Vector Word 4) : Nat := wfld (at' 0 e 0) 0 52

/-- LOC of an entry. -/
def entLoc (e : Vector Word 4) : Nat := wfld (at' 0 e 3) 4 2

/-- TENSOR_ID of an entry. -/
def entId (e : Vector Word 4) : Nat := wfld (at' 0 e 2) 32 32

/-- WVER of an entry. -/
def entWver (e : Vector Word 4) : Nat := wfld (at' 0 e 2) 0 32

/-- NOFILL of an entry. -/
def entNofill (e : Vector Word 4) : Bool := wfld (at' 0 e 3) 6 1 == 1

/-- A copy may use the entry (R115). -/
def entUsable (e : Vector Word 4) (write : Bool) : Bool :=
  wfld (at' 0 e 3) 0 1 == 1 && entLoc e != 3 && wfld (at' 0 e 3) (if write then 2 else 1) 1 == 1 &&
    (entLoc e != 0 || (entBase e % 64 == 0 && decide (entBase e + entSize e ≤ 2 ^ 52)))

/-- The table entry of a handle; zero where the driver has written nothing (R114). -/
def tensorOf (l : List (Nat × Vector Word 4)) (h : Nat) : Vector Word 4 :=
  match l.find? fun p => p.1 == h with
  | some p => p.2
  | none => Vector.replicate 4 0

/-- A region side under R115 and R122 to R124: no failing check. -/
def regionOk (d : RegionDesc) (idx : List Int) (gathered write : Bool) (e : Vector Word 4) : Bool :=
  let size := entSize e
  let flag := if write then d.clip else d.pad
  entUsable e write && decide (d.esize ≤ 4) &&
    (!gathered || (at' 0 d.extent 1 == 1 && at' 0 d.extent 2 == 1 && at' 0 d.extent 3 == 1)) &&
    (d.count idx gathered == 0 || (d.corners idx gathered).all fun a => match a with
      | none => false
      | some x => flag || d.inRange size x)

/-- A contiguous scratchpad side of R283. -/
def spmSideOk (off n z : Nat) : Bool := off % z == 0 && decide (off + n * z ≤ Config.spmSize)

/-- The destination and source operands (R175). -/
def xcOpD (t : Tile) (o : XcOps) : Word := wrap64 ((t.reg .X o.xd).toInt + toSigned 32 o.dimm)
def xcOpS (t : Tile) (o : XcOps) : Word := wrap64 ((t.reg .X o.xs).toInt + o.simm)

/-- The index list of CGA and CSC (R288). -/
def indexList (t : Tile) (off count : Nat) : List Int :=
  (List.range count).map fun k => toSigned 32 (leNat (t.spmBytes (off + 64 + 4 * k) 4))

/-- Bytes that a descriptor with its index list covers. -/
def descSpan (count : Nat) : Nat := 64 + (count + 15) / 16 * 64

/-- A descriptor operand with its index list, read at issue (R122, R283, R288), or the trap that reading it raises. -/
def readDesc (t : Tile) (off : Word) (count : Nat) (gathered : Bool) : Except Nat (RegionDesc × List Int) :=
  let a := off.toNat
  let span := if gathered then descSpan count else 64
  if a % 64 != 0 || decide (Config.spmSize < a + span) then .error trapBounds
  else if t.staleTrap && t.spmStale a span then .error trapStale
  else .ok (RegionDesc.ofBytes (t.spmBytes a 64), if gathered then indexList t a count else [])

/-- The completion post and arrival count of a copy (R286). -/
def copyPosts (tiles : List Nat) (o : XcOps) : List CopySem := tiles.map fun k => ⟨k, o.sem, o.inc, o.arr⟩

/-- Index y·W + x of a tile. -/
def Env.tileIdx (env : Env) (x y : Nat) : Nat := y * env.w + x

/-- Hand over a copy whose checks passed (R126): the issue charge, the descriptor granules, the command. -/
def emitCopy (p : Pre) (i : Instr) (o : XcOps) (granules : Nat) (src dst : Side) (n z : Nat) (posts : List CopySem)
    (t : Tile) (c : Ctx) : Tile :=
  let t1 := ((issue p t c id).charge c.env 0 1).charge c.env 1 granules
  { t1 with out := t1.out ++ [.copy i (xcOpD t o) (xcOpS t o) src dst n z posts c.gpc] }

/-- CPT (R287). -/
def cptIssue (p : Pre) (i : Instr) (o : XcOps) (t : Tile) (c : Ctx) : Tile :=
  t.withRegs c [o.xd, o.xs] fun q =>
    let d := xcOpD q o
    let s := (xcOpS q o).toNat
    let x := wfld d 20 6
    let y := wfld d 26 6
    let n := 64 * o.aux
    if !spmSideOk s n 1 || s % 64 != 0 || !spmSideOk (wfld d 0 20) n 1 || wfld d 0 20 % 64 != 0 ||
        decide (c.env.w ≤ x) || decide (c.env.h ≤ y) then q.trap c trapBounds
    else
      emitCopy p i o 0 (.spm [c.env.tileIdx q.x q.y] s) (.spm [c.env.tileIdx x y] (wfld d 0 20)) n 1
        (copyPosts [c.env.tileIdx x y] o) q c

/-- CLD and CGA: a region into this tile's scratchpad (R282, R288). -/
def loadIssue (p : Pre) (i : Instr) (o : XcOps) (gathered : Bool) (t : Tile) (c : Ctx) : Tile :=
  t.withRegs c [o.xd, o.xs] fun q =>
    match readDesc q (xcOpS q o) o.aux gathered with
    | .error code => q.trap c code
    | .ok (d, idx) =>
      let e := tensorOf c.env.tensors d.handle
      let n := d.count idx gathered
      let off := (xcOpD q o).toNat
      if !regionOk d idx gathered false e then q.trap c trapTensor
      else if !spmSideOk off n d.z then q.trap c trapBounds
      else
        emitCopy p i o (if gathered then descSpan o.aux / 64 else 1) (.region d idx e)
          (.spm [c.env.tileIdx q.x q.y] off) n d.z (copyPosts [c.env.tileIdx q.x q.y] o) q c

/-- CST and CSC: this tile's scratchpad into a region. -/
def storeIssue (p : Pre) (i : Instr) (o : XcOps) (gathered : Bool) (t : Tile) (c : Ctx) : Tile :=
  t.withRegs c [o.xd, o.xs] fun q =>
    match readDesc q (xcOpD q o) o.aux gathered with
    | .error code => q.trap c code
    | .ok (d, idx) =>
      let e := tensorOf c.env.tensors d.handle
      let n := d.count idx gathered
      let off := (xcOpS q o).toNat
      if !regionOk d idx gathered true e then q.trap c trapTensor
      else if !spmSideOk off n d.z then q.trap c trapBounds
      else
        emitCopy p i o (if gathered then descSpan o.aux / 64 else 1) (.spm [c.env.tileIdx q.x q.y] off)
          (.region d idx e) n d.z (copyPosts [c.env.tileIdx q.x q.y] o) q c

/-- CTT (R125, R291). -/
def cttIssue (p : Pre) (i : Instr) (o : XcOps) (t : Tile) (c : Ctx) : Tile :=
  t.withRegs c [o.xd, o.xs] fun q =>
    match readDesc q (xcOpS q o) 0 false, readDesc q (xcOpD q o) 0 false with
    | .error code, _ => q.trap c code
    | .ok _, .error code => q.trap c code
    | .ok (s, _), .ok (d, _) =>
      let es := tensorOf c.env.tensors s.handle
      let ed := tensorOf c.env.tensors d.handle
      let n := s.count [] false
      if !regionOk s [] false false es || !regionOk d [] false true ed || d.count [] false != n || s.esize != d.esize ||
          (entLoc es == 2 && entLoc ed == 2) then q.trap c trapTensor
      else
        emitCopy p i o 2 (.region s [] es) (.region d [] ed) n s.z (copyPosts [c.env.tileIdx q.x q.y] o) q c

/-- CBC (R289). -/
def cbcIssue (p : Pre) (i : Instr) (o : XcOps) (t : Tile) (c : Ctx) : Tile :=
  t.withRegs c [o.xd, o.xs] fun q =>
    match readDesc q (xcOpS q o) 0 false with
    | .error code => q.trap c code
    | .ok (s, _) =>
      let e := tensorOf c.env.tensors s.handle
      let n := s.count [] false
      let d := xcOpD q o
      let x := wfld d 20 6
      let y := wfld d 26 6
      let w := o.aux / 64 + 1
      let h := o.aux % 64 + 1
      if !regionOk s [] false false e then q.trap c trapTensor
      else if !spmSideOk (wfld d 0 20) n s.z || decide (c.env.w < x + w) || decide (c.env.h < y + h) then
        q.trap c trapBounds
      else
        let tiles := (List.range h).flatMap fun r => (List.range w).map fun k => c.env.tileIdx (x + k) (y + r)
        emitCopy p i o 1 (.region s [] e) (.spm tiles (wfld d 0 20)) n s.z (copyPosts tiles o) q c

/-- CFB (R290). -/
def cfbIssue (p : Pre) (i : Instr) (o : XcOps) (t : Tile) (c : Ctx) : Tile :=
  t.withRegs c [o.xd, o.xs] fun q =>
    match readDesc q (xcOpD q o) 0 false with
    | .error code => q.trap c code
    | .ok (d, _) =>
      let e := tensorOf c.env.tensors d.handle
      if !regionOk d [] false true e then q.trap c trapTensor
      else
        emitCopy p i o 1 (.pattern (q.reg .X o.xs).toNat) (.region d [] e) (d.count [] false) d.z
          (copyPosts [c.env.tileIdx q.x q.y] o) q c

/-- FSPOST (R292, R293): the post flit and its acknowledgement are charged by the port. -/
def fspostIssue (p : Pre) (xp xa : Nat) (pr ar : Bool) (index pkg amt : Nat) (t : Tile) (c : Ctx) : Tile :=
  t.withRegs c ((if pr then [xp] else []) ++ if ar then [xa] else []) fun q =>
    let k := if pr then wfld (q.reg .X xp) 0 14 else pkg
    let n := if ar then wfld (q.reg .X xa) 0 32 else amt
    if k != c.env.pkg && !c.env.bound.contains k then q.trap c trapTensor
    else
      let t1 := (issue p q c id).charge c.env 0 1
      { t1 with out := t1.out ++ [.fpost index k n c.gpc] }

/-- CFEN (R137): later copies and later writes outside X wait for the copies that are open now. -/
def cfenIssue (p : Pre) (t : Tile) (c : Ctx) : Tile :=
  let t1 := chargeCtl (issue p t c id) c
  { t1 with xs := { t1.xs with fence := t1.xs.copies } }

/-- TINFO (R295). -/
def tinfoIssue (p : Pre) (xd xa word : Nat) (t : Tile) (c : Ctx) : Tile :=
  issue p t c fun q => regOp q c [xa] xd fun s => at' 0 (tensorOf c.env.tensors (wfld (s.reg .X xa) 0 16)) word

end Sys2Proof.Machine
end

