-- ==== Sys2Proof/Machine/Groups.lean ====
section
/-! DEFINITION. Groups of instructions (R14, R165, R166): what each instruction reads and writes, the rules a group must
meet, and the waits it makes (R16, R18, R26). -/

namespace Sys2Proof.Machine

/-- An object that a group's instructions may share (R146, R166): a register of the engine, a mask, a tile register, a
stream register, a semaphore, a ring, a control register. -/
inductive Obj where
  | reg (k : Nat)
  | mask (k : Nat)
  | tile (k : Nat)
  | stream (k : Nat)
  | sem (k : Nat)
  | ring (k : Nat)
  | csr (k : Nat)
  deriving DecidableEq, Repr

/-- The semaphore or ring of a synchronisation instruction; only local objects can be shared within a group. -/
def syObj (o : SyOps) : List Obj :=
  match o.obj with
  | 0 => [.sem o.index]
  | 3 => [.ring o.index]
  | _ => []

/-- Registers that a synchronisation instruction reads. -/
def sySrc (o : SyOps) (useA useB : Bool) : List Obj :=
  (if useA then [.reg o.ra] else []) ++ (if useB && !o.imm then [.reg o.rb] else []) ++
    if o.rsel then [.reg o.rc] else []

/-- The tile register of a grid operand field. -/
def objT (f : Nat) : List Obj := [.tile (fieldTile f)]

/-- What a vector instruction reads. -/
def vReads (i : Instr) (o : VOps) : List Obj :=
  (if vGridA i then objT o.a else []) ++ (if vGridB i && !vWritesB i then objT o.b else []) ++
    (if vReadsD i then objT o.d else []) ++ (if o.mask == 0 then [] else [.mask o.mask]) ++
    match i with
    | .vsel _ _ => [.mask (o.imm % 8)]
    | .vbcst _ _ => [.reg (o.a % 32)]
    | .vmand _ _ | .vmor _ _ => [.mask (o.a % 8), .mask (o.b % 8)]
    | .vmnot _ _ | .vmpop _ _ => [.mask (o.a % 8)]
    | _ => []

/-- What a vector instruction writes; an access through a stream advances it. -/
def vWrites (i : Instr) (o : VOps) : List Obj :=
  (if vGridD i then objT o.d else []) ++ (if vWritesB i then objT o.b else []) ++
    match i with
    | .vcmpeq _ _ | .vcmplt _ _ | .vcmple _ _ | .vcmpun _ _ | .vclass _ _ | .vmand _ _ | .vmor _ _ | .vmnot _ _ =>
      [.mask (o.d % 8)]
    | .vext _ _ | .vmpop _ _ => [.reg (o.d % 32)]
    | .vld _ _ => [.stream (o.a % 16)]
    | .vst _ _ | .vscat _ _ => [.stream (o.d % 16)]
    | .vgath _ _ => [.stream (o.b % 16)]
    | _ => []

/-- What an instruction reads (R146, R166). -/
def objReads (i : Instr) : List Obj :=
  match i with
  | .add _ _ a b | .sub _ _ a b | .mul _ _ a b | .mulh _ _ a b | .mulhu _ _ a b | .div _ _ a b | .divu _ _ a b
  | .rem _ _ a b | .remu _ _ a b | .and _ _ a b | .or _ _ a b | .xor _ _ a b | .andn _ _ a b | .shl _ _ a b
  | .shr _ _ a b | .sra _ _ a b | .rotl _ _ a b | .min _ _ a b | .max _ _ a b | .minu _ _ a b | .maxu _ _ a b
  | .cmpeq _ _ a b | .cmpne _ _ a b | .cmplt _ _ a b | .cmpltu _ _ a b => [.reg a, .reg b]
  | .sel _ _ a b c => [.reg a, .reg b, .reg c]
  | .addi _ _ a _ | .clz _ _ a | .ctz _ _ a | .popc _ _ a | .ext _ _ a _ _ | .extu _ _ a _ _ => [.reg a]
  | .movk _ d _ => [.reg d]
  | .ins _ d a _ _ => [.reg d, .reg a]
  | .ld _ _ a _ _ _ => [.reg a]
  | .st _ s a _ _ => [.reg s, .reg a]
  | .bz _ a _ | .bnz _ a _ => [.reg a]
  | .ret _ => [.reg 31]
  | .loop _ _ src rc _ _ => if src then [.reg rc] else []
  | .scfg _ a _ _ | .tcfg _ a _ | .rdvT _ a => [.reg a]
  | .sget _ _ s _ => [.stream s]
  | .tget _ _ t => [.tile t]
  | .getc _ _ n => [.csr n]
  | .setc _ s _ _ => [.reg s]
  | .smcfg _ o => sySrc o true true
  | .swait _ o | .spost _ o | .sfadd _ o | .sexp _ o => sySrc o false true
  | .sphw _ o => sySrc o false true ++ syObj o
  | .scas _ o => sySrc o true true
  | .srd _ o | .rstat _ o => sySrc o false false ++ syObj o
  | .rcfg _ o => sySrc o true false
  | .rclf _ o | .rcld _ o | .rfil _ o | .rrel _ o => sySrc o false false
  | .cpt _ o | .cld _ o | .cst _ o | .ctt _ o | .cbc _ o | .cga _ o | .csc _ o | .cfb _ o => [.reg o.xd, .reg o.xs]
  | .fspost _ xp xa pr ar _ _ _ => (if pr then [.reg xp] else []) ++ if ar then [.reg xa] else []
  | .tinfo _ _ xa _ => [.reg xa]
  | .mma _ tc a b | .mmal _ tc a b | .mrk1 _ tc a b _ => [.tile tc, .tile a, .tile b]
  | .mmas _ tc a b m => [.tile tc, .tile a, .tile b, .tile m]
  | .mmaz _ _ a b => [.tile a, .tile b]
  | .stt _ t _ _ _ => [.tile t]
  | .tcpy _ _ a => [.tile a]
  | .sendl _ _ _ _ src => objT src
  | _ => if isVec i then vReads i (vopsOf i) else []

/-- What an instruction writes (R146, R166). -/
def objWrites (i : Instr) : List Obj :=
  match i with
  | .add _ d _ _ | .sub _ d _ _ | .mul _ d _ _ | .mulh _ d _ _ | .mulhu _ d _ _ | .div _ d _ _ | .divu _ d _ _
  | .rem _ d _ _ | .remu _ d _ _ | .and _ d _ _ | .or _ d _ _ | .xor _ d _ _ | .andn _ d _ _ | .shl _ d _ _
  | .shr _ d _ _ | .sra _ d _ _ | .rotl _ d _ _ | .min _ d _ _ | .max _ d _ _ | .minu _ d _ _ | .maxu _ d _ _
  | .cmpeq _ d _ _ | .cmpne _ d _ _ | .cmplt _ d _ _ | .cmpltu _ d _ _ => [.reg d]
  | .sel _ d _ _ _ => [.reg d]
  | .addi _ d _ _ | .clz _ d _ | .ctz _ d _ | .popc _ d _ | .ext _ d _ _ _ | .extu _ d _ _ _ => [.reg d]
  | .movi _ d _ | .movk _ d _ => [.reg d]
  | .ins _ d _ _ _ => [.reg d]
  | .ld _ d _ _ _ _ => [.reg d]
  | .call _ _ => [.reg 31]
  | .scfg _ _ s _ | .srst _ s => [.stream s]
  | .ldel _ _ _ s _ => [.stream s]
  | .sget _ d _ _ | .tget _ d _ | .tick _ d | .getc _ d _ | .mtrd _ d _ => [.reg d]
  | .tcfg _ _ t => [.tile t]
  | .setc _ _ n _ => [.csr n]
  | .smcfg _ o | .swait _ o | .spost _ o | .sexp _ o => syObj o
  | .sfadd _ o | .scas _ o => .reg o.rd :: syObj o
  | .srd _ o | .rstat _ o => [.reg o.rd]
  | .rcfg _ o | .rfil _ o | .rrel _ o => syObj o
  | .rclf _ o | .rcld _ o => .reg o.rd :: syObj o
  | .tinfo _ xd _ _ => [.reg xd]
  | _ => if isVec i then vWrites i (vopsOf i) else []

/-- Two instructions of one group are dependent (R146, R166). -/
def dependent (a b : Instr) : Bool :=
  let meets (l m : List Obj) : Bool := l.any fun x => m.contains x
  meets (objWrites a) (objReads b ++ objWrites b) || meets (objWrites b) (objReads a)

/-- Stands alone in its group (R165). -/
def aloneInGroup (i : Instr) : Bool :=
  match i with
  | .idle _ _ | .rdvP _ _ | .rdvT _ _ | .safe _ | .genclr _ => true
  | _ => false

/-- Stands last in its group (R165). -/
def lastInGroup (i : Instr) : Bool :=
  match i with
  | .bz _ _ _ | .bnz _ _ _ | .j _ _ | .call _ _ | .ret _ | .loop _ _ _ _ _ _ | .ends _ => true
  | _ => false

/-- The dependency and stop bits of an instruction. -/
def preOfInstr (i : Instr) : Pre :=
  match i with
  | .nop p | .idle p _ | .ends p | .loop p _ _ _ _ _ | .add p _ _ _ | .sub p _ _ _ | .addi p _ _ _ | .mul p _ _ _
  | .mulh p _ _ _ | .mulhu p _ _ _ | .div p _ _ _ | .divu p _ _ _ | .rem p _ _ _ | .remu p _ _ _ | .and p _ _ _
  | .or p _ _ _ | .xor p _ _ _ | .andn p _ _ _ | .shl p _ _ _ | .shr p _ _ _ | .sra p _ _ _ | .rotl p _ _ _
  | .clz p _ _ | .ctz p _ _ | .popc p _ _ | .min p _ _ _ | .max p _ _ _ | .minu p _ _ _ | .maxu p _ _ _
  | .cmpeq p _ _ _ | .cmpne p _ _ _ | .cmplt p _ _ _ | .cmpltu p _ _ _ | .sel p _ _ _ _ | .movi p _ _ | .movk p _ _
  | .ext p _ _ _ _ | .extu p _ _ _ _ | .ins p _ _ _ _ | .ld p _ _ _ _ _ | .st p _ _ _ _ | .bz p _ _ | .bnz p _ _
  | .j p _ | .call p _ | .ret p | .scfg p _ _ _ | .sget p _ _ _ | .srst p _ | .ldel p _ _ _ _ | .tcfg p _ _
  | .tget p _ _ | .rdvP p _ | .rdvT p _ | .safe p | .tick p _ | .getc p _ _ | .setc p _ _ _ | .genclr p | .mtrd p _ _
  | .trap p _ | .smcfg p _ | .swait p _ | .spost p _ | .sfadd p _ | .scas p _ | .srd p _ | .sexp p _ | .sphw p _
  | .rcfg p _ | .rclf p _ | .rcld p _ | .rfil p _ | .rrel p _ | .rstat p _ | .cpt p _ | .cld p _ | .cst p _ | .ctt p _
  | .cbc p _ | .cga p _ | .csc p _ | .cfb p _ | .fspost p _ _ _ _ _ _ _ | .cfen p | .cdrn p | .tinfo p _ _ _
  | .vadd p _ | .vsub p _ | .vmul p _ | .vfma p _ | .vfms p _ | .vneg p _ | .vabs p _ | .vmin p _ | .vmax p _
  | .vminn p _ | .vmaxn p _ | .vdiv p _ | .vrcp p _ | .vsqrt p _ | .vrsq p _ | .vexp2 p _ | .vlog2 p _ | .vtanh p _
  | .vcmpeq p _ | .vcmplt p _ | .vcmple p _ | .vcmpun p _ | .vsel p _ | .vclass p _ | .viadd p _ | .visub p _
  | .vimul p _ | .vand p _ | .vor p _ | .vxor p _ | .vshl p _ | .vshr p _ | .vsra p _ | .vimin p _ | .vimax p _
  | .vmix p _ | .viota p _ | .vcvt p _ | .vqnt p _ | .vdqt p _ | .vts8 p _ | .vrsum p _ | .vrmax p _ | .vrmin p _
  | .vscan p _ | .vargmx p _ | .vmov p _ | .vbcst p _ | .vspl p _ | .vperm p _ | .vshf p _ | .vrot p _ | .vtrn p _
  | .vzip p _ | .vunz p _ | .vext p _ | .vld p _ | .vst p _ | .vgath p _ | .vscat p _ | .vcmpr p _ | .vexpd p _
  | .vmand p _ | .vmor p _ | .vmnot p _ | .vmpop p _ | .mma p _ _ _ | .mmaz p _ _ _ | .mmas p _ _ _ _ | .mmal p _ _ _
  | .mrk1 p _ _ _ _ | .ldt p _ _ | .stt p _ _ _ _ | .tzro p _ | .tcpy p _ _ | .ldsc p _ _ | .send p _ _ _ _ _
  | .sendl p _ _ _ _ | .sendm p _ _ _ _ _ => p
  | _ => {}

/-- An instruction of a group with the word offset of its word 0 and its length. -/
structure Placed where
  i : Instr
  pc : Nat
  len : Nat
  deriving DecidableEq, Repr

/-- Words decode to an instruction. -/
def decodes (e : Engine) (ws : List Nat) : Bool :=
  match decode e ws with
  | .ok _ => true
  | .error _ => false

/-- Second words of which one completes a first word that begins an instruction: small values, and for V and N the operands A
and B as a line (`.h`), as a whole register, and as another whole register (R178, R182, R221, R249). -/
def tailWords : List Nat :=
  [0, 1] ++ [0, 0x40, 0x100].flatMap fun a => [0, 0x40].map fun b => a * 2 ^ 20 + b * 2 ^ 8

/-- The first offending word of three that decode to nothing, by the first two of them (R169): word 0 where no later words make it an instruction. -/
def offending (e : Engine) (w w1 : Nat) : Nat :=
  let last : List Nat := [0, 1]
  if !(tailWords.any fun a => last.any fun b => decodes e [w, a, b]) then 0
  else if last.any fun b => decodes e [w, w1, b] then 2
  else 1

/-- The instructions of the group at word `pc`, at most `n` of them, or the offset of the first offending word (R165,
R169). -/
def readGroup (e : Engine) (code : Code) : Nat → Nat → Except Nat (List Placed)
  | 0, pc => .error pc
  | n + 1, pc =>
    match decode e [code.word pc, code.word (pc + 1), code.word (pc + 2)] with
    | .error _ => .error (pc + offending e (code.word pc) (code.word (pc + 1)))
    | .ok (i, len) =>
      if (preOfInstr i).s then .ok [⟨i, pc, len⟩]
      else
        match readGroup e code n (pc + len) with
        | .error k => .error k
        | .ok l => .ok (⟨i, pc, len⟩ :: l)

/-- The unit of a vector instruction (R222); the shared instructions use none. -/
def vUses (i : Instr) : Option VUnit :=
  match i with
  | .nop _ | .idle _ _ | .ends _ | .loop _ _ _ _ _ _ => none
  | _ => some (vUnit i)

/-- Two V instructions of a group use one unit (R222). -/
def unitClash (e : Engine) (a b : Instr) : Bool := e == .V && (vUses a).isSome && vUses a == vUses b

/-- The group rules of R165 beyond its width, R166 and R222: the offset of the first offending word, if any. R169 does not say
which word that is in a group of two that breaks one: the model names word 0 of the first instruction where that one must stand
alone or last, and else word 0 of the second (DESIGN CHOICE, notes/assumptions/121.md). -/
def groupBreach (e : Engine) (l : List Placed) : Option Nat :=
  match l with
  | [a, b] =>
    if aloneInGroup a.i || lastInGroup a.i then some a.pc
    else if aloneInGroup b.i || dependent a.i b.i || unitClash e a.i b.i then some b.pc
    else none
  | _ => none

/-- The group at word `pc` of an engine's code (R165, R166, R169). -/
def groupAt (e : Engine) (code : Code) (pc : Nat) : Except Nat (List Placed) :=
  match readGroup e code e.width pc with
  | .error k => .error k
  | .ok l =>
    match groupBreach e l with
    | some k => .error k
    | none => .ok l

/-- The engine may issue the group at which it stands: always in native code; in block code the group of the operation that it
has been given, or its ENDS (R370). -/
def Tile.runs (t : Tile) (e : Engine) : Bool :=
  match t.blk with
  | none => true
  | some b => b.ending || (b.cmd == some e && (t.engOf e).pc == b.at_)

/-- A wait that a lookahead decides, with the register that gives its amount (R18, R26, R97, R302, R304). -/
structure WaitOf where
  kind : WaitKind
  reg : Option Nat := none
  amount : Nat := 0
  deriving DecidableEq, Repr

/-- Queues between `e` and X (R18): the two are neighbours. -/
def prevIsX (e : Engine) : Bool := e.prev == .X
def nextIsX (e : Engine) : Bool := e.next == .X

/-- Waits of the dependency bits on X (R18, R26). -/
def tokenWaits (e : Engine) (p : Pre) : List WaitOf :=
  (if p.wp && prevIsX e then [{ kind := .token e true }] else []) ++
    (if p.wn && nextIsX e then [{ kind := .token e false }] else []) ++
    (if p.sp && prevIsX e then [{ kind := .room e true }] else []) ++
    if p.sn && nextIsX e then [{ kind := .room e false }] else []

/-- The wait of a C instruction itself. -/
def ownWaits (t : Tile) (i : Instr) : List WaitOf :=
  match i with
  | .swait _ o => [{ kind := .take o.index, reg := if o.imm then none else some o.rb, amount := if o.imm then o.rb else 0 }]
  | .sphw _ o => [{ kind := .phase o.index, reg := if o.imm then none else some o.rb, amount := if o.imm then o.rb else 0 }]
  | .rclf _ o => [{ kind := .claim o.index true, amount := 1 }]
  | .rcld _ o => [{ kind := .claim o.index false, amount := 1 }]
  | .rdvT _ ga => [{ kind := .pkgTime, reg := some ga }]
  | .genclr _ => if t.gen == 4095 || t.clearing.isSome then [{ kind := .clearDone }] else []
  | _ => []

/-- All waits of a static engine's group that a lookahead makes, with the position of each instruction. -/
def groupWaits (t : Tile) (e : Engine) (l : List Placed) : List (Nat × WaitOf) :=
  (List.range l.length).flatMap fun k =>
    match l[k]? with
    | none => []
    | some q => ((tokenWaits e (preOfInstr q.i)) ++ if e == .C then ownWaits t q.i else []).map fun w => (k, w)

end Sys2Proof.Machine
end

