-- ==== Sys2Proof/Machine/Cycle.lean ====
section
/-! DEFINITION. One wall cycle of a tile: the effects that perform in it, lookaheads, the admission of groups, the
collisions, the X engine's readiness and the end of the cycle (R13 to R31, R85 to R87, R99 to R101). -/

namespace Sys2Proof.Machine

/-- The instruction of a pending effect, for work that goes on. -/
def ctxOf (env : Env) (p : Pend) : Ctx :=
  { env := env, eng := p.own.eng, gid := p.own.gid, iid := p.own.iid, gpc := p.own.off, pc := p.own.off, iss := p.iss }

/-- The effect is due now in this phase: X effects by the pitch's wall cycle, all others by live local time. -/
def due (env : Env) (t : Tile) (ph : Nat) (p : Pend) : Bool :=
  p.ph == ph && (if p.own.eng == .X then p.at_ == env.wall else t.live && p.at_ == t.tl)

/-- Order of effects that perform in one cycle: of two writes to one place the later one here stands, and among writes of one
kind that of the later issue (R190, R226, R268). -/
def performRank (p : Pend) : Nat :=
  p.iss * 4 + p.own.iid % 4 + 2 ^ 80 * match p.eff with
  | .g _ _ false => 0
  | .grid _ _ .vec _ => 1
  | .grid _ _ .plane _ => 2
  | .land _ => 2
  | .grid _ _ .xfer _ => 3
  | .grid _ _ .array _ => 4
  | .g _ _ true => 5
  | _ => 0

/-- Reads and scratchpad writes have bank cycles of their own: their order is that of their staging. -/
def readRank (_ : Pend) : Nat := 0

/-- Order of the effects at the end of a cycle (R85, R86, R197, R211, R213, R214, R309). -/
def endRank (p : Pend) : Nat :=
  match p.eff with
  | .advance _ => 0
  | .loopStart _ _ _ _ _ => 1
  | .goto _ _ _ => 1
  | .expire _ _ => 1
  | .idle _ _ => 1
  | .ends _ => 1
  | .scfg _ _ _ => 2
  | .srst _ => 3
  | .ldel _ _ _ _ => 4
  | .tdesc _ _ => 5
  | .epoch _ => 6
  | .csr _ _ _ => 7
  | .vflags _ => 8
  | .mflags _ => 8
  | .tokTake _ _ => 9
  | .tokPut _ _ => 9
  | .charge _ _ _ => 10
  | .rdv _ => 11
  | .genclr => 12
  | _ => 13

/-- The loop end check of a group that ends at word `e`, with the deltas of a loop-back (R86, R196). -/
def runEndCheck (t : Tile) (eng : Engine) (e : Nat) : Tile :=
  let r := loopEndCheck (t.engOf eng) e
  let t1 := match r.2 with
    | some l => applyDeltas t (t.engOf eng) l
    | none => t
  t1.setEng eng r.1

/-- Later work of an instruction, by its engine. -/
def runJob (env : Env) (t : Tile) (p : Pend) (i : Instr) (cap : Cap) (r : Nat) : Tile :=
  match p.own.eng with
  | .V => vJob i cap r t (ctxOf env p)
  | .M => mJob i cap r t (ctxOf env p)
  | .N => nJob i cap r t (ctxOf env p)
  | .C => t
  | .X => t

/-- A token count changes by one (R16, R17). -/
def addTok (t : Tile) (k : Nat) (put : Bool) : Tile :=
  { t with tok := t.tok.setIfInBounds k (if put then at' 0 t.tok k + 1 else at' 0 t.tok k - 1) }

/-- One effect performs. -/
def applyEff (env : Env) (t : Tile) (p : Pend) : Tile :=
  match p.eff with
  | .g r v _ => t.setG r v
  | .x r v =>
    let t1 := t.setX r v
    if p.iss + 1 < p.at_ then { t1 with xs := { t1.xs with busyRegs := t1.xs.busyRegs.erase r } } else t1
  | .mask r v => t.setMask r v
  | .grid r row src bytes =>
    if src != .plane && t.cancelled r p.iss p.own.gid then t else t.gridWrite r row bytes
  | .spm bytes => (t.charge env 1 (itemsOf 64 bytes).length).spmWrite bytes
  | .side bytes => t.sideWrite bytes
  | .vflags f =>
    let t1 := { t with vflags := orFlags t.vflags f }
    if p.ph == 0 then { t1 with pend := t1.pend ++ [{ p with ph := 2 }] } else t1
  | .mflags f =>
    let t1 := { t with mflags := orFlags t.mflags f }
    if p.ph == 0 then { t1 with pend := t1.pend ++ [{ p with ph := 2 }] } else t1
  | .job i cap r => runJob env t p i cap r
  | .access i a v => cAccess i a v t (ctxOf env p)
  | .land w => landWord p.own w t
  | .advance s =>
    t.setStream s (if t.streamStale s then { at' {} t.s s with inUse := true } else (t.streamOf s).advance)
  | .goto eng none e => { runEndCheck t eng e with issued := true }
  | .goto eng (some k) _ => { t.setEng eng { t.engOf eng with pc := k } with issued := true }
  | .loopStart eng l start stop left =>
    let s := t.engOf eng
    t.setEng eng { s with
      seq := s.seq + 1
      loops := s.loops.setIfInBounds l { active := true, start := start, stop := stop, left := left, order := s.seq + 1 } }
  | .ends eng => { t.setEng eng { t.engOf eng with ended := true } with issued := true }
  | .idle eng n => { t.setEng eng { t.engOf eng with idle := n } with issued := true }
  | .expire eng e => runEndCheck t eng e
  | .tokTake e fromPrev => addTok t (tokIdx e fromPrev) false
  | .tokPut e toPrev => addTok t (outIdx e toPrev) true
  | .scfg s wsel v =>
    t.setStream s { ((t.streamOf s).setWord wsel v) with tag := t.gen, inUse := wsel != 0 && (at' {} t.s s).inUse }
  | .srst s => t.setStream s { tag := t.gen }
  | .ldel eng l s d =>
    let e := Engine.all.getD eng .C
    let st := t.engOf e
    t.setEng e { st with delta := st.delta.setIfInBounds (16 * l + s) d }
  | .tdesc r d => { t with desc := t.desc.setIfInBounds r d, descTag := t.descTag.setIfInBounds r t.gen }
  | .epoch r => t.cutEpoch r p.own.gid
  | .csr n sub v => t.setcWrite n sub v.toNat
  | .genclr => t.genClear
  | .rdv tag =>
    { t with mode := .rdv tag t.tl, rdvOff := p.own.off, looks := t.looks.filter fun l => decide (l.at_ ≤ t.tl) }
  | .charge code n cycles =>
    let t1 := t.charge env code n
    if 1 < cycles then { t1 with pend := t1.pend ++ [{ p with at_ := p.at_ + 1, eff := .charge code n (cycles - 1) }] }
    else t1

/-- Perform every effect that is due in a phase, in order of a rank. -/
def performDue (env : Env) (t : Tile) (ph : Nat) (rank : Pend → Nat) : Tile :=
  let now := sortOn rank (t.pend.filter (due env t ph))
  now.foldl (fun q p => if ph == 0 || q.pend.contains p then applyEff env { q with pend := q.pend.erase p } p else q)
    t

/-- Where a tile's wall cycle starts: the pulse, the hold, or a local cycle (R19, R27, R32, R42). -/
def tileStart (env : Env) (held : Bool) (t : Tile) : Tile :=
  let t0 := { t with banksNow := [], collided := [], issued := false, worked := false, live := false }
  match t.mode with
  | .pulse 0 => { t0 with mode := .run, reach := env.wall, live := !held }
  | .pulse (n + 1) => { t0 with mode := .pulse n }
  | .anchor 0 => { t0 with mode := .run, reach := env.wall, live := !held }
  | .anchor (n + 1) => { t0 with mode := .anchor n }
  | .run => { t0 with live := !held }
  | .rpulse 0 tag c => { t0 with mode := .rdv tag c }
  | .rpulse (n + 1) tag c => { t0 with mode := .rpulse n tag c }
  | .rdv _ _ => t0
  | .frozen => t0

/-- The beginning of a tile's wall cycle: results that perform now are in place for every later read of the cycle. -/
def tileBegin (env : Env) (t : Tile) : Tile := performDue env t 0 performRank

/-- Lookaheads: where an engine stands one cycle later if its code is followed (R26). Register-decided branches use
the registers as they stand; RDV.P, ENDS and an illegal group end the walk. -/
def walkStep (env : Env) (t : Tile) (e : Engine) (s : EngState) : EngState :=
  if s.ended || s.halted then s
  else if 0 < s.idle then
    if s.idle == 1 then (loopEndCheck { s with idle := 0 } s.pc).1 else { s with idle := s.idle - 1 }
  else
    match groupAt e (env.codeOf e) s.pc with
    | .error _ => { s with halted := true }
    | .ok l =>
      match l.getLast? with
      | none => { s with halted := true }
      | some q =>
        let last := q.pc + q.len - 1
        let go (k : Int) : EngState := { s with pc := k.toNat }
        let next := (loopEndCheck s last).1
        match q.i with
        | .idle _ n => if n ≤ 1 then next else { s with idle := n - 1 }
        | .ends _ => { s with ended := true }
        | .rdvP _ _ => { s with halted := true }
        | .bz _ ga off => if t.reg e ga == 0 then go (q.pc + off) else next
        | .bnz _ ga off => if t.reg e ga == 0 then next else go (q.pc + off)
        | .j _ off => go (q.pc + off)
        | .call _ off => go (q.pc + off)
        | .ret _ => go (t.reg e 31).toNat
        | .loop _ lvl src rc body count =>
          let n := if src then (t.reg e rc).toNat % 2 ^ 32 else count
          if n == 0 then go (q.pc + 2 + body)
          else { s with
            pc := q.pc + 2, seq := s.seq + 1
            loops := s.loops.setIfInBounds lvl
              { active := true, start := q.pc + 2, stop := q.pc + 1 + body, left := n, order := s.seq + 1 } }
        | _ => next

/-- Follow an engine's code for `n` cycles. -/
def walk (env : Env) (t : Tile) (e : Engine) : Nat → EngState → EngState
  | 0, s => s
  | n + 1, s => walk env t e n (walkStep env t e s)

/-- The group that an engine issues `n` cycles from now, if it starts one then. -/
def groupIn (env : Env) (t : Tile) (e : Engine) (n : Nat) : Option (Nat × List Placed) :=
  let s := walk env t e n (t.engOf e)
  if s.ended || s.halted || 0 < s.idle then none
  else
    match groupAt e (env.codeOf e) s.pc with
    | .error _ => none
    | .ok l => some (s.pc, l)

/-- Registers that a list of instructions writes. -/
def writtenRegs (l : List Placed) : List Nat :=
  l.flatMap fun q => (objWrites q.i).filterMap fun o => match o with
    | .reg k => some k
    | _ => none

/-- Registers that decide where C goes after a group. -/
def decidingRegs (l : List Placed) : List Nat :=
  (l.filter fun q => lastInGroup q.i).flatMap fun q => (objReads q.i).filterMap fun o => match o with
    | .reg k => some k
    | _ => none

/-- The group at which a stream state stands, if it issues one. -/
def standing (env : Env) (e : Engine) (s : EngState) : List Placed :=
  if s.ended || s.halted || 0 < s.idle then []
  else match groupAt e (env.codeOf e) s.pc with
    | .ok l => l
    | .error _ => []

/-- Registers that an engine's groups of the next `n` cycles write. -/
def writesAhead (env : Env) (t : Tile) (e : Engine) : Nat → EngState → List Nat
  | 0, _ => []
  | n + 1, s => writtenRegs (standing env e s) ++ writesAhead env t e n (walkStep env t e s)

/-- C issues an RDV.P within the next `n` cycles, and no register that decides its path on the way is still to be written:
`open'` lists the registers with writes under way (R26, R32). -/
def meetsRdv (env : Env) (t : Tile) : Nat → List Nat → EngState → Bool
  | 0, _, _ => false
  | n + 1, open', s =>
    let l := standing env .C s
    if l.any fun q => match q.i with
      | .rdvP _ _ => true
      | _ => false
    then true
    else if (decidingRegs l).any open'.contains then false
    else meetsRdv env t n (open' ++ writtenRegs l) (walkStep env t .C s)

/-- An RDV.P stops every engine of the tile before the group that issues `n` cycles from now (R32). -/
def rdvBefore (env : Env) (t : Tile) (n : Nat) : Bool :=
  let open' := t.pend.filterMap fun p => match p.eff with
    | .g r _ _ => some r
    | .access i _ _ => (objWrites i).findSome? fun o => match o with
      | .reg k => some k
      | _ => none
    | .job i _ _ => (objWrites i).findSome? fun o => match o with
      | .reg k => some k
      | _ => none
    | _ => none
  meetsRdv env t n (open' ++ writesAhead env t .V n (t.engOf .V)) (t.engOf .C)

/-- One wait of a group, looked at now for the group's issue cycle `at_` (R26, R302). -/
def makeLook (env : Env) (e : Engine) (at_ pc : Nat) (t : Tile) (kw : Nat × WaitOf) : Tile :=
  let w := kw.2
  let amount := match w.reg with
    | some r => (t.reg e r).toNat
    | none => w.amount
  let stale := match w.reg with
    | some r => t.staleTrap && t.regStale e r
    | none => false
  let ok := stale || waitHolds env t w.kind amount
  { t with looks := t.looks ++ [{ eng := e, at_ := at_, pc := pc, pos := kw.1, kind := w.kind, amount := amount,
                                  stale := stale, passed := ok }] }

/-- The engine's group of `n` cycles from now that a lookahead is for; a group of V behind an RDV.P issues in no cycle that
is known yet. -/
def lookGroup (env : Env) (t : Tile) (e : Engine) (n : Nat) : Option (Nat × List Placed) :=
  if t.blk.isSome then none else
  match groupIn env t e n with
  | some (pc, l) => if !(groupWaits t e l).isEmpty && (e == .C || !rdvBefore env t n) then some (pc, l) else none
  | none => none

/-- The lookaheads of a tile for the groups that issue `n` cycles from now: C, then V (R18, R26). -/
def lookFor (env : Env) (n : Nat) (t : Tile) : Tile :=
  [Engine.C, Engine.V].foldl (fun q e =>
    match lookGroup env q e n with
    | none => q
    | some (pc, l) => (groupWaits q e l).foldl (makeLook env e (q.tl + n) pc) q) t

/-- Whether a tile has a lookahead to make in its present local cycle. -/
def hasLook (env : Env) (t : Tile) : Bool :=
  t.live && [Engine.C, Engine.V].any fun e => (lookGroup env t e env.holdLead).isSome

/-- Lookaheads of a whole span of cycles at once, in issue order: at a placement, a re-anchor or a resume (R26, R45). -/
def lookSpan (env : Env) (t : Tile) : Nat → Tile
  | 0 => t
  | n + 1 => lookFor env n (lookSpan env t n)

/-- Failed lookaheads of a pitch that is not strict: the stop cycles they request a hold for (R27, R31). -/
def holdStops (env : Env) (t : Tile) : List Nat :=
  if env.strict then [] else (t.looks.filter fun l => !l.passed).map fun l => l.at_

/-- A failed condition is evaluated again, less what every other lookahead of the tile holds (R27, R30). Each failed wait of a
tile clears by itself (DESIGN CHOICE, notes/assumptions/113.md). -/
def recheckAt (env : Env) (t : Tile) (n : Nat) : Tile :=
  match t.looks[n]? with
  | none => t
  | some l =>
    if !l.passed && l.clear.isNone && waitHolds env { t with looks := t.looks.eraseIdx n } l.kind l.amount then
      { t with looks := t.looks.set n { l with clear := some env.wall } }
    else t

/-- A waiting tile re-evaluates its failed conditions at the end of a wall cycle, in issue order (R26, R27); the groups that
issued in it hold nothing any more. -/
def recheck (env : Env) (t : Tile) : Tile := (List.range t.looks.length).foldl (recheckAt env) t

/-- Tokens that a group takes from a queue into its engine, or puts into one of its outgoing queues. -/
def countPre (l : List Placed) (f : Pre → Bool) : Nat := (l.filter fun q => f (preOfInstr q.i)).length

/-- The lookahead that was made for one wait of a group. -/
def lookFound (t : Tile) (e : Engine) (pc : Nat) (w : Nat × WaitOf) : Option Look :=
  t.looks.find? fun k => k.eng == e && k.at_ == t.tl && k.pc == pc && k.pos == w.1 && k.kind == w.2.kind

/-- A wait that a lookahead found satisfied is so no more (R30); takes, phase waits and claims are judged with the cycle's
operations (R108). -/
def lostWait (env : Env) (t : Tile) (k : Look) : Bool :=
  match k.kind with
  | .pkgTime => !waitHolds env { t with looks := [] } .pkgTime k.amount
  | .clearDone => !(t.clearing.isNone && t.gen != 4095)
  | _ => false

/-- A claim on a ring that is not configured: it issues, and is SCRATCH_BOUNDS (R303). -/
def bareClaim (t : Tile) (k : WaitKind) : Bool :=
  match k with
  | .claim r _ => (at' {} t.ring r).slots == 0
  | _ => false

/-- Reservations for another group than the one that the engine issues in this cycle are released (R26). -/
def Tile.released (t : Tile) (e : Engine) (pc : Nat) : Tile :=
  { t with looks := t.looks.filter fun k => !(k.eng == e && k.at_ == t.tl && k.pc != pc) }

/-- A wait of a group without a lookahead fails at its issue: the waits are judged in their order, each less what the tile's
other groups have reserved and what the group's earlier waits take (R26). -/
def unseenMiss (env : Env) (t : Tile) (e : Engine) (pc : Nat) (l : List (Nat × WaitOf)) : Bool :=
  (l.foldl (fun (r : Tile × Bool) w =>
    let q := makeLook env e r.1.tl pc r.1 w
    (q, r.2 || !bareClaim r.1 w.2.kind && !(q.looks.getLast?.all Look.passed))) (t.released e pc, false)).2

/-- Tokens, or places, that a group needs in the queues of its engine: `short` a queue into it that holds too few, `full` one
out of it that holds too many. -/
def shortTok (t : Tile) (e : Engine) (p : Bool) (n : Nat) : Bool := decide (at' 0 t.tok (tokIdx e p) < n)
def fullTok (t : Tile) (e : Engine) (p : Bool) (n : Nat) : Bool := n != 0 && decide (15 < at' 0 t.tok (outIdx e p) + n)

/-- The trap of a static group whose waits on X, on semaphores and on time hold (R18, R31): SCHEDULE_MISS for a lookahead that
has failed in a strict pitch, and for a token from a static engine that is not there; TOKEN_OVERFLOW for a signal into a full
queue of a static engine. A failed lookahead for a group at which the engine does not stand raises nothing (DESIGN CHOICE,
notes/assumptions/82.md). -/
def staticTrap (env : Env) (t : Tile) (e : Engine) (pc : Nat) (l : List Placed) : Option Nat :=
  if (env.strict && t.looks.any fun k => k.eng == e && k.at_ == t.tl && k.pc == pc && !k.passed) ||
      (!prevIsX e && shortTok t e true (countPre l fun p => p.wp)) ||
      (!nextIsX e && shortTok t e false (countPre l fun p => p.wn)) then some trapMiss
  else if (!prevIsX e && fullTok t e true (countPre l fun p => p.sp)) ||
      (!nextIsX e && fullTok t e false (countPre l fun p => p.sn)) then some trapToken
  else none

/-- A wait of a static group on X, a semaphore, a ring, a time or a clear fails at its issue (R18, R26, R30). -/
def waitFails (env : Env) (t : Tile) (e : Engine) (pc : Nat) (l : List Placed) : Bool :=
  let mine := t.looks.filter fun k => k.eng == e && k.at_ == t.tl && k.pc == pc
  mine.any (lostWait env t) ||
    unseenMiss env t e pc ((groupWaits t e l).filter fun w => (lookFound t e pc w).isNone) ||
    (prevIsX e && (shortTok t e true (countPre l fun p => p.wp) || fullTok t e true (countPre l fun p => p.sp))) ||
    (nextIsX e && (shortTok t e false (countPre l fun p => p.wn) || fullTok t e false (countPre l fun p => p.sn)))

/-- The register of an RDV.T is stale in trap mode, as its lookahead found or, without one, at its issue (R302, R304). -/
def staleTime (t : Tile) (e : Engine) (pc : Nat) (l : List Placed) : Bool :=
  (t.looks.any fun k => k.eng == e && k.at_ == t.tl && k.pc == pc && k.stale && k.kind == .pkgTime) ||
    (groupWaits t e l).any fun w => (lookFound t e pc w).isNone && w.2.kind == .pkgTime && t.staleTrap && match w.2.reg with
      | some r => t.regStale e r
      | none => false

/-- The trap that keeps a static group from issuing, if any (R18, R26, R30, R31, R304). A strict pitch judges the lookaheads of
the group at which the engine stands alone (DESIGN CHOICE, notes/assumptions/82.md). -/
def admitTrap (env : Env) (t : Tile) (e : Engine) (pc : Nat) (l : List Placed) : Option Nat :=
  if staleTime t e pc l then some trapStale
  else if waitFails env t e pc l then some trapMiss
  else staticTrap env t e pc l

/-- What an engine does in a live local cycle. -/
inductive Admit where
  /-- Nothing: ended, stopped by a trap, or inside an IDLE. -/
  | quiet
  /-- The last cycle of an IDLE (R194). -/
  | expiry
  | illegal (gpc word : Nat)
  | trap (gpc code : Nat)
  | run (gpc : Nat) (l : List Placed)
  deriving DecidableEq, Repr

/-- The admission of an engine's next group (R13, R165 to R169), where `judge` finds the trap that keeps a group from
issuing. -/
def enterBy (judge : Nat → List Placed → Option Nat) (env : Env) (t : Tile) (e : Engine) : Admit :=
  let s := t.engOf e
  if !t.live || s.ended || s.halted || !t.runs e then .quiet
  else if 0 < s.idle then (if s.idle == 1 then .expiry else .quiet)
  else
    match groupAt e (env.codeOf e) s.pc with
    | .error k => .illegal s.pc k
    | .ok l =>
      match judge s.pc l with
      | some code => if t.blk.isSome && code == trapMiss then .quiet else .trap s.pc code
      | none => .run s.pc l

/-- The admission of an engine's next group. -/
def enter (env : Env) (t : Tile) (e : Engine) : Admit := enterBy (admitTrap env t e) env t e

/-- An IDLE's count goes down by one (R194). -/
def idleTick (t : Tile) (e : Engine) : Tile :=
  let s := t.engOf e
  if t.live && 0 < s.idle then t.setEng e { s with idle := s.idle - 1 } else t

/-- ILLEGAL_ENCODING found at decode (R169): nothing of the group takes effect. -/
def illegalGroup (t : Tile) (c : Ctx) : Tile := t.trap c trapIllegal

/-- Streams that move in this cycle with the access or loop-back that moves them (R86, R87). -/
def streamMoves (env : Env) (t : Tile) : List (Nat × Pend) :=
  (t.pend.filter (due env t 2)).flatMap fun p =>
    let loop (eng : Engine) (e : Nat) : List (Nat × Pend) :=
      match (loopEndCheck (t.engOf eng) e).2 with
      | some l => (deltaStreams t (t.engOf eng) l).map fun s => (s, p)
      | none => []
    match p.eff with
    | .advance s => if t.streamStale s then [] else [(s, p)]
    | .goto eng none e => loop eng e
    | .expire eng e => loop eng e
    | _ => []

/-- STREAM_COLLISION (R87): one stream moved by two engines in one cycle. -/
def streamCollisions (env : Env) (t : Tile) : Tile :=
  let mv := streamMoves env t
  let bad := mv.filter fun a => mv.any fun b => a.1 == b.1 && a.2.own.eng != b.2.own.eng
  bad.foldl (fun q a => if q.traps.any fun r => r.code == trapStreamCollision && r.tau == q.tl && r.eng == a.2.own.eng
      then q else q.trapAny a.2.own (if a.2.own.eng == .X then q.tl else a.2.iss) q.tl trapStreamCollision)
    { t with collided := bad.map fun a => a.1 }

/-- BANK_COLLISION (R99): two static accesses to one bank in one cycle, registered in each group. A landing's group is its
send's, in the sending tile. -/
def bankCollisions (t : Tile) : Tile :=
  let now := t.banks.filter fun b => b.at_ == t.tl
  let bad := now.filter fun a => decide (1 < (now.filter fun b => b.bank == a.bank).length)
  let owners := bad.foldl (fun (l : List BankUse) a => if l.any fun b => b.own == a.own then l else l ++ [a]) []
  owners.foldl (fun q a => q.trapAny a.own a.iss q.tl trapBank) t

/-- The collisions of a live cycle, the stale reads of its sends, and the banks that its static accesses use (R87, R99, R278). -/
def tileMid (env : Env) (t : Tile) : Tile :=
  if t.live then
    let t0 := bankCollisions (streamCollisions env t)
    let t1 := (t0.pend.filter (due env t0 1)).foldl trapBeat t0
    { t1 with banksNow := t1.banksNow ++ (t1.banks.filter fun b => b.at_ == t1.tl).map fun b => b.bank }
  else t

/-- Every read and scratchpad write at its bank cycle (R99). -/
def tileReads (env : Env) (t : Tile) : Tile := performDue env t 1 readRank

/-- Registers that an X instruction reads (R139, R192). -/
def xSources (i : Instr) : List Nat :=
  (objReads i).filterMap fun o => match o with
    | .reg k => some k
    | _ => none

/-- The instruction waits behind a CFEN whose copies are still open (R137). -/
def fenced (i : Instr) : Bool :=
  match i with
  | .st _ _ _ _ _ | .smcfg _ _ | .spost _ _ | .sfadd _ _ | .scas _ _ | .sexp _ _ | .rcfg _ _ | .rfil _ _ | .rrel _ _
  | .fspost _ _ _ _ _ _ _ _ => true
  | _ => false

/-- An instruction of X reads a stale register in trap mode: it has no address and waits for no bank, but issues and takes its
STALE_READ (R188; DEDUCED, notes/assumptions/125.md). -/
def xReadsStale (t : Tile) (i : Instr) : Bool :=
  t.staleTrap && (objReads i).any fun o => match o with
    | .reg r => t.regStale .X r
    | _ => false

/-- Scratchpad addresses that an LD or ST of X reads or writes in its issue cycle (R99, R206). -/
def xAddrs (t : Tile) (i : Instr) : List Nat :=
  if xReadsStale t i then []
  else match i with
  | .ld _ _ ga sz _ off => let a := lsAddr (t.reg .X ga) sz off; if lsBad a sz then [] else [a]
  | .st _ _ ga sz off => let a := lsAddr (t.reg .X ga) sz off; if lsBad a sz then [] else [a]
  | _ => []

/-- Granules of the descriptors and index list that a copy instruction reads as local X accesses (R122, R283, R288); none where
its offset is refused. -/
def xGranules (t : Tile) (i : Instr) : List Nat :=
  if xReadsStale t i then []
  else
  let at_ (a span : Nat) : List Nat :=
    if a % 64 != 0 || decide (Config.spmSize < a + span) then [] else (List.range (span / 64)).map fun k => a / 64 + k
  match i with
  | .cld _ o | .cbc _ o => at_ (xcOpS t o).toNat 64
  | .cga _ o => at_ (xcOpS t o).toNat (descSpan o.aux)
  | .cst _ o | .cfb _ o => at_ (xcOpD t o).toNat 64
  | .csc _ o => at_ (xcOpD t o).toNat (descSpan o.aux)
  | .ctt _ o => at_ (xcOpS t o).toNat 64 ++ at_ (xcOpD t o).toNat 64
  | _ => []

/-- The instruction sends a message and holds a slot until its answer (R293, R298). -/
def takesSlot (i : Instr) : Bool :=
  match i with
  | .fspost _ _ _ _ _ _ _ _ => true
  | .swait _ o | .spost _ o | .sfadd _ o | .scas _ o | .srd _ o | .sexp _ o | .sphw _ o | .rclf _ o | .rcld _ o
  | .rfil _ o | .rrel _ o | .rstat _ o => o.obj == 1 || o.obj == 2 || o.obj == 4
  | _ => false

/-- The wait of X's own local take, phase wait or claim, as the state stands before the cycle; an X take ignores
reservations (R105, R113). A stale operand register in trap mode waits for nothing: the instruction issues and traps
(R90, R188). -/
def xTakeHolds (t : Tile) (i : Instr) : Bool :=
  let s (k : Nat) : Sem := at' {} t.sem k
  let take (k n : Nat) : Bool := takeHolds t k n 0
  let n (o : SyOps) : Nat := if o.imm then o.rb else (t.reg .X o.rb).toNat
  let ring (o : SyOps) (p : Bool) : Bool :=
    let g := at' {} t.ring o.index
    g.slots == 0 || take (if p then g.freeSem else g.filledSem) 1
  let stale (o : SyOps) : Bool := t.staleTrap && !o.imm && t.regStale .X o.rb
  match i with
  | .swait _ o => o.obj != 0 || stale o || take o.index (n o)
  | .sphw _ o => o.obj != 0 || stale o || (s o.index).err || (s o.index).phase != n o % 256
  | .rclf _ o => o.obj != 3 || ring o true
  | .rcld _ o => o.obj != 3 || ring o false
  | _ => true

/-- The tokens and places that X's next instruction waits for are there (R18). -/
def xTokens (t : Tile) (p : Pre) : Bool :=
  (!p.wp || 0 < at' 0 t.tok (tokIdx .X true)) && (!p.wn || 0 < at' 0 t.tok (tokIdx .X false)) &&
    (!p.sp || decide (at' 0 t.tok (outIdx .X true) < 15)) && (!p.sn || decide (at' 0 t.tok (outIdx .X false) < 15))

/-- X's next instruction has what it needs in this wall cycle (R15, R18, R99, R126, R137, R139, R192). -/
def xReady (t : Tile) (p : Pre) (i : Instr) : Bool :=
  xTokens t p && ((xSources i).all fun r => !t.xs.busyRegs.contains r) &&
    (!fenced i || t.xs.fence.all fun k => !t.xs.copies.contains k) &&
    (match i with
      | .cdrn _ => t.xs.copies.isEmpty && t.xs.asks.isEmpty
      | _ => true) &&
    (!takesSlot i || decide (t.xs.slots < Config.slotLimit)) && xTakeHolds t i

/-- X may issue at all in this wall cycle (R15, R43, R97, R126, R129). -/
def xOpen (t : Tile) (stop : Bool) : Bool :=
  let s := t.engOf .X
  !stop && !s.ended && !s.halted && t.runs .X && !t.xs.stopped && t.xs.copying.isNone && !t.xs.lastSent && t.xs.waiting.isNone &&
    t.clearing.isNone &&
    match t.mode with
    | .pulse _ => false
    | .anchor _ => true
    | .run => true
    | .rdv _ _ => true
    | .rpulse _ _ _ => false
    | .frozen => false

/-- X already steps on at the end of this wall cycle: a wait of its own has just been answered (R298). -/
def xMoves (env : Env) (t : Tile) : Bool :=
  t.pend.any fun p => p.at_ == env.wall && match p.eff with
    | .goto .X _ _ => true
    | _ => false

/-- The granules of X's next copy instruction that have not had their bank cycle take the banks that are left, one access for
each bank (R99, R122, R288). -/
def xFetch (env : Env) (t : Tile) (stop : Bool) : Tile :=
  if !xOpen t stop || xMoves env t then t
  else
    match groupAt .X (env.codeOf .X) (t.engOf .X).pc with
    | .ok (q :: _) =>
      if !xReady t (preOfInstr q.i) q.i then t
      else (xGranules t q.i).foldl (fun z g =>
        if z.xs.fetched.contains g || z.banksNow.contains (g % 16) then z
        else { z with banksNow := g % 16 :: z.banksNow, xs := { z.xs with fetched := g :: z.xs.fetched } }) t
    | _ => t

/-- What X does in a wall cycle; `stop` says that a registered freeze or trap keeps it from issuing. -/
def xAdmit (env : Env) (t : Tile) (stop : Bool) : Admit :=
  if !xOpen t stop || xMoves env t then .quiet
  else
    let pc := (t.engOf .X).pc
    match groupAt .X (env.codeOf .X) pc with
    | .error k => if xTokens t (preOf ((env.codeOf .X).word pc)) then .illegal pc k else .quiet
    | .ok l =>
      match l.head? with
      | none => .quiet
      | some q =>
        if xReady t (preOfInstr q.i) q.i && ((xAddrs t q.i).all fun a => !t.banksNow.contains (a / 64 % 16)) &&
            (xGranules t q.i).all t.xs.fetched.contains then .run pc l
        else .quiet

/-- X is ready but its bank is busy: the cycle in which it reached the bank is kept (R101). -/
def xTried (env : Env) (t : Tile) : Tile :=
  { t with xs := { t.xs with tryAt := some (t.xs.tryAt.getD env.wall) } }

/-- The end of a tile's wall cycle: semaphores, the effects at the end of the cycle, the idle charge of a tile that is not frozen,
time (R21, R312, R426). -/
def tileEnd (env : Env) (t : Tile) : Tile :=
  let t1 := semCycle env t
  let t2 := performDue env t1 2 endRank
  let t3 := if t2.worked || t2.mode == .frozen then t2 else t2.charge env 11 1
  let t4 := { t3 with
    xs := { t3.xs with lastSent := false }
    cycActive := t3.cycActive + b2n t3.issued
    cycOwned := t3.cycOwned + b2n (t3.mode != TileMode.frozen) }
  recheck env (if t4.live then
    { t4 with
      tl := t4.tl + 1, reach := env.wall + 1
      looks := t4.looks.filter fun l => decide (t4.tl < l.at_)
      banks := t4.banks.filter fun b => decide (t4.tl < b.at_) }
  else t4)

/-- What a hard clear inside a placement zeroes and keeps (R96, R97): GEN reads 0 until it ends. -/
def Tile.hardClear (t : Tile) : Tile :=
  { t with
    spm := [], spmTag := [], grid := [], gridTag := [], side := [], sideTag := []
    desc := Vector.replicate 16 {}, descTag := Vector.replicate 16 0, epoch := Vector.replicate 16 1
    g := Vector.replicate 32 {}, xr := Vector.replicate 16 {}, m := Vector.replicate 8 {}
    s := t.s.map fun r => { inUse := r.inUse }
    sem := Vector.replicate 64 {}, ring := Vector.replicate 16 {}, gen := 0, maxGen := 0 }

/-- The end of a hard clear inside a placement (R97): GEN becomes 1. -/
def Tile.clearEnd (t : Tile) : Tile := { t with clearing := none, cleared := true, gen := 1, maxGen := Nat.max t.maxGen 1 }

/-- A failed lookahead of a GENCLR for the present local cycle, whose condition has not cleared (R97). -/
def clearAsked (t : Tile) (l : Look) : Bool := l.kind == .clearDone && !l.passed && l.clear.isNone && l.at_ == t.tl

/-- C stands on a GENCLR that needs a hard clear. -/
def standsOnClear (env : Env) (t : Tile) : Bool :=
  t.gen == 4095 && (standing env .C (t.engOf .C)).any fun q => match q.i with
    | .genclr _ => true
    | _ => false

/-- A tile held at the stop cycle of a GENCLR that needs a hard clear starts it (R88, R97; notes/assumptions/30.md), and so does
one whose block code has come to it. Where C has come to another group, the wait is over. -/
def clearStart (env : Env) (t : Tile) : Tile :=
  if t.blk.isSome then
    if t.mode == .run && t.clearing.isNone && t.runs .C && standsOnClear env t then { t.hardClear with clearing := some 12800 }
    else t
  else if t.live || t.mode != .run || env.strict || t.clearing.isSome || !(t.looks.any (clearAsked t)) then t
  else if standsOnClear env t then { t.hardClear with clearing := some 12800 }
  else { t with looks := t.looks.map fun l => if clearAsked t l then { l with clear := some env.wall } else l }

/-- One wall cycle of a hard clear that runs in a tile (R96, R97), with the charge of the granule that it writes (R425);
`true` when it ends. -/
def clearTick (env : Env) (t : Tile) : Tile × Bool :=
  match t.clearing with
  | some (n + 2) => ({ (if 512 ≤ n + 1 then t.charge env 1 1 else t) with clearing := some (n + 1) }, false)
  | some _ => (t, true)
  | none => (clearStart env t, false)

end Sys2Proof.Machine
end

