-- ==== Sys2Proof/Machine/Issue.lean ====
section
/-! DEFINITION. The issue of every tile instruction: what it reads, stages and traps on in its tile, by the operations of
its family. Events have no issue. -/

namespace Sys2Proof.Machine

/-- The issue of an instruction in a tile. -/
def issueOf (i : Instr) (t : Tile) (c : Ctx) : Tile :=
  match i with
  | .nop p => issue p t c fun q => chargeCtl q c
  | .idle p n => issueCtl p t c fun q => idleIssue n q c
  | .ends p => issueCtl p t c fun q => endsIssue q c
  | .loop p lvl src rc body count => issueCtl p t c fun q => loopIssue lvl src rc body count q c
  | .add p gd ga gb => issue p t c fun q => regOp2 q c gd ga gb (fun a b => a + b)
  | .sub p gd ga gb => issue p t c fun q => regOp2 q c gd ga gb (fun a b => a - b)
  | .addi p gd ga imm => issue p t c fun q => regOp1 q c gd ga fun a => a + wrap64 imm
  | .mul p gd ga gb => issue p t c fun q => regOp2 q c gd ga gb (fun a b => a * b)
  | .mulh p gd ga gb => issue p t c fun q => regOp2 q c gd ga gb (fun a b => wrap64 (a.toInt * b.toInt / 2 ^ 64))
  | .mulhu p gd ga gb =>
    issue p t c fun q => regOp2 q c gd ga gb (fun a b => BitVec.ofNat 64 (a.toNat * b.toNat / 2 ^ 64))
  | .div p gd ga gb => issue p t c fun q => regOp2 q c gd ga gb divS
  | .divu p gd ga gb => issue p t c fun q => regOp2 q c gd ga gb divU
  | .rem p gd ga gb => issue p t c fun q => regOp2 q c gd ga gb remS
  | .remu p gd ga gb => issue p t c fun q => regOp2 q c gd ga gb remU
  | .and p gd ga gb => issue p t c fun q => regOp2 q c gd ga gb (fun a b => a &&& b)
  | .or p gd ga gb => issue p t c fun q => regOp2 q c gd ga gb (fun a b => a ||| b)
  | .xor p gd ga gb => issue p t c fun q => regOp2 q c gd ga gb (fun a b => a ^^^ b)
  | .andn p gd ga gb => issue p t c fun q => regOp2 q c gd ga gb (fun a b => a &&& ~~~b)
  | .shl p gd ga gb => issue p t c fun q => regOp2 q c gd ga gb (fun a b => a <<< amount b)
  | .shr p gd ga gb => issue p t c fun q => regOp2 q c gd ga gb (fun a b => a >>> amount b)
  | .sra p gd ga gb => issue p t c fun q => regOp2 q c gd ga gb (fun a b => a.sshiftRight (amount b))
  | .rotl p gd ga gb => issue p t c fun q => regOp2 q c gd ga gb (fun a b => rotl64 a (amount b))
  | .clz p gd ga => issue p t c fun q => regOp1 q c gd ga (fun a => BitVec.ofNat 64 (clz64 a))
  | .ctz p gd ga => issue p t c fun q => regOp1 q c gd ga (fun a => BitVec.ofNat 64 (ctz64 a))
  | .popc p gd ga => issue p t c fun q => regOp1 q c gd ga (fun a => BitVec.ofNat 64 (popc64 a))
  | .min p gd ga gb => issue p t c fun q => regOp2 q c gd ga gb (fun a b => if a.slt b then a else b)
  | .max p gd ga gb => issue p t c fun q => regOp2 q c gd ga gb (fun a b => if b.slt a then a else b)
  | .minu p gd ga gb => issue p t c fun q => regOp2 q c gd ga gb (fun a b => if a < b then a else b)
  | .maxu p gd ga gb => issue p t c fun q => regOp2 q c gd ga gb (fun a b => if b < a then a else b)
  | .cmpeq p gd ga gb => issue p t c fun q => regOp2 q c gd ga gb (fun a b => boolWord (a == b))
  | .cmpne p gd ga gb => issue p t c fun q => regOp2 q c gd ga gb (fun a b => boolWord (a != b))
  | .cmplt p gd ga gb => issue p t c fun q => regOp2 q c gd ga gb (fun a b => boolWord (a.slt b))
  | .cmpltu p gd ga gb => issue p t c fun q => regOp2 q c gd ga gb (fun a b => boolWord (decide (a < b)))
  | .sel p gd ga gb gc =>
    issue p t c fun q => regOp q c [ga, gb, gc] gd fun s => if s.reg c.eng gc != 0 then s.reg c.eng ga else s.reg c.eng gb
  | .movi p gd imm => issue p t c fun q => regOp q c [] gd fun _ => wrap64 (toSigned 32 imm)
  | .movk p gd imm => issue p t c fun q => regOp1 q c gd gd fun a => BitVec.ofNat 64 (imm * 2 ^ 32 + a.toNat % 2 ^ 32)
  | .ext p gd ga len pos =>
    issue p t c fun q => regOp1 q c gd ga fun a => wrap64 (toSigned (len + 1) (fieldOf a len pos))
  | .extu p gd ga len pos => issue p t c fun q => regOp1 q c gd ga fun a => BitVec.ofNat 64 (fieldOf a len pos)
  | .ins p gd ga len pos => issue p t c fun q => regOp2 q c gd gd ga fun d a => insertField d a len pos
  | .ld p gd ga sz sx off =>
    issue p t c fun q => if c.eng == .X then ldIssueX gd ga sz sx off q c else lsIssueC (.ld p gd ga sz sx off) [ga] ga sz off ga q c
  | .st p gs ga sz off =>
    issue p t c fun q => if c.eng == .X then stIssueX gs ga sz off q c else lsIssueC (.st p gs ga sz off) [gs, ga] ga sz off gs q c
  | .bz p ga off => issueCtl p t c fun q => branchIssue ga off true q c
  | .bnz p ga off => issueCtl p t c fun q => branchIssue ga off false q c
  | .j p off => issueCtl p t c fun q => jumpIssue off q c
  | .call p off => issueCtl p t c fun q => callIssue off q c
  | .ret p => issueCtl p t c fun q => retIssue q c
  | .scfg p ga s wsel => issue p t c fun q => scfgIssue ga s wsel q c
  | .sget p gd s wsel => issue p t c fun q => sgetIssue gd s wsel q c
  | .srst p s => issue p t c fun q => (chargeCtl q c).stage c q.tl 2 (.srst s)
  | .ldel p eng lvl s delta => issue p t c fun q => (chargeCtl q c).stage c q.tl 2 (.ldel eng lvl s delta)
  | .tcfg p ga r => issue p t c fun q => tcfgIssue ga r q c
  | .tget p gd r => issue p t c fun q => tgetIssue gd r q c
  | .rdvP p tag => issue p t c fun q => rdvpIssue tag q c
  | .rdvT p _ => issue p t c fun q => rdvtIssue q c
  | .safe p => issue p t c fun q => chargeCtl q c
  | .tick p gd => issue p t c fun q => regOp q c [] gd fun s => BitVec.ofNat 64 (s.tl + c.env.off s.x s.y)
  | .getc p gd csr => issue p t c fun q => regOp q c [] gd fun s => csrRead s c.env csr
  | .setc p gs csr sub => issue p t c fun q => setcIssue gs csr sub q c
  | .genclr p => issue p t c fun q => genclrIssue q c
  | .mtrd p gd num => issue p t c fun q => regOp q c [] gd fun s => BitVec.ofNat 64 (meterRead s num)
  | .trap p code => issue p t c fun q => trapIssue code (chargeCtl q c) c
  | .smcfg p o =>
    syIssue p o [o.ra, o.rb] none (fun q => .config o.index ((q.reg c.eng o.ra).toNat % 2 ^ 32) ((q.reg c.eng o.rb).toNat % 2 ^ 32) (o.mode % 2 == 1)) t c
  | .swait p o => syWait p o true none (fun n => .take o.index n) t c
  | .spost p o => syIssue p o (syRegs c o true) none (fun q => .post o.index (syAmount q c o)) t c
  | .sfadd p o =>
    syIssue p o (syRegs c o true) (some o.rd) (fun q => .fadd o.index (if o.imm then toSigned 5 o.rb else (q.reg c.eng o.rb).toInt)) t c
  | .scas p o =>
    syIssue p o (o.ra :: syRegs c o true) (some o.rd) (fun q => .cas o.index (q.reg c.eng o.ra).toNat (syAmount q c o)) t c
  | .srd p o => syIssue p o (syRegs c o false) (some o.rd) (fun _ => .read o.index (o.mode % 2)) t c
  | .sexp p o => syIssue p o (syRegs c o true) none (fun q => .exp o.index (syAmount q c o)) t c
  | .sphw p o => syWait p o true none (fun n => .phaseWait o.index n) t c
  | .rcfg p o => syIssue p o [o.ra] none (fun q => .ringConfig o.index (q.reg c.eng o.ra)) t c
  | .rclf p o => syWait p o false (some o.rd) (fun _ => .claim o.index true) t c
  | .rcld p o => syWait p o false (some o.rd) (fun _ => .claim o.index false) t c
  | .rfil p o => syIssue p o (syRegs c o false) none (fun _ => .give o.index true) t c
  | .rrel p o => syIssue p o (syRegs c o false) none (fun _ => .give o.index false) t c
  | .rstat p o => syIssue p o (syRegs c o false) (some o.rd) (fun _ => .ringRead o.index (o.mode % 2)) t c
  | .cpt p o => cptIssue p (.cpt p o) o t c
  | .cld p o => loadIssue p (.cld p o) o false t c
  | .cst p o => storeIssue p (.cst p o) o false t c
  | .ctt p o => cttIssue p (.ctt p o) o t c
  | .cbc p o => cbcIssue p (.cbc p o) o t c
  | .cga p o => loadIssue p (.cga p o) o true t c
  | .csc p o => storeIssue p (.csc p o) o true t c
  | .cfb p o => cfbIssue p (.cfb p o) o t c
  | .fspost p xp xa pr ar index pkg amt => fspostIssue p xp xa pr ar index pkg amt t c
  | .cfen p => cfenIssue p t c
  | .cdrn p => issue p t c fun q => chargeCtl q c
  | .tinfo p xd xa word => tinfoIssue p xd xa word t c
  | .vadd p o => issue p t c fun q => vIssue (.vadd p o) q c
  | .vsub p o => issue p t c fun q => vIssue (.vsub p o) q c
  | .vmul p o => issue p t c fun q => vIssue (.vmul p o) q c
  | .vfma p o => issue p t c fun q => vIssue (.vfma p o) q c
  | .vfms p o => issue p t c fun q => vIssue (.vfms p o) q c
  | .vneg p o => issue p t c fun q => vIssue (.vneg p o) q c
  | .vabs p o => issue p t c fun q => vIssue (.vabs p o) q c
  | .vmin p o => issue p t c fun q => vIssue (.vmin p o) q c
  | .vmax p o => issue p t c fun q => vIssue (.vmax p o) q c
  | .vminn p o => issue p t c fun q => vIssue (.vminn p o) q c
  | .vmaxn p o => issue p t c fun q => vIssue (.vmaxn p o) q c
  | .vdiv p o => issue p t c fun q => vIssue (.vdiv p o) q c
  | .vrcp p o => issue p t c fun q => vIssue (.vrcp p o) q c
  | .vsqrt p o => issue p t c fun q => vIssue (.vsqrt p o) q c
  | .vrsq p o => issue p t c fun q => vIssue (.vrsq p o) q c
  | .vexp2 p o => issue p t c fun q => vIssue (.vexp2 p o) q c
  | .vlog2 p o => issue p t c fun q => vIssue (.vlog2 p o) q c
  | .vtanh p o => issue p t c fun q => vIssue (.vtanh p o) q c
  | .vcmpeq p o => issue p t c fun q => vIssue (.vcmpeq p o) q c
  | .vcmplt p o => issue p t c fun q => vIssue (.vcmplt p o) q c
  | .vcmple p o => issue p t c fun q => vIssue (.vcmple p o) q c
  | .vcmpun p o => issue p t c fun q => vIssue (.vcmpun p o) q c
  | .vsel p o => issue p t c fun q => vIssue (.vsel p o) q c
  | .vclass p o => issue p t c fun q => vIssue (.vclass p o) q c
  | .viadd p o => issue p t c fun q => vIssue (.viadd p o) q c
  | .visub p o => issue p t c fun q => vIssue (.visub p o) q c
  | .vimul p o => issue p t c fun q => vIssue (.vimul p o) q c
  | .vand p o => issue p t c fun q => vIssue (.vand p o) q c
  | .vor p o => issue p t c fun q => vIssue (.vor p o) q c
  | .vxor p o => issue p t c fun q => vIssue (.vxor p o) q c
  | .vshl p o => issue p t c fun q => vIssue (.vshl p o) q c
  | .vshr p o => issue p t c fun q => vIssue (.vshr p o) q c
  | .vsra p o => issue p t c fun q => vIssue (.vsra p o) q c
  | .vimin p o => issue p t c fun q => vIssue (.vimin p o) q c
  | .vimax p o => issue p t c fun q => vIssue (.vimax p o) q c
  | .vmix p o => issue p t c fun q => vIssue (.vmix p o) q c
  | .viota p o => issue p t c fun q => vIssue (.viota p o) q c
  | .vcvt p o => issue p t c fun q => vIssue (.vcvt p o) q c
  | .vqnt p o => issue p t c fun q => vIssue (.vqnt p o) q c
  | .vdqt p o => issue p t c fun q => vIssue (.vdqt p o) q c
  | .vts8 p o => issue p t c fun q => vIssue (.vts8 p o) q c
  | .vrsum p o => issue p t c fun q => vIssue (.vrsum p o) q c
  | .vrmax p o => issue p t c fun q => vIssue (.vrmax p o) q c
  | .vrmin p o => issue p t c fun q => vIssue (.vrmin p o) q c
  | .vscan p o => issue p t c fun q => vIssue (.vscan p o) q c
  | .vargmx p o => issue p t c fun q => vIssue (.vargmx p o) q c
  | .vmov p o => issue p t c fun q => vIssue (.vmov p o) q c
  | .vbcst p o => issue p t c fun q => vIssue (.vbcst p o) q c
  | .vspl p o => issue p t c fun q => vIssue (.vspl p o) q c
  | .vperm p o => issue p t c fun q => vIssue (.vperm p o) q c
  | .vshf p o => issue p t c fun q => vIssue (.vshf p o) q c
  | .vrot p o => issue p t c fun q => vIssue (.vrot p o) q c
  | .vtrn p o => issue p t c fun q => vIssue (.vtrn p o) q c
  | .vzip p o => issue p t c fun q => vIssue (.vzip p o) q c
  | .vunz p o => issue p t c fun q => vIssue (.vunz p o) q c
  | .vext p o => issue p t c fun q => vIssue (.vext p o) q c
  | .vld p o => issue p t c fun q => vIssue (.vld p o) q c
  | .vst p o => issue p t c fun q => vIssue (.vst p o) q c
  | .vgath p o => issue p t c fun q => vIssue (.vgath p o) q c
  | .vscat p o => issue p t c fun q => vIssue (.vscat p o) q c
  | .vcmpr p o => issue p t c fun q => vIssue (.vcmpr p o) q c
  | .vexpd p o => issue p t c fun q => vIssue (.vexpd p o) q c
  | .vmand p o => issue p t c fun q => vIssue (.vmand p o) q c
  | .vmor p o => issue p t c fun q => vIssue (.vmor p o) q c
  | .vmnot p o => issue p t c fun q => vIssue (.vmnot p o) q c
  | .vmpop p o => issue p t c fun q => vIssue (.vmpop p o) q c
  | .mma p tc ta tb => issue p t c fun q => arrayIssue .mma tc ta tb q c
  | .mmaz p tc ta tb => issue p t c fun q => arrayIssue .mmaz tc ta tb q c
  | .mmas p tc ta tb tm => issue p t c fun q => arrayIssue (.mmas tm) tc ta tb q c
  | .mmal p tc ta tb => issue p t c fun q => arrayIssue .mmal tc ta tb q c
  | .mrk1 p tc ta tb idx => issue p t c fun q => arrayIssue (.mrk1 idx) tc ta tb q c
  | .ldt p r s => issue p t c fun q => ldtIssue (.ldt p r s) r s q c
  | .stt p r s sat rnd => issue p t c fun q => sttIssue (.stt p r s sat rnd) r s rnd q c
  | .tzro p tc => issue p t c fun q => tzroIssue tc q c
  | .tcpy p tc ta => issue p t c fun q => tcpyIssue (.tcpy p tc ta) tc ta q c
  | .ldsc p r s => issue p t c fun q => ldscIssue (.ldsc p r s) r s q c
  | .send p dx dy s off len => issue p t c fun q => sendIssue (.send p dx dy s off len) dx dy s off len q c
  | .sendl p dx dy dst src => issue p t c fun q => sendlIssue dx dy dst src q c
  | .sendm p dx dy s off len => issue p t c fun q => sendIssue (.sendm p dx dy s off len) dx dy s off len q c
  | .idleCountExpiry | .rendezvousResume _ | .hardClearDone _ _ | .lookahead _ _ | .holdRelease _ _
  | .freezeRequestPost _ _ | .graceWindowExpiry _ | .freeze _ | .pitchResume _ | .pitchPlacement _
  | .generationWrapClear _ | .pitchMove _ | .pitchComplete _ | .illegalEncoding | .copyRequestDispatch _
  | .translationWalkDone _ | .faultQueueWrite _ _ _ | .copySourceRead _ _ | .copyPartArrival _ _
  | .tensorWritePerform _ _ | .copyComplete _ | .remoteSyncArrival _ | .remoteSyncReply _ | .sliceSemOp _
  | .fabricPostDelivery _ _ _ | .fabricPostAck _ _ | .remoteFailureReport _ | .hbmUncorrectableRead _ _
  | .pcieCompletionError _ _ | .slowPathLossReport _ _ | .seamFault _ _ _ | .seamLaneThreshold _ _ _
  | .seamServiceRepair _ | .copyPlaneCrossingDown _ _ | .sramCorrectedError _ | .sramUncorrectableError _ _
  | .quantumEnd _ | .launchReady _ | .descriptorRead _ _ | .chTailWrite _ _ _ | .chainEnable _ _ _
  | .chainDisable _ _ _ | .chCancel _ _ _ | .xctlResume _ _ | .xctlFatal _ _ | .ptDataWrite _ _ | .shootdownGo _ _
  | .shootdownDone _ | .tensorEntryStage _ _ _ _ | .tensorEntryCommit _ _ _ | .sliceSemSet _ _ _
  | .sliceSemHostPost _ _ _ | .debugRead _ _ | .debugWrite _ _ | .debugAccessDone _ | .mbLock _ | .mbUnlock _
  | .mbLockTimeout | .sliceCreate _ | .sliceDestroy _ | .sliceResize _ | .sliceParams _ | .debugGrant _ | .purseSet _
  | .attest _ | .fwStageBoot _ | .fwStageFlash _ | .mbBadCmd _ _ | .mbCommandComplete | .pfFlr | .pkgWrite _
  | .rcCfgEnable _ | .rcIntWrite _ | .rcHeadWrite _ | .registerWrite _ _ _ _ | .tdispLockInterface _ | .tdispRun _
  | .tdispError _ | .boot | .powerCut | .powerCapTick | .stepChange | .tillMsAccounting | .chargeArrival _
  | .purseResumeThreshold | .receiptIntervalEnd | .receiptBatchRelease | .sweepChunkDone _ | .fabricFlitReceive _ _
  | .fabricNackReceive _ _ | .fabricKeyRotation _ _ _ => t

end Sys2Proof.Machine
end

