-- ==== Sys2Proof/Machine/Sequence.lean ====
section
/-! DEFINITION. Block code in a tile (R364 to R372): its operations one after another, the commit of a block and its exit. -/

namespace Sys2Proof.Machine

/-- Waiting operations (R370). -/
def blockWaits (i : Instr) : Bool :=
  match i with
  | .swait _ _ | .sphw _ _ | .rclf _ _ | .rcld _ _ | .rdvP _ _ | .cdrn _ => true
  | _ => false

/-- The operation's result comes from outside the tile, so it acts there before the block commits. -/
def asksOutside (i : Instr) : Bool :=
  match i with
  | .sfadd _ _ | .scas _ _ | .srd _ _ | .rstat _ _ => takesSlot i
  | _ => false

/-- The operation reads or writes a semaphore or ring of its own tile. -/
def touchesSync (i : Instr) : Bool := (objReads i ++ objWrites i).any fun o => match o with
  | .sem _ => true
  | .ring _ => true
  | _ => false

/-- The register that holds an operation's result. -/
def resultReg (i : Instr) : Option Nat := (objWrites i).findSome? fun o => match o with
  | .reg r => some r
  | _ => none

/-- What a block keeps for its commit (R370). -/
def Sig.waitsForCommit (g : Sig) : Bool :=
  match g with
  | .copy _ _ _ _ _ _ _ _ _ => true
  | .remote _ _ _ _ _ _ => true
  | .slice _ _ _ _ _ => true
  | .fpost _ _ _ _ => true
  | .word _ _ _ _ _ => false
  | .link _ _ _ _ _ => false
  | .reply _ _ _ => false
  | .refused _ _ => false

namespace Tile

/-- Semaphores and rings that the tile's block has changed are not seen outside before its commit (R370): remote operations on
them wait, through a freeze too (R372). -/
def locked (t : Tile) : Bool :=
  match t.blk with
  | some b => b.dirty
  | none => false

/-- Everything that the tile's own operations do has performed, and its units are free. -/
def drained (t : Tile) : Bool :=
  t.pend.isEmpty && (t.semOps.all fun o => o.src != .c && o.src != .x) && t.xs.waiting.isNone && t.xs.copying.isNone &&
    t.xs.busyRegs.isEmpty && Engine.all.all fun e =>
      (t.engOf e).idle == 0 && decide ((t.engOf e).busyA ≤ t.tl) && decide ((t.engOf e).busyB ≤ t.tl)

/-- What an operation sends out of its tile is kept for the commit (R370). -/
def holdBack (t : Tile) : Tile :=
  match t.blk with
  | none => t
  | some b =>
    if b.cmd.isNone || b.direct then t
    else
      let mine := t.out.filter Sig.waitsForCommit
      { t with out := t.out.filter fun g => !g.waitsForCommit, blk := some { b with held := b.held ++ mine.map .sig } }

/-- The oldest thing that a block keeps becomes visible (R370): X takes one copy at a time, a message needs a slot, and behind a
CFEN everything waits for the copies before it (R126, R137, R298). Once nothing is kept, the tile's semaphores and rings are seen.
`stop` says that X issues nothing. -/
def emit (t : Tile) (b : BlockRun) (stop : Bool) : Tile :=
  match b.held with
  | [] => { t with blk := some { b with dirty := false } }
  | .fence :: r => if t.xs.copies.isEmpty && t.xs.copying.isNone then { t with blk := some { b with held := r } } else t
  | .sig g :: r =>
    let isCopy : Bool := match g with
      | .copy _ _ _ _ _ _ _ _ _ => true
      | _ => false
    let free := if isCopy then t.xs.copying.isNone else decide (t.xs.slots < Config.slotLimit)
    let own : Bool := match g with
      | .remote x y _ _ _ _ => x == t.x && y == t.y
      | _ => false
    if stop || t.xs.stopped || !free then t
    else { t with out := t.out ++ [g], blk := some { b with held := r, self := b.self || own } }

/-- An operation is given to its engine: its slots in registers, the engine at its group (R367). One that reads or writes the
tile's semaphores or rings shuts them to the outside first. -/
def command (t : Tile) (b : BlockRun) (st : BlockStep) (e : Engine) (i : Instr) : Tile :=
  let pc := ((st.groups.find? fun q => q.1 == e.idx).map fun q => q.2).getD 0
  let t1 := st.feeds.foldl (fun z q =>
    let v := b.res.getD q.2 0
    if e == .X then z.setX (q.1 + 1) v else z.setG (q.1 + 1) v) t
  let direct := blockWaits i || asksOutside i
  { t1.setEng e { t1.engOf e with pc := pc } with
    blk := some { b with cmd := some e, at_ := pc, direct := direct, dirty := b.dirty || (touchesSync i && !direct) } }

end Tile

namespace BlockRun

/-- The operation at hand ends with a result (R367, R368). -/
def next (b : BlockRun) (v : Word) : BlockRun := { b with op := b.op + 1, res := b.res ++ [v], cmd := none, direct := false }

/-- An operation runs, by its predicate (R364). -/
def goes (b : BlockRun) (st : BlockStep) : Bool :=
  if st.pmode == 0 then true else if st.pmode == 1 then b.res.getD st.pred 0 != 0 else b.res.getD st.pred 0 == 0

/-- What the block keeps must be seen before an operation may act: outside the tile, or on an object of the tile that a
message to the tile itself is to reach first (R138, R370). -/
def mustCommit (b : BlockRun) (t : Tile) (i : Instr) : Bool :=
  let own : Bool := b.held.any fun h => match h with
    | .sig (.remote x y _ _ _ _) => x == t.x && y == t.y
    | _ => false
  (asksOutside i && (!b.held.isEmpty || b.dirty)) || (touchesSync i && (own || (b.self && !t.xs.asks.isEmpty)))

end BlockRun

/-- Step 3 and 4 of R370: what the block keeps becomes visible, then its LIVEOUTs stand and its exit is taken. -/
def commitTurn (steps : List BlockStep) (stop : Bool) (b : BlockRun) (t : Tile) : Tile :=
  if !b.held.isEmpty then t.emit b stop
  else
    let live := b.outs.foldl (fun v q => v.setIfInBounds q.1 q.2) b.live
    match b.exit with
    | none => t
    | some (j, target) =>
      if target == 0xFFF then
        let t1 := (steps.getD j {}).groups.foldl (fun (z : Tile) q =>
          let e := Engine.all.getD q.1 .C
          z.setEng e { z.engOf e with pc := q.2 }) t
        { t1 with blk := some { b with live := live, outs := [], ending := true, dirty := false } }
      else
        { t with
          blk := some { b with live := live, blk := target, op := 0, res := [], outs := [], exit := none, dirty := false } }

/-- An operation's turn: what does not run delivers 0 (R368); a native operation goes to its engine, behind operations from
outside that act on the tile's semaphores in this cycle. -/
def runTurn (st : BlockStep) (stop : Bool) (b : BlockRun) (t : Tile) : Tile :=
  if !b.goes st then { t with blk := some (b.next 0) }
  else
    match st.act with
    | .const v => { t with blk := some (b.next v) }
    | .liveIn k => { t with blk := some (b.next (at' 0 b.live k)) }
    | .liveOut k =>
      let v := match st.feeds.head? with
        | some q => b.res.getD q.2 0
        | none => 0
      { t with blk := some { b.next 0 with outs := b.outs ++ [(k, v)] } }
    | .exit target => { t with blk := some { b.next 0 with exit := some (b.exit.getD (b.op, target)) } }
    | .native e i =>
      if b.mustCommit t i then t.emit b stop
      else if touchesSync i && !t.semOps.isEmpty then t
      else t.command b st e i

/-- A native operation is over once it has issued and everything it does in the tile has performed: its result goes to its
consumers (R370). -/
def collectTurn (st : BlockStep) (e : Engine) (b : BlockRun) (t : Tile) : Tile :=
  match st.act with
  | .native _ i =>
    if (t.engOf e).pc == b.at_ || !t.drained then t
    else
      let v := match resultReg i with
        | some r => t.reg e r
        | none => 0
      let fence : List Held := match i with
        | .cfen _ => [.fence]
        | _ => []
      { t with blk := some { b.next v with held := b.held ++ fence } }
  | _ => t

/-- ONE TURN OF BLOCK CODE IN A TILE (R370): in a wall cycle that the translator's schedule leaves open (`go`), its block goes on
by one operation or one effect of its commit. A trap stops it (R372). -/
def blockTurn (env : Env) (stop go : Bool) (t : Tile) : Tile :=
  match t.blk with
  | none => t
  | some b =>
    if !go || !t.live || !t.traps.isEmpty || t.clearing.isSome || b.ending then t
    else
      let steps := env.prog.getD b.blk []
      match steps[b.op]?, b.cmd with
      | none, _ => commitTurn steps stop b t
      | some st, some e => collectTurn st e b t
      | some st, none => runTurn st stop b t

end Sys2Proof.Machine
end

