-- ==== Sys2Proof/Machine/Digest.lean ====
section
/-! DEFINITION. SHA-256, HMAC-SHA-256 and `expand` (R352, R419, R437, R440), on byte lists. The manual names the functions;
FIPS 180-4 and RFC 2104 define them (notes/assumptions/42.md). -/

namespace Sys2Proof.Machine

/-- A word of the hash. -/
abbrev Word32 := BitVec 32

/-- Big-endian number of bytes. -/
def beNat (l : List Byte) : Nat := l.foldl (fun z b => z * 256 + b.toNat) 0

/-- The low `n` bytes of a number, big-endian. -/
def beBytes (n v : Nat) : List Byte := (leBytes n v).reverse

/-- The greatest `r + x` with x below 2^n whose power `e` is at most `v`. -/
def rootBelow (e v : Nat) : Nat → Nat → Nat
  | 0, r => r
  | n + 1, r => rootBelow e v n (if (r + 2 ^ n) ^ e ≤ v then r + 2 ^ n else r)

/-- The first 32 bits of the fraction of the e-th root of a number: FIPS 180-4 takes its constants from these. -/
def rootFraction (e p : Nat) : Word32 := BitVec.ofNat 32 (rootBelow e (p * 2 ^ (32 * e)) 40 0)

/-- The first 64 primes. -/
def shaPrimes : List Nat :=
  ((List.range 312).filter fun n => decide (2 ≤ n) && (List.range n).all fun d => decide (d < 2) || n % d != 0).take 64

/-- The constant of every round: cube roots of the primes. -/
def shaConstants : List Word32 := shaPrimes.map (rootFraction 3)

/-- The hash that a message starts from: square roots of the first eight primes. -/
def shaStart : List Word32 := (shaPrimes.take 8).map (rootFraction 2)

/-- A word turned right by each of some amounts, all summed bit by bit. -/
def turns (amounts : List Nat) (x : Word32) : Word32 := amounts.foldl (fun z n => z ^^^ x.rotateRight n) 0

/-- What a block's hashing carries from round to round: eight working words, and the next sixteen words of the schedule. -/
structure ShaRun where
  work : List Word32
  sched : List Word32
  deriving DecidableEq, Repr

/-- One round with its constant; the schedule moves on by one word. -/
def ShaRun.round (s : ShaRun) (k : Word32) : ShaRun :=
  let v (i : Nat) : Word32 := s.work.getD i 0
  let w (i : Nat) : Word32 := s.sched.getD i 0
  let pick := v 6 ^^^ (v 4 &&& (v 5 ^^^ v 6))
  let most := (v 0 &&& v 1) ||| (v 2 &&& (v 0 ||| v 1))
  let t := v 7 + turns [6, 11, 25] (v 4) + pick + k + w 0
  let grow := w 0 + (turns [7, 18] (w 1) ^^^ w 1 >>> 3) + w 9 + (turns [17, 19] (w 14) ^^^ w 14 >>> 10)
  { work := (t + turns [2, 13, 22] (v 0) + most) :: ((s.work.take 7).set 3 (v 3 + t))
    sched := s.sched.drop 1 ++ [grow] }

/-- The hash after one block of 64 bytes. -/
def shaBlock (ks : List Word32) (h : List Word32) (blk : List Byte) : List Word32 :=
  let first : ShaRun :=
    { work := h, sched := (List.range 16).map fun i => BitVec.ofNat 32 (beNat ((blk.drop (4 * i)).take 4)) }
  List.zipWith (· + ·) h (ks.foldl ShaRun.round first).work

/-- A message with its end mark and its length in bits, in whole blocks. -/
def shaPadded (m : List Byte) : List Byte :=
  m ++ (0x80 : Byte) :: List.replicate ((119 - m.length % 64) % 64) 0 ++ beBytes 8 (8 * m.length)

/-- SHA-256. -/
def sha256 (m : List Byte) : List Byte :=
  let p := shaPadded m
  let ks := shaConstants
  ((List.range (p.length / 64)).foldl (fun h i => shaBlock ks h ((p.drop (64 * i)).take 64)) shaStart).flatMap fun w =>
    beBytes 4 w.toNat

/-- HMAC-SHA-256. -/
def hmac (key m : List Byte) : List Byte :=
  let short := if key.length ≤ 64 then key else sha256 key
  let block (pad : Byte) : List Byte := (List.range 64).map fun i => pad ^^^ short.getD i 0
  sha256 (block 0x5c ++ sha256 (block 0x36 ++ m))

/-- expand of R419: a 48-byte seed. -/
def expand (k label : List Byte) : List Byte :=
  let t1 := hmac k (label ++ [1])
  let t2 := hmac k (t1 ++ label ++ [2])
  (t1 ++ t2).take 48

/-- The bytes of an ASCII text. -/
def ascii (t : String) : List Byte := t.toList.map fun c => BitVec.ofNat 8 c.toNat

/-- A Merkle level of R440: pairs are hashed, and a node without a sibling passes up. -/
def merkleLevel : List (List Byte) → List (List Byte)
  | a :: b :: l => sha256 ((1 : Byte) :: (a ++ b)) :: merkleLevel l
  | l => l

/-- The Merkle root of a list of leaves (R440). -/
def merkleRoot : Nat → List (List Byte) → List Byte
  | 0, l => l.getD 0 []
  | n + 1, l => merkleRoot n (merkleLevel l)

end Sys2Proof.Machine
end

