-- ==== Sys2Proof/Machine/Cipher.lean ====
section
/-! DEFINITION. AES-256-GCM, which encrypts hampers and fabric flits (R388, R414, R415), on byte lists. The manual names the
cipher; FIPS 197 and SP 800-38D define it (notes/assumptions/42.md). -/

namespace Sys2Proof.Machine

/-- Multiply by x in the field of AES. -/
def aesDouble (b : Byte) : Byte := b <<< 1 ^^^ if b.msb then 0x1b else 0

/-- Multiply in the field of AES, by Horner's rule over the low `n` bits of `a`. -/
def aesMul (a b : Byte) : Nat → Byte
  | 0 => 0
  | n + 1 => (if a.getLsbD 0 then b else 0) ^^^ aesMul (a >>> 1) (aesDouble b) n

/-- The S-box: the inverse (the 254th power), then the affine map. -/
def aesSub (b : Byte) : Byte :=
  let inv := (List.range 7).foldl (fun (z : Byte) _ => let q := aesMul z b 8; aesMul q q 8) 1
  [1, 2, 3, 4].foldl (fun z n => z ^^^ inv.rotateLeft n) (inv ^^^ 0x63)

/-- The S-box as a list. -/
def aesBox : List Byte := (List.range 256).map fun n => aesSub (BitVec.ofNat 8 n)

/-- Two lists of bytes summed bit by bit. -/
def xorBytes (a b : List Byte) : List Byte := List.zipWith (· ^^^ ·) a b

/-- The key schedule from its latest eight words, newest first: `n` more words, the i-th word being made next. -/
def aesExpand (box : List Byte) : Nat → Nat → Byte → List (List Byte) → List (List Byte)
  | 0, _, _, ws => ws
  | n + 1, i, rc, ws =>
    let sub (w : List Byte) : List Byte := w.map fun b => box.getD b.toNat 0
    let last := ws.getD 0 []
    let t :=
      if i % 8 == 0 then xorBytes (sub (last.drop 1 ++ last.take 1)) [rc, 0, 0, 0]
      else if i % 8 == 4 then sub last
      else last
    aesExpand box n (i + 1) (if i % 8 == 0 then aesDouble rc else rc) (xorBytes (ws.getD 7 []) t :: ws)

/-- The fifteen round keys of a 32-byte key. -/
def aesKeys (box key : List Byte) : List (List Byte) :=
  let first := (List.range 8).map fun i => (key.drop (4 * i)).take 4
  let all := (aesExpand box 52 8 1 first.reverse).reverse
  (List.range 15).map fun r => ((all.drop (4 * r)).take 4).flatten

/-- Bytes moved along their rows: byte 4c + r comes from column c + r. -/
def aesShift (st : List Byte) : List Byte := (List.range 16).map fun i => st.getD ((i + 4 * (i % 4)) % 16) 0

/-- Columns multiplied by the circulant of 2, 3, 1, 1. -/
def aesMix (st : List Byte) : List Byte :=
  (List.range 16).map fun i =>
    let at_ (k : Nat) : Byte := st.getD (i / 4 * 4 + (i + k) % 4) 0
    aesDouble (at_ 0 ^^^ at_ 1) ^^^ at_ 1 ^^^ at_ 2 ^^^ at_ 3

/-- One block under round keys. -/
def aesBlock (box : List Byte) (keys : List (List Byte)) (blk : List Byte) : List Byte :=
  let half (st : List Byte) : List Byte := aesShift (st.map fun b => box.getD b.toNat 0)
  let mid := ((keys.drop 1).take 13).foldl (fun st k => xorBytes (aesMix (half st)) k) (xorBytes blk (keys.getD 0 []))
  xorBytes (half mid) (keys.getD 14 [])

/-- Multiply in the field of GHASH; bit 127 of a number is the coefficient of 1. -/
def ghashMul (x : Nat) : Nat → Nat → Nat
  | 0, _ => 0
  | n + 1, v =>
    (if x.testBit n then v else 0) ^^^ ghashMul x n (v / 2 ^^^ if v % 2 == 1 then 0xE1 * 2 ^ 120 else 0)

/-- Bytes filled up to whole blocks. -/
def gcmFill (l : List Byte) : List Byte := l ++ List.replicate ((16 - l.length % 16) % 16) 0

/-- The key stream of an IV of 96 bits from its counter `c0`. -/
def gcmStream (box : List Byte) (keys : List (List Byte)) (iv : List Byte) (c0 n : Nat) : List Byte :=
  ((List.range ((n + 15) / 16)).flatMap fun k => aesBlock box keys (iv ++ beBytes 4 (c0 + k))).take n

/-- AES-256-GCM: the text under the key stream, which encrypts and decrypts. -/
def gcmText (key iv text : List Byte) : List Byte :=
  xorBytes text (gcmStream aesBox (aesKeys aesBox key) iv 2 text.length)

/-- AES-256-GCM: the tag of additional data and a ciphertext. -/
def gcmTag (key iv aad cipher : List Byte) : List Byte :=
  let box := aesBox
  let keys := aesKeys box key
  let h := beNat (aesBlock box keys (List.replicate 16 0))
  let m := gcmFill aad ++ gcmFill cipher ++ beBytes 8 (8 * aad.length) ++ beBytes 8 (8 * cipher.length)
  let y := (List.range (m.length / 16)).foldl (fun y k => ghashMul (y ^^^ beNat ((m.drop (16 * k)).take 16)) 128 h) 0
  xorBytes (beBytes 16 y) (gcmStream box keys iv 1 16)

/-- The IV of a flit: the slot's salt, then the counter, each little-endian (R3, R415). -/
def flitIv (salt counter : Nat) : List Byte := leBytes 4 salt ++ leBytes 8 counter

/-- A FABRIC FLIT (R414): the header in the clear, which the tag covers, the encrypted payload, and the tag. -/
def sealFlit (key salt counter : Nat) (header payload : List Byte) : List Byte :=
  let text := gcmText (leBytes 32 key) (flitIv salt counter) payload
  header ++ text ++ gcmTag (leBytes 32 key) (flitIv salt counter) header text

/-- A fabric flit authenticates (R414, R415): the tag in bytes 240 to 255 is that of the header in the clear and the
encrypted payload, under the slot's salt and counter. -/
def flitOpens (key salt counter : Nat) (flit : List Nat) : Bool :=
  let b := flit.map fun n => BitVec.ofNat 8 n
  gcmTag (leBytes 32 key) (flitIv salt counter) (b.take 8) ((b.drop 8).take 232) == b.drop 240

/-- The payload of a flit in the clear. -/
def flitText (key salt counter : Nat) (flit : List Nat) : List Byte :=
  gcmText (leBytes 32 key) (flitIv salt counter) (((flit.drop 8).take 232).map fun n => BitVec.ofNat 8 n)

end Sys2Proof.Machine
end

