-- ==== Sys2Proof/Machine/State.lean ====
section
/-! DEFINITION. The state of the whole device, as plain data: pitches, launches, slices, the copy engine's work in
flight, memories, the mailbox, the till, links and boot state; the machine right after reset; the reasons to stop. -/

namespace Sys2Proof.Machine

/-- Reasons for which a step stops with a fault. -/
inductive Fault where
  /-- Raised by every tile instruction when the cursor names no tile of a placed pitch: no engine is there to issue it
  (safe; no step of the machine builds such a cursor). -/
  | noEngine
  deriving DecidableEq, Repr

/-- Reasons for which a step has no meaning. -/
inductive Refusal where
  /-- Raised by `exec` for an instruction that is not modelled, by its mnemonic (safe). -/
  | notModelled (mnemonic : String)
  deriving DecidableEq, Repr

/-- The instruction in issue: its pitch, tile, engine, the number of its group's issue, its position in the group, and
the word offsets of the group and of its word 0. -/
structure Cursor where
  pitch : Nat := 0
  tile : Nat := 0
  eng : Engine := .C
  gid : Nat := 1
  iid : Nat := 0
  gpc : Nat := 0
  pc : Nat := 0
  deriving DecidableEq, Repr

/-- What the next steps of the machine do, in order, within the present tick. -/
inductive Slot where
  | ev (i : Instr)
  /-- The instruction at the cursor: fetched, decoded and executed. -/
  | instr (c : Cursor)
  /-- The admission of an engine's next group in a tile. -/
  | group (pitch tile : Nat) (e : Engine)
  /-- Phases of a pitch's wall cycle: starts and results, collisions, X engines, reads, ends, and the pitch's own end. -/
  | cycleStart (pitch : Nat)
  | cycleMid (pitch : Nat)
  | bankTurns (pitch : Nat)
  | cycleReads (pitch : Nat)
  | xTurn (pitch tile : Nat)
  | cycleEnd (pitch : Nat)
  | pitchEnd (pitch : Nat)
  deriving DecidableEq, Repr

/-- What the device's PCIe functions report of themselves (R374). -/
inductive ConfigField where
  | totalVfs
  | firstVfOffset
  | vfStride
  /-- Size in bytes of a BAR, 0 where the function has none; vectors of a function's MSI-X table. Function 0 is the PF. -/
  | barSize (fn bar : Nat)
  | msixVectors (fn : Nat)
  | maxPayload
  | maxReadRequest
  /-- The DOE capability: whether a function has it, the SPDM version of its responder in hexadecimal digits, and the selective and
  link IDE streams (R420). -/
  | doe (fn : Nat)
  | spdmVersion
  | ideStreams
  | linkIde
  deriving DecidableEq, Repr

/-- What the outside does to the device, at a tick. -/
inductive Input where
  /-- An event whose cause lies outside: an error, a report, a sensor trip, a flit, a reset. -/
  | event (i : Instr)
  /-- A register read or write by PCIe, or by MCTP (`mctp`): function (0 PF, n VF n), BAR, offset, size in bytes. -/
  | read (fn bar off size : Nat) (mctp : Bool)
  | write (fn bar off size v : Nat) (mctp : Bool)
  /-- A write of host memory by the host. -/
  | host (addr : Nat) (bytes : List Byte)
  /-- A corrected FEC symbol of a stream-plane lane, or a CRC retry of a copy-plane lane (R410). -/
  | laneError (boundary : Nat) (copyPlane : Bool) (crossing lane : Nat)
  /-- IDE_KM sets the keys of a slice's IDE stream (R420). -/
  | ideKey (slice key : Nat)
  /-- A PLDM reading of a numeric sensor (R423). -/
  | sensor (id : Nat)
  /-- A read of a property that PCIe configuration space reports (R374). -/
  | config (f : ConfigField)
  /-- A request of slice `src` of package `pkg` to a tensor of this package (R116, R403): the bound slice, the tensor's
  handle, the first byte and the number of bytes; for a write, the bytes. -/
  | remote (pkg src slice handle at_ n : Nat) (bytes : Option (List Byte))
  deriving DecidableEq, Repr

/-- The answer to a request of another package (R116): the bytes read, none for a write or a failure. -/
structure Answer where
  pkg : Nat
  src : Nat
  handle : Nat
  ok : Bool
  bytes : List Byte := []
  deriving DecidableEq, Repr

/-- A beat on a directed link or an ejection port in a pitch cycle (R276). -/
structure LinkUse where
  x : Nat
  y : Nat
  dir : Nat
  p : Nat
  tile : Nat
  own : Own
  deriving DecidableEq, Repr

/-- A hold of the pitch (R27): its stop cycle, and q once it is known. -/
structure Hold where
  stop : Nat
  q : Option Nat := none
  deriving DecidableEq, Repr

/-- The code and data of one image as loaded (R357 to R361). -/
structure Image where
  w : Nat := 0
  h : Nat := 0
  seamC : Nat := 0
  seamR : Nat := 0
  pin : Bool := false
  stale : Bool := false
  strict : Bool := false
  /-- 0 any, 1 rotate, 2 fixed. -/
  orient : Nat := 0
  safeGap : Nat := 0
  /-- The class of each tile, at y·W + x. -/
  classOf : List Nat := []
  /-- The five streams of each class, in engine order. -/
  code : List (List Code) := []
  /-- DATA records by class: offset and bytes; CONST records. -/
  data : List (Nat × Nat × List Byte) := []
  const : List (Nat × List Byte) := []
  /-- Directory index, and the container's digest (R352). -/
  dir : Nat := 0
  digest : List Byte := []
  block : Bool := false
  /-- Block code of each class: its entry block and its blocks (R363). -/
  prog : List (Nat × List (List BlockStep)) := []
  /-- Quiet bits of the column and row seams (R345). -/
  quietC : Bool := false
  quietR : Bool := false
  deriving DecidableEq, Repr

/-- A placed pitch. -/
structure Pitch where
  id : Nat := 0
  slice : Nat := 0
  launch : Nat := 0
  img : Image := {}
  ox : Nat := 0
  oy : Nat := 0
  orient : Nat := 0
  strict : Bool := false
  gen : Nat := 1
  /-- Wall cycles since the start pulse left the origin, and those of earlier placements are not counted. -/
  wall : Nat := 0
  tiles : List Tile := []
  links : List LinkUse := []
  holds : List Hold := []
  /-- A posted freeze request: its reasons, the origin's local cycle and the tick of the posting (R46). -/
  reqs : List FreezeWhy := []
  postedP : Nat := 0
  postedAt : Nat := 0
  /-- τ_r once the request is registered, and the SAFE cycle once one is taken. -/
  tauR : Option Nat := none
  safeAt : Option Nat := none
  /-- SAFEs under lookahead: the cycle, the tiles that have looked, and whether all met the conditions (R46). -/
  safeTry : List (Nat × Nat × Bool) := []
  /-- Tiles whose C has executed ENDS (R33). -/
  cEnded : List Nat := []
  /-- Tick of the placement or resume, and whether a whole quantum has passed (R385). -/
  since : Nat := 0
  fullQuantum : Bool := false
  moved : Bool := false
  prio : Nat := 0
  deriving DecidableEq, Repr

/-- Where a request stands (R126, R128, R285). -/
inductive ReqPhase where
  /-- Its source has not been read. -/
  | fetch
  /-- Its bytes travel to a tensor, or to the parts of a scratchpad. -/
  | carry (bytes : List Nat)
  /-- Its bytes are in parts that have not all landed. -/
  | landing
  /-- Its line could not be read; the slow path retries it (R130). -/
  | slow
  deriving DecidableEq, Repr

/-- One request of a copy: the bytes `k0` to `k1 − 1` of the copy in region order. -/
structure Req where
  id : Nat
  k0 : Nat
  k1 : Nat
  phase : ReqPhase := .fetch
  /-- WVER of the tensors as read at dispatch: source and destination (R117). -/
  verS : Nat := 0
  verD : Nat := 0
  /-- Identities of the TLB entries that translated it (R394). -/
  tlb : List Nat := []
  /-- Wall cycle of its dispatch, which is its age at the bank (R101), and the PITCH_GEN it carries (R92). -/
  age : Nat := 0
  pgen : Nat := 0
  /-- Source lines whose data was lost: their bytes are not written (R130). -/
  bad : List Nat := []
  /-- It writes part of a line that could not be read; the slow path retries it (R120, R130). -/
  retry : Bool := false
  deriving DecidableEq, Repr

/-- A 16 B part of a scratchpad destination: what it has gathered, by address (R133, R284, R286). -/
structure Part where
  id : Nat
  tile : Nat
  /-- First and last + 1 byte address, and the copy byte of the first. -/
  lo : Nat
  hi : Nat
  k0 : Nat
  bytes : List (Nat × Nat) := []
  lost : Nat := 0
  /-- 0 gathering, 1 travelling, 2 at its bank since wall cycle `age`; its physical tile and PITCH_GEN (R92). -/
  stage : Nat := 0
  age : Nat := 0
  phys : Nat := 0
  pgen : Nat := 0
  deriving DecidableEq, Repr

/-- A copy in flight (R126 to R130, R134). -/
structure CopyRec where
  id : Nat
  pitch : Nat
  tile : Nat
  slice : Nat
  /-- PITCH_GEN of the issuing pitch (R92). -/
  pgen : Nat
  instr : Instr
  /-- Word offset of its group. -/
  off : Nat
  opD : Word
  opS : Word
  src : Side
  dst : Side
  n : Nat
  z : Nat
  posts : List CopySem
  /-- Next byte of the copy to dispatch. -/
  next : Nat := 0
  reqs : List Req := []
  parts : List Part := []
  /-- Targets whose post has applied (R289), by position in `posts`. -/
  posted : List Nat := []
  /-- Data was lost (R130). -/
  lost : Bool := false
  /-- A page walk runs for this virtual address and direction (R128). -/
  walk : Option (Nat × Bool) := none
  /-- The remaining requests go by the slow path (R130). -/
  slow : Bool := false
  /-- Complete: its posts are staged, and it leaves at the end of the wall cycle (R134). -/
  done : Bool := false
  /-- A copy that the slow path finishes after a freeze (R92): the physical places of its issuing tile and of every tile that
  it addresses, by logical tile; empty while the copy is with its pitch. -/
  left : List (Nat × Nat) := []
  /-- The bytes of a scratchpad source as they stood at that freeze. -/
  kept : List Nat := []
  /-- Bytes below this one have set out; a part that a freeze or fault has cut goes on from here (notes/assumptions/99.md). -/
  cut : Nat := 0
  /-- What has been charged of the destination (R280): granules written, and 64 B of the copy carried, by tile. -/
  granules : List (Nat × Nat) := []
  carried : List (Nat × Nat) := []
  deriving DecidableEq, Repr

/-- Where a message stands. -/
inductive MsgPhase where
  | going
  /-- A take or phase wait that is retried at its target (R298). -/
  | trying
  | back
  deriving DecidableEq, Repr

/-- The target of a message. -/
inductive MsgTo where
  | tile (k : Nat)
  | slice (ss : Nat)
  /-- A slice semaphore of the slice that the issuing slice is bound to in a package (R292, R403). -/
  | fabric (pkg slice ss : Nat)
  deriving DecidableEq, Repr

/-- A message of the copy plane or the fabric that awaits its answer (R105, R293, R298). -/
structure Msg where
  id : Nat
  pitch : Nat
  tile : Nat
  pgen : Nat
  dest : MsgTo
  op : SemDo
  rd : Option Nat
  wait : Bool
  off : Nat
  phase : MsgPhase := .going
  val : Option Word := none
  trap : Option (Nat × Nat) := none
  deriving DecidableEq, Repr

/-- A TLB entry of a tile (`tile` < 2304) or of a die (2304 + d) (R128, R394). -/
structure TlbEnt where
  id : Nat
  slice : Nat
  home : Nat
  va : Nat
  size : Nat
  base : Nat
  rd : Bool
  wr : Bool
  /-- Invalidated by a shootdown; kept while requests that it translated are open (R394). -/
  dead : Bool := false
  deriving DecidableEq, Repr

/-- A DRAM line as it was last written (R120): the key and tweak it was encrypted under, and the plaintext bytes. -/
structure Line where
  at_ : Nat
  key : Nat
  tweak : Nat
  data : List Byte
  deriving DecidableEq, Repr

/-- What a launch record says (R383). -/
structure Rec where
  status : Nat
  code : Nat := 0
  check : Nat := 0
  more : Nat := 0
  stale : Nat := 0
  data : Nat := 0
  cycle : Nat := 0
  party2 : Nat := 0
  party1 : Nat := 0
  energy : Nat := 0
  deriving DecidableEq, Repr

/-- A launch that the device has read (R380 to R386). -/
structure Launch where
  id : Nat := 0
  slice : Nat := 0
  chain : Nat := 0
  index : Nat := 0
  desc : Vector Nat 8 := Vector.replicate 8 0
  img : Option Image := none
  /-- Ready: its dependences hold and its image is checked, or it was frozen. -/
  ready : Bool := false
  placed : Bool := false
  done : Bool := false
  /-- Tick of the readiness or of the last freeze (R385). -/
  since : Nat := 0
  /-- It has been asked to end (R384, R406, R420). -/
  ending : Bool := false
  /-- The state of a frozen pitch, whole, with its hamper's serial number, KIND and whether it lies in the cool box. -/
  hamper : Option Pitch := none
  serial : Nat := 0
  kind : Nat := 0
  coolBox : Bool := false
  /-- The plaintext of a fault image, as the fault left it (R397). -/
  plain : List Byte := []
  /-- A generation wrap waits for its hard clears; a placement may not go before (R93). -/
  wrapping : Bool := false
  /-- It has been moved in its present quantum, and the tiles that pitches were moved out of for it (R386). -/
  moved : Bool := false
  area : List Nat := []
  /-- Its record, which waits for the writes to HOST tensors that the slow path still makes for it (R141, R383). -/
  owed : Option Rec := none
  deriving DecidableEq, Repr

/-- A launch chain (R379). -/
structure Chain where
  base : Nat := 0
  recBase : Nat := 0
  enable : Bool := false
  loc : Bool := false
  log2n : Nat := 0
  tail : Nat := 0
  done : Nat := 0
  read : Nat := 0
  /-- Indices at or above DONE whose records are written. -/
  recs : List Nat := []
  deriving DecidableEq, Repr

/-- The fill bits of a tensor table entry (R118): all of them, or those of the listed blocks. -/
structure Fill where
  handle : Nat
  all : Bool := false
  blocks : List Nat := []
  deriving DecidableEq, Repr

/-- State of a TDISP interface (R375, R420). -/
inductive Tdisp where
  | unlocked
  | locked
  | run
  | error
  deriving DecidableEq, Repr

/-- A slice (R403). -/
structure Slice where
  id : Nat := 0
  prot : Bool := false
  adbg : Bool := false
  squares : Nat := 0
  /-- Squares that leave the slice once no pitch occupies them (R405). -/
  leaving : Nat := 0
  chans : List Nat := []
  ports : Nat := 0
  cap : Nat := 0
  maxStep : Nat := 0
  tenant : Nat := 0
  key : Nat := 0
  step : Nat := 0
  /-- Clock accumulator: a tile cycle passes when it reaches 2,000 (MHz summed over half-nanosecond ticks). -/
  clock : Nat := 0
  /-- A decided step change: the new step and the tick at which it takes effect (R407). -/
  newStep : Option (Nat × Nat) := none
  /-- The clocks restart at this tick (R407). -/
  clockStop : Nat := 0
  lowered : Nat := 0
  hot : Bool := false
  /-- Page-table image: bytes, size, and old values of entries changed since the last shootdown (R392, R394). -/
  pt : Mem := []
  ptSize : Nat := 0
  ptOld : List (Nat × Nat) := []
  ptOff : Nat := 0
  tensors : List (Nat × Vector Word 4) := []
  /-- Staged words of tensor table entries (R395): handle, word, value. -/
  staged : List (Nat × Nat × Nat) := []
  fills : List Fill := []
  bind : List (Nat × Nat) := []
  /-- Slice semaphores whose state differs from that of creation (R299). -/
  sems : List (Nat × Sem) := []
  ttStat : Nat := 0
  chains : Vector Chain 8 := Vector.replicate 8 {}
  fqBase : Nat := 0
  fqEnable : Bool := false
  fqLog2n : Nat := 0
  fqTail : Nat := 0
  fqHead : Nat := 0
  sdVa : Nat := 0
  sdSize : Nat := 0
  sdBusy : Bool := false
  sdDone : Bool := false
  /-- Identities of invalidated TLB entries that still have requests (R394). -/
  sdWait : List Nat := []
  dbgGrant : Bool := false
  dbgCtl : Nat := 0
  dbgAddr : Nat := 0
  dbgBusy : Bool := false
  dbgNot : Bool := false
  dbgData : List Byte := []
  tdisp : Tdisp := .unlocked
  /-- The keys of the slice's selective IDE stream, once IDE_KM has set them (R420). -/
  ide : Option Nat := none
  quantumMs : Nat := 10
  pinKib : Nat := 48
  graceUs : Nat := 50
  hamperMib : Nat := 64
  serial : Nat := 0
  /-- P in mW, B and R in µJ, L in units of 2^-48 J divided by 5^12, in which a tick's refill is whole (R432). -/
  purseP : Nat := 0
  purseB : Nat := 0
  purseR : Nat := 0
  level : Int := 0
  exhausted : Bool := false
  /-- Cumulative energies in 2^-48 J since creation, by place in the receipt's ENERGY list after the total (R437,
  R438): compute, scratchpad, stream, copy, seam, HBM, fabric, leakage, refresh, residual. -/
  energy : Vector Int 10 := Vector.replicate 10 0
  /-- The same at the last interval's end. -/
  energy0 : Vector Int 10 := Vector.replicate 10 0
  /-- Tile-cycles owned and active, HBM counts, flits, freezes, pre-emptions and faults of the interval. -/
  cycOwned : Nat := 0
  cycActive : Nat := 0
  hbm : Vector Nat 5 := Vector.replicate 5 0
  flits : Nat := 0
  freezes : Nat := 0
  preempt : Nat := 0
  faults : Nat := 0
  created : Nat := 0
  /-- The virtual function answers: SLICE_CREATE has enabled it (R404). -/
  vf : Bool := true
  /-- The level before the shares of a millisecond were charged, and the tick of that charge (R325, R432). -/
  dueTick : Nat := 0
  dueLevel : Int := 0
  first : Bool := true
  prev : List Byte := List.replicate 32 0
  /-- E_dyn of each owned square in this millisecond by pitch, in 2^-48 J, and tile-cycles occupied (R430, R431). -/
  dyn : List (Nat × Nat × Nat × Nat) := []
  /-- Busy cycles of pitches on channels in this millisecond: channel, pitch, cycles (R431). -/
  chanBusy : List (Nat × Nat × Nat) := []
  /-- Tile-clock cycles of this millisecond, and the till's accounts by pitch, 0 the idle account (R431). -/
  msCycles : Nat := 0
  accounts : List (Nat × Int) := []
  deriving DecidableEq, Repr

/-- The management mailbox (R376, R377). -/
structure Mailbox where
  owner : Nat := 0
  code : Nat := 0
  busy : Bool := false
  result : Nat := 0
  args : Vector Nat 32 := Vector.replicate 32 0
  resp : Vector Nat 32 := Vector.replicate 32 0
  /-- Tick of the last accepted write to MB_LOCK, MB_CMD or MB_UNLOCK, or of the end of a command. -/
  last : Nat := 0
  /-- The command in execution: its RESULT and MB_RESP word 0 when it completes, and its step. -/
  next : Nat := 0
  nextResp : Option Nat := none
  /-- The slice that the command in execution names, and the tick of its acceptance. -/
  target : Nat := 0
  started : Nat := 0
  deriving DecidableEq, Repr

/-- Receipt intervals and delivery (R436 to R443). -/
structure Receipts where
  base : Nat := 0
  enable : Bool := false
  log2n : Nat := 0
  interval : Nat := 1000
  /-- The length of the running interval. -/
  running : Nat := 1000
  tail : Nat := 0
  head : Nat := 0
  lost : Nat := 0
  index : Nat := 0
  start : Nat := 0
  /-- Block-code images translated in the interval (R373, R439). -/
  translated : Nat := 0
  /-- Batches not yet in the ring, oldest first: the batch's bytes, and the digest, EPOCH and INDEX of its record. -/
  held : List (List Byte) := []
  /-- Receipts of slices destroyed in the interval. -/
  finals : List (Nat × List Byte) := []
  prevDigest : List Byte := List.replicate 32 0
  prevEpoch : Nat := 0
  prevIndex : Nat := 0
  calSel : Nat := 0
  /-- Energies of the interval in 2^-48 J (R430, R431, R439): channel, port and seam charges billed to slices, unowned squares,
  refresh of unowned channels, sweeps, and hard clears at placements. -/
  billed : Nat := 0
  unowned : Int := 0
  idleChans : Nat := 0
  sweeps : Nat := 0
  clears : Nat := 0
  deriving DecidableEq, Repr

/-- One direction of a fabric link's key slots and one port's sequence state (R414 to R416). -/
structure KeySlot where
  key : Nat := 0
  salt : Nat := 0
  counter : Nat := 0
  valid : Bool := false
  deriving DecidableEq, Repr

/-- A flit in a replay buffer: SEQ, TYPE, DPKG, slot, counter, its 256 bytes as they are sent, and how often it was named as
failed. -/
structure Flit where
  seq : Nat
  ty : Nat
  dpkg : Nat
  slot : Nat
  counter : Nat
  wire : List Byte := []
  fails : Nat := 0
  deriving DecidableEq, Repr

/-- A fabric port (R414 to R416). -/
structure Port where
  tx : Vector KeySlot 2 := Vector.replicate 2 {}
  rx : Vector KeySlot 2 := Vector.replicate 2 {}
  txSlot : Nat := 0
  rxSlot : Nat := 0
  seq : Nat := 0
  expect : Nat := 0
  /-- Flits queued that no key can send, and flits sent and not acknowledged, oldest first. -/
  queue : List (Nat × Nat) := []
  replay : List Flit := []
  /-- Negative acknowledgements to send, by SEQ. -/
  nacks : List Nat := []
  /-- Payloads that have arrived for this package, oldest first: TYPE and bytes (R414). -/
  inbox : List (Nat × List Byte) := []
  down : Bool := false
  flits : Nat := 0
  deriving DecidableEq, Repr

/-- What a physical tile keeps across placements (R93, R399, R400). -/
structure Phys where
  maxGen : Nat := 0
  epoch : Vector Nat 16 := Vector.replicate 16 0
  /-- Ticks of corrected errors (R400). -/
  errs : List Nat := []
  deriving DecidableEq, Repr

/-- Package identity, census, seams, boot and non-volatile state (R398 to R424). -/
structure Dev where
  powered : Bool := true
  booted : Bool := false
  svn : Nat := 0
  fwver : Nat := 0
  recovery : Bool := false
  pkg : Nat := 0
  /-- State of each boundary: 0 full, 1 repaired, 2 derated, 3 failed. -/
  seams : Vector Nat 4 := Vector.replicate 4 0
  /-- Crossings down on the copy plane, by boundary: 24·b + c. -/
  crossDown : List Nat := []
  /-- Spare lanes in use on the stream plane, by crossing 24·b + c, and a repair that waits for freezes. -/
  spares : List Nat := []
  repairing : List (Nat × Nat) := []
  /-- Corrected symbols and retries of the last second by lane: the crossing's spare key times 32 with the lane, and the tick. -/
  laneErrs : List (Nat × Nat) := []
  /-- Tiles that are holes (R399), and those of the fused and boot census. -/
  holes : List Nat := []
  fused : Nat := 0
  /-- Non-volatile store: retired tiles, boot epoch, sweep progress by channel, firmware in flash, receipt digest. -/
  retired : List Nat := []
  epoch : Nat := 0
  sweeps : List (Nat × Nat) := []
  flash : Option (List Byte) := none
  staged : Option (List Byte) := none
  nvDigest : List Byte := List.replicate 32 0
  nvEpoch : Nat := 0
  nvIndex : Nat := 0
  /-- The running image's measurement and the identity CDI (R419). -/
  measure : List Byte := []
  cdi : List Byte := []
  /-- The Alias certificate of this boot (R419). -/
  aliasCert : List Byte := []
  deriving DecidableEq, Repr

/-- A translation kept in the cool box under its three keys (R373): the image's bytes, the edition and the measurement. -/
structure Translation where
  image : List Byte
  edition : Nat
  measure : List Byte
  code : List (List Code)
  prog : List (Nat × List (List BlockStep))
  deriving DecidableEq, Repr

/-- THE MACHINE. -/
structure State where
  /-- Time in half nanoseconds; PTC is its half. -/
  tick : Nat := 0
  agenda : List Slot := []
  cur : Cursor := {}
  /-- Names items in flight; the index of free values. -/
  fresh : Nat := 1
  inputs : List (Nat × Input) := []
  /-- Data of the last register read, and interrupts signalled: function and vector, oldest first. -/
  readData : Nat := 0
  msi : List (Nat × Nat) := []
  dev : Dev := {}
  mb : Mailbox := {}
  rc : Receipts := {}
  slices : List Slice := []
  launches : List Launch := []
  pitches : List Pitch := []
  copies : List CopyRec := []
  msgs : List Msg := []
  tlb : List TlbEnt := []
  phys : List (Nat × Phys) := []
  /-- Pinned code of frozen pitches: physical tile, launch, bytes (R361). -/
  pins : List (Nat × Nat × Nat) := []
  /-- Translations kept in the cool box (R373). -/
  translations : List Translation := []
  ports : List (Nat × Port) := []
  /-- Answers to requests of other packages, oldest first (R116). -/
  answers : List Answer := []
  host : Mem := []
  hbm : List Line := []
  deriving DecidableEq, Repr

/-- The machine right after reset: PTC 0, no slice, every register at its reset value, and the boot sequence as the
next step (R417). -/
def State.reset : State := { agenda := [.ev .boot] }

end Sys2Proof.Machine
end

