-- ==== Sys2Proof/Machine/World.lean ====
section
/-! DEFINITION. Named operations over the device state: looking up and replacing pitches, tiles, slices, launches, copies
and messages; package geometry (R7, R398); the environment of a tile; the call of a tile operation by an instruction. -/

namespace Sys2Proof.Machine

/-- Replace the elements of a list that a test picks. -/
def mapIf {α : Type} (p : α → Bool) (f : α → α) (l : List α) : List α := l.map fun x => if p x then f x else x

/-- Replace element k of a list. -/
def setAt {α : Type} (l : List α) (k : Nat) (x : α) : List α := l.set k x

/-- Frequencies of the shipped steps in MHz (R402). -/
def stepMhz (k : Nat) : Nat := [1000, 1200, 1400, 1600, 1800, 2000].getD k 0

/-- Ticks of a nanosecond count, a microsecond count and a millisecond count. -/
def usTicks (n : Nat) : Nat := n * 2000
def msTicks (n : Nat) : Nat := n * 2000000

/-- map_o of R7. -/
def orientMap (o : Nat) (x y : Int) : Int × Int :=
  match o with
  | 0 => (x, y)
  | 1 => (-y, x)
  | 2 => (-x, -y)
  | 3 => (y, -x)
  | 4 => (-x, y)
  | 5 => (x, -y)
  | 6 => (y, x)
  | _ => (-y, -x)

/-- Physical index 48·py + px of a package position, if it is one. -/
def physIdx (px py : Int) : Option Nat :=
  if 0 ≤ px && px < 48 && 0 ≤ py && py < 48 then some (py.toNat * 48 + px.toNat) else none

/-- Die, square (R398) of a physical tile. -/
def dieOf (phys : Nat) : Nat := 2 * (phys / 48 / 24) + phys % 48 / 24
def squareOf (phys : Nat) : Nat := 9 * dieOf phys + 3 * (phys / 48 % 24 / 8) + phys % 48 % 24 / 8

/-- Physical index of a logical tile of a pitch (R7). -/
def Pitch.physOf (p : Pitch) (x y : Nat) : Nat :=
  let m := orientMap p.orient x y
  (physIdx ((p.ox : Int) + m.1) ((p.oy : Int) + m.2)).getD 0

/-- Physical indices of all its tiles, in tile order. -/
def Pitch.physAll (p : Pitch) : List Nat :=
  (List.range (p.img.w * p.img.h)).map fun k => p.physOf (k % p.img.w) (k / p.img.w)

/-- The die boundary between two adjacent tiles on different dies (R398). -/
def boundaryOf (a b : Nat) : Nat :=
  let d := Nat.min (dieOf a) (dieOf b)
  let e := Nat.max (dieOf a) (dieOf b)
  if d == 0 && e == 1 then 0 else if d == 2 && e == 3 then 1 else if d == 0 then 2 else 3

/-- Physical tiles along the copy-plane route between two tiles of a pitch (R23): x first, then y. -/
def Pitch.route (p : Pitch) (a b : Nat) : List Nat :=
  let w := p.img.w
  let ax := a % w
  let ay := a / w
  let bx := b % w
  let by' := b / w
  let walk (u v : Nat) : List Nat := if u ≤ v then (List.range (v - u + 1)).map (· + u)
    else (List.range (u - v + 1)).map fun k => u - k
  ((walk ax bx).map fun x => p.physOf x ay) ++ (walk ay by').map fun y => p.physOf bx y

/-- A path of physical tiles crosses a boundary. -/
def crosses (b : Nat) : List Nat → Bool
  | u :: v :: l => (dieOf u != dieOf v && boundaryOf u v == b) || crosses b (v :: l)
  | _ => false

/-- No way is left between two dies: the boundary that they share has failed, or, of two dies that share none, a boundary on each of
the two ways between them (R398, R412; notes/assumptions/68.md). -/
def diesCut (failed : Nat → Bool) (a b : Nat) : Bool :=
  let d := Nat.min a b
  let e := Nat.max a b
  if d == e then false
  else if d == 0 && e == 3 then (failed 0 || failed 3) && (failed 2 || failed 1)
  else if d == 1 && e == 2 then (failed 0 || failed 2) && (failed 3 || failed 1)
  else failed (if d == 0 && e == 1 then 0 else if d == 2 && e == 3 then 1 else if d == 0 then 2 else 3)

/-- F (R25). -/
def holdLeadOf (w h seams : Nat) : Nat := 2 * Config.hopCost * (w + h) + 2 * Config.seamCost * seams + 8

/-- Declared seams of an image. -/
def Image.seams (i : Image) : Nat := b2n (i.seamC != 0) + b2n (i.seamR != 0)

/-- F of an image. -/
def Image.lead (i : Image) : Nat := holdLeadOf i.w i.h i.seams

namespace State

/-- PTC in ns (R32). -/
def ptc (s : State) : Nat := s.tick / 2

/-- The placed pitch with an identity. -/
def pitch? (s : State) (id : Nat) : Option Pitch := s.pitches.find? fun p => p.id == id

/-- Replace a placed pitch. -/
def putPitch (s : State) (p : Pitch) : State := { s with pitches := mapIf (fun q => q.id == p.id) (fun _ => p) s.pitches }

/-- Remove a placed pitch. -/
def dropPitch (s : State) (id : Nat) : State := { s with pitches := s.pitches.filter fun q => q.id != id }

/-- The slice with a SLICE_ID. -/
def slice? (s : State) (id : Nat) : Option Slice := s.slices.find? fun p => p.id == id

/-- Replace a slice. -/
def putSlice (s : State) (v : Slice) : State := { s with slices := mapIf (fun q => q.id == v.id) (fun _ => v) s.slices }

/-- Change a slice, if it exists. -/
def onSlice (s : State) (id : Nat) (f : Slice → Slice) : State :=
  { s with slices := mapIf (fun q => q.id == id) f s.slices }

/-- The launch with an identity. -/
def launch? (s : State) (id : Nat) : Option Launch := s.launches.find? fun p => p.id == id

/-- Replace a launch. -/
def putLaunch (s : State) (v : Launch) : State :=
  { s with launches := mapIf (fun q => q.id == v.id) (fun _ => v) s.launches }

/-- Change a launch. -/
def onLaunch (s : State) (id : Nat) (f : Launch → Launch) : State :=
  { s with launches := mapIf (fun q => q.id == id) f s.launches }

/-- The copy with an identity. -/
def copy? (s : State) (id : Nat) : Option CopyRec := s.copies.find? fun p => p.id == id

/-- Replace a copy. -/
def putCopy (s : State) (v : CopyRec) : State := { s with copies := mapIf (fun q => q.id == v.id) (fun _ => v) s.copies }

/-- Remove a copy. -/
def dropCopy (s : State) (id : Nat) : State := { s with copies := s.copies.filter fun q => q.id != id }

/-- The message with an identity. -/
def msg? (s : State) (id : Nat) : Option Msg := s.msgs.find? fun p => p.id == id

/-- Replace a message. -/
def putMsg (s : State) (v : Msg) : State := { s with msgs := mapIf (fun q => q.id == v.id) (fun _ => v) s.msgs }

/-- Remove a message. -/
def dropMsg (s : State) (id : Nat) : State := { s with msgs := s.msgs.filter fun q => q.id != id }

/-- Change one tile of a placed pitch. -/
def onTile (s : State) (pid k : Nat) (f : Tile → Tile) : State :=
  { s with pitches := mapIf (fun p => p.id == pid) (fun p => { p with tiles := p.tiles.modify k f }) s.pitches }

/-- A tile of a placed pitch. -/
def tile? (s : State) (pid k : Nat) : Option Tile :=
  match s.pitch? pid with
  | some p => p.tiles[k]?
  | none => none

/-- Put slots before all others, or after them. -/
def soon (s : State) (l : List Slot) : State := { s with agenda := l ++ s.agenda }
def later (s : State) (l : List Slot) : State := { s with agenda := s.agenda ++ l }

/-- What a physical tile keeps. -/
def physOf (s : State) (k : Nat) : Phys :=
  match s.phys.find? fun p => p.1 == k with
  | some p => p.2
  | none => {}

/-- Replace what a physical tile keeps. -/
def putPhys (s : State) (k : Nat) (v : Phys) : State := { s with phys := (k, v) :: s.phys.filter fun p => p.1 != k }

/-- Signal a vector of a function (R374). -/
def signal (s : State) (fn vec : Nat) : State := { s with msi := s.msi ++ [(fn, vec)] }

end State

/-- A purse amount of µJ in the units of the level, rounded up (R432). -/
def purseUnits (uj : Int) : Int := -((-(uj * 2 ^ 42 * 5 ^ 12)) / 5 ^ 6)

/-- The level in µJ, rounded toward −∞ (R432). -/
def purseMicro (l : Int) : Int := l * 5 ^ 6 / (2 ^ 42 * 5 ^ 12)

/-- A debit of the purse, in 2^-48 J (R432, R433): L stops at −B, and at 0 or below the slice is exhausted. -/
def Slice.debit (sl : Slice) (j : Int) : Slice :=
  let l := sl.level - j * 5 ^ 12
  let b := purseUnits sl.purseB
  let v := if l < -b then -b else if b < l then b else l
  { sl with level := v, exhausted := sl.exhausted || (decide (0 < j) && decide (v ≤ 0)) }

/-- Freeze requests for every running pitch of a slice that has become exhausted (R433). -/
def State.ifExhausted (s : State) (slice : Nat) (before : Bool) : State :=
  match s.slice? slice with
  | none => s
  | some sl =>
    if sl.exhausted && !before then
      s.later ((s.pitches.filter fun p => p.slice == slice).map fun p => .ev (.freezeRequestPost p.id .purse))
    else s

/-- What the till has billed of the base dies' energy (R430): channel, port and seam charges. -/
def State.bill (s : State) (j : Nat) : State := { s with rc := { s.rc with billed := s.rc.billed + j } }

/-- A CHARGE OF A CHANNEL OR PORT (R427, R432): to meter `m` of the tile that asked, from where it reaches the till. A tile whose
pitch is not placed keeps it in its hamper, and it reaches the till at once. -/
def State.chargeFar (s : State) (slice pid k m j : Nat) : State :=
  let meter (t : Tile) : Tile := { t with acc := t.acc.setIfInBounds m (at' 0 t.acc m + j) }
  if (s.tile? pid k).isSome then
    s.onTile pid k fun t => { meter t with unsent := t.unsent.setIfInBounds m (at' 0 t.unsent m + j) }
  else
    let s1 := (s.bill j).onLaunch pid fun l =>
      if l.done then l else { l with hamper := l.hamper.map fun h => { h with tiles := h.tiles.modify k meter } }
    match s1.slice? slice with
    | none => s1
    | some sl =>
      (s1.putSlice ({ sl with energy := sl.energy.setIfInBounds m (at' 0 sl.energy m + j) }.debit j)).ifExhausted slice sl.exhausted

/-- What a tile of a pitch sees of its surroundings. -/
def State.envOf (s : State) (p : Pitch) (k : Nat) : Env :=
  let sl := (s.slice? p.slice).getD {}
  let t := p.tiles.getD k {}
  { w := p.img.w, h := p.img.h
    seamC := if p.img.seamC == 0 then [] else [p.img.seamC]
    seamR := if p.img.seamR == 0 then [] else [p.img.seamR]
    orient := p.orient, strict := p.strict, holdLead := p.img.lead, sliceId := p.slice, ptc := s.ptc
    purse := purseMicro sl.level
    phys := p.physOf t.x t.y, step := sl.step, epoch := s.dev.epoch, wall := p.wall
    code := p.img.code.getD t.cls []
    prog := (p.img.prog.getD t.cls (0, [])).2
    pkg := s.dev.pkg
    bound := sl.bind.map fun b => b.1
    tensors := sl.tensors }

/-- The context of the instruction at the cursor. -/
def State.ctxAt (s : State) (p : Pitch) (len : Nat) : Ctx :=
  let env := s.envOf p s.cur.tile
  let t := p.tiles.getD s.cur.tile {}
  { env := env, eng := s.cur.eng, gid := s.cur.gid, iid := s.cur.iid, gpc := s.cur.gpc, pc := s.cur.pc, len := len,
    iss := if s.cur.eng == .X then p.wall else t.tl }

/-- THE ISSUE OF AN INSTRUCTION in the tile at the cursor: `f` is its meaning there, `len` its words. -/
def State.atTile (s : State) (len : Nat) (f : Tile → Ctx → Tile) : Host.Outcome State Fault Refusal :=
  match s.pitch? s.cur.pitch with
  | none => .fault .noEngine
  | some p =>
    match p.tiles[s.cur.tile]? with
    | none => .fault .noEngine
    | some t => .next (s.putPitch { p with tiles := p.tiles.set s.cur.tile (f t (s.ctxAt p len)) })

end Sys2Proof.Machine
end

