-- ==== Sys2Proof/Machine/Fabric.lean ====
section
/-! DEFINITION. Fabric ports: key slots, new flits and what waits for a key (R414, R415), and the flits of a slice's own
traffic with their charge (R280, R425). -/

namespace Sys2Proof.Machine

/-- A fabric port. -/
def State.port (s : State) (p : Nat) : Port :=
  match s.ports.find? fun q => q.1 == p with
  | some q => q.2
  | none => {}

/-- Replace a port. -/
def State.putPort (s : State) (p : Nat) (v : Port) : State := { s with ports := (p, v) :: s.ports.filter fun q => q.1 != p }

/-- A key slot that is not valid any more. -/
def KeySlot.retired (k : KeySlot) : KeySlot := { k with valid := false }

/-- A slot of a direction. -/
def slotAt (v : Vector KeySlot 2) (k : Nat) : KeySlot := at' {} v k

/-- The header of a flit (R414). -/
def flitHeader (ty slot dpkg seq : Nat) : List Byte := leBytes 8 (ty * 2 ^ 56 + slot * 2 ^ 55 + dpkg * 2 ^ 34 + seq)

/-- Encrypt one new flit under the live slot (R414, R415); the manual lays out no payload, so its bytes are free
(notes/assumptions/69.md). -/
def Port.emit (v : Port) (ty dpkg : Nat) : Port :=
  let k := slotAt v.tx v.txSlot
  let payload := (List.range 232).map fun i => Config.payload k.key k.counter i
  let f : Flit := { seq := v.seq, ty := ty, dpkg := dpkg, slot := v.txSlot, counter := k.counter,
                    wire := sealFlit k.key k.salt k.counter (flitHeader ty v.txSlot dpkg v.seq) payload }
  { v with
    tx := v.tx.setIfInBounds v.txSlot { k with counter := k.counter + 1 }
    seq := (v.seq + 1) % 2 ^ 32, flits := v.flits + 1
    replay := (v.replay.filter fun g => g.seq != v.seq) ++ [f] }

/-- THE SWITCH OF A TRANSMITTER (R415): a marker under the old slot, and every later new flit goes under the other one. -/
def Port.switch (v : Port) : Port :=
  let u := v.emit 3 0
  { u with txSlot := 1 - v.txSlot, tx := u.tx.setIfInBounds v.txSlot (slotAt u.tx v.txSlot).retired }

/-- Before a new flit the transmitter may go over to a key that is installed in its idle slot, at a time of its own choice; at
2^40 − 1 it must (R415). -/
def Port.settled (v : Port) : Port :=
  let k := slotAt v.tx v.txSlot
  if !v.down && k.valid && (slotAt v.tx (1 - v.txSlot)).valid && (Config.switches k.key k.counter || decide (2 ^ 40 - 1 ≤ k.counter))
  then v.switch else v

/-- A direction takes a new key: it has no live one, or its live counter has reached 2^39 and its idle slot holds none (R415). -/
def keyDue (v : Vector KeySlot 2) (k : Nat) : Bool :=
  !(slotAt v k).valid || (decide (2 ^ 39 ≤ (slotAt v k).counter) && !(slotAt v (1 - k)).valid)

/-- A KEY IS INSTALLED in the idle slot of the transmitter, or of the receiver, where it is due (R415); a direction that has no live
key takes it up at once. -/
def Port.installTx (v : Port) (new : KeySlot) : Port :=
  if !keyDue v.tx v.txSlot then v
  else { v with
    tx := v.tx.setIfInBounds (1 - v.txSlot) new, txSlot := if (slotAt v.tx v.txSlot).valid then v.txSlot else 1 - v.txSlot }
def Port.installRx (v : Port) (new : KeySlot) : Port :=
  if !keyDue v.rx v.rxSlot then v
  else { v with
    rx := v.rx.setIfInBounds (1 - v.rxSlot) new, rxSlot := if (slotAt v.rx v.rxSlot).valid then v.rxSlot else 1 - v.rxSlot }

/-- The counters under which a flit of a SEQ and slot may have been encrypted, as the receiver knows them (R415, R416): flits ahead
of the next one, or behind it, in the same slot are as many counters on or back; behind a marker that is still to come the
counter starts at 0 somewhere in between. -/
def Port.counters (v : Port) (slot seq : Nat) : List Nat :=
  let c := (slotAt v.rx slot).counter
  let ahead := (seq + 2 ^ 32 - v.expect) % 2 ^ 32
  if 2 ^ 31 ≤ ahead then (if 2 ^ 32 - ahead ≤ c then [c - (2 ^ 32 - ahead)] else [])
  else if slot == v.rxSlot then [c + ahead] else (List.range (ahead + 1)).map (c + ·)

/-- The live slot may encrypt a new flit: its counter stays below 2^40 − 1, which is kept for the marker (R415). -/
def Port.live (v : Port) : Bool :=
  let k := slotAt v.tx v.txSlot
  !v.down && k.valid && decide (k.counter < 2 ^ 40 - 1)

/-- Flits that wait for a key are sent, oldest first. -/
def Port.drainQueue : Nat → Port → Port
  | 0, v => v
  | n + 1, v =>
    match v.queue with
    | [] => v
    | q :: l =>
      let u := v.settled
      if u.live then Port.drainQueue n ({ u with queue := l }.emit q.1 q.2) else u

/-- Send a new flit through a port, now or when a key allows it (R415). -/
def Port.send (v : Port) (ty dpkg : Nat) : Port :=
  let u := { v with queue := v.queue ++ [(ty, dpkg)] }
  u.drainQueue u.queue.length

/-- THE FLITS OF A MESSAGE TO ANOTHER PACKAGE: the first port of the slice that is up sends one flit of type `ty`, and the
tile is charged for it and for the flit that answers it (R280, R292, R425). -/
def State.sendFlit (s : State) (slice pid k pkg ty : Nat) : State :=
  match s.slice? slice with
  | none => s
  | some sl =>
    match (List.range 128).find? fun n => bit sl.ports n && !(s.port n).down with
    | none => s
    | some n =>
      let j := 2 * Config.calEntry s.dev.epoch 2 n sl.step 16
      ((s.putPort n ((s.port n).send ty pkg)).chargeFar slice pid k 6 j).onSlice slice fun v => { v with flits := v.flits + 2 }

/-- The binding of a slice lets traffic from a pair (PKG, SLICE) in, and names the pair that a package stands for (R403). -/
def Slice.bound (sl : Slice) (pkg src : Nat) : Bool := sl.bind.any fun q => q.1 == pkg && q.2 == src
def Slice.boundTo (sl : Slice) (pkg : Nat) : Option Nat := (sl.bind.find? fun q => q.1 == pkg).map fun q => q.2

end Sys2Proof.Machine
end

