-- ==== Sys2Proof/Machine/Pitch.lean ====
section
/-! DEFINITION. A pitch in lockstep: holds (R25 to R31), rendezvous (R32 to R34), freeze points (R42 to R47), the links
of the stream plane (R276), and what leaves a tile in a cycle. -/

namespace Sys2Proof.Machine

namespace Pitch

/-- The origin tile. -/
def origin (p : Pitch) : Tile := p.tiles.getD 0 {}

/-- off of a tile (R19). -/
def off (p : Pitch) (t : Tile) : Nat :=
  Env.off { seamC := if p.img.seamC == 0 then [] else [p.img.seamC]
            seamR := if p.img.seamR == 0 then [] else [p.img.seamR] } t.x t.y

/-- Change every tile, with its index. -/
def mapTiles (p : Pitch) (f : Nat → Tile → Tile) : Pitch := { p with tiles := p.tiles.mapIdx f }

/-- Change one tile. -/
def onTile (p : Pitch) (k : Nat) (f : Tile → Tile) : Pitch := { p with tiles := p.tiles.modify k f }

/-- A tile stands held in this wall cycle (R27): every tile holds for q wall cycles from the one in which it reached the
stop cycle. -/
def heldAt (p : Pitch) (t : Tile) : Bool :=
  p.holds.any fun h => h.stop == t.tl &&
    match h.q with
    | none => true
    | some q => decide (p.wall < t.reach + q)

/-- Failed lookaheads for a stop cycle: off of the tile, and the wall cycle of its clearing. -/
def failed (p : Pitch) (stop : Nat) : List (Nat × Option Nat) :=
  p.tiles.flatMap fun t => (t.looks.filter fun l => !l.passed && l.at_ == stop).map fun l => (p.off t, l.clear)

/-- A tile stands at a local cycle with its time running. -/
def standsAt (stop : Nat) (t : Tile) : Bool := t.mode == .run && t.tl == stop

/-- The wall cycle in which the origin would reach a stop cycle, by the first tile that stands there: all tiles that run keep
the skew of the start pulse (R19, R27). -/
def holdBase (p : Pitch) (stop : Nat) : Nat :=
  match p.tiles.find? (standsAt stop) with
  | some t => t.reach - p.off t
  | none => 0

/-- q of R27, once every failed condition has cleared; reach_i is the base + off(i). -/
def holdQ (p : Pitch) (stop : Nat) : Option Nat :=
  (p.failed stop).foldl (fun (q : Option Nat) c =>
    match q, c.2 with
    | some n, some w => some (Nat.max n (w + p.img.lead - (p.holdBase stop + c.1)))
    | _, _ => none) (some 1)

/-- The stop cycle whose hold ends in this wall cycle, if any: that of the first tile whose q cycles there have passed. -/
def releaseDue (p : Pitch) : Option Nat :=
  (p.holds.find? fun h => h.q.isNone &&
    match p.holdQ h.stop with
    | none => false
    | some q => p.tiles.any fun t => standsAt h.stop t && decide (t.reach + q ≤ p.wall)).map fun h => h.stop

/-- Requests for holds from failed lookaheads (R27, R29). A hold goes when every tile has passed it, or when no lookahead asks
for it any more. -/
def gatherHolds (p : Pitch) : Pitch :=
  let asked := if p.strict then [] else p.tiles.flatMap fun t => (t.looks.filter fun l => !l.passed).map fun l => l.at_
  let hs := asked.foldl (fun (hs : List Hold) c => if hs.any fun h => h.stop == c then hs else hs ++ [{ stop := c }]) p.holds
  { p with holds := hs.filter fun h => (h.q.isSome || asked.contains h.stop) && p.tiles.any fun t => decide (t.tl ≤ h.stop) }

/-- Order of traps: lowest local cycle, then tile, then engine (R39). -/
def trapKey (p : Pitch) (k : Nat) (r : TrapRec) : Nat := (r.tau * (p.tiles.length + 1) + r.sender.getD k) * 8 + r.eng.idx

/-- Every registered trap with its tile. -/
def allTraps (p : Pitch) : List (Nat × TrapRec) :=
  (List.range p.tiles.length).flatMap fun k => ((p.tiles.getD k {}).traps).map fun r => (k, r)

/-- The first trap (R39). -/
def firstTrap (p : Pitch) : Option (Nat × TrapRec) :=
  (sortOn (fun (q : Nat × TrapRec) => p.trapKey q.1 q.2) p.allTraps).head?

/-- The least of two options. -/
def least (a b : Option Nat) : Option Nat :=
  match a, b with
  | some x, some y => some (Nat.min x y)
  | some x, none => some x
  | none, y => y

/-- The local cycle of the registered request or of the first trap, from which on a hold fixes the freeze point (R44). -/
def stopFrom (p : Pitch) : Option Nat := least p.tauR (p.firstTrap.map fun q => q.2.tau)

/-- τ_f, when a freeze is registered (R37, R42, R44, R46, R411). -/
def freezePoint (p : Pitch) : Option Nat :=
  let base := least (least (p.tauR.map fun x => x + p.img.lead) (p.firstTrap.map fun q => q.2.tau + p.img.lead))
    (p.safeAt.map fun c => c + 1)
  match base with
  | none => none
  | some m =>
    match p.origin.mode with
    | .pulse _ => some p.origin.tl
    | .anchor _ => some p.origin.tl
    | _ =>
      let from' := p.stopFrom.getD m
      let stops := (p.holds.filter fun h => h.q.isNone && decide (from' ≤ h.stop) && decide (h.stop < m)).map fun h => h.stop
      stops.foldl (fun z c => some (Nat.min (z.getD c) c)) (some m)

/-- Tag and cycle of a tile that waits at an RDV.P. -/
def rdvOf (t : Tile) : Option (Nat × Nat) :=
  match t.mode with
  | .rdv tag c => some (tag, c)
  | _ => none

/-- A tile waits at an RDV.P, or will again once the restart of a resume has reached it. -/
def waits (t : Tile) : Bool :=
  match t.mode with
  | .rdv _ _ => true
  | .rpulse _ _ _ => true
  | _ => false

/-- X issues nothing in a tile: from τ_r on (R43), once a SAFE is taken or may be (R46), and where the tile has stopped. A trap
stops X of its own accord only in the trapping tile; elsewhere X goes on up to the freeze (R37, R38). A tile that waits at an
RDV.P observes a registered freeze at once (R44). -/
def xStop (p : Pitch) (t : Tile) : Bool :=
  p.tauR.any (fun r => decide (r ≤ t.tl)) || t.mode == .frozen || (p.stopFrom.isSome && waits t) || p.safeAt.isSome ||
    p.safeTry.any fun q => q.2.2 && decide (q.1 ≤ t.tl + p.img.lead)

/-- Tiles that reach τ_f stop there; a tile that waits at an RDV.P stands already (R42, R44). A tile whose time is beyond τ_f
when the freeze is registered, which only the wait of the origin at an RDV.P allows, stops at once
(notes/assumptions/97.md). -/
def stopTiles (p : Pitch) : Pitch :=
  match p.freezePoint with
  | none => p
  | some f => p.mapTiles fun _ t =>
      match t.mode with
      | .run => if f ≤ t.tl then { t with mode := .frozen } else t
      | .pulse _ => if f ≤ t.tl then { t with mode := .frozen } else t
      | .anchor _ => if f ≤ t.tl then { t with mode := .frozen } else t
      | _ => t

/-- Every tile has stopped for a freeze. -/
def allStopped (p : Pitch) : Bool := p.freezePoint.isSome && p.tiles.all fun t => t.mode == .frozen || waits t

/-- Register a trap in a tile's C that names a group's word offset (R400). -/
def trapIn (p : Pitch) (k tau code pc : Nat) : Pitch :=
  p.onTile k fun t => t.record { tau := tau, eng := .C, code := code, info := pc, off := pc, word := pc }

/-- The effect by which C of a live tile ends, or stops at an RDV.P, in this cycle. -/
def cStops (isEnds : Bool) (t : Tile) : Option Pend :=
  if t.live then t.pend.find? fun e => e.own.eng == .C && e.at_ == t.tl && match e.eff with
    | .ends _ => isEnds
    | .rdv _ => !isEnds
    | _ => false
  else none

/-- SCHEDULE_MISS of a C group that issues in this cycle: the group is suppressed (R33, R37). -/
def missAtIssue (p : Pitch) (k : Nat) (e : Option Pend) : Pitch :=
  match e with
  | none => p
  | some e => p.onTile k fun t => t.trapAny e.own t.tl t.tl trapMiss

/-- The rendezvous rules for the groups of this cycle (R33): ENDS of C while another tile waits at an RDV.P or issues one, in
the lowest such tile, and RDV.P after another tile's ENDS. -/
def rdvAtIssue (p : Pitch) : Pitch :=
  let idx := List.range p.tiles.length
  let tl (k : Nat) : Tile := p.tiles.getD k {}
  let rdvs := idx.filter fun k => (cStops false (tl k)).isSome
  let p1 := if p.tiles.any waits || !rdvs.isEmpty then
      match idx.find? fun k => (cStops true (tl k)).isSome with
      | some k => p.missAtIssue k (cStops true (tl k))
      | none => p
    else p
  if p.cEnded.isEmpty then p1 else rdvs.foldl (fun q k => q.missAtIssue k (cStops false (tl k))) p1

/-- A tile's RDV.P is suppressed after the fact (R33, R37): C stands on it again, with the loop end check, the deltas and the
tokens of its group undone; a token that X has taken since stays taken (notes/assumptions/36.md). -/
def unRdv (code : Code) (t : Tile) : Tile :=
  let pc := t.rdvEng.pc
  let t1 := match (loopEndCheck t.rdvEng pc).2 with
    | some l => (deltaStreams t t.rdvEng l).foldl
        (fun q k => q.setStream k ((q.streamOf k).applyDelta (-(at' 0 t.rdvEng.delta (16 * l + k))))) t
    | none => t
  let pre := match groupAt .C code pc with
    | .ok [q] => preOfInstr q.i
    | _ => {}
  let give (on : Bool) (k : Nat) (q : Tile) : Tile :=
    if on then { q with tok := q.tok.setIfInBounds k (Nat.min 15 (at' 0 q.tok k + 1)) } else q
  let take (on : Bool) (k : Nat) (q : Tile) : Tile := if on then { q with tok := q.tok.setIfInBounds k (at' 0 q.tok k - 1) } else q
  let t2 := take pre.sn (outIdx .C false) (take pre.sp (outIdx .C true)
    (give pre.wn (tokIdx .C false) (give pre.wp (tokIdx .C true) t1)))
  t2.setEng .C { t.rdvEng with halted := true }

/-- The rendezvous rule at the end of the wall cycle in which the last tile issues its RDV.P (R33): the lowest tile whose tag
differs from that of the lowest tile disagrees. -/
def rdvRules (p : Pitch) : Pitch :=
  let idx := List.range p.tiles.length
  let tl (k : Nat) : Tile := p.tiles.getD k {}
  let p1 := { p with cEnded := idx.filter fun k => ((tl k).engOf .C).ended }
  let fresh := idx.any fun k => match rdvOf (tl k) with
    | some (_, c) => (tl k).live && (tl k).tl == c + 1
    | none => false
  if fresh && p.tiles.all waits then
    let tag (k : Nat) : Option Nat := match (tl k).mode with
      | .rdv g _ => some g
      | .rpulse _ g _ => some g
      | _ => none
    match idx.find? fun k => tag k != tag 0 with
    | some k => (p1.onTile k (unRdv ((p.img.code.getD (tl k).cls []).getD 0 {}))).trapIn k ((tl k).tl - 1) trapMiss (tl k).rdvOff
    | none => p1
  else p1

/-- Every tile waits at an RDV.P and all agree: the pitch may re-anchor (R32), whatever freeze is registered (R44). -/
def rdvReady (p : Pitch) : Bool :=
  !p.tiles.isEmpty && p.tiles.all fun t => (rdvOf t).isSome && (rdvOf t).map Prod.fst == (rdvOf p.origin).map Prod.fst

/-- A of R32. -/
def anchor (p : Pitch) : Nat :=
  p.tiles.foldl (fun z t => match rdvOf t with
    | some (_, c) => Nat.max z (c + p.img.lead)
    | none => z) 0

/-- Wall cycles from the re-anchor to the issue of A at the origin: W_L − off(L) + F, where L issued last (R32). -/
def anchorWait (p : Pitch) : Nat :=
  let last := p.tiles.foldl (fun (z : Nat × Nat) t => if z.1 < t.reach then (t.reach, p.off t) else z) (0, 0)
  let at_ := last.1 - 1 - last.2 + p.img.lead
  at_ - p.wall

/-- A tile whose local time jumps to `a` (R32): what it still has to do keeps its distance from the next group to issue
(notes/assumptions/20.md). -/
def jump (a : Nat) (t : Tile) : Tile :=
  let d := a - t.tl
  { t with
    tl := a
    looks := []
    pend := t.pend.map fun p => if p.own.eng == .X then p else { p with at_ := p.at_ + d, iss := p.iss + d }
    banks := t.banks.map fun b => { b with at_ := b.at_ + d, iss := b.iss + d }
    cutAt := t.cutAt.map fun c => if c == 0 then 0 else c + d
    eng := t.eng.map fun e => { e with busyA := e.busyA + d, busyB := e.busyB + d } }

/-- A link entry or a landing that a tile's re-anchor finds in flight moves with the tile at which it takes place. -/
def jumpLink (p : Pitch) (a : Nat) (l : LinkUse) : LinkUse :=
  let t := p.tiles.getD (l.y * p.img.w + l.x) {}
  if t.tl + p.off t ≤ l.p then { l with p := l.p + (a - t.tl) } else l

/-- THE RE-ANCHOR (R26, R32): every tile's TIME_LOCAL becomes A, and the origin issues A after `anchorWait`. -/
def reanchored (p : Pitch) : Pitch :=
  let a := p.anchor
  let n := p.anchorWait
  { p with
    tiles := p.tiles.map fun t => { jump a t with mode := .anchor (n + p.off t) }
    links := p.links.map (p.jumpLink a)
    holds := [] }

/-- From pitch cycle `c` on no beat of a send enters a link or lands; what came before stands (R276). -/
def dropSend (p : Pitch) (k gid c : Nat) : Pitch :=
  let gone (t : Tile) (own : Own) (at_ : Nat) : Bool :=
    own.eng == .N && own.iid == 4096 + k && own.gid == gid && decide (c ≤ at_ + p.off t)
  { p with
    links := p.links.filter fun l => !(l.tile == k && l.own.gid == gid && decide (c ≤ l.p))
    tiles := p.tiles.map fun t => { t with
      pend := t.pend.filter fun e => !gone t e.own e.at_
      banks := t.banks.filter fun b => !gone t b.own b.at_ } }

/-- Two beats on one link, or two landings in one tile, in one pitch cycle up to `c`: LINK_COLLISION in each sender, and no
beat of those sends moves from that pitch cycle on (R276). -/
def linkRulesTo (p : Pitch) (c : Nat) : Pitch :=
  let now := p.links.filter fun l => decide (l.p ≤ c)
  let meet (a b : LinkUse) : Bool :=
    a.p == b.p && a.x == b.x && a.y == b.y && a.dir == b.dir && (a.tile != b.tile || a.own.gid != b.own.gid || a.own.iid != b.own.iid)
  let bad := sortOn (fun (a : LinkUse) => a.p) (now.filter fun a => now.any (meet a))
  let senders := bad.foldl (fun (l : List (Nat × Nat × Own)) a =>
    if l.any fun q => q.2 == (a.tile, a.own) then l else l ++ [(a.p, a.tile, a.own)]) []
  let least := p.tiles.foldl (fun z t => Nat.min z (t.tl + p.off t)) c
  let p1 := { p with links := p.links.filter fun l => decide (least ≤ l.p) }
  senders.foldl (fun q so =>
    let k := so.2.1
    let o := so.2.2
    (q.onTile k fun t => t.trapLate o (so.1 - p.off (p.tiles.getD k {})) trapLink).dropSend k o.gid so.1) p1

/-- The link rules in the present pitch cycle, that of the live tile which is furthest. -/
def linkRules (p : Pitch) : Pitch :=
  let live := p.tiles.filter fun t => t.live
  if live.isEmpty then p else p.linkRulesTo (live.foldl (fun z t => Nat.max z (t.tl + p.off t)) 0)

/-- A send whose trap was found in the present cycle of tile `k` is over from that pitch cycle on (R37, R276): one of the tile's
own, or one of another tile whose landing met a static access (R99). -/
def stopSend (p : Pitch) (k : Nat) (r : TrapRec) : Pitch :=
  let t := p.tiles.getD k {}
  let j := r.sender.getD k
  let c := t.tl + p.off t
  if t.live && r.tau == t.tl && r.eng == .N && r.gid != 0 then
    (p.onTile j fun u => u.suppress { eng := .N, gid := r.gid, off := r.off } false (c - p.off (p.tiles.getD j {}))).dropSend j
      r.gid c
  else p

/-- Sends that a trap of the present cycle stops, in every tile. -/
def landRules (p : Pitch) : Pitch := p.allTraps.foldl (fun q r => q.stopSend r.1 r.2) p

/-- The granules that land in the present cycle are charged to the tiles that sent them (R260, R425). -/
def chargeLandings (env : Nat → Env) (p : Pitch) : Pitch :=
  (List.range p.tiles.length).foldl (fun q k =>
    let t := p.tiles.getD k {}
    t.pend.foldl (fun (z : Pitch) e =>
      match e.eff with
      | .land (.granule _ _) =>
        if due (env k) t 1 e then z.onTile (e.own.iid - 4096) fun u => u.charge (env (e.own.iid - 4096)) 1 1 else z
      | _ => z) q) p

/-- A word that a tile sends becomes a landing in its destination, with its bank cycles (R22, R99, R275). -/
def deliver (p : Pitch) (sender : Nat) (x y at_ : Nat) (own : Own) (w : PlaneWord) : Pitch :=
  p.onTile (y * p.img.w + x) fun t =>
    let o : Own := { eng := .N, gid := own.gid, iid := 4096 + sender, off := own.off }
    let t1 := { t with pend := t.pend ++ [⟨at_, if w matches .line _ _ _ _ then 0 else 1, o, 0, .land w⟩] }
    match w with
    | .granule off _ => { t1 with banks := t1.banks ++ [{ at_ := at_, bank := off / 64 % 16, own := o }] }
    | .line _ _ _ _ => t1

/-- Every engine of every tile has ended, and every result has performed (R48). -/
def finished (p : Pitch) : Bool :=
  p.allTraps.isEmpty && p.tiles.all fun t =>
    t.pend.isEmpty && t.semOps.isEmpty && t.out.isEmpty && t.xs.copies.isEmpty && t.xs.asks.isEmpty &&
      Engine.all.all fun e => (t.engOf e).ended

end Pitch

/-- What a tile sent out in this cycle reaches the pitch and the package (R126, R293, R296, R298). -/
def absorbSig (p0 : Pitch) (k : Nat) (r : State × Pitch) (sig : Sig) : State × Pitch :=
  let s := r.1
  let p := r.2
  let ask (m : Msg) (wait : Bool) (rd : Option Nat) : State × Pitch :=
    ({ s with fresh := s.fresh + 1, msgs := s.msgs ++ [m] },
      p.onTile k fun t => { t with xs := { t.xs with
        slots := t.xs.slots + 1
        asks := t.xs.asks ++ [m.id]
        waiting := if wait then some m.id else t.xs.waiting
        busyRegs := if wait then t.xs.busyRegs else t.xs.busyRegs ++ rd.toList } })
  match sig with
  | .word x y at_ own w => (s, p.deliver k x y at_ own w)
  | .link x y dir c own => (s, { p with links := p.links ++ [{ x := x, y := y, dir := dir, p := c, tile := k, own := own }] })
  | .remote tx ty op rd wait off =>
    ask { id := s.fresh, pitch := p0.id, tile := k, pgen := p0.gen, dest := .tile (ty * p0.img.w + tx), op := op, rd := rd,
          wait := wait, off := off } wait rd
  | .slice ss op rd wait off =>
    ask { id := s.fresh, pitch := p0.id, tile := k, pgen := p0.gen, dest := .slice ss, op := op, rd := rd, wait := wait,
          off := off } wait rd
  | .fpost ss pkg amt off =>
    let peer := ((s.slice? p0.slice).bind fun sl => sl.boundTo pkg).getD p0.slice
    ask { id := s.fresh, pitch := p0.id, tile := k, pgen := p0.gen, dest := .fabric pkg peer ss, op := .post ss amt, rd := none,
          wait := false, off := off } false none
  | .reply m v trap =>
    (match s.msg? m with
      | none => (s, p)
      | some q => (s.putMsg { q with phase := .back, val := v, trap := trap }, p))
  | .refused c data =>
    (match s.copy? c with
      | none => (s, p)
      | some q => (s, p.onTile q.tile fun t =>
          (t.record { tau := if t.reach == p.wall + 1 then t.tl - 1 else t.tl, eng := .X, code := trapCeiling, info := q.off, data := data, off := q.off, word := q.off
            }).setEng .X { t.engOf .X with halted := true }))
  | .copy i d o src dst n z posts off =>
    ({ s with fresh := s.fresh + 1, copies := s.copies ++ [
        { id := s.fresh, pitch := p0.id, tile := k, slice := p0.slice, pgen := p0.gen, instr := i, off := off, opD := d,
          opS := o, src := src, dst := dst, n := n, z := z, posts := posts }] },
      p.onTile k fun t => { t with xs := { t.xs with
        copies := t.xs.copies ++ [s.fresh]
        copying := if n * z == 0 then none else some s.fresh } })

/-- Collect every tile's signals. -/
def absorbAll (s : State) (p : Pitch) : State × Pitch :=
  (List.range p.tiles.length).foldl (fun r k =>
    let out := ((r.2.tiles.getD k {}).out)
    out.foldl (absorbSig p k) (r.1, r.2.onTile k fun t => { t with out := [] })) (s, p)

end Sys2Proof.Machine
end

