-- ==== Sys2Proof/Machine/Loader.lean ====
section
/-! DEFINITION. The loader: the container (R351 to R355), image selection (R356), native images (R357 to R361) and the
checks ENCODING, CONTROL and SEAM of the load checker (R327, R344). -/

namespace Sys2Proof.Machine

/-- A failed check (R327, R328): its code, place and local cycle. -/
structure CheckFail where
  code : Nat
  tile : Nat := 0
  eng : Engine := .C
  off : Nat := 0
  cycle : Nat := 0
  party : Option (Nat × Engine × Nat) := none
  deriving DecidableEq, Repr

/-- How a load ends (R355): with an image, with a status before there is one, with a check that the image fails, or with an image
whose size or orientations are not the descriptor's (MISMATCH). -/
inductive Load where
  | loaded (i : Image)
  | failed (status : Nat)
  | check (i : Image) (f : CheckFail)
  | mismatch (i : Image)
  deriving DecidableEq, Repr

/-- The 64-bit word at byte `off`; zero beyond the end. -/
def w64 (f : List Byte) (off : Nat) : Nat := leNat ((f.drop off).take 8)

/-- A directory entry (R353). -/
structure DirEnt where
  word0 : Nat
  feat : Nat
  off : Nat
  size : Nat
  clean : Bool
  deriving DecidableEq, Repr

namespace DirEnt

def kind (e : DirEnt) : Nat := fld e.word0 0 8
def family (e : DirEnt) : Nat := fld e.word0 8 8
def edition (e : DirEnt) : Nat := fld e.word0 16 8
def steps (e : DirEnt) : Nat := fld e.word0 24 2
def fwd (e : DirEnt) : Bool := bit e.word0 32

/-- The features are within an E1 device's mask (R354). -/
def feasible (e : DirEnt) : Bool := e.family == 1 && e.feat &&& 0x1F == e.feat

end DirEnt

/-- The directory of a container. -/
def directory (f : List Byte) : List DirEnt :=
  let w2 := w64 f 16
  (List.range (fld (w64 f 0) 48 16)).map fun i =>
    let o := fld w2 32 32 + 32 * i
    let x := w64 f o
    { word0 := x, feat := w64 f (o + 8), off := fld (w64 f (o + 16)) 0 32, size := fld (w64 f (o + 16)) 32 32,
      clean := w64 f (o + 24) == 0 && fld x 33 31 == 0 && fld x 26 6 == 0 }

/-- Ranges (offset, size) do not overlap. -/
def disjoint (l : List (Nat × Nat)) : Bool :=
  (List.range l.length).all fun i => (List.range i).all fun j =>
    let a := l.getD i (0, 0)
    let b := l.getD j (0, 0)
    decide (a.1 + a.2 ≤ b.1) || decide (b.1 + b.2 ≤ a.1)

/-- The container holds (R351 to R353). -/
def containerOk (f : List Byte) : Bool :=
  let w0 := w64 f 0
  let size := fld (w64 f 8) 0 48
  let nimg := fld w0 48 16
  let dir := fld (w64 f 16) 32 32
  let es := directory f
  decide (64 ≤ f.length) && fld w0 0 32 == 0x314F465A && fld w0 32 16 == 1 && fld (w64 f 8) 48 16 == 0 &&
    decide (size ≤ 2 ^ 32) && decide (64 ≤ size) && decide (size ≤ f.length) && fld (w64 f 16) 0 32 == 0 &&
    w64 f 24 == 0 && decide (1 ≤ nimg) && decide (nimg ≤ 255) && dir % 8 == 0 && decide (64 ≤ dir) &&
    decide (dir + 32 * nimg ≤ size) &&
    (es.all fun e => e.clean && e.off % 8 == 0 && e.size % 8 == 0 && decide (e.off + e.size ≤ size) &&
      (if e.kind == 0 then e.steps != 0 else e.kind != 1 || e.steps == 0)) &&
    disjoint (es.map fun e => (e.off, e.size)) && sha256 ((f.drop 64).take (size - 64)) == (f.drop 32).take 32

/-- The selection of R356: the index of the image. -/
def selectImage (es : List DirEnt) (stepping : Nat) : Option Nat :=
  let at_ (k : Nat) : DirEnt := es.getD k { word0 := 0, feat := 0, off := 0, size := 0, clean := true }
  let ok := (List.range es.length).filter fun k => (at_ k).feasible
  match ok.find? fun k => (at_ k).kind == 0 && (at_ k).edition == 1 && bit (at_ k).steps stepping with
  | some k => some k
  | none =>
    match ok.find? fun k => (at_ k).kind == 0 && (at_ k).fwd && (at_ k).edition == 1 with
    | some k => some k
    | none => ok.find? fun k => (at_ k).kind == 1 && (at_ k).edition == 0

/-- A section (R358). -/
structure Sect where
  size : Nat
  off : Nat
  cls : Nat
  ty : Nat
  eng : Nat
  clean : Bool
  deriving DecidableEq, Repr

/-- The section table of an image. -/
def sections (m : List Byte) : List Sect :=
  let o := fld (w64 m 16) 0 32
  (List.range (fld (w64 m 8) 0 16)).map fun i =>
    let a := w64 m (o + 16 * i)
    let b := w64 m (o + 16 * i + 8)
    { size := fld a 0 32, off := fld a 32 32, cls := fld b 0 8, ty := fld b 8 8, eng := fld b 16 3, clean := fld b 19 45 == 0 }

/-- Bytes of a section. -/
def Sect.bytes (x : Sect) (m : List Byte) : List Byte := (m.drop x.off).take x.size

/-- A rectangle of the class map: class, x0, x1, y0, y1. -/
abbrev Rect := Nat × Nat × Nat × Nat × Nat

/-- Entries of the class map (R359). -/
def rects (b : List Byte) : List Rect :=
  (List.range (b.length / 8)).map fun i =>
    let w := w64 b (8 * i)
    (fld w 24 8, fld w 0 6, fld w 6 6, fld w 12 6, fld w 18 6)

/-- Classes whose rectangles cover a tile. -/
def covering (l : List Rect) (x y : Nat) : List Nat :=
  (l.filter fun (r : Rect) =>
    decide (r.2.1 ≤ x) && decide (x ≤ r.2.2.1) && decide (r.2.2.2.1 ≤ y) && decide (y ≤ r.2.2.2.2)).map fun r => r.1

/-- Records of a DATA or CONST section: offset and bytes; none where the layout breaks R359. -/
def records : Nat → List Byte → Option (List (Nat × List Byte))
  | 0, b => if b.isEmpty then some [] else none
  | n + 1, b =>
    if b.isEmpty then some []
    else
      let hd := w64 b 0
      let len := fld hd 20 20
      let off := fld hd 0 20
      let padded := (len + 7) / 8 * 8
      let rest := b.drop 8
      if b.length < 8 || fld hd 40 24 != 0 || len == 0 || decide (Config.spmSize < len) || decide (Config.spmSize < off + len) ||
          decide (rest.length < padded) || ((rest.take padded).drop len).any fun x => x != 0 then none
      else
        match records n (rest.drop padded) with
        | none => none
        | some l => some ((off, rest.take len) :: l)

/-- Words of a code section. -/
def codeWords (b : List Byte) : List Nat := (List.range (b.length / 4)).map fun i => leNat ((b.drop (4 * i)).take 4)

/-- Group-start marks by the S bits (R163, R359). -/
def groupStarts (e : Engine) (ws : List Nat) : Nat → Nat → Bool → List Nat
  | 0, _, _ => []
  | n + 1, pc, first =>
    if ws.length ≤ pc then []
    else
      let w := ws.getD pc 0
      let len := opWords e (fld w 20 7)
      let next := groupStarts e ws n (pc + if len == 0 then 1 else len) (bit w 27)
      if first then pc :: next else next

/-- A stream's code with its marks. -/
def Code.ofWords (e : Engine) (ws : List Nat) : Code := { words := ws, starts := groupStarts e ws ws.length 0 true }

/-- The single word ENDS that a missing stream loads as (R359). -/
def endsWord : Nat := 0x08200000

/-- A header's NAME is a symbol, as .image takes one (R147, R157, R355): a letter or `_`, then letters, digits and `_`, at most 63. -/
def nameOk (b : List Byte) : Bool :=
  let n := b.takeWhile fun c => c != 0
  let letter (k : Nat) : Bool := decide (65 ≤ k) && decide (k ≤ 90) || decide (97 ≤ k) && decide (k ≤ 122) || k == 95
  let digit (k : Nat) : Bool := decide (48 ≤ k) && decide (k ≤ 57)
  decide (n.length ≤ 63) && ((n.head?.map fun c => letter c.toNat).getD false) && n.all fun c => letter c.toNat || digit c.toNat

/-- The fixed fields of an image header (R357); none where a reserved field is nonzero or a field is out of range. -/
def header (m : List Byte) : Option Image :=
  let w0 := w64 m 0
  let w := fld w0 0 6
  let h := fld w0 8 6
  let c := fld w0 30 6
  let r := fld w0 36 6
  let name := (m.drop 32).take 64
  let tail := name.dropWhile fun b => b != 0
  if decide (m.length < 96) || fld w0 42 22 != 0 || fld w0 28 2 != 0 || bit w0 14 || fld w0 6 2 != 0 || fld w0 23 2 == 3 ||
      fld w0 15 8 == 0 || decide (w < 1) || decide (48 < w) || decide (h < 1) || decide (48 < h) || decide (w ≤ c && c != 0) ||
      decide (h ≤ r && r != 0) || fld (w64 m 8) 16 16 != 0 || fld (w64 m 8) 0 16 == 0 || fld (w64 m 16) 32 32 != 0 ||
      w64 m 24 != 0 || fld (w64 m 16) 0 32 % 8 != 0 ||
      decide (m.length < fld (w64 m 16) 0 32 + 16 * fld (w64 m 8) 0 16) || tail.any (fun b => b != 0) ||
      !nameOk name then none
  else
    some { w := w, h := h, seamC := c, seamR := r, pin := bit w0 27, stale := bit w0 26, strict := bit w0 25,
           orient := fld w0 23 2, safeGap := fld (w64 m 8) 32 32 }

/-- Number of classes in a header. -/
def nclass (m : List Byte) : Nat := fld (w64 m 0) 15 8

/-- Bytes of a stream of a class as it loads: a missing one is one word (R359). -/
def streamBytes (ss : List Sect) (c e : Nat) : Nat :=
  match ss.find? fun x => x.ty == 1 && x.cls == c && x.eng == e with
  | some x => x.size
  | none => 4

/-- The section table holds (R358, R359). `block` is a block-code image. -/
def sectionsOk (m : List Byte) (block : Bool) : Bool :=
  let ss := sections m
  let count (p : Sect → Bool) : Nat := (ss.filter p).length
  let classes := List.range (nclass m)
  (ss.all fun x => x.clean && decide (x.ty ≤ 5) && x.off % 8 == 0 && decide (x.off + x.size ≤ m.length) &&
      (if x.ty == 1 then decide (x.eng ≤ 4) && x.size % 4 == 0 else x.eng == 0) && (x.ty != 5 || x.size % 16 == 0) &&
      (if x.ty == 1 || x.ty == 2 || x.ty == 4 then decide (x.cls < nclass m) else x.cls == 0)) &&
    disjoint (ss.map fun x => (x.off, x.size)) && count (fun x => x.ty == 0) == 1 && decide (count (fun x => x.ty == 3) ≤ 1) &&
    (classes.all fun c => decide (count (fun x => x.ty == 2 && x.cls == c) ≤ 1)) &&
    if block then
      count (fun x => x.ty == 1) == 0 && decide (count (fun x => x.ty == 5) ≤ 1) &&
        classes.all fun c => count (fun x => x.ty == 4 && x.cls == c) == 1
    else
      count (fun x => x.ty == 4 || x.ty == 5) == 0 &&
        classes.all fun c =>
          ((List.range 5).all fun e => decide (count (fun x => x.ty == 1 && x.cls == c && x.eng == e) ≤ 1)) &&
            decide ((List.range 5).foldl (fun z e => z + streamBytes ss c e) 0 ≤ 98304)

/-- No byte of a tile is named by two records (R161, R359). -/
def recordsOk (l : List (Nat × List Byte)) : Bool := disjoint (l.map fun r => (r.1, r.2.length))

/-- A native or translated image: everything but its code (R357 to R359). -/
def imageFrame (m : List Byte) (block : Bool) : Option Image :=
  match header m with
  | none => none
  | some i =>
    if !sectionsOk m block then none
    else
      let ss := sections m
      let map := ((ss.find? fun x => x.ty == 0).map fun x => x.bytes m).getD []
      let rs := rects map
      let cells := (List.range (i.w * i.h)).map fun k => covering rs (k % i.w) (k / i.w)
      let data := (ss.filter fun x => x.ty == 2).map fun x => (x.cls, records x.size (x.bytes m))
      let const := match ss.find? fun x => x.ty == 3 with
        | some x => records x.size (x.bytes m)
        | none => some []
      let mapOk := map.length % 8 == 0 &&
        (List.range (map.length / 8)).all (fun k => fld (w64 map (8 * k)) 32 32 == 0) &&
        (rs.all fun r => decide (r.1 < nclass m) && decide (r.2.1 ≤ r.2.2.1) && decide (r.2.2.2.1 ≤ r.2.2.2.2) &&
          decide (r.2.2.1 < i.w) && decide (r.2.2.2.2 < i.h)) &&
        (cells.all fun c => c.length == 1) && (List.range (nclass m)).all fun c => cells.any fun l => l == [c]
      match const with
      | none => none
      | some cs =>
        if !mapOk || data.any fun d => d.2.isNone then none
        else
          let ds := data.flatMap fun d => (d.2.getD []).map fun r => (d.1, r.1, r.2)
          let perClass (c : Nat) : Bool := recordsOk (cs ++ (ds.filter fun r => r.1 == c).map fun r => r.2)
          if (List.range (nclass m)).all perClass then
            some { i with classOf := cells.map fun l => l.getD 0 0, data := ds, const := cs, block := block }
          else none

/-- The code of a native image, by class and engine. -/
def imageCode (m : List Byte) : List (List Code) :=
  (List.range (nclass m)).map fun c => Engine.all.map fun e =>
    match (sections m).find? fun x => x.ty == 1 && x.cls == c && x.eng == e.idx with
    | some x => Code.ofWords e (codeWords (x.bytes m))
    | none => Code.ofWords e [endsWord]

/-- The first group of a stream that is an ENCODING failure (R168): its offset. -/
def encodingFail (e : Engine) (c : Code) : Nat → Nat → Option Nat
  | 0, _ => none
  | n + 1, pc =>
    if c.words.length ≤ pc then none
    else
      match groupAt e c pc with
      | .error _ => some pc
      | .ok l =>
        match l.getLast? with
        | none => some pc
        | some q => if c.words.length < q.pc + q.len then some pc else encodingFail e c n (q.pc + q.len)

/-- Every instruction of a stream with its place. -/
def placedAll (e : Engine) (c : Code) : List Placed := c.starts.flatMap fun pc => match groupAt e c pc with
  | .ok l => l
  | .error _ => []

/-- The group start at or before a word offset. -/
def groupOf (c : Code) (pc : Nat) : Nat := ((c.starts.filter fun k => decide (k ≤ pc)).getLast?).getD 0

/-- A target is a group-start word of the stream (R163). -/
def startAt (c : Code) (k : Int) : Bool := decide (0 ≤ k) && c.starts.contains k.toNat

/-- The word that follows a loop body starts a group or ends the code. -/
def bodyEnds (c : Code) (k : Nat) : Bool := c.starts.contains k || k == c.words.length

/-- Loop bodies as first and last words. -/
def loopBodies (l : List Placed) : List (Nat × Nat × Nat) := l.filterMap fun q => match q.i with
  | .loop _ _ _ _ body _ => some (q.pc, q.pc + 2, q.pc + 1 + body)
  | _ => none

/-- A loop of V, M or N whose body crosses another's end (R198). -/
def crossing (l : List Placed) : Option Nat :=
  let bs := loopBodies l
  (bs.find? fun b => bs.any fun a =>
    decide (a.2.1 ≤ b.1) && decide (b.1 ≤ a.2.2) && decide (a.2.2 < b.2.2)).map fun b => b.1

/-- A V, M or N stream reaches ENDS (R327): its straight path, with bodies of count zero skipped. -/
def reachesEnds (e : Engine) (c : Code) : Nat → Nat → Bool
  | 0, _ => false
  | n + 1, pc =>
    match groupAt e c pc with
    | .error _ => false
    | .ok l =>
      match l.getLast? with
      | none => false
      | some q =>
        match q.i with
        | .ends _ => true
        | .loop _ _ _ _ body count => reachesEnds e c n (if count == 0 then q.pc + 2 + body else q.pc + 2)
        | _ => reachesEnds e c n (q.pc + q.len)

/-- A group hands control to no group of its own choice: ENDS and RET end its path, and so does a TRAP. -/
def endsPath (l : List Placed) : Bool :=
  l.any fun q => match q.i with
    | .ends _ | .ret _ | .trap _ _ => true
    | _ => false

/-- Where a C or X group may hand control (R196, R197, R208): both ways of a branch, a loop body and the word after it where a
register gives the count, and the word after a CALL where the stream holds a RET. -/
def nextGroups (c : Code) (rets : Bool) (l : List Placed) : List Nat :=
  match l.getLast? with
  | none => []
  | some q =>
    let goal (o : Int) : List Nat := if startAt c ((q.pc : Int) + o) then [((q.pc : Int) + o).toNat] else []
    let fall := q.pc + q.len
    if endsPath l then []
    else
      match q.i with
      | .bz _ _ o | .bnz _ _ o => goal o ++ [fall]
      | .j _ o => goal o
      | .call _ o => goal o ++ if rets then [fall] else []
      | .loop _ _ src _ body count =>
        (if src || count != 0 then [fall] else []) ++ if src || count == 0 then [q.pc + 2 + body] else []
      | _ => [fall]

/-- The groups of a C or X stream that control can reach from `work`, those of `seen` among them. -/
def reached (e : Engine) (c : Code) (rets : Bool) : Nat → List Nat → List Nat → List Nat
  | 0, _, seen => seen
  | _, [], seen => seen
  | n + 1, k :: work, seen =>
    if seen.contains k then reached e c rets n work seen
    else
      match groupAt e c k with
      | .error _ => reached e c rets n work seen
      | .ok l => reached e c rets n (nextGroups c rets l ++ work) (k :: seen)

/-- The first group of a C or X stream that can hand control past the stream's last word (R160, R327). -/
def runsPast (e : Engine) (c : Code) : Option Nat :=
  let rets := (placedAll e c).any fun q => match q.i with
    | .ret _ => true
    | _ => false
  let rs := reached e c rets (2 * c.words.length + 2) [0] []
  if c.words.isEmpty then some 0
  else c.starts.find? fun k => rs.contains k && match groupAt e c k with
    | .error _ => false
    | .ok l => (nextGroups c rets l).any fun m => decide (c.words.length ≤ m)

/-- The first CONTROL failure of a stream: the word offset of its group (R327, R328). That a C or X stream can run past its last
word is found by following every way that control can take, and reported as CONTROL: R160 has lycheck check it, and R327 lists the
check for V, M and N alone (DEDUCED, notes/assumptions/96.md). -/
def controlFail (e : Engine) (c : Code) : Option Nat :=
  let l := placedAll e c
  let bad := l.find? fun q => match q.i with
    | .bz _ _ o => !startAt c ((q.pc : Int) + o)
    | .bnz _ _ o => !startAt c ((q.pc : Int) + o)
    | .j _ o => !startAt c ((q.pc : Int) + o)
    | .call _ o => !startAt c ((q.pc : Int) + o)
    | .loop _ _ _ _ body _ => !bodyEnds c (q.pc + 2 + body)
    | _ => false
  let fixed := e == .V || e == .M || e == .N
  match bad with
  | some q => some (groupOf c q.pc)
  | none => if !fixed then runsPast e c
    else match crossing l with
      | some k => some (groupOf c k)
      | none => if reachesEnds e c (c.words.length + 1) 0 then none else some (groupOf c (c.words.length - 1))

/-- The first failure of a stream check over the tiles, by (y, x) and then engine (R328). -/
def streamCheck (i : Image) (code : Nat) (f : Engine → Code → Option Nat) : Option CheckFail :=
  ((List.range (i.w * i.h)).flatMap fun k => Engine.all.filterMap fun e =>
    (f e ((i.code.getD (i.classOf.getD k 0) []).getD e.idx {})).map fun off =>
      ({ code := code, tile := k, eng := e, off := off } : CheckFail)).head?

/-- SEAM (R344): the pitch fits between the boundaries that it declares. -/
def seamCheck (i : Image) : Option CheckFail :=
  let axis (n len : Nat) : Bool := if n == 0 then decide (len ≤ 24) else decide (n ≤ 24) && decide (len - n ≤ 24)
  if axis i.seamC i.w && axis i.seamR i.h then none else some { code := 0x11 }

/-- Orientations that an image allows, as OMASK bits (R157). -/
def Image.omask (i : Image) : Nat := [0xFF, 0x0F, 0x01].getD i.orient 0

end Sys2Proof.Machine
end

