-- ==== Sys2Proof/Machine/Block.lean ====
section
/-! DEFINITION. Block code (R362 to R373): the rules that make a block-code image TRANSLATE, and the translation. -/

namespace Sys2Proof.Machine

/-- An operation record (R364). -/
structure BlockOp where
  eng : Nat
  op : Nat
  t0 : Nat
  s0 : Nat
  t1 : Nat
  s1 : Nat
  pmode : Nat
  pred : Nat
  pool : Bool
  imm : Nat
  deriving DecidableEq, Repr

/-- The fields of a record. -/
def BlockOp.ofWord (w : Nat) : BlockOp :=
  { eng := fld w 61 3, op := fld w 54 7, t0 := fld w 47 7, s0 := fld w 45 2, t1 := fld w 38 7, s1 := fld w 36 2,
    pmode := fld w 34 2, pred := fld w 27 7, pool := bit w 26, imm := fld w 0 26 }

/-- What a record stands for: what it does, its slots with their register fields, and whether it has a result. -/
structure BlockSem where
  act : BlockAct := .const 0
  slots : List (Nat × Nat) := []
  result : Bool := false
  /-- Reads or writes state other than slots and results; waits at the entry of its block (R370). -/
  state : Bool := false
  wait : Bool := false
  exit : Option Nat := none
  deriving DecidableEq, Repr

/-- Not allowed in block code (R362). -/
def notInBlocks (i : Instr) : Bool :=
  match i with
  | .idle _ _ | .loop _ _ _ _ _ _ | .ends _ | .bz _ _ _ | .bnz _ _ _ | .j _ _ | .call _ _ | .ret _ | .ldel _ _ _ _ _
  | .safe _ | .tick _ _ | .rdvT _ _ => true
  | .getc _ _ n => n == 8
  | _ => false

/-- Operations on registers alone. -/
def blockPure (i : Instr) : Bool :=
  match i with
  | .nop _ | .addi _ _ _ _ | .movi _ _ _ | .movk _ _ _ | .ext _ _ _ _ _ | .extu _ _ _ _ _ | .ins _ _ _ _ _
  | .add _ _ _ _ | .sub _ _ _ _ | .mul _ _ _ _ | .mulh _ _ _ _ | .mulhu _ _ _ _ | .div _ _ _ _ | .divu _ _ _ _
  | .rem _ _ _ _ | .remu _ _ _ _ | .and _ _ _ _ | .or _ _ _ _ | .xor _ _ _ _ | .andn _ _ _ _ | .shl _ _ _ _
  | .shr _ _ _ _ | .sra _ _ _ _ | .rotl _ _ _ _ | .clz _ _ _ | .ctz _ _ _ | .popc _ _ _ | .min _ _ _ _ | .max _ _ _ _
  | .minu _ _ _ _ | .maxu _ _ _ _ | .cmpeq _ _ _ _ | .cmpne _ _ _ _ | .cmplt _ _ _ _ | .cmpltu _ _ _ _
  | .sel _ _ _ _ _ => true
  | _ => false

/-- Slots of a synchronisation instruction (R367): ra 0, rb 1, rc 2. -/
def sySlots (o : SyOps) (useA useB : Bool) : List (Nat × Nat) :=
  (if useA then [(0, o.ra)] else []) ++ (if useB && !o.imm then [(1, o.rb)] else []) ++ if o.rsel then [(2, o.rc)] else []

/-- Slots of a native operation with their register fields (R367). -/
def nativeSlots (i : Instr) : List (Nat × Nat) :=
  match i with
  | .smcfg _ o | .scas _ o => sySlots o true true
  | .swait _ o | .spost _ o | .sfadd _ o | .sexp _ o | .sphw _ o => sySlots o false true
  | .rcfg _ o => sySlots o true false
  | .srd _ o | .rstat _ o | .rclf _ o | .rcld _ o | .rfil _ o | .rrel _ o => sySlots o false false
  | .fspost _ xp xa pr ar _ _ _ => (if pr then [(0, xp)] else []) ++ if ar then [(1, xa)] else []
  | _ =>
    let rs := (objReads i).filterMap fun o => match o with
      | .reg k => some k
      | _ => none
    (List.range rs.length).map fun k => (k, rs.getD k 0)

/-- A native operation has a result: its destination register (R367). -/
def nativeResult (i : Instr) : Bool := (objWrites i).any fun o => match o with
  | .reg _ => true
  | _ => false

/-- Slot registers of a synchronisation instruction. -/
def slotSy (o : SyOps) (useA useB hasRd : Bool) : SyOps :=
  { o with
    ra := if useA then 1 else o.ra, rb := if useB && !o.imm then 2 else o.rb, rc := if o.rsel then 3 else o.rc
    rd := if hasRd then 4 else o.rd }

/-- Slot registers of a copy instruction. -/
def slotXc (o : XcOps) : XcOps := { o with xd := 1, xs := 2 }

/-- A native operation with its slots in registers 1, 2 and 3 and its result in register 4; a destination that is itself a slot
keeps that slot's register (R367). -/
def slotted (i : Instr) : Instr :=
  match i with
  | .add p _ _ _ => .add p 4 1 2
  | .sub p _ _ _ => .sub p 4 1 2
  | .addi p _ _ n => .addi p 4 1 n
  | .mul p _ _ _ => .mul p 4 1 2
  | .mulh p _ _ _ => .mulh p 4 1 2
  | .mulhu p _ _ _ => .mulhu p 4 1 2
  | .div p _ _ _ => .div p 4 1 2
  | .divu p _ _ _ => .divu p 4 1 2
  | .rem p _ _ _ => .rem p 4 1 2
  | .remu p _ _ _ => .remu p 4 1 2
  | .and p _ _ _ => .and p 4 1 2
  | .or p _ _ _ => .or p 4 1 2
  | .xor p _ _ _ => .xor p 4 1 2
  | .andn p _ _ _ => .andn p 4 1 2
  | .shl p _ _ _ => .shl p 4 1 2
  | .shr p _ _ _ => .shr p 4 1 2
  | .sra p _ _ _ => .sra p 4 1 2
  | .rotl p _ _ _ => .rotl p 4 1 2
  | .min p _ _ _ => .min p 4 1 2
  | .max p _ _ _ => .max p 4 1 2
  | .minu p _ _ _ => .minu p 4 1 2
  | .maxu p _ _ _ => .maxu p 4 1 2
  | .cmpeq p _ _ _ => .cmpeq p 4 1 2
  | .cmpne p _ _ _ => .cmpne p 4 1 2
  | .cmplt p _ _ _ => .cmplt p 4 1 2
  | .cmpltu p _ _ _ => .cmpltu p 4 1 2
  | .clz p _ _ => .clz p 4 1
  | .ctz p _ _ => .ctz p 4 1
  | .popc p _ _ => .popc p 4 1
  | .sel p _ _ _ _ => .sel p 4 1 2 3
  | .movi p _ n => .movi p 4 n
  | .movk p _ n => .movk p 1 n
  | .ext p _ _ l q => .ext p 4 1 l q
  | .extu p _ _ l q => .extu p 4 1 l q
  | .ins p _ _ l q => .ins p 1 2 l q
  | .ld p _ _ z x n => .ld p 4 1 z x n
  | .st p _ _ z n => .st p 1 2 z n
  | .scfg p _ s w => .scfg p 1 s w
  | .tcfg p _ t => .tcfg p 1 t
  | .sget p _ s w => .sget p 4 s w
  | .tget p _ t => .tget p 4 t
  | .getc p _ n => .getc p 4 n
  | .mtrd p _ n => .mtrd p 4 n
  | .setc p _ n b => .setc p 1 n b
  | .smcfg p o => .smcfg p (slotSy o true true false)
  | .scas p o => .scas p (slotSy o true true true)
  | .sfadd p o => .sfadd p (slotSy o false true true)
  | .swait p o => .swait p (slotSy o false true false)
  | .spost p o => .spost p (slotSy o false true false)
  | .sexp p o => .sexp p (slotSy o false true false)
  | .sphw p o => .sphw p (slotSy o false true false)
  | .rcfg p o => .rcfg p (slotSy o true false false)
  | .srd p o => .srd p (slotSy o false false true)
  | .rstat p o => .rstat p (slotSy o false false true)
  | .rclf p o => .rclf p (slotSy o false false true)
  | .rcld p o => .rcld p (slotSy o false false true)
  | .rfil p o => .rfil p (slotSy o false false false)
  | .rrel p o => .rrel p (slotSy o false false false)
  | .cpt p o => .cpt p (slotXc o)
  | .cld p o => .cld p (slotXc o)
  | .cst p o => .cst p (slotXc o)
  | .ctt p o => .ctt p (slotXc o)
  | .cbc p o => .cbc p (slotXc o)
  | .cga p o => .cga p (slotXc o)
  | .csc p o => .csc p (slotXc o)
  | .cfb p o => .cfb p (slotXc o)
  | .fspost p xp xa pr ar n k a => .fspost p (if pr then 1 else xp) (if ar then 2 else xa) pr ar n k a
  | .tinfo p _ _ w => .tinfo p 4 1 w
  | .vbcst p o => .vbcst p { o with a := 1 }
  | .vext p o => .vext p { o with d := 4 }
  | .vmpop p o => .vmpop p { o with d := 4 }
  | _ => i

/-- The meaning of a record, or none where it is TRANSLATE (R362, R364 to R367). `pool` gives the two words of a pool
entry. -/
def BlockOp.sem (r : BlockOp) (nblk : Nat) (pool : Nat → Option (Nat × Nat)) : Option BlockSem :=
  if r.eng == 5 then
    match r.op, r.pool with
    | 0, false => some { act := .const (wrap64 (toSigned 26 r.imm)), result := true }
    | 0, true =>
      if fld r.imm 16 10 != 0 then none
      else match pool (fld r.imm 0 16) with
        | some (v, 0) => some { act := .const (BitVec.ofNat 64 v), result := true }
        | _ => none
    | 1, false => if fld r.imm 8 18 == 0 then some { act := .liveIn (fld r.imm 0 8), result := true } else none
    | 2, false => if fld r.imm 8 18 == 0 then some { act := .liveOut (fld r.imm 0 8), slots := [(0, 0)] } else none
    | 3, false =>
      let t := fld r.imm 0 12
      if fld r.imm 12 14 == 0 && (t == 0xFFF || decide (t < nblk)) then some { act := .exit t, exit := some t } else none
    | _, _ => none
  else
    match Engine.all[r.eng]? with
    | none => none
    | some e =>
      let ws : Option (List Nat) :=
        if r.pool then
          if fld r.imm 16 10 != 0 then none
          else (pool (fld r.imm 0 16)).map fun q =>
            [2 ^ 27 + r.op * 2 ^ 20 + fld q.1 0 20, fld q.1 32 32, fld q.2 0 32].take (opWords e r.op)
        else if fld r.imm 20 6 == 0 && opWords e r.op == 1 then some [2 ^ 27 + r.op * 2 ^ 20 + r.imm] else none
      let spare : Bool := r.pool && match pool (fld r.imm 0 16) with
        | some q => fld q.1 20 12 != 0 || fld q.2 32 32 != 0 || (decide (opWords e r.op < 3) && fld q.2 0 32 != 0) ||
            (decide (opWords e r.op < 2) && fld q.1 32 32 != 0)
        | none => true
      match ws with
      | none => none
      | some l =>
        match decode e l with
        | .error _ => none
        | .ok (i, _) =>
          if e == .N || spare || notInBlocks i || (nativeSlots i).any fun q => q.2 != 0 then none
          else some { act := .native e (slotted i), slots := nativeSlots i, result := nativeResult i, state := !blockPure i, wait := blockWaits i }

/-- A consumer field names no consumer, and then holds 0 (R364). -/
def consumerOk (j nops t s : Nat) : Bool := if t ≤ j then t == 0 && s == 0 else decide (t < nops)

/-- Consumers of operation j: index and slot. -/
def BlockOp.consumers (r : BlockOp) (j : Nat) : List (Nat × Nat) :=
  (if j < r.t0 then [(r.t0, r.s0)] else []) ++ if j < r.t1 then [(r.t1, r.s1)] else []

/-- A block holds (R364 to R368, R370). -/
def blockOk (ops : List BlockOp) (nblk : Nat) (pool : Nat → Option (Nat × Nat)) : Bool :=
  let n := ops.length
  let sems := ops.map fun r => r.sem nblk pool
  let sem (j : Nat) : BlockSem := (sems.getD j none).getD {}
  let op (j : Nat) : BlockOp := ops.getD j (BlockOp.ofWord 0)
  let idx := List.range n
  let feeds := idx.flatMap fun j => (op j).consumers j
  let exits := idx.filter fun j => (sem j).exit.isSome
  let waits := idx.filter fun j => (sem j).wait
  sems.all (fun x => x.isSome) &&
    (idx.all fun j =>
      let r := op j
      consumerOk j n r.t0 r.s0 && consumerOk j n r.t1 r.s1 && decide (r.pmode < 3) &&
        (if r.pmode == 0 then r.pred == 0 else decide (r.pred < j) && (sem r.pred).result) &&
        ((sem j).result || (r.consumers j).isEmpty) &&
        (sem j).slots.all fun q => (feeds.filter fun f => f == (j, q.1)).length == 1) &&
    (feeds.all fun f => (sem f.1).slots.any fun q => q.1 == f.2) &&
    decide (1 ≤ exits.length) && decide (exits.length ≤ 4) && (exits.all fun j => decide (n ≤ j + exits.length)) &&
    (op (n - 1)).pmode == 0 && decide (waits.length ≤ 1) &&
    waits.all fun w => (List.range w).all fun j => !(sem j).state

/-- The blocks of one class hold (R363). -/
def blocksOk (b : List Byte) (pool : Nat → Option (Nat × Nat)) : Bool :=
  let head := w64 b 0
  let nblk := fld head 0 12
  decide (8 ≤ b.length) && fld head 24 40 == 0 && decide (1 ≤ nblk) && decide (nblk ≤ 4095) &&
    decide (fld head 12 12 < nblk) && decide (8 + 8 * nblk ≤ b.length) &&
    (List.range nblk).all fun k =>
      let e := w64 b (8 + 8 * k)
      let nops := fld e 32 8
      let off := fld e 0 32
      fld e 56 8 == 0 && decide (1 ≤ nops) && decide (nops ≤ 128) && off % 8 == 0 && decide (off + 8 * nops ≤ b.length) &&
        blockOk ((List.range nops).map fun j => BlockOp.ofWord (w64 b (off + 8 * j))) nblk fun i => pool (fld e 40 16 + i)

/-- The entries of an image's POOL section (R365). -/
def poolEntry (m : List Byte) (k : Nat) : Option (Nat × Nat) :=
  let pb := match (sections m).find? fun x => x.ty == 5 with
    | some x => x.bytes m
    | none => []
  if 16 * k + 16 ≤ pb.length then some (w64 pb (16 * k), w64 pb (16 * k + 8)) else none

/-- No entry of a POOL section, named by an operation or not, has a bit in [63:32] of its second word, which is reserved in every
form (R351, R365). -/
def poolOk (m : List Byte) : Bool :=
  ((sections m).filter fun x => x.ty == 5).all fun x => (List.range (x.size / 16)).all fun k =>
    fld (w64 (x.bytes m) (16 * k + 8)) 32 32 == 0

/-- A block-code image holds (R351, R362 to R370). -/
def blockImageOk (m : List Byte) : Bool :=
  poolOk m && ((sections m).filter fun x => x.ty == 4).all fun x => blocksOk (x.bytes m) (poolEntry m)

/-- The operations of a block, with what feeds each slot (R364 to R368). -/
def blockSteps (ops : List BlockOp) (nblk : Nat) (pool : Nat → Option (Nat × Nat)) : List BlockStep :=
  ops.mapIdx fun j r =>
    { act := ((r.sem nblk pool).getD {}).act, pmode := r.pmode, pred := r.pred
      feeds := (List.range j).flatMap fun k =>
        (((ops.getD k r).consumers k).filter fun q => q.1 == j).map fun q => (q.2, k) }

/-- The blocks of a BLOCKS section, with its entry block (R363). -/
def classBlocks (b : List Byte) (pool : Nat → Option (Nat × Nat)) : Nat × List (List BlockStep) :=
  let nblk := fld (w64 b 0) 0 12
  (fld (w64 b 0) 12 12, (List.range nblk).map fun k =>
    let e := w64 b (8 + 8 * k)
    blockSteps ((List.range (fld e 32 8)).map fun j => BlockOp.ofWord (w64 b (fld e 0 32 + 8 * j))) nblk fun i =>
      pool (fld e 40 16 + i))

/-- The groups that an operation gives the translated streams: its instruction in its engine, or an ENDS in each engine where
the function ends there (R370). -/
def BlockStep.words (st : BlockStep) : List (Nat × List Nat) :=
  match st.act with
  | .native e i => [(e.idx, encode i)]
  | .exit t => if t == 0xFFF then Engine.all.map fun e => (e.idx, [endsWord]) else []
  | .const _ => []
  | .liveIn _ => []
  | .liveOut _ => []

/-- An operation takes its place at the end of the streams. -/
def layStep (r : List (List Nat) × List BlockStep) (st : BlockStep) : List (List Nat) × List BlockStep :=
  let ws := st.words
  (r.1.mapIdx fun e l => l ++ (ws.filter fun q => q.1 == e).flatMap fun q => q.2,
    r.2 ++ [{ st with groups := ws.map fun q => (q.1, (r.1.getD q.1 []).length) }])

/-- The blocks of a class as translated: its five streams, and its blocks with their places there. -/
def layBlocks (bs : List (List BlockStep)) : List (List Nat) × List (List BlockStep) :=
  bs.foldl (fun r b =>
    let q := b.foldl layStep (r.1, [])
    (q.1, r.2 ++ [q.2])) (List.replicate 5 [], [])

/-- THE TRANSLATION OF AN IMAGE (R373): a function of its bytes; no edition and no firmware changes what it does
(notes/assumptions/41.md). -/
def translate (m measure : List Byte) : Translation :=
  let cs := (List.range (nclass m)).map fun c =>
    match (sections m).find? fun x => x.ty == 4 && x.cls == c with
    | some x =>
      let q := classBlocks (x.bytes m) (poolEntry m)
      (q.1, layBlocks q.2)
    | none => (0, layBlocks [])
  { image := m, edition := 1, measure := measure
    code := cs.map fun q => Engine.all.map fun e => Code.ofWords e (q.2.1.getD e.idx [])
    prog := cs.map fun q => (q.1, q.2.2) }

/-- The translation that the cool box keeps for an image, else a new one (R373). -/
def translation (kept : List Translation) (m measure : List Byte) : Translation :=
  (kept.find? fun t => t.image == m && t.edition == 1 && t.measure == measure).getD (translate m measure)

end Sys2Proof.Machine
end

