-- ==== Sys2Proof/Machine/Memory.lean ====
section
/-! DEFINITION. Memory behind tensors: page walks (R392), TLBs (R128, R394), the slice's channels, DRAM lines with their
tweaks (R117 to R121), host memory (R116, R141). -/

namespace Sys2Proof.Machine

/-- An 8-byte entry of a slice's page-table image; `pick` says whether a changed entry reads as its old value (R394). -/
def Slice.ptEntry (sl : Slice) (off : Nat) (pick : Bool) : Option Nat :=
  if sl.ptSize < off + 8 then none
  else
    match sl.ptOld.find? fun p => p.1 == off && pick with
    | some p => some p.2
    | none => some (leNat (sl.pt.readAll off 8))

/-- A leaf: page base address, size, read and write permission. -/
structure Leaf where
  base : Nat
  size : Nat
  rd : Bool
  wr : Bool
  deriving DecidableEq, Repr

/-- Bytes of HBM that a slice owns (R121). -/
def Slice.capacity (sl : Slice) : Nat := sl.chans.length * 2 ^ 31

/-- A page of a leaf entry, or none when it is misaligned or beyond the capacity (R392). -/
def Slice.page (sl : Slice) (e size : Nat) : Option Leaf :=
  let base := fld e 12 40 * 4096
  if base % size != 0 || decide (sl.capacity < base + size) then none
  else some { base := base, size := size, rd := bit e 2, wr := bit e 3 }

/-- Reserved bits of an entry are zero. -/
def entryClean (e : Nat) : Bool := fld e 4 4 == 0 && fld e 52 12 == 0

/-- The walk of R392. -/
def Slice.walk (sl : Slice) (va : Nat) (pick : Bool) : Option Leaf :=
  let at_ (table idx : Nat) : Option Nat := match sl.ptEntry (table + idx * 8) pick with
    | some e => if entryClean e then some e else none
    | none => none
  match at_ 0 (fld va 40 12) with
  | none => none
  | some e2 =>
    if !bit e2 0 || bit e2 1 then none
    else
      match at_ (fld e2 12 40 * 4096) (fld va 27 13) with
      | none => none
      | some e1 =>
        if bit e1 0 && bit e1 1 && fld e1 8 4 == 15 then sl.page e1 (2 ^ 27)
        else if !bit e1 0 || bit e1 1 then none
        else
          match at_ (fld e1 12 40 * 4096) (fld va 12 15) with
          | none => none
          | some e0 =>
            if !bit e0 0 || !bit e0 1 || decide (14 < fld e0 8 4) then none else sl.page e0 (2 ^ (12 + fld e0 8 4))

/-- DRAM line index of a slice's page address: channel · 2^25 + line (R392). -/
def Slice.lineOf (sl : Slice) (a : Nat) : Nat :=
  let nch := if sl.chans.length == 0 then 1 else sl.chans.length
  sl.chans.getD (a / 4096 % nch) 0 * 2 ^ 25 + (a / (4096 * nch) * 4096 + a % 4096) / 64

/-- Channel of a DRAM line index. -/
def chanOf (line : Nat) : Nat := line / 2 ^ 25

/-- The line at an index. -/
def lineAt : List Line → Nat → Option Line
  | [], _ => none
  | l :: ls, k => if l.at_ == k then some l else if k < l.at_ then none else lineAt ls k

/-- Store a line, keeping indices strictly rising. -/
def putLine : List Line → Line → List Line
  | [], v => [v]
  | l :: ls, v => if v.at_ < l.at_ then v :: l :: ls else if l.at_ == v.at_ then v :: ls else l :: putLine ls v

/-- Indices strictly rising from `lo`. -/
def linesFrom : Nat → List Line → Bool
  | _, [] => true
  | lo, l :: ls => decide (lo ≤ l.at_) && linesFrom (l.at_ + 1) ls

/-- The tweak of a tensor line (R120). -/
def tweakOf (tid wver line : Nat) : Nat := tid * 2 ^ 96 + wver * 2 ^ 64 + line

/-- The decryption of a DRAM line under a key and tweak (R120, R121). -/
def readLine (h : List Line) (k key tweak : Nat) : List Byte :=
  match lineAt h k with
  | some l => if l.key == key && l.tweak == tweak then l.data
    else (List.range 64).map fun i => Config.garble k l.data key tweak i
  | none => (List.range 64).map fun i => Config.garble k [] key tweak i

/-- The fill record of a handle (R118). -/
def Slice.fillOf (sl : Slice) (h : Nat) : Fill := (sl.fills.find? fun f => f.handle == h).getD { handle := h }

/-- A block's fill bit. -/
def Slice.filled (sl : Slice) (h b : Nat) : Bool := (sl.fillOf h).all || (sl.fillOf h).blocks.contains b

/-- Set a block's fill bit. -/
def Slice.setFill (sl : Slice) (h b : Nat) : Slice :=
  if sl.filled h b then sl
  else { sl with fills := { handle := h, blocks := b :: (sl.fillOf h).blocks } :: sl.fills.filter fun f => f.handle != h }

/-- The current WVER of a handle (R117). -/
def Slice.wver (sl : Slice) (h : Nat) : Nat := entWver (tensorOf sl.tensors h)

/-- Set WVER from 0 to 1 (R117). -/
def Slice.firstWrite (sl : Slice) (h : Nat) : Slice :=
  if sl.wver h == 0 then
    let bump (q : Nat × Vector Word 4) : Nat × Vector Word 4 := (q.1, q.2.setIfInBounds 2 (at' 0 q.2 2 ||| 1))
    { sl with tensors := mapIf (fun q => q.1 == h) bump sl.tensors }
  else sl

/-- Bytes of the die's or tile's TLB that translates an address. -/
def State.tlbHit (s : State) (slice home va : Nat) : Option TlbEnt :=
  s.tlb.find? fun e => !e.dead && e.slice == slice && e.home == home && decide (e.va ≤ va) && decide (va < e.va + e.size)

/-- Physical address of a virtual one through TLB entries named in a request; the slow path, which names none, walks, and asks for
no permission: where it finds no leaf, it reads zeros and drops what it would write (DEDUCED, notes/assumptions/38.md). -/
def State.physOfVa (s : State) (sl : Slice) (ids : List Nat) (va : Nat) : Option Nat :=
  match s.tlb.find? fun e => ids.contains e.id && decide (e.va ≤ va) && decide (va < e.va + e.size) with
  | some e => some (e.base + (va - e.va))
  | none => if ids.isEmpty then (sl.walk va false).map fun lf => lf.base + va % lf.size else none

/-- What a byte of a copy's tensor side is: padding or dropped (none), or the byte at a tensor offset. -/
def regionByte (d : RegionDesc) (idx : List Int) (e : Vector Word 4) (k : Nat) : Option Nat :=
  match d.addr idx (k / d.z) with
  | none => none
  | some a => if d.inRange (entSize e) a then some (a.toNat + k % d.z) else none

namespace CopyRec

/-- Bytes of the copy. -/
def total (c : CopyRec) : Nat := c.n * c.z

/-- Tensor offset of byte k at the source; none where it is padding or no tensor. -/
def srcByte (c : CopyRec) (k : Nat) : Option Nat :=
  match c.src with
  | .region d idx e => regionByte d idx e k
  | .spm _ _ => none
  | .pattern _ => none

/-- Tensor offset of byte k at the destination; none where it is dropped or no tensor. -/
def dstByte (c : CopyRec) (k : Nat) : Option Nat :=
  match c.dst with
  | .region d idx e => regionByte d idx e k
  | .spm _ _ => none
  | .pattern _ => none

/-- The destination is a tensor. -/
def toTensor (c : CopyRec) : Bool :=
  match c.dst with
  | .region _ _ _ => true
  | .spm _ _ => false
  | .pattern _ => false

/-- The LOC of a tensor side (R116). -/
def locOf (sd : Side) : Option Nat :=
  match sd with
  | .region _ _ e => some (entLoc e)
  | .spm _ _ => none
  | .pattern _ => none

/-- The tensor entry and handle of a side. -/
def entryOf (sd : Side) : Option (Nat × Vector Word 4) :=
  match sd with
  | .region d _ e => some (d.handle, e)
  | .spm _ _ => none
  | .pattern _ => none

/-- What puts bytes into one request: the destination line, the source line or the granule; none takes no request
(R126). -/
def key (c : CopyRec) (k : Nat) : Option Nat :=
  if c.toTensor then (c.dstByte k).map (· / 64)
  else
    match c.src with
    | .region _ _ _ => (c.srcByte k).map (· / 64)
    | .spm _ _ => some (k / 64)
    | .pattern _ => some (k / 64)

/-- A request starts at byte `k`: neither its element so far nor the element before has a byte in its line (R126). -/
def startsAt (c : CopyRec) (k : Nat) : Bool :=
  let lo := (k / c.z - 1) * c.z
  (c.key k).isSome && (List.range (k - lo)).all fun i => c.key (lo + i) != c.key k

/-- First byte at or after `k` that starts a request, within `n` bytes. -/
def skipFrom (c : CopyRec) : Nat → Nat → Nat
  | 0, k => k
  | n + 1, k => if c.startsAt k then k else skipFrom c n (k + 1)

/-- Where the request after the one that starts at `k` starts; the end of the copy where there is none. -/
def after (c : CopyRec) (k : Nat) : Nat := c.skipFrom (c.total - (k + 1)) (k + 1)

/-- End of the last of `n` consecutive elements from element `m` on that have a byte in line `q`; `e` where `m` has none. -/
def runEnd (c : CopyRec) (q : Option Nat) : Nat → Nat → Nat → Nat
  | 0, _, e => e
  | n + 1, m, e =>
    match ((List.range c.z).filter fun i => c.key (m * c.z + i) == q).getLast? with
    | none => e
    | some i => runEnd c q n (m + 1) (m * c.z + i + 1)

/-- The next request: its first byte and the end of its last (R126). -/
def nextRun (c : CopyRec) : Nat × Nat :=
  let k0 := c.skipFrom (c.total - c.next) c.next
  (k0, if k0 < c.total then c.runEnd (c.key k0) (c.n - k0 / c.z) (k0 / c.z) k0 else k0)

/-- The bytes of a request in region order: what consecutive elements have in its line; the rest of an element that lies in two
lines goes with the request of the other (R126). -/
def bytesOf (c : CopyRec) (k0 k1 : Nat) : List Nat :=
  ((List.range (k1 - k0)).map fun i => k0 + i).filter fun k => (c.key k).isNone || c.key k == c.key k0

/-- Virtual addresses of the HBM bytes of a side over bytes of the copy, one for each. -/
def vas (sd : Side) (byte : Nat → Option Nat) (ks : List Nat) : List Nat :=
  match entryOf sd with
  | none => []
  | some (_, e) =>
    if entLoc e != 0 then []
    else ks.filterMap fun k => (byte k).map fun a => entBase e + a

/-- The lowest 64 B line of each 4 KiB page of a list of addresses, in ascending order (R128). -/
def pages (l : List Nat) : List Nat :=
  (sortOn (fun (a : Nat) => a) (l.map fun a => a / 64 * 64)).foldl
    (fun r p => if r.getLast?.any fun q => q / 4096 == p / 4096 then r else r ++ [p]) []

/-- What a run must translate before its dispatch: the addresses of its lines, one for each page, source pages before
destination pages, with the direction (R128, R129). -/
def needs (c : CopyRec) (k0 k1 : Nat) : List (Nat × Bool) :=
  ((pages (vas c.src c.srcByte (c.bytesOf k0 k1))).map fun p => (p, false)) ++
    (pages (vas c.dst c.dstByte (c.bytesOf k0 k1))).map fun p => (p, true)

/-- Tiles and offset of a scratchpad destination. -/
def spmDst (c : CopyRec) : List Nat × Nat :=
  match c.dst with
  | .spm ts off => (ts, off)
  | .region _ _ _ => ([], 0)
  | .pattern _ => ([], 0)

end CopyRec

/-- The bytes of a request (R126). -/
def CopyRec.ks (c : CopyRec) (r : Req) : List Nat := c.bytesOf r.k0 r.k1

/-- Two requests write a byte of the tensor in common (R125). -/
def CopyRec.shares (c : CopyRec) (a b : Req) : Bool :=
  let l (r : Req) : List Nat := (c.ks r).filterMap c.dstByte
  (l a).any fun k => (l b).contains k

/-- An earlier request of the copy that writes a byte in common has not performed: the later one waits, so that its element
stands (R125). -/
def CopyRec.waitsFor (c : CopyRec) (r : Req) : Bool := c.reqs.any fun q => decide (q.k0 < r.k0) && c.shares q r

/-- Every byte of a tile of the destination has landed (R289). -/
def CopyRec.landedAt (c : CopyRec) (k : Nat) : Bool :=
  decide (c.total ≤ c.next) && (c.reqs.all fun r => r.phase == .landing) && c.parts.all fun q => q.tile != k

/-- Parts that have gathered what they will get before X dispatches again set out, once every dispatched request has its bytes
(R127, R129; notes/assumptions/99.md). -/
def CopyRec.cutParts (c : CopyRec) : CopyRec :=
  if c.next == c.cut || c.reqs.any fun r => r.phase != .landing then c
  else { c with cut := c.next, parts := c.parts.map fun q => if q.stage == 0 then { q with stage := 1 } else q }

/-- Where the tile `k` of a copy's pitch lies: as the copy keeps it when it stayed behind, else as its pitch does. -/
def State.placeOf (s : State) (c : CopyRec) (k : Nat) : Option Nat :=
  match c.left.find? fun q => q.1 == k with
  | some q => some q.2
  | none => (s.pitch? c.pitch).map fun p => p.physOf (k % p.img.w) (k / p.img.w)

/-- A die boundary has failed (R412). -/
def State.failed (s : State) (b : Nat) : Bool := at' 0 s.dev.seams b == 3

/-- A request of a copy cannot cross the failed boundaries (R412): a route to a tile of its destination crosses one, or they leave no
way to the channel of one of its lines. -/
def State.cutOff (s : State) (c : CopyRec) (r : Req) : Bool :=
  let die := dieOf ((s.placeOf c c.tile).getD 0)
  let far (sd : Side) (byte : Nat → Option Nat) : Bool := match sd with
    | .spm ts _ => (s.pitch? c.pitch).any fun p => ts.any fun k =>
        (List.range 4).any fun b => s.failed b && crosses b (p.route c.tile k)
    | .region _ _ e => entLoc e == 0 && (s.slice? c.slice).any fun sl =>
        (c.ks r).any fun k => (byte k).any fun a =>
          (s.physOfVa sl r.tlb (entBase e + a)).any fun pa => diesCut s.failed die (chanOf (sl.lineOf pa) / 96)
    | .pattern _ => false
  far c.src c.srcByte || far c.dst c.dstByte

/-- Add bytes (copy byte, value; none is a lost byte) to the parts of one tile of a copy (R133, R284). -/
def gatherParts (c : CopyRec) (fresh tile phys pgen : Nat) (bs : List (Nat × Option Nat)) : CopyRec × Nat :=
  let off := c.spmDst.2
  bs.foldl (fun (r : CopyRec × Nat) b =>
    let a := off + b.1
    let lo := Nat.max (off + c.cut) (a / 16 * 16)
    let add (q : Part) : Part := match b.2 with
      | some v => { q with bytes := q.bytes ++ [(a, v)] }
      | none => { q with lost := q.lost + 1 }
    if r.1.parts.any fun q => q.tile == tile && q.lo == lo && q.stage == 0 then
      ({ r.1 with parts := mapIf (fun q => q.tile == tile && q.lo == lo && q.stage == 0) add r.1.parts }, r.2)
    else
      let q : Part := { id := r.2, tile := tile, lo := lo, hi := Nat.min (off + c.total) (a / 16 * 16 + 16),
                        k0 := lo - off, phys := phys, pgen := pgen }
      ({ r.1 with parts := r.1.parts ++ [add q] }, r.2 + 1)) (c, fresh)

/-- Bytes reach every scratchpad destination of a copy; parts that are complete set out, and so do all once nothing more can come
(R289). -/
def State.toParts (s : State) (c : CopyRec) (pgen : Nat) (bs : List (Nat × Option Nat)) : State × CopyRec :=
  let r := c.spmDst.1.foldl (fun (r : CopyRec × Nat) k =>
    gatherParts r.1 r.2 k ((s.placeOf c k).getD 0) pgen bs) (c, s.fresh)
  let all := decide (c.total ≤ c.next) && c.reqs.all fun q => q.phase == .landing
  let c1 := { r.1 with parts := r.1.parts.map fun q =>
    if q.stage == 0 && (q.bytes.length + q.lost == q.hi - q.lo || all) then { q with stage := 1 } else q }
  ({ s with fresh := r.2 }, c1)

/-- HBM events of a channel, to the meters of a tile of a pitch and the counts of its slice (R425, R427): bursts, with the
activates and turnarounds that they take, of which the manual states no number (notes/assumptions/109.md). -/
def State.chargeHbm (s : State) (slice pid k line reads writes : Nat) : State :=
  let ch := chanOf line
  let n := reads + writes
  if n == 0 then s
  else
    let step := match s.slice? slice with
      | some sl => sl.step
      | none => 0
    let acts := Config.hbmExtra 12 ch s.fresh
    let turns := Config.hbmExtra 14 ch s.fresh
    let cost (e : Nat) : Nat := Config.calEntry s.dev.epoch 1 ch step e
    let s1 := { s with fresh := s.fresh + 1 }.chargeFar slice pid k 5 (n * cost 13 + acts * cost 12 + turns * cost 14)
    s1.onSlice slice fun sl => { sl with
      hbm := Vector.zipWith (· + ·) sl.hbm #v[acts, reads, writes, turns, 0]
      chanBusy := (ch, pid, n) :: sl.chanBusy }

/-- The bytes that a request reads from a tensor side (R116, R117, R119); padding reads as zero. -/
def State.readTensor (s : State) (c : CopyRec) (r : Req) : State × List Nat :=
  match c.src with
  | .region d idx e =>
    let ks := c.ks r
    if entLoc e == 2 then
      ({ s with fresh := s.fresh + ks.length }, ks.map fun k =>
        if (regionByte d idx e k).isSome then (Config.freeByte (s.fresh + (k - r.k0))).toNat else 0)
    else if r.verS == 0 then (s, ks.map fun _ => 0)
    else if entLoc e == 1 then
      (s, ks.map fun k => match regionByte d idx e k with
        | some a => (s.host.read (entBase e + a)).toNat
        | none => 0)
    else
      match s.slice? c.slice with
      | none => (s, ks.map fun _ => 0)
      | some sl =>
        let one (k : Nat) : Nat := match regionByte d idx e k with
          | none => 0
          | some a =>
            if !sl.filled d.handle (a / 65536) then 0
            else
              match s.physOfVa sl r.tlb (entBase e + a) with
              | none => 0
              | some pa => ((readLine s.hbm (sl.lineOf pa) sl.key (tweakOf (entId e) r.verS (a / 64))).getD (a % 64) 0).toNat
        let lines := (ks.filterMap fun k => regionByte d idx e k).foldl (fun (l : List Nat) a =>
          if sl.filled d.handle (a / 65536) && !l.contains (a / 64) then l ++ [a / 64] else l) []
        let s1 := lines.foldl (fun (q : State) ln => match s.physOfVa sl r.tlb (entBase e + ln * 64) with
          | some pa => q.chargeHbm c.slice c.pitch c.tile (sl.lineOf pa) 1 0
          | none => q) s
        (s1, ks.map one)
  | .spm _ _ => (s, [])
  | .pattern v => (s, (c.ks r).map fun k => v / 256 ^ (k % c.z % 8) % 256)

/-- The HBM write of one tensor line (R117, R119, R120). `ws` are offsets within the tensor and their bytes, in region
order. The zero-fill finds the block's lines by the slice's table as it stands; lines without a leaf are passed over, and
the block counts as filled all the same (notes/assumptions/102.md). -/
def State.writeHbm (s : State) (c : CopyRec) (r : Req) (d : RegionDesc) (e : Vector Word 4) (ws : List (Nat × Nat)) : State :=
  match s.slice? c.slice, ws.head? with
  | some sl, some (a0, _) =>
    (match s.physOfVa sl r.tlb (entBase e + a0) with
    | none => s
    | some pa =>
      let ver := if r.verD == 0 then 1 else r.verD
      let ln := a0 / 64
      let b := a0 / 65536
      let k := sl.lineOf pa
      let tw (l : Nat) : Nat := tweakOf (entId e) ver l
      let fill := !sl.filled d.handle b && !entNofill e
      let others := if fill then
          (List.range 1024).filterMap fun i =>
            let l := b * 1024 + i
            if l == ln || decide (entSize e ≤ l * 64) then none
            else (sl.walk (entBase e + l * 64) false).map fun lf =>
              ({ at_ := sl.lineOf (lf.base + (entBase e + l * 64) % lf.size), key := sl.key, tweak := tw l,
                 data := List.replicate 64 (0 : Byte) } : Line)
        else []
      let old : List Byte := if fill then List.replicate 64 0 else readLine s.hbm k sl.key (tw ln)
      let data := ws.foldl (fun (l : List Byte) w => l.set (w.1 % 64) (BitVec.ofNat 8 w.2)) old
      let whole := (List.range 64).all fun i => ws.any fun w => w.1 % 64 == i
      let h := putLine (others.foldl putLine s.hbm) { at_ := k, key := sl.key, tweak := tw ln, data := data }
      let s0 := { s with hbm := h }.chargeHbm c.slice c.pitch c.tile k (if whole then 0 else 1) 1
      let s1 := others.foldl (fun (q : State) l => q.chargeHbm c.slice c.pitch c.tile l.at_ 0 1) s0
      s1.onSlice c.slice fun v => (v.setFill d.handle b).firstWrite d.handle)
  | _, _ => s

/-- A tensor write performs (R116, R117, R134). -/
def State.writeTensor (s : State) (c : CopyRec) (r : Req) (bytes : List Nat) : State :=
  match c.dst with
  | .region d idx e =>
    let lost (k : Nat) : Bool := (c.srcByte k).any fun a => r.bad.contains (a / 64)
    let ws := ((c.ks r).zip bytes).filterMap fun q =>
      if lost q.1 then none else (regionByte d idx e q.1).map fun a => (a, q.2)
    if ws.isEmpty then s
    else if entLoc e == 0 then s.writeHbm c r d e ws
    else if entLoc e == 1 then
      let h := ws.foldl (fun (m : Mem) (w : Nat × Nat) => m.write (entBase e + w.1) (BitVec.ofNat 8 w.2)) s.host
      { s with host := h }.onSlice c.slice fun v => v.firstWrite d.handle
    else s
  | .spm _ _ => s
  | .pattern _ => s

/-- A read of device virtual memory by the pitch manager, byte by byte through the slice's tables; rings, ZFOs and
argument tensors are read so. The bytes are those last written under the slice's key. -/
def State.readVa (s : State) (sl : Slice) (va n : Nat) : Option (List Byte) :=
  let lines := (List.range ((va % 64 + n + 63) / 64)).map fun i => va / 64 + i
  let bs := lines.map fun l => (sl.walk (l * 64) false).map fun lf =>
    match lineAt s.hbm (sl.lineOf (lf.base + l * 64 % lf.size)) with
    | some x => if x.key == sl.key then x.data else List.replicate 64 (0 : Byte)
    | none => List.replicate 64 (0 : Byte)
  if bs.all fun b => b.isSome then some (((bs.flatMap fun b => b.getD []).drop (va % 64)).take n) else none

/-- A write of device virtual memory by the device: records in a slice's rings. -/
def State.writeVa (s : State) (sl : Slice) (va : Nat) (bytes : List Byte) : State :=
  (List.range ((va % 64 + bytes.length + 63) / 64)).foldl (fun (q : State) i =>
    let l := va / 64 + i
    match sl.walk (l * 64) false with
    | none => q
    | some lf =>
      let k := sl.lineOf (lf.base + l * 64 % lf.size)
      let old := match lineAt q.hbm k with
        | some x => if x.key == sl.key then x else { at_ := k, key := sl.key, tweak := l, data := List.replicate 64 0 }
        | none => { at_ := k, key := sl.key, tweak := l, data := List.replicate 64 0 }
      let data := (List.range 64).map fun j =>
        let a := l * 64 + j
        if decide (va ≤ a) && decide (a < va + bytes.length) then bytes.getD (a - va) 0 else old.data.getD j 0
      { q with hbm := putLine q.hbm { old with data := data } }) s

end Sys2Proof.Machine
end

