-- ==== Sys2Proof/Machine/Transfer.lean ====
section
/-! DEFINITION. The events of copies (R126 to R134, R284 to R291), of remote and slice synchronisation (R296 to R299) and
of fabric posts (R140, R292, R293). An event that the state does not call for changes nothing. -/

namespace Sys2Proof.Machine

/-- The result of a step. -/
abbrev Out := Host.Outcome State Fault Refusal

/-- Register a fatal trap of X, or of a copy on X's behalf, at the tile's present local cycle (R38). -/
def Tile.xTrap (t : Tile) (off code info data : Nat) (wr : Bool) : Tile :=
  (t.record { tau := t.tl, eng := .X, code := code, wr := wr, info := info, data := data, off := off, word := off }).setEng .X
    { t.engOf .X with halted := true }

/-- The TRANSLATION of a request (R129): X stops with the address and direction in TRAP_INFO. Where the slice's fault
queue takes no entry the fault is fatal at once (R40, R393). -/
def Tile.xFault (t : Tile) (va : Nat) (wr : Bool) (off : Nat) (queue : Bool) : Tile :=
  let t1 := { t with trapInfo := trapInfoWord trapTranslation .X wr va }
  if queue then { t1 with xs := { t1.xs with stopped := true, told := false, faultVa := va, faultOff := off, faultWr := wr } }
  else t1.xTrap off trapTranslation va va wr

/-- The device issues requests for a slice (R375). -/
def Slice.active (sl : Slice) : Bool := !sl.prot || sl.tdisp == .run

/-- The fault queue takes entries: enabled, with a valid size (R393). -/
def Slice.fqOn (sl : Slice) : Bool := sl.fqEnable && decide (4 ≤ sl.fqLog2n) && decide (sl.fqLog2n ≤ 12)

/-- First page of a run that no live TLB entry of the tile or its die translates for its direction: its address, and
whether an entry without the permission stands there (R128, R129). -/
def State.firstMiss (s : State) (slice home : Nat) (l : List (Nat × Bool)) : Option (Nat × Bool × Bool) :=
  (l.filterMap fun q =>
    let hit := match s.tlbHit slice home q.1 with
      | some e => some e
      | none => s.tlbHit slice (2304 + dieOf home) q.1
    match hit with
    | none => some (q.1, q.2, false)
    | some e => if (if q.2 then e.wr else e.rd) then none else some (q.1, q.2, true)).head?

/-- Identities of the TLB entries that translate a list of pages; a second-level hit fills the tile's own TLB (R128). -/
def State.useTlb (s : State) (slice home : Nat) (l : List (Nat × Bool)) : State × List Nat :=
  l.foldl (fun (r : State × List Nat) q =>
    match r.1.tlbHit slice home q.1 with
    | some e => (r.1, r.2 ++ [e.id])
    | none =>
      match r.1.tlbHit slice (2304 + dieOf home) q.1 with
      | some e =>
        ({ r.1 with fresh := r.1.fresh + 1, tlb := r.1.tlb ++ [{ e with id := r.1.fresh, home := home }] },
          r.2 ++ [r.1.fresh])
      | none => r) (s, [])

/-- Bytes from `k0` up to `k1` that padding supplies go to the destination as zeros (R284). -/
def padBytes (c : CopyRec) (k0 k1 : Nat) : List (Nat × Option Nat) :=
  if c.toTensor then []
  else (((List.range (k1 - k0)).map fun i => k0 + i).filter fun k => (c.key k).isNone).map fun k => (k, some 0)

/-- Slots of the issuing tile that a copy frees; a copy that stayed behind holds none (R126, R134). -/
def State.freeSlots (s : State) (c : CopyRec) (n : Nat) : State :=
  if c.left.isEmpty then s.onTile c.pitch c.tile fun t => { t with xs := { t.xs with slots := t.xs.slots - n } } else s

/-- WVER as a request's dispatch reads it for a side (R116, R117): a REMOTE tensor's own entry governs. -/
def State.verAt (s : State) (c : CopyRec) (sd : Side) : Nat :=
  match CopyRec.entryOf sd, s.slice? c.slice with
  | some (h, e), some sl => if entLoc e == 2 then 1 else sl.wver h
  | _, _ => 0

/-- THE NEXT REQUEST OF A COPY, the bytes of `run`, with its translations; padding up to the one after it goes to the destination
(R117, R126, R284). -/
def State.request (s : State) (c : CopyRec) (run : Nat × Nat) (tlb : List Nat) (age pgen : Nat) : State × CopyRec :=
  let r0 : Req := { id := s.fresh, k0 := run.1, k1 := run.2, phase := if c.slow then .slow else .fetch, verS := s.verAt c c.src,
                    verD := s.verAt c c.dst, tlb := tlb, age := age, pgen := pgen }
  let r1 : Req := match c.src with
    | .pattern _ => { r0 with phase := .carry (s.readTensor c r0).2 }
    | _ => r0
  let next := c.after run.1
  ({ s with fresh := s.fresh + 1 }).toParts { c with next := next, reqs := c.reqs ++ [r1] } pgen (padBytes c c.next next)

/-- The flits of a request to a REMOTE tensor (R116, R280). -/
def State.remoteFlits (s : State) (c : CopyRec) : State :=
  let one (z : State) (sd : Side) : State := match sd with
    | .region _ _ e => if entLoc e == 2 then z.sendFlit c.slice c.pitch c.tile (wfld (at' 0 e 3) 50 14) 0 else z
    | .spm _ _ => z
    | .pattern _ => z
  one (one s c.src) c.dst

/-- A request for host memory may be issued for the slice at one side of a copy, or at both (R375). -/
def State.mayUse (s : State) (c : CopyRec) (sd : Side) : Bool :=
  CopyRec.locOf sd != some 1 || match s.slice? c.slice with
    | some sl => sl.active
    | none => false
def State.mayIssue (s : State) (c : CopyRec) : Bool := s.mayUse c c.src && s.mayUse c c.dst

/-- TRANSLATION_WALK_DONE (R128, R129, R392): the walk fills both TLBs, or X raises TRANSLATION. -/
def execTranslationWalkDone (id : Nat) (s : State) : Out :=
  match s.copy? id with
  | none => .next s
  | some c =>
    match c.walk, s.slice? c.slice, s.pitch? c.pitch, s.tile? c.pitch c.tile with
    | some (va, wr), some sl, some p, some t =>
      let s1 := s.putCopy { c with walk := none }
      (match sl.walk va (Config.fires (s.fresh + 1) s.tick) with
      | some lf =>
        let home := p.physOf t.x t.y
        let base : TlbEnt := { id := s.fresh, slice := c.slice, home := home, va := va / lf.size * lf.size, size := lf.size,
                               base := lf.base, rd := lf.rd, wr := lf.wr }
        .next { s1 with fresh := s.fresh + 2,
                        tlb := s.tlb ++ [base, { base with id := s.fresh + 1, home := 2304 + dieOf home }] }
      | none => .next (s1.onTile c.pitch c.tile fun t => t.xFault va wr c.off sl.fqOn))
    | _, _, _, _ => .next s

/-- FAULT_QUEUE_WRITE (R393): the 32 B entry of a stopped X, when the queue has room; vector 1. -/
def execFaultQueueWrite (slice pitch tile : Nat) (s : State) : Out :=
  match s.slice? slice, s.tile? pitch tile, s.launch? pitch with
  | some sl, some t, some l =>
    if !t.xs.stopped || t.xs.told || !sl.active || !sl.fqOn || decide (2 ^ sl.fqLog2n ≤ (sl.fqTail + 2 ^ 32 - sl.fqHead) % 2 ^ 32) then .next s
    else
      let w0 := b2n t.xs.faultWr * 2 ^ 47 + t.y * 2 ^ 41 + t.x * 2 ^ 35 + l.chain * 2 ^ 32 + l.index
      let entry := leBytes 8 w0 ++ leBytes 8 t.xs.faultVa ++ List.replicate 16 0
      let s1 := { s with host := s.host.writeAll (sl.fqBase + 32 * (sl.fqTail % 2 ^ sl.fqLog2n)) entry }
      let s2 := s1.onTile pitch tile fun t => { t with xs := { t.xs with told := true } }
      .next ((s2.putSlice { sl with fqTail := (sl.fqTail + 1) % 2 ^ 32 }).signal (slice + 1) 1)
  | _, _, _ => .next s

/-- The scratchpad granules that a request reads, each once (R280, R285). -/
def spmGranules (off : Nat) (ks : List Nat) : List Nat :=
  ks.foldl (fun l k => if l.contains ((off + k) / 64) then l else l ++ [(off + k) / 64]) []

/-- COPY_SOURCE_READ (R285): the source bytes of a request are read: in the first bank cycle left to a scratchpad source,
and at the channel, the host or the remote package for a tensor. A copy that stayed behind a freeze has its tile's bytes as they
stood at the freeze (R130; notes/assumptions/38.md). A host read waits while the slice may issue no request (R375;
DESIGN CHOICE, notes/assumptions/115.md). -/
def execCopySourceRead (id rid : Nat) (s : State) : Out :=
  match s.copy? id with
  | none => .next s
  | some c =>
    match c.reqs.find? fun r => r.id == rid && (r.phase == .fetch || r.phase == .slow) with
    | none => .next s
    | some r =>
      let put (s1 : State) (bytes : List Nat) : State :=
        if c.toTensor then
          s1.putCopy { c with reqs := mapIf (fun q => q.id == rid) (fun q => { q with phase := .carry bytes }) c.reqs }
        else
          let c1 := { c with reqs := mapIf (fun q => q.id == rid) (fun q => { q with phase := .landing }) c.reqs }
          let q := s1.toParts c1 r.pgen (((c.ks r).zip bytes).map fun b => (b.1, some b.2))
          q.1.putCopy q.2
      match c.src with
      | .spm _ off =>
        if !c.left.isEmpty then .next (put s ((c.ks r).map fun k => c.kept.getD k 0))
        else
          (match s.pitch? c.pitch, s.tile? c.pitch c.tile with
          | some p, some t =>
            let grs := spmGranules off (c.ks r)
            let banks := grs.map fun g => g % 16
            if t.clearing.isSome || banks.any fun b => t.banksNow.contains b then .next s
            else if t.staleTrap && grs.any fun g => !t.spmCur g then
              .next ((s.dropCopy id).onTile c.pitch c.tile fun t => t.xTrap c.off trapStale c.off 0 false)
            else
              let s1 := s.onTile c.pitch c.tile fun t =>
                { t with banksNow := banks ++ t.banksNow }.charge (s.envOf p c.tile) 1 grs.length
              .next (put s1 ((c.ks r).map fun k => (t.spmByte (off + k)).toNat))
          | _, _ => .next s)
      | _ =>
        if !s.mayUse c c.src then .next s
        else
          let q := s.readTensor c r
          .next (put q.1 q.2)

/-- Requests whose bytes have all landed free their slots (R126, R134). -/
def State.settle (s : State) (c : CopyRec) : State :=
  let off := c.spmDst.2
  let openPart (r : Req) : Bool := c.parts.any fun q => (c.ks r).any fun k => decide (q.lo ≤ off + k) && decide (off + k < q.hi)
  let ended := c.reqs.filter fun r => r.phase == .landing && !openPart r
  (s.putCopy { c with reqs := c.reqs.filter fun r => !(r.phase == .landing && !openPart r) }).freeSlots c ended.length

/-- A discarded arrival is counted, up to 0xFFFF_FFFF (R89, R92). -/
def Tile.staleArrival (t : Tile) : Tile := { t with staleArrivals := Nat.min 0xFFFFFFFF (t.staleArrivals + 1) }

/-- The placed pitch and tile at a physical place. -/
def State.atPhys (s : State) (phys : Nat) : Option (Pitch × Nat) :=
  s.pitches.findSome? fun p =>
    match p.physAll.findIdx? fun k => k == phys with
    | some k => some (p, k)
    | none => none

/-- A copy's post at one tile: INC, or the action of R109 where data was lost (R130, R286); nothing for INC 0. -/
def CopyRec.postOf (c : CopyRec) (a : CopySem) : Option SemDo :=
  if c.lost then some (.lost a.sem) else if a.inc != 0 then some (.post a.sem a.inc) else none

/-- A copy post applies at the place where its tile lies, unless another PITCH_GEN holds it: then it is discarded and counted
there (R92, R286). -/
def State.postAt (s : State) (c : CopyRec) (a : CopySem) : State :=
  match c.postOf a, (s.placeOf c a.tile).bind s.atPhys with
  | some o, some (p, k) => s.onTile p.id k fun t =>
      if t.pitchGen != c.pgen then t.staleArrival
      else { t with semOps := t.semOps ++ [{ src := .copy, gid := 0, iid := 0, op := o, msg := c.id }] }
  | _, _ => s

/-- The completion posts of a copy that have not applied yet. -/
def State.postCopy (s : State) (c : CopyRec) : State :=
  (List.range c.posts.length).foldl (fun (q : State) n => match c.posts[n]? with
    | some a => if c.posted.contains n then q else q.postAt c a
    | none => q) s

/-- A receiving tile of CBC has all of its bytes: its own post applies (R289). -/
def State.postLanded (s : State) (c : CopyRec) (k : Nat) : State :=
  match c.instr, c.posts.findIdx? fun a => a.tile == k with
  | .cbc _ _, some n =>
    (match c.posts[n]? with
    | some a => if c.landedAt k && !c.posted.contains n then
        (s.putCopy { c with posted := c.posted ++ [n] }).postAt c a else s
    | none => s)
  | _, _ => s

/-- A granule written and 64 B carried are charged once for a tile, with the first part of them that lands (R280). -/
def CopyRec.land (c : CopyRec) (q : Part) : CopyRec :=
  let g := (q.tile, q.lo / 64)
  let u := (q.tile, q.k0 / 64)
  { c with
    granules := if c.granules.contains g then c.granules else g :: c.granules
    carried := if c.carried.contains u then c.carried else u :: c.carried }

/-- COPY_PART_ARRIVAL (R91, R92, R133, R286, R289): a 16 B part lands in a bank cycle left to it and counts toward an ARRIVE
semaphore; a part of another PITCH_GEN is discarded. -/
def execCopyPartArrival (id pid : Nat) (s : State) : Out :=
  match s.copy? id with
  | none => .next s
  | some c =>
    match c.parts.find? fun q => q.id == pid && q.stage != 0 with
    | none => .next s
    | some q =>
      let c0 := { c with parts := c.parts.filter fun r => r.id != pid }
      let c1 := c0.land q
      match s.atPhys q.phys with
      | none => .next (s.settle c0)
      | some (p, k) =>
        match p.tiles[k]? with
        | none => .next (s.settle c0)
        | some t =>
          if t.pitchGen != q.pgen then .next ((s.settle c0).onTile p.id k Tile.staleArrival)
          else if t.clearing.isSome || t.banksNow.contains (q.lo / 64 % 16) then .next s
          else
            let env := s.envOf p c.tile
            let from' := p.tiles.getD c.tile {}
            let granule := c1.granules.length - c.granules.length
            let carried := c1.carried.length - c.carried.length
            let plane := match c.instr with
              | .cpt _ _ => true
              | .cbc _ _ => true
              | _ => false
            let rc := routeCost env from'.x from'.y t.x t.y
            let charged (u : Tile) : Tile :=
              let v := u.charge env 1 granule
              if plane then (v.charge env 9 (rc.1 * carried)).charge env 10 (rc.2 * carried) else v
            let arrive (u : Tile) : Tile := { u with
              semOps := u.semOps ++ ((c.posts.filter fun a => a.arr && a.tile == q.tile).map fun a =>
                { src := .copy, gid := 0, iid := 0, op := .arrive a.sem q.bytes.length, msg := id }) }
            let s1 := s.onTile p.id k fun u =>
              arrive (({ u with banksNow := q.lo / 64 % 16 :: u.banksNow } : Tile).spmWrite
                (q.bytes.map fun (b : Nat × Nat) => ({ addr := b.1, val := b.2 } : MByte)))
            let s2 := (s1.onTile p.id c.tile charged).settle c1
            .next (match s2.copy? id with
              | some d => s2.postLanded d q.tile
              | none => s2)

/-- TENSOR_WRITE_PERFORM (R117, R119, R125, R134): a request's bytes perform at its tensor, all of the line in one step
(notes/assumptions/103.md), and its slot is free. One that shares bytes with an earlier request waits for it. A host write that
the slice may not issue any more is dropped (R375; DESIGN CHOICE, notes/assumptions/115.md). -/
def execTensorWritePerform (id rid : Nat) (s : State) : Out :=
  match s.copy? id with
  | none => .next s
  | some c =>
    match c.reqs.find? fun r => r.id == rid with
    | none => .next s
    | some r =>
      match r.phase with
      | .carry bytes =>
        if c.waitsFor r then .next s
        else
          let s1 := if s.mayUse c c.dst then s.writeTensor c r bytes else s
          .next ((s1.putCopy { c with reqs := c.reqs.filter fun q => q.id != rid }).freeSlots c 1)
      | _ => .next s

/-- Every request of a copy has performed (R134). -/
def CopyRec.complete (c : CopyRec) : Bool := decide (c.total ≤ c.next) && c.reqs.isEmpty && c.parts.isEmpty && !c.done

/-- COPY_COMPLETE (R134, R286): the last request has performed, and the completion post applies. -/
def execCopyComplete (id : Nat) (s : State) : Out :=
  match s.copy? id with
  | none => .next s
  | some c => if c.complete then .next ((s.postCopy c).putCopy { c with done := true }) else .next s

/-- A request whose bytes are on their way to a tensor. -/
def Req.carries (r : Req) : Bool :=
  match r.phase with
  | .carry _ => true
  | .fetch => false
  | .landing => false
  | .slow => false

/-- A request reads HBM: its source, or the line that it writes in part (R120). -/
def CopyRec.readsHbm (c : CopyRec) (r : Req) : Bool :=
  (CopyRec.locOf c.src == some 0 && r.phase == .fetch) ||
    (CopyRec.locOf c.dst == some 0 && r.carries &&
      !((List.range 64).all fun i => (c.ks r).any fun k => (c.dstByte k).any fun a => a % 64 == i))

/-- HBM_UNCORRECTABLE_READ (R130): a request that reads HBM and all that remain of its copy pass to the firmware slow path. -/
def execHbmUncorrectableRead (id rid : Nat) (s : State) : Out :=
  match s.copy? id with
  | none => .next s
  | some c =>
    if c.reqs.any fun r => r.id == rid && c.readsHbm r then
      .next (s.putCopy { c with
        slow := true
        reqs := c.reqs.map fun r =>
          if r.phase == .fetch then { r with phase := .slow }
          else if r.id == rid then { r with retry := true } else r })
    else .next s

/-- A request's data is lost, all of it or that of one source line (R109, R130): its bytes are not written and not counted,
and the copy will report it. A request on its way to a tensor writes one line, which is lost whole. -/
def State.loseRequest (s : State) (c : CopyRec) (rid : Nat) (line : Option Nat) : State :=
  match c.reqs.find? fun r => r.id == rid && r.phase != .landing with
  | none => s
  | some r =>
    let drop (c1 : CopyRec) : State := (s.putCopy { c1 with reqs := c1.reqs.filter fun q => q.id != rid }).freeSlots c 1
    if r.carries then
      if line.all fun n => (c.dstByte r.k0).any fun a => a / 64 == n then drop { c with lost := true } else s
    else
    let lines := ((c.ks r).filterMap fun k => (c.srcByte k).map (· / 64)).foldl
      (fun (l : List Nat) n => if l.contains n then l else l ++ [n]) []
    let hit := lines.filter fun n => line.all fun k => k == n
    let c1 := { c with lost := true }
    if !line.isNone && hit.isEmpty then s
    else if line.isSome && hit.length < lines.length then
      s.putCopy { c1 with reqs := mapIf (fun q => q.id == rid) (fun q => { q with bad := hit ++ q.bad }) c1.reqs }
    else if c1.toTensor then drop c1
    else
      let c2 := { c1 with reqs := mapIf (fun q => q.id == rid) (fun q => { q with phase := .landing }) c1.reqs }
      let q := s.toParts c2 r.pgen ((c.ks r).map fun k => (k, none))
      let gone := { q.2 with parts := q.2.parts.filter fun x => !(x.stage != 0 && x.bytes.isEmpty) }
      q.1.settle gone

/-- A request that no boundary lets cross is lost as soon as it is dispatched (R130, R412). -/
def State.loseIfCut (s : State) (id rid : Nat) : State :=
  match s.copy? id with
  | none => s
  | some c =>
    match c.reqs.find? fun r => r.id == rid with
    | none => s
    | some r =>
      if s.cutOff c r then
        s.loseRequest { c with slow := true } rid none
      else s

/-- The slow path takes up the next request of a copy that stayed behind, with its flits (R92, R130, R425). -/
def State.requestLeft (s : State) (c : CopyRec) : State :=
  let run := c.nextRun
  if c.total ≤ run.1 then
    let q := s.toParts { c with next := c.total } c.pgen (padBytes c c.next c.total)
    q.1.putCopy q.2
  else
    let q := s.request c run [] 0 c.pgen
    ((q.1.putCopy q.2).remoteFlits c).loseIfCut c.id s.fresh

/-- COPY_REQUEST_DISPATCH (R126 to R129, R137): X dispatches the copy's next request when a slot is free; one that a failed
boundary cuts off is lost (R412). -/
def execCopyRequestDispatch (id : Nat) (s : State) : Out :=
  match s.copy? id with
  | none => .next s
  | some c =>
    if !c.left.isEmpty then .next (if decide (c.next < c.total) && s.mayIssue c then s.requestLeft c else s)
    else
      match s.pitch? c.pitch, s.tile? c.pitch c.tile with
      | some p, some t =>
        let go := t.xs.copying == some id && !t.xs.stopped && c.walk.isNone && !p.xStop t && !(t.engOf .X).halted &&
          t.clearing.isNone && decide (t.xs.slots < Config.slotLimit) && s.mayIssue c &&
          (t.xs.fence.all fun k => !t.xs.copies.contains k || k == id)
        if !go then .next s
        else
          let run := c.nextRun
          let home := p.physOf t.x t.y
          if c.total ≤ run.1 then
            let r := s.toParts { c with next := c.total } p.gen (padBytes c c.next c.total)
            .next ((r.1.putCopy r.2).onTile c.pitch c.tile fun t => { t with xs := { t.xs with copying := none } })
          else
            match s.firstMiss c.slice home (c.needs run.1 run.2) with
            | some (va, wr, true) =>
              let on := match s.slice? c.slice with
                | some sl => sl.fqOn
                | none => false
              .next (s.onTile c.pitch c.tile fun t => t.xFault va wr c.off on)
            | some (va, wr, false) => .next (s.putCopy { c with walk := some (va, wr) })
            | none =>
              let u := s.useTlb c.slice home (c.needs run.1 run.2)
              let q := u.1.request c run u.2 p.wall p.gen
              let s3 := (q.1.putCopy q.2).remoteFlits c
              let s4 := s3.onTile c.pitch c.tile fun t => { t with xs := { t.xs with
                slots := t.xs.slots + 1
                copying := if c.total ≤ c.after run.1 then none else t.xs.copying
                lastSent := decide (c.total ≤ c.after run.1) } }
              .next (s4.loseIfCut id u.1.fresh)
      | _, _ => .next s

/-- The slow path, or another package, may report a request's line: one that it reads, or one that it writes (R130; DEDUCED,
notes/assumptions/117.md). -/
def CopyRec.reportable (c : CopyRec) (r : Req) : Bool :=
  match r.phase with
  | .slow => true
  | .fetch => CopyRec.locOf c.src == some 2
  | .carry _ => CopyRec.locOf c.dst == some 2 || r.retry
  | .landing => false

/-- SLOW_PATH_LOSS_REPORT (R109, R130): the slow path, or another package, could not deliver a line. -/
def execSlowPathLossReport (id : Nat) (at_ : ReqLine) (s : State) : Out :=
  match s.copy? id with
  | none => .next s
  | some c =>
    if c.reqs.any fun r => r.id == at_.req && c.reportable r then
      .next (s.loseRequest { c with slow := true } at_.req (some at_.line))
    else .next s

/-- PCIE_COMPLETION_ERROR (R130): a HOST read's line is lost; the slow path completes the rest. -/
def execPcieCompletionError (id : Nat) (at_ : ReqLine) (s : State) : Out :=
  match s.copy? id with
  | none => .next s
  | some c =>
    if CopyRec.locOf c.src == some 1 && c.reqs.any fun r => r.id == at_.req && (r.phase == .fetch || r.phase == .slow) then .next (s.loseRequest { c with slow := true } at_.req (some at_.line)) else .next s

/-- REMOTE_FAILURE_REPORT (R116): the remote package's check failed; TENSOR_BOUNDS in the issuing tile, and the copy
moves nothing more. -/
def execRemoteFailureReport (id : Nat) (s : State) : Out :=
  match s.copy? id with
  | none => .next s
  | some c =>
    .next ((s.dropCopy id).onTile c.pitch c.tile fun t =>
      let t1 := t.xTrap c.off trapTensor c.off 0 false
      { t1 with xs := { t1.xs with
        copies := t1.xs.copies.filter fun k => k != id
        slots := t1.xs.slots - c.reqs.length
        copying := if t1.xs.copying == some id then none else t1.xs.copying } })

/-- A message's operation waits at its target until it succeeds (R298). -/
def waitsAt (op : SemDo) : Bool :=
  match op with
  | .take _ _ => true
  | .phaseWait _ _ => true
  | .claim _ _ => true
  | _ => false

/-- A message's operation, staged at its target tile in the place of its issuing tile (R108, R297). -/
def stageRemote (m : Msg) (y x : Nat) (t : Tile) : Tile :=
  { t with semOps := t.semOps ++ [{ src := .remote y x, gid := 0, iid := 0, op := m.op, msg := m.id }] }

/-- REMOTE_SYNC_ARRIVAL (R92, R296, R298): a message reaches its tile. A take, phase wait or claim is tried in every
cycle from here on; any other operation acts in this cycle. -/
def execRemoteSyncArrival (id : Nat) (s : State) : Out :=
  match s.msg? id with
  | none => .next s
  | some m =>
    match m.dest, m.phase, s.pitch? m.pitch with
    | .tile k, .going, some p =>
      (match p.tiles[k]? with
      | none => .next s
      | some t =>
        let from' := p.tiles.getD m.tile {}
        if t.clearing.isSome then .next s
        else if t.pitchGen != m.pgen then .next ((s.onTile m.pitch k Tile.staleArrival).dropMsg id)
        else
          let s1 := s.putMsg { m with phase := .trying }
          if waitsAt m.op then .next s1 else .next (s1.onTile m.pitch k (stageRemote m from'.y from'.x)))
    | _, _, _ => .next s

/-- The result that a reply brings: a remote claim gives a pitch address (R79, R303). -/
def Msg.result (m : Msg) (w : Nat) : Option Word :=
  match m.op, m.dest, m.val with
  | .claim _ _, .tile k, some v => some (v + BitVec.ofNat 64 (k / w * 2 ^ 26 + k % w * 2 ^ 20))
  | _, _, v => v

/-- X goes on past the remote or slice wait that has succeeded: its tokens move and it steps to its next instruction
(R298). -/
def finishWait (env : Env) (t : Tile) : Tile :=
  let pc := (t.engOf .X).pc
  match groupAt .X (env.codeOf .X) pc with
  | .error _ => t
  | .ok l =>
    match l.head? with
    | none => t
    | some q => issue (preOfInstr q.i) t { env := env, eng := .X, gid := t.gseq + 1, gpc := pc, pc := pc, len := q.len, iss := env.wall } id

/-- Charge the reply of a message to the tile that asked (R280). -/
def chargeReply (env : Env) (m : Msg) (t : Tile) : Tile :=
  match m.dest with
  | .tile k => chargeMessage t env (k % env.w) (k / env.w)
  | .slice _ => t.charge env 9 1
  | .fabric _ _ _ => t

/-- REMOTE_SYNC_REPLY (R139, R298): the reply returns to X, frees its slot and writes x[d], or brings the trap of the
operation (R106, R286). -/
def execRemoteSyncReply (id : Nat) (s : State) : Out :=
  match s.msg? id with
  | none => .next s
  | some m =>
    match m.phase, s.pitch? m.pitch with
    | .back, some p =>
      let env := s.envOf p m.tile
      let back (t0 : Tile) : Tile :=
        let t := chargeReply env m t0
        let t1 := { t with xs := { t.xs with
          slots := t.xs.slots - 1
          asks := t.xs.asks.filter fun k => k != id
          waiting := if t.xs.waiting == some id then none else t.xs.waiting
          busyRegs := match m.rd with
            | some d => t.xs.busyRegs.erase d
            | none => t.xs.busyRegs } }
        match m.trap with
        | some (code, data) => t1.xTrap m.off code m.off data false
        | none =>
          let t2 := match m.rd, m.result p.img.w with
            | some d, some v => t1.setX d v
            | _, _ => t1
          if m.wait then finishWait env t2 else t2
      .next ((s.onTile m.pitch m.tile back).dropMsg id)
    | _, _ => .next s

/-- The slice semaphore k: COUNT 0 and CEILING 0xFFFF_FFFF at creation (R299). -/
def Slice.sem (sl : Slice) (k : Nat) : Sem :=
  match sl.sems.find? fun q => q.1 == k with
  | some q => q.2
  | none => {}

/-- Replace a slice semaphore. -/
def Slice.setSem (sl : Slice) (k : Nat) (v : Sem) : Slice :=
  { sl with sems := (if v == {} then [] else [(k, v)]) ++ sl.sems.filter fun q => q.1 != k }

/-- An operation at the slice-semaphore unit (R106, R299, R301). -/
def sliceApply (v : Sem) (op : SemDo) : Sem × SemOut :=
  match op with
  | .take _ n => v.take n
  | .phaseWait _ p => (v, v.phaseWait p)
  | .post _ n => v.post n
  | .fadd _ d => v.fadd d
  | .cas _ e n => v.cas e n
  | .exp _ e => v.exp e
  | .read _ w => (v, .done (some (v.word w)))
  | _ => (v, .done none)

/-- A used dependence of a descriptor holds (R381, R382). -/
def depHolds (sl : Slice) (w : Nat) : Bool :=
  !bit w 63 ||
    let c := (sl.sem (fld w 32 12)).count
    if fld w 61 2 == 0 then decide (fld w 0 32 ≤ c) else c == fld w 0 32

/-- Both dependences of a launch hold. -/
def Launch.depsHold (l : Launch) (sl : Slice) : Bool := depHolds sl (at' 0 l.desc 5) && depHolds sl (at' 0 l.desc 6)

/-- Launches that a change of the slice's semaphores makes ready (R382). -/
def State.wake (s : State) (slice : Nat) : State :=
  match s.slice? slice with
  | none => s
  | some sl => s.later ((s.launches.filter fun l =>
      l.slice == slice && !l.ready && !l.done && !l.placed && l.depsHold sl).map fun l => .ev (.launchReady l.id))

/-- The tile whose X made a message has stopped for a freeze, so its waits are tried no more (R298). -/
def Pitch.stopped (p : Pitch) (m : Msg) : Bool :=
  waitsAt m.op && (p.allStopped || (p.tiles.getD m.tile {}).mode == .frozen)

/-- SLICE_SEM_OP (R299): a message acts at the slice-semaphore unit; a take or phase wait that does not succeed stays. -/
def execSliceSemOp (id : Nat) (s : State) : Out :=
  match s.msg? id with
  | none => .next s
  | some m =>
    match s.pitch? m.pitch with
    | none => .next (s.dropMsg id)
    | some p =>
      match s.slice? p.slice, m.phase == .back with
      | some sl, false =>
        let act (k : Nat) : Out :=
          let o : Sem × SemOut := if p.stopped m then (sl.sem k, .wait) else sliceApply (sl.sem k) m.op
          match o.2 with
          | .wait => .next (s.putMsg { m with phase := .trying })
          | .done v => .next (((s.putSlice (sl.setSem k o.1)).putMsg { m with phase := .back, val := v }).wake p.slice)
          | .trap c d => .next (s.putMsg { m with phase := .back, trap := some (c, d) })
        (match m.dest with
        | .slice k => act k
        | .fabric _ _ k => act k
        | .tile _ => .next s)
      | _, _ => .next s

/-- FABRIC_POST_DELIVERY (R140, R292, R403): a post from another package applies once at the slice semaphore; a source that the
slice has not bound is refused, and a refusal changes nothing here. -/
def execFabricPostDelivery (r : PostRoute) (ss amt : Nat) (s : State) : Out :=
  match s.slice? r.slice with
  | none => .next s
  | some sl =>
    if !sl.bound r.pkg r.src then .next s
    else
      let o := (sl.sem ss).post amt
      match o.2 with
      | .done _ => .next ((s.putSlice (sl.setSem ss o.1)).wake r.slice)
      | .wait => .next s
      | .trap _ _ => .next s

/-- FABRIC_POST_ACK (R292, R293): the acknowledgement returns and frees the slot, or the refusal registers SEM_CEILING
with the target's COUNT + k. -/
def execFabricPostAck (id : Nat) (refused : Option Nat) (s : State) : Out :=
  match s.msg? id with
  | none => .next s
  | some m =>
    let back (t : Tile) : Tile :=
      let t1 := { t with xs := { t.xs with slots := t.xs.slots - 1, asks := t.xs.asks.filter fun k => k != id } }
      match refused with
      | none => t1
      | some d => t1.xTrap m.off trapCeiling m.off d false
    match m.dest with
    | .fabric _ _ _ => .next ((s.onTile m.pitch m.tile back).dropMsg id)
    | _ => .next s

/-- The copy that a request of another package stands for here: `n` bytes from `at_` of a tensor, for no pitch. -/
def remoteCopy (slice handle at_ n : Nat) (e : Vector Word 4) (wr : Bool) : CopyRec :=
  let side : Side := .region { handle := handle, offset := (at_ : Int), extent := #v[n, 1, 1, 1], stride := #v[1, 0, 0, 0] } [] e
  { id := 0, pitch := 0, tile := 0, slice := slice, pgen := 0, instr := .nop {}, off := 0, opD := 0, opS := 0
    src := if wr then .pattern 0 else side, dst := if wr then side else .pattern 0, n := n, z := 1, posts := [] }

/-- The runs of `n` bytes from `at_` that lie in one 64 B line each. -/
def remoteLines (at_ n : Nat) : List (Nat × Nat) :=
  (List.range ((at_ % 64 + n + 63) / 64)).map fun i => (64 * i - at_ % 64, Nat.min n (64 * (i + 1) - at_ % 64))

/-- A request of another package may reach its bytes (R115, R116, R392): the entry can be used, the tensor is here, and every
byte in range has a page. -/
def Slice.remoteOk (sl : Slice) (e : Vector Word 4) (at_ n : Nat) (wr : Bool) : Bool :=
  entUsable e wr && entLoc e != 2 && (entLoc e != 0 || (List.range n).all fun i =>
    decide (entSize e ≤ at_ + i) || match sl.walk (entBase e + at_ + i) false with
      | some lf => if wr then lf.wr else lf.rd
      | none => false)

/-- A REQUEST OF ANOTHER PACKAGE (R116, R403; notes/assumptions/40.md): the pair must be bound; the entry is checked by R115
here, its own WVER governs, and the answer goes back through a port of the slice. -/
def State.remoteRequest (s : State) (pkg src slice handle at_ n : Nat) (bytes : Option (List Byte)) : State :=
  match s.slice? slice with
  | none => s
  | some sl =>
    if !sl.bound pkg src || !sl.active then s
    else
      let wr := bytes.isSome
      let e := tensorOf sl.tensors handle
      let ok := sl.remoteOk e at_ n wr
      let c := remoteCopy slice handle at_ n e wr
      let q : State × List Nat :=
        if !ok then (s, [])
        else (remoteLines at_ n).foldl (fun (z : State × List Nat) k =>
          let r : Req := { id := 0, k0 := k.1, k1 := k.2, verS := entWver e, verD := entWver e }
          match bytes with
          | some b => (z.1.writeTensor c r ((List.range (k.2 - k.1)).map fun i => (b.getD (k.1 + i) 0).toNat), [])
          | none => let p := z.1.readTensor c r; (p.1, z.2 ++ p.2)) (s, [])
      let a : Answer := { pkg := pkg, src := src, handle := handle, ok := ok, bytes := q.2.map fun v => BitVec.ofNat 8 v }
      let s1 := match (List.range 128).find? fun k => bit sl.ports k && !(s.port k).down with
        | some k => q.1.putPort k ((q.1.port k).send (if ok && !wr then 0 else 2) pkg)
        | none => q.1
      { s1 with answers := s1.answers ++ [a] }

end Sys2Proof.Machine
end

