-- ==== Sys2Proof/Machine/Check.lean ====
section
/-! DEFINITION. The load checker's timeline (R329 to R343, R345): the tiles of a pitch run in local time with every wait
satisfied and X still, values that are not known at load are tracked, and every check of R327 from CLOSURE to STRICT is
made on what they do. -/

namespace Sys2Proof.Machine

/-- What the checker says of an image: its first failure, and the quiet bits of its column and row seams (R328, R345). -/
structure Checked where
  fail : Option CheckFail := none
  quietC : Bool := true
  quietR : Bool := true
  deriving DecidableEq, Repr

/-- A failure with the tile in which it stands, which orders failures of one cycle (R328). -/
abbrev Fails := List (Nat × CheckFail)

/-- A dynamic region (R329, R330): the cycle and group of the branch that starts it, what its groups may rewrite, and how
it may end. -/
structure Region where
  start : Nat
  off : Nat
  streams : List Nat := []
  descs : List Nat := []
  regs : List Nat := []
  /-- Stream words that its SCFGs and SRSTs may write, and the streams that they take out of use (R87). -/
  words : List (Nat × Nat) := []
  fresh : List Nat := []
  /-- Streams with an LDEL for a static engine, and with a nonzero one for X (R86). -/
  deltas : List Nat := []
  xDeltas : List Nat := []
  /-- Levels of its LOOPs, and the last words of its groups, where a loop that runs may close. -/
  lvls : List Nat := []
  lasts : List Nat := []
  /-- It may write STALE_MODE. -/
  setsMode : Bool := false
  /-- Words of the RDV.P groups that it may reach, with their tags. -/
  rdvs : List (Nat × Nat) := []
  ends : Bool := false
  /-- It reaches an instruction or a token that R330 forbids. -/
  breach : Bool := false
  deriving DecidableEq, Repr

/-- A tile as the checker follows it. -/
structure CkTile where
  t : Tile := {}
  /-- g registers, stream words and descriptors that hold a value not known at load; instructions whose results are not. CUR of
  a stream stands as its word 6 here: it is written with word 0, read in word 1, and moved by every access. -/
  unkG : List Nat := []
  unkOwn : List (Nat × Nat) := []
  unkS : List (Nat × Nat) := []
  unkT : List Nat := []
  /-- Changes of these at the end of the present cycle. -/
  updS : List (Nat × Option Nat × Bool) := []
  updT : List (Nat × Bool) := []
  /-- Streams that C rewrites in the present cycle, with its group (R335). -/
  rewrites : List (Nat × Nat) := []
  /-- STALE_MODE as the image sets it (R329). -/
  staleMode : Bool := false
  staleSet : Bool := false
  clears : Nat := 0
  /-- Many-access instructions: stream, issue and last access cycle (R335). -/
  multi : List (Nat × Nat × Nat) := []
  /-- Nonzero X deltas: stream, cycle, group; streams that static engines access (R335). -/
  xDelta : List (Nat × Nat × Nat) := []
  /-- Streams that X's loops may have moved since their last SCFG of word 0 or SRST, and streams whose static deltas are not known
  (R86, R329). -/
  stray : List Nat := []
  loose : List Nat := []
  used : List Nat := []
  region : Option Region := none
  /-- Some region has run. -/
  regions : List (Nat × Nat) := []
  /-- Registers that the TCFGs of regions that are over may have configured, with the region's cycle and group (R330). -/
  closed : List (Nat × Nat × List Nat) := []
  rdvt : List (Nat × Nat) := []
  rdvtUnk : List (Nat × Nat) := []
  /-- Lookaheads of RDV.T: issue cycle, group, and whether the register held an unknown value then (R304, R343). -/
  rdvtLook : List (Nat × Nat × Bool) := []
  safes : List (Nat × Nat) := []
  clearAt : List (Nat × Nat) := []
  endsAt : Option (Nat × Nat) := none
  /-- The last RDV.P's group. -/
  rdvAt : Nat := 0
  deriving DecidableEq, Repr

/-- A pitch as the checker follows it. -/
structure Ck where
  env : Env := {}
  strict : Bool := false
  codes : List (List Code) := []
  tiles : List CkTile := []
  links : List LinkUse := []
  /-- Words on the stream plane: sending tile and group, cycle of the beat, destination, landing cycle (R341). -/
  flights : List (Nat × Nat × Nat × Nat × Nat) := []
  wall : Nat := 0
  /-- TIME_LOCAL is no longer known: a rendezvous followed a dynamic region. -/
  timeUnk : Bool := false
  fails : Fails := []
  quietC : Bool := true
  quietR : Bool := true
  /-- At which of its RDV.P groups each region that may end at several is taken to end, in the order of their ends (the first one
  beyond the list), and how many such groups each of them had (R339). -/
  path : List Nat := []
  forks : List Nat := []
  deriving DecidableEq, Repr

/-- The environment of a tile: its class's code, and a package time at which every wait of RDV.T holds. -/
def Ck.envAt (c : Ck) (k : Nat) : Env :=
  { c.env with wall := c.wall, ptc := 2 ^ 64, code := c.codes.getD ((c.tiles.getD k {}).t.cls) [] }

/-- A tile of the launch in local time (R93, R161): arguments in its registers, everything else at reset. -/
def ckTile (img : Image) (args : List Word) (env : Env) (k : Nat) : CkTile :=
  let t0 : Tile := { x := k % img.w, y := k / img.w, cls := img.classOf.getD k 0, gen := 1, pitchGen := 1, maxGen := 1,
                     epoch := Vector.replicate 16 1, mode := .pulse (env.off (k % img.w) (k / img.w)) }
  let t1 := (List.range (Nat.min 32 args.length)).foldl (fun (t : Tile) i => t.setG i (args.getD i 0)) t0
  { t := t1, staleMode := img.stale }

/-- The checker at local cycle 0. -/
def Ck.init (img : Image) (strict : Bool) (args : List Word) : Ck :=
  let env : Env := { w := img.w, h := img.h, seamC := if img.seamC == 0 then [] else [img.seamC]
                     seamR := if img.seamR == 0 then [] else [img.seamR], holdLead := img.lead }
  { env := env, strict := strict, codes := img.code, tiles := (List.range (img.w * img.h)).map (ckTile img args env) }

namespace CkTile

/-- A g register holds an unknown value. -/
def gUnk (u : CkTile) (r : Nat) : Bool := u.unkG.contains r && !u.t.regStale .C r

/-- A stream word does; a descriptor does. -/
def sUnk (u : CkTile) (s w : Nat) : Bool := u.unkS.contains (s, w) && !u.t.streamStale s
def tUnk (u : CkTile) (r : Nat) : Bool := u.unkT.contains r && u.t.descCur r

/-- What an access makes of CUR is unknown (R85). -/
def stepUnk (u : CkTile) (s : Nat) : Bool :=
  (if (u.t.streamOf s).mode == 0 then [0, 2] else [0, 2, 3, 4, 5]).any (u.sUnk s)

/-- CUR is unknown as an access that issues now uses it: it is so already, or an access before it makes it so (R85). -/
def curUnk (u : CkTile) (s : Nat) : Bool :=
  u.sUnk s 6 || (u.stepUnk s && u.t.pend.any fun p => p.eff == .advance s)

/-- X's loops move a stream: its delta table has a nonzero entry for it (R86). -/
def xMoves (u : CkTile) (s : Nat) : Bool :=
  let d := (u.t.engOf .X).delta
  (List.range 4).any fun l => at' 0 d (16 * l + s) != 0

/-- A word of a stream as SGET reads it is unknown; so is CUR where X's loops, or deltas that are not known, may have moved it. -/
def readUnk (u : CkTile) (s w : Nat) : Bool :=
  u.sUnk s w || (w == 1 && (u.sUnk s 6 || u.stray.contains s || u.loose.contains s))

/-- Where an access goes is unknown: by its first place, or with `many` by a later one. -/
def accessUnk (u : CkTile) (many : Bool) (s : Nat) : Bool := u.sUnk s 0 || u.curUnk s || (many && u.stepUnk s)

/-- Accesses of this cycle move CUR, and IDX with unknown extents, to places not known (R85). -/
def moveUnk (env : Env) (u : CkTile) : CkTile :=
  { u with updS := (u.t.pend.filter (due env u.t 2)).foldl (fun l p => match p.eff with
      | .advance s =>
        if u.stepUnk s && !u.t.streamStale s then
          l ++ (s, some 6, true) :: if (u.t.streamOf s).mode == 0 then [] else [(s, some 5, true)]
        else l
      | _ => l) [] ++ u.updS }

/-- The results of one instruction are unknown. -/
def unknown (u : CkTile) (gid iid : Nat) : CkTile := { u with unkOwn := (gid, iid) :: u.unkOwn }

/-- Results that perform in this cycle become known or unknown. -/
def learn (env : Env) (u : CkTile) : CkTile :=
  let now := sortOn performRank (u.t.pend.filter (due env u.t 0))
  { u with unkG := now.foldl (fun l p => match p.eff with
      | .g r _ byC =>
        if byC && !u.unkOwn.contains (p.own.gid, p.own.iid) then l.filter fun k => k != r else r :: l
      | _ => l) u.unkG }

/-- The end of a cycle's changes to streams and descriptors. -/
def settle (u : CkTile) : CkTile :=
  let s := u.updS.foldl (fun (l : List (Nat × Nat)) q => match q.2.1 with
    | none => l.filter fun p => p.1 != q.1
    | some w => if q.2.2 then (q.1, w) :: l else l.filter fun p => p != (q.1, w)) u.unkS
  let t := u.updT.foldl (fun (l : List Nat) q => if q.2 then q.1 :: l else l.filter fun r => r != q.1) u.unkT
  { u with unkS := s, unkT := t, updS := [], updT := [] }

/-- Masks whose lanes are all active (R100), queues of X with tokens and room, no synchronisation of the tile's own, and
a generation that never wraps: every item of an older generation is stale all the same. -/
def free (u : CkTile) : CkTile :=
  let t := u.t
  let t1 := if t.gen < 2 then t else { t.hardClear with gen := 1, maxGen := 1 }
  { u with unkS := if t.gen < 2 then u.unkS else [], t := { t1 with
      m := Vector.replicate 8 ⟨BitVec.allOnes 64, t1.gen⟩, staleTrap := false, semOps := [], looks := [], traps := []
      sem := Vector.replicate 64 {}, ring := Vector.replicate 16 {}
      tok := (((t1.tok.setIfInBounds (tokIdx .X true) 8).setIfInBounds (tokIdx .X false) 8).setIfInBounds
        (tokIdx .V true) 8).setIfInBounds (tokIdx .C false) 8 } }

end CkTile

/-- A failure of a tile's engine at a group. -/
def failAt (code k : Nat) (e : Engine) (off cycle : Nat) : Nat × CheckFail :=
  (k, { code := code, tile := k, eng := e, off := off, cycle := cycle })

/-- The party that an owner is: a landing belongs to N of its sender (R333). -/
def partyOf (k : Nat) (o : Own) : Nat × Engine × Nat := (if 4096 ≤ o.iid then o.iid - 4096 else k, o.eng, o.off)

/-- A collision of two owners in a tile, its parties in the order of R328. -/
def collision (code k cycle : Nat) (a b : Own) : Nat × CheckFail :=
  let key (p : Nat × Engine × Nat) : Nat := p.1 * 8 + p.2.1.idx
  let p := partyOf k a
  let q := partyOf k b
  let lo := if key q < key p then q else p
  let hi := if key q < key p then p else q
  (k, { code := code, tile := lo.1, eng := lo.2.1, off := lo.2.2, cycle := cycle, party := some hi })

/-- The check that a trap at issue is (R327); none where the checker does not judge it. -/
def trapCheck (e : Engine) (i : Instr) (code : Nat) : Option Nat :=
  let cfg := match i with
    | .tcfg _ _ _ => true
    | _ => false
  let ls := match i with
    | .ld _ _ _ _ _ _ => true
    | .st _ _ _ _ _ => true
    | _ => false
  if e == .C then
    if cfg then some 0x05 else if ls && code == trapBounds then some 0x0D else if ls && code == trapBank then some 0x08
    else if code == trapStreamPhase then some 0x0A else none
  else if code == trapIllegal then some 0x05
  else if code == trapMiss then some 0x06
  else if code == trapBounds then some 0x0D
  else none

/-! ## Dynamic regions -/

/-- Where control may go after a group, whatever the data: `none` ends the walk. -/
def nextWords (code : Code) (q : Placed) : List Nat :=
  let all := placedAll .C code
  let last := q.pc + q.len - 1
  let backs := all.filterMap fun p => match p.i with
    | .loop _ _ _ _ body _ => if p.pc + 1 + body == last then some (p.pc + 2) else none
    | _ => none
  let on := (last + 1) :: backs
  match q.i with
  | .bz _ _ off => ((q.pc : Int) + off).toNat :: on
  | .bnz _ _ off => ((q.pc : Int) + off).toNat :: on
  | .j _ off => [((q.pc : Int) + off).toNat]
  | .call _ off => [((q.pc : Int) + off).toNat]
  | .ret _ => all.filterMap fun p => match p.i with
    | .call _ _ => some (p.pc + 1)
    | _ => none
  | .loop _ _ _ _ body _ => [q.pc + 2, q.pc + 2 + body]
  | .ends _ => []
  | .rdvP _ _ => []
  | _ => on

/-- Words of a stream register that an SCFG writes: CUR stands as word 6, and word 0 also zeros IDX (R210). -/
def scfgWords (s w : Nat) : List (Nat × Nat) := if w == 0 then [(s, 0), (s, 5), (s, 6)] else [(s, w)]

/-- What one instruction of a region adds to it (R330). -/
def Region.add (r : Region) (q : Placed) : Region :=
  let p := preOfInstr q.i
  let r1 := { r with
    breach := r.breach || p.wp || p.sp
    regs := ((objWrites q.i).filterMap fun o => match o with
      | .reg k => some k
      | _ => none) ++ r.regs }
  match q.i with
  | .scfg _ _ s w => { r1 with
      streams := s :: r1.streams, words := scfgWords s w ++ r1.words, fresh := if w == 0 then s :: r1.fresh else r1.fresh }
  | .srst _ s => { r1 with
      streams := s :: r1.streams, words := ((List.range 7).map fun w => (s, w)) ++ r1.words, fresh := s :: r1.fresh }
  | .ldel _ eng _ s d => { r1 with
      streams := s :: r1.streams, deltas := if eng == 1 then r1.deltas else s :: r1.deltas
      xDeltas := if eng == 1 && d != 0 then s :: r1.xDeltas else r1.xDeltas }
  | .loop _ lvl _ _ _ _ => { r1 with lvls := lvl :: r1.lvls }
  | .setc _ _ n _ => { r1 with setsMode := r1.setsMode || n == 4 }
  | .tcfg _ _ t => { r1 with descs := t :: r1.descs }
  | .genclr _ => { r1 with breach := true }
  | .safe _ => { r1 with breach := true }
  | .rdvT _ _ => { r1 with breach := true }
  | .rdvP _ tag => { r1 with rdvs := r1.rdvs ++ [(q.pc, tag)] }
  | .ends _ => { r1 with ends := true }
  | _ => r1

/-- Every group that a region may reach. -/
def Region.grow (code : Code) : Nat → List Nat → List Nat → Region → Region
  | 0, _, _, r => r
  | _, [], _, r => r
  | n + 1, pc :: rest, seen, r =>
    if seen.contains pc then Region.grow code n rest seen r
    else
      match groupAt .C code pc with
      | .error _ => Region.grow code n rest (pc :: seen) r
      | .ok l =>
        let next := match l.getLast? with
          | some q => nextWords code q
          | none => []
        let ends := (l.getLast?.map fun q => q.pc + q.len - 1).toList
        Region.grow code n (next ++ rest) (pc :: seen) { l.foldl Region.add r with lasts := ends ++ r.lasts }

/-- The region that starts at a branch whose outcome is not known. -/
def regionFrom (code : Code) (q : Placed) (gpc cycle : Nat) : Region :=
  let n := code.words.length + 1
  Region.grow code (n * n + n) (nextWords code q) [] { start := cycle, off := gpc }

/-- Streams that C's own loops may move while a region runs: a level that loops in it has a nonzero delta for them (R86, R331). -/
def Region.moves (r : Region) (t : Tile) : List Nat :=
  let s := t.engOf .C
  let loops (l : Nat) : Bool := r.lvls.contains l || ((at' {} s.loops l).active && r.lasts.contains (at' {} s.loops l).stop)
  (List.range 16).filter fun k => (List.range 4).any fun l => loops l && at' 0 s.delta (16 * l + k) != 0

/-! ## Issue -/

/-- Streams that a static instruction accesses. -/
def streamsOf (i : Instr) : List Nat :=
  match i with
  | .vld _ o => [o.a % 16]
  | .vst _ o => [o.d % 16]
  | .vgath _ o => [o.b % 16]
  | .vscat _ o => [o.d % 16]
  | .ldt _ _ s => [s]
  | .stt _ _ s _ _ => [s]
  | .ldsc _ _ s => [s]
  | .send _ _ _ s _ _ => [s]
  | .sendm _ _ _ s _ _ => [s]
  | _ => []

/-- Tile registers that a static instruction reads or writes. -/
def tilesOf (i : Instr) : List Nat :=
  match i with
  | .mma _ a b c => [a, b, c]
  | .mmaz _ a b c => [a, b, c]
  | .mmas _ a b c m => [a, b, c, m]
  | .mmal _ a b c => [a, b, c]
  | .mrk1 _ a b c _ => [a, b, c]
  | .ldt _ t _ => [t]
  | .stt _ t _ _ _ => [t]
  | .tzro _ t => [t]
  | .tcpy _ a b => [a, b]
  | .ldsc _ t _ => [t]
  | .sendl _ _ _ _ src => [fieldTile src]
  | _ =>
    let o := vopsOf i
    (if vGridD i && isVec i then [fieldTile o.d] else []) ++ (if vGridA i && isVec i then [fieldTile o.a] else []) ++
      if vGridB i && isVec i then [fieldTile o.b] else []

/-- The tile register whose EPOCH an instruction increments (R269). -/
def cuts (i : Instr) : Option Nat :=
  match i with
  | .tcfg _ _ t => some t
  | .tzro _ t => some t
  | .ldt _ t _ => some t
  | .tcpy _ a _ => some a
  | _ => none

/-- It makes more than one access through its stream (R335). -/
def manyAccess (i : Instr) : Bool :=
  match i with
  | .vld _ o => gridWhole o.d
  | .vst _ o => gridWhole o.a
  | .ldt _ _ _ => true
  | .stt _ _ _ _ _ => true
  | .ldsc _ _ _ => true
  | .send _ _ _ _ _ len => decide (8 < len)
  | .sendm _ _ _ _ _ len => decide (8 < len)
  | _ => false

/-- A V, M or N instruction whose accesses, occupancy or landings depend on an unknown value (R331). A row operand of a V
line form takes one cycle whatever its descriptor is. -/
def CkTile.shapeless (u : CkTile) (i : Instr) : Bool :=
  let o := vopsOf i
  let long (g : Bool) (f : Nat) : Bool := g && u.tUnk (fieldTile f) && gridDir f != 1
  match i with
  | .vgath _ _ => long true o.d || long true o.a || (streamsOf i).any (u.accessUnk false)
  | .vscat _ _ => long true o.a || long true o.b || (streamsOf i).any (u.accessUnk false)
  | .tzro _ _ => false
  | .tcpy _ _ b => u.tUnk b
  | .ldsc _ t s => u.tUnk t || u.sUnk s 1 || u.accessUnk false s
  | _ =>
    if !(streamsOf i).isEmpty then (streamsOf i).any (u.accessUnk (manyAccess i)) || (tilesOf i).any u.tUnk
    else if isVec i then vUnit i == .line && (long (vGridD i) o.d || long (vGridA i) o.a || long (vGridB i && !vWritesB i) o.b)
    else (tilesOf i).any u.tUnk

/-- An instruction of C with an operand that is not known at load (R329). -/
def CkTile.inputUnk (u : CkTile) (i : Instr) : Bool :=
  (objReads i).any fun o => match o with
    | .reg r => u.gUnk r
    | _ => false

/-- C's result is not known at load (R329). -/
def CkTile.resultUnk (c : Ck) (u : CkTile) (i : Instr) : Bool :=
  u.inputUnk i || match i with
    | .ld _ _ _ _ _ _ => true
    | .getc _ _ n => !([0, 1, 6, 7].contains n || (n == 8 && !c.timeUnk) || (n == 4 && !u.staleSet))
    | .tick _ _ => c.timeUnk
    | .sget _ _ s w => u.readUnk s w
    | .tget _ _ t => u.tUnk t
    | .mtrd _ _ _ => true
    | .sfadd _ _ | .scas _ _ | .srd _ _ | .rstat _ _ | .rclf _ _ | .rcld _ _ => true
    | _ => false

/-- The register of an RDV.T that issues now held an unknown value at its lookahead or, where none was made, does now (R304). -/
def CkTile.timeReadUnk (u : CkTile) (gpc ga : Nat) : Bool :=
  match u.rdvtLook.find? fun q => q.1 == u.t.tl && q.2.1 == gpc with
  | some q => q.2.2
  | none => u.gUnk ga

/-- The lookahead of an RDV.T that C issues `n` cycles from now (R26, R304). -/
def CkTile.lookTime (env : Env) (u : CkTile) (n : Nat) : CkTile :=
  match groupIn env u.t .C n with
  | some (pc, [q]) => (match q.i with
    | .rdvT _ ga => { u with rdvtLook := u.rdvtLook ++ [(u.t.tl + n, pc, u.gUnk ga)] }
    | _ => u)
  | _ => u

/-- A write of V or M to a tile register that has issued before this cycle is pending (R337). -/
def Tile.pendingWrite (t : Tile) (r : Nat) : Bool :=
  t.pend.any fun p => decide (p.iss < t.tl) && (p.own.eng == .V || p.own.eng == .M) && !(t.cancelled r p.iss p.own.gid) &&
    match p.eff with
    | .grid k _ _ _ => k == r
    | .job i _ _ => (match i with
      | .ldt _ k _ => k == r
      | .tcpy _ k _ => k == r
      | _ => (vWrites i (vopsOf i)).contains (.tile r) && isVec i)
    | _ => false

/-- Bookkeeping of a C instruction that configures streams and tile registers. -/
def ckConfig (gpc : Nat) (i : Instr) (u : CkTile) : CkTile :=
  let t := u.t
  let bad := u.inputUnk i
  let busy (s : Nat) (v : CkTile) : CkTile := { v with rewrites := (s, gpc) :: v.rewrites }
  let home (on : Bool) (s : Nat) (v : CkTile) : CkTile :=
    if on && !v.xMoves s then { v with stray := v.stray.filter fun k => k != s } else v
  match i with
  | .scfg _ _ s w =>
    busy s (home (w == 0) s
      { u with updS := u.updS ++ (scfgWords s w).map fun q => (q.1, some q.2, bad && q.2 != 5 || bad && w == 5) })
  | .srst _ s => busy s (home true s { u with updS := u.updS ++ [(s, none, false)] })
  | .ldel _ eng _ s d =>
    busy s (if eng == 1 && d != 0 then { u with xDelta := u.xDelta ++ [(s, t.tl, gpc)], stray := s :: u.stray } else u)
  | .tcfg _ _ r => { u with updT := u.updT ++ [(r, bad)] }
  | .setc _ _ n _ => if n == 4 then { u with staleSet := true } else u
  | .genclr _ => { u with clears := u.clears + 1, clearAt := u.clearAt ++ [(t.tl, gpc)] }
  | .safe _ => { u with safes := u.safes ++ [(t.tl, gpc)] }
  | .rdvT _ ga =>
    { u with rdvt := u.rdvt ++ [(t.tl, gpc)], rdvtUnk := if u.timeReadUnk gpc ga then u.rdvtUnk ++ [(t.tl, gpc)] else u.rdvtUnk }
  | .rdvP _ _ => { u with rdvAt := gpc }
  | .ends _ => { u with endsAt := some (t.tl, gpc) }
  | _ => u

/-- A result of C that is not computed here, and that nothing knows at load: it performs in its cycle all the same (R187,
R329, R337). -/
def ckResult (i : Instr) (c : Ctx) (t : Tile) : Tile :=
  match i with
  | .sfadd _ o | .scas _ o | .srd _ o | .rstat _ o | .rclf _ o | .rcld _ o => t.result c o.rd 1 0
  | _ => t

/-- A C instruction in local time (R329, R331). -/
def ckIssueC (ck : Ck) (k : Nat) (q : Placed) (c : Ctx) (u0 : CkTile) : CkTile × Fails :=
  let cfg := ckConfig c.gpc q.i u0
  let u := if u0.resultUnk ck q.i then cfg.unknown c.gid c.iid else cfg
  let t := u.t
  let pre := preOfInstr q.i
  let plain (f : Tile → Tile) : CkTile := { u with t := issue pre t c f }
  let toRegion : CkTile × Fails :=
    let t1 := stageTokens pre t c
    let r := regionFrom (c.env.codeOf .C) q c.gpc t.tl
    ({ u with
        t := t1.setEng .C { t1.engOf .C with halted := true }, updS := u.updS ++ (r.moves t).map fun s => (s, some 6, true)
        region := some r, regions := u.regions ++ [(t.tl, c.gpc)] }, [])
  let run : CkTile × Fails :=
    let t0 := match q.i with
      | .getc _ _ n => if n == 4 then { t with staleTrap := u.staleMode } else t
      | .scfg _ r s w =>
        if w == 0 && u.sUnk s 6 then t.setStream s { t.streamOf s with cur := wfld (t.reg .C r) 0 20, tag := t.gen } else t
      | _ => t
    let t1 := { ckResult q.i c (issueOf q.i t0 c) with staleTrap := t.staleTrap }
    match t1.traps.getLast? with
    | none => ({ u with t := t1 }, [])
    | some r =>
      match trapCheck .C q.i r.code with
      | none => ({ u with t := t1 }, [])
      | some n => (plain id, [failAt n k .C c.gpc t.tl])
  if !u0.inputUnk q.i then run
  else
    match q.i with
    | .bz _ _ _ => toRegion
    | .bnz _ _ _ => toRegion
    | .ret _ => toRegion
    | .loop _ _ _ _ _ _ => toRegion
    | .ld _ gd _ _ _ _ => (plain fun x => x.stage c (c.iss + 8) 0 (.g gd 0 true), [])
    | .st _ _ _ _ _ => if u0.gUnk (match q.i with
        | .st _ _ ga _ _ => ga
        | _ => 0) then (plain id, []) else run
    | .scfg _ _ s w => (plain fun x => x.stage c x.tl 2 (.scfg s w 0), [])
    | .tcfg _ _ r => (plain fun x => (x.stage c x.tl 2 (.tdesc r {})).stage c x.tl 2 (.epoch r), [])
    | _ => run

/-- The changes of stream and descriptor knowledge that an M instruction makes. -/
def ckMoves (i : Instr) (u : CkTile) : CkTile :=
  match i with
  | .ldt _ t s => { u with updT := u.updT ++ [(t, u.sUnk s 0 || u.tUnk t)] }
  | .tcpy _ a b => if a == b then u else { u with updT := u.updT ++ [(a, u.tUnk b)] }
  | _ => u

/-- VGATH and VSCAT take their lanes' places from data, which are not known at load: the checker lets them stay in the
scratchpad (R327, R333). -/
def issueInside (i : Instr) (t : Tile) (c : Ctx) : Tile :=
  match i with
  | .vgath _ _ | .vscat _ _ =>
    let t1 := issueOf i { t with s := Vector.replicate 16 { tag := t.gen }, grid := [] } c
    { t1 with s := t.s, grid := t.grid }
  | _ => issueOf i t c

/-- A V, M or N instruction in local time (R331, R334, R335). -/
def ckIssueS (k : Nat) (q : Placed) (c : Ctx) (u0 : CkTile) : CkTile × Fails :=
  let ss := streamsOf q.i
  let u := ckMoves q.i { u0 with used := ss.filter (fun s => !u0.used.contains s) ++ u0.used }
  let t := u.t
  let closes := match u.region with
    | some r => decide (r.start < t.tl) &&
        ((r.streams.any fun s => ss.contains s) || r.descs.any fun d => (tilesOf q.i).contains d)
    | none => false
  let f0 : Fails := match u.region, closes with
    | some r, true => [failAt 0x03 k .C r.off r.start]
    | _, _ => []
  let bare : CkTile := { u with t := issue (preOfInstr q.i) t c id }
  if u0.shapeless q.i then (bare, f0 ++ [failAt 0x04 k c.eng c.gpc t.tl])
  else
    let t1 := issueInside q.i t c
    match t1.traps.getLast? with
    | some r => (match trapCheck c.eng q.i r.code with
      | some n => (bare, f0 ++ [failAt n k c.eng c.gpc t.tl])
      | none => (bare, f0))
    | none =>
      let mine := (t1.banks.filter fun b => b.own == Tile.own c).map fun b => b.at_
      let m := if manyAccess q.i then ss.map fun s => (s, t.tl, mine.foldl Nat.max 0) else []
      ({ u with t := t1, multi := m ++ u.multi }, f0)

/-- CLOSURE of a region that the branch of this cycle has started (R330): what its groups may do, accesses that V, M and N have
issued and still make, and engines that have not executed ENDS where it may reach RDV.P. -/
def ckRegion (k now : Nat) (u : CkTile) : Fails :=
  match u.region with
  | none => []
  | some r =>
    let rest := [Engine.V, .M, .N].all fun e => (u.t.engOf e).ended
    let still := u.t.pend.any fun p => (p.own.eng == .V || p.own.eng == .M || p.own.eng == .N) && decide (now < p.at_) &&
      match p.eff with
      | .advance s => r.streams.contains s
      | .grid t _ _ _ => r.descs.contains t
      | .job i _ _ => (r.descs.any fun d => (tilesOf i).contains d) || r.streams.any fun s => (streamsOf i).contains s
      | _ => false
    if r.start == now && (r.breach || still || (!r.rdvs.isEmpty && !rest)) then [failAt 0x03 k .C r.off r.start] else []

/-- STREAM of C's rewrites in this cycle: a stream through which a many-access instruction has issued and not finished
(R335). -/
def ckRewrites (k now : Nat) (u : CkTile) : Fails :=
  (u.rewrites.filter fun w => u.multi.any fun m => m.1 == w.1 && decide (m.2.1 ≤ now) && decide (now < m.2.2)).map fun w =>
    failAt 0x09 k .C w.2 now

/-- A C access moves to another bank cycle. -/
def rebank (t : Tile) (o : Own) (at_ : Nat) : Tile :=
  { t with
    banks := t.banks.map fun b => if b.own == o then { b with at_ := at_ } else b
    pend := t.pend.map fun p => if p.own == o && p.eff matches .access _ _ _ then { p with at_ := at_ } else p }

/-- A C access that finds no bank cycle: a BANK failure of its group, which goes on without it (R333). -/
def ckBankLost (t : Tile) (u : BankUse) : Tile :=
  { t with
    banks := t.banks.filter fun b => b.own != u.own
    pend := t.pend.filter fun p => !(p.own == u.own && p.eff matches .access _ _ _)
    traps := t.traps ++ [{ tau := u.iss, eng := .C, code := trapBank, off := u.own.off }] }

/-- C accesses keep their bank cycles, the earlier group's first; one whose cycle a static access of a later group takes goes to
the next free one up to issue + 6, so that it ends with the cycle of R333. -/
def replanBanks (t : Tile) : Tile :=
  let mine := sortOn (fun (u : BankUse) => u.own.gid * 2 + u.own.iid)
    (t.banks.filter fun u => u.own.eng == .C && decide (t.tl ≤ u.at_))
  let others := t.banks.filter fun u => u.own.eng != .C
  (mine.foldl (fun (r : Tile × List BankUse) u =>
    match firstFree r.2 u.bank (u.iss + 7 - u.at_) u.at_ with
    | none => (ckBankLost r.1 u, r.2)
    | some b => (if b == u.at_ then r.1 else rebank r.1 u.own b, { u with at_ := b } :: r.2)) (t, others)).1

/-- An instruction of a group; one that cuts a tile register meets no pending write (R337). -/
def ckInstr (ck : Ck) (k : Nat) (e : Engine) (q : Placed) (c : Ctx) (u : CkTile) : CkTile × Fails :=
  let w : Fails := match cuts q.i with
    | some r => if u.t.pendingWrite r then [failAt 0x0C k e c.gpc u.t.tl] else []
    | none => []
  let r := if e == .C then ckIssueC ck k q c u else ckIssueS k q c u
  (r.1, w ++ r.2)

/-- A static engine's group of this cycle, whatever its tokens say (R338). -/
def ckEngine (ck : Ck) (k : Nat) (r : CkTile × Fails) (e : Engine) : CkTile × Fails :=
  let u := r.1
  let env := ck.envAt k
  let t0 := u.t
  let u1 := { u with t := idleTick t0 e }
  let pc := (t0.engOf e).pc
  let start (l : List Placed) : CkTile × Fails :=
    let gid := t0.gseq + 1
    let sEnv := { env with strict := ck.strict }
    (List.range l.length).foldl (fun (z : CkTile × Fails) n =>
      match l[n]? with
      | none => z
      | some q =>
        let c : Ctx := { env := sEnv, eng := e, gid := gid, iid := n, gpc := pc, pc := q.pc, len := q.len, iss := t0.tl }
        let y := ckInstr ck k e q c { z.1 with t := { z.1.t with traps := [] } }
        (y.1, z.2 ++ y.2)) ({ u1 with t := { u1.t with gseq := gid } }, r.2)
  match enterBy (staticTrap env t0 e) env t0 e with
  | .quiet => (u1, r.2)
  | .expiry =>
    let c : Ctx := { env := env, eng := e, gid := t0.gseq + 1, gpc := pc, pc := pc, iss := t0.tl }
    ({ u1 with t := idleExpiry u1.t c }, r.2)
  | .illegal _ _ => ({ u1 with t := u1.t.setEng e { u1.t.engOf e with halted := true } }, r.2)
  | .run _ l => start l
  | .trap _ _ =>
    match groupAt e (env.codeOf e) pc with
    | .ok l => let y := start l; (y.1, y.2 ++ [failAt 0x07 k e pc t0.tl])
    | .error _ => (u1, r.2)

/-! ## The cycle -/

/-- Pairs of a list, each once. -/
def pairsOf {α : Type} : List α → List (α × α)
  | [] => []
  | a :: l => l.map (fun b => (a, b)) ++ pairsOf l

/-- Bytes of a grid or side write that two writes share. -/
def meetBytes (a b : List MByte) : Bool := a.any fun x => b.any fun y => x.addr == y.addr && x.mask &&& y.mask != 0

/-- Two results of one cycle that write one item (R337). -/
def writesMeet (a b : Pend) : Bool :=
  match a.eff, b.eff with
  | .grid r row _ x, .grid r' row' _ y => r == r' && row == row' && meetBytes x y
  | .mask r _, .mask r' _ => r == r'
  | .side x, .side y => (itemsOf 64 x).any fun g => (itemsOf 64 y).contains g
  | .g r _ byC, .g r' _ byC' => r == r' && byC != byC'
  | _, _ => false

/-- A landing line as the row writes that it makes. -/
def asWrites (t : Tile) (p : Pend) : List Pend :=
  match p.eff with
  | .land (.line dst _ _ codes) =>
    let r := fieldTile dst
    let d := t.descOf r
    (List.range (lineLen d dst)).map fun k =>
      { p with eff := .grid r (linePos d dst k).1 .plane (Tile.elemBytes (linePos d dst k).2 d.w (codes.getD k 0)) }
  | _ => [p]

/-- WRITE among the results that perform in this cycle, and writes that meet an array instruction's window (R337). -/
def ckWrites (env : Env) (k : Nat) (t : Tile) : Fails :=
  let now := (t.pend.filter fun p => due env t 0 p && (match p.eff with
    | .grid r _ src _ => src == .plane || !t.cancelled r p.iss p.own.gid
    | _ => true)).flatMap (asWrites t)
  let met := (pairsOf now).filterMap fun q =>
    if q.1.own != q.2.own && writesMeet q.1 q.2 then some (collision 0x0C k t.tl q.1.own q.2.own) else none
  let inside := now.flatMap fun p => match p.eff with
    | .grid r _ src _ =>
      if src == .vec || src == .xfer then
        (t.pend.filter fun a => decide (a.iss < t.tl) && decide (t.tl < a.at_) && (match a.eff with
          | .grid r' _ .array _ => r' == r
          | _ => false)).map fun a => collision 0x0C k t.tl a.own p.own
      else []
    | _ => []
  met ++ inside

/-- FORMAT of lines that land now: the widths differ (R279). -/
def ckLandings (env : Env) (k : Nat) (u : CkTile) : Fails :=
  (u.t.pend.filter (due env u.t 0)).filterMap fun p => match p.eff with
    | .land (.line dst sw on _) =>
      let r := fieldTile dst
      if u.t.configured r && on && !u.tUnk r && (u.t.descOf r).w != sw then
        let q := partyOf k p.own
        some (k, { code := 0x05, tile := q.1, eng := q.2.1, off := q.2.2, cycle := u.t.tl })
      else none
    | _ => none

/-- CLOSURE of a dynamic region in whose tile a line lands, after its branch, in a register that it may configure, the region
being over or not (R330). -/
def ckRegionLandings (env : Env) (k : Nat) (u : CkTile) : Fails :=
  let all := (u.region.map fun r => (r.start, r.off, r.descs)).toList ++ u.closed
  (all.filter fun r => (u.t.pend.filter (due env u.t 0)).any fun p => decide (r.1 < u.t.tl) && match p.eff with
    | .land (.line dst _ _ _) => r.2.2.contains (fieldTile dst)
    | _ => false).map fun r => failAt 0x03 k .C r.2.1 r.1

/-- BANK among the static accesses of this cycle (R333). -/
def ckBanks (k : Nat) (t : Tile) : Fails :=
  (pairsOf (t.banks.filter fun b => b.at_ == t.tl)).filterMap fun q =>
    if q.1.bank == q.2.bank then some (collision 0x08 k t.tl q.1.own q.2.own) else none

/-- STREAM among the moves of this cycle (R87, R335). -/
def ckStreams (env : Env) (k : Nat) (t : Tile) : Fails :=
  (pairsOf (streamMoves env t)).filterMap fun q =>
    if q.1.1 == q.2.1 && q.1.2.own.eng != q.2.2.own.eng then some (collision 0x09 k t.tl q.1.2.own q.2.2.own) else none

/-- One use of each bank in the present cycle, so that later steps see no collision. -/
def oneEach (now : Nat) (l : List BankUse) : List BankUse :=
  l.foldl (fun (acc : List BankUse) b =>
    if b.at_ == now && acc.any fun a => a.at_ == b.at_ && a.bank == b.bank then acc else acc ++ [b]) []

/-- The lookaheads that are made at once where a phase starts, for the groups of its first F cycles (R26, R45). -/
def lookSpanTime (env : Env) (u v : CkTile) (first : Bool) : CkTile :=
  if first then
    { v with rdvtLook := ((List.range env.holdLead).foldl (fun (z : CkTile) n => z.lookTime env n) { u with rdvtLook := [] }).rdvtLook }
  else v

/-- One tile's cycle up to its end, with its failures. -/
def ckTileCycle (ck : Ck) (k : Nat) (u : CkTile) : CkTile × Fails :=
  let env := ck.envAt k
  let u0 := u.free
  let u1 := { u0 with t := tileStart env false u0.t, rewrites := [] }
  if !u1.t.live then (u1, [])
  else
    let now := u1.t.tl
    let f1 := ckWrites env k u1.t ++ ckLandings env k u1 ++ ckRegionLandings env k u1
    let u2 := u1.learn env
    let t2 := tileBegin env u2.t
    let first : Bool := match u0.t.mode with
      | .run => false
      | _ => true
    let u3 : CkTile := (lookSpanTime env u1 u2 first).lookTime env env.holdLead
    let u3 : CkTile := { u3 with t := { t2 with traps := [] } }
    let r := [Engine.C, .V, .M, .N].foldl (ckEngine ck k) (u3, f1)
    let t4 := replanBanks { r.1.t with traps := [] }
    let late := t4.traps.map fun x => failAt 0x08 k .C x.off x.tau
    let f2 := ckStreams env k t4 ++ ckBanks k t4
    let t5 := tileReads env { t4 with banks := oneEach t4.tl t4.banks, traps := [] }
    let t6 := tileEnd env { t5.setEng .C { t5.engOf .C with halted := (r.1.t.engOf .C).halted } with semOps := [], traps := [] }
    let u6 := { ({ r.1 with t := t5 }.moveUnk env).settle with t := { t6 with traps := [] } }
    (u6, r.2 ++ f2 ++ late ++ ckRewrites k now u6 ++ ckRegion k now u6)

/-- A link entry that crosses a seam (R345). -/
def seamLink (n x dir fwd : Nat) : Bool := n != 0 && ((dir == fwd && x + 1 == n) || (dir == fwd + 1 && x == n))

/-- LINK (R336): two beats on one link or two landings in one tile in one pitch cycle; the local cycle is the first
party's. -/
def Ck.linkFails (ck : Ck) (a : LinkUse) : Fails :=
  ck.links.filterMap fun b =>
    if a.p == b.p && a.x == b.x && a.y == b.y && a.dir == b.dir && (a.tile != b.tile || a.own.gid != b.own.gid || a.own.iid != b.own.iid) then
      let lo := if b.tile < a.tile then b else a
      let hi := if b.tile < a.tile then a else b
      let t := (ck.tiles.getD lo.tile {}).t
      some (lo.tile, { code := 0x0B, tile := lo.tile, eng := .N, off := lo.own.off, cycle := a.p - ck.env.off t.x t.y,
                       party := some (hi.tile, .N, hi.own.off) })
    else none

/-- What the tiles sent in this cycle (R276, R345): links, landings, flights. -/
def Ck.absorb (ck : Ck) : Ck :=
  (List.range ck.tiles.length).foldl (fun (c : Ck) k =>
    let u := c.tiles.getD k {}
    let c0 := { c with tiles := c.tiles.set k { u with t := { u.t with out := [] } } }
    u.t.out.foldl (fun (z : Ck) sig => match sig with
      | .word x y at_ own w =>
        let p : Pitch := { img := { w := z.env.w, h := z.env.h }, tiles := z.tiles.map fun v => v.t }
        let q := p.deliver k x y at_ own w
        { z with
          tiles := z.tiles.mapIdx fun j v => { v with t := q.tiles.getD j v.t }
          flights := (k, own.gid, u.t.tl - 1, y * z.env.w + x, at_) :: z.flights }
      | .link x y dir p own =>
        let a : LinkUse := { x := x, y := y, dir := dir, p := p, tile := k, own := own }
        { z with
          links := z.links ++ [a],
          fails := z.fails ++ z.linkFails a,
          quietC := z.quietC && !(z.env.seamC.any fun n => decide (dir < 2) && seamLink n x dir 0),
          quietR := z.quietR && !(z.env.seamR.any fun n => decide (2 ≤ dir) && decide (dir < 4) && seamLink n y dir 2) }
      | _ => z) c0) ck

/-- How C of a tile stands at a rendezvous: tags and groups that it may wait with, the cycle, and whether it may end. -/
structure Stand where
  ready : Bool := false
  tags : List (Nat × Nat) := []
  cycle : Nat := 0
  off : Nat := 0
  ends : Bool := false
  known : Bool := true

/-- The standing of a tile (R330, R339). -/
def CkTile.stand (u : CkTile) : Stand :=
  match u.t.mode with
  | .rdv tag c => { ready := true, tags := [(u.rdvAt, tag)], cycle := c, off := u.rdvAt }
  | _ =>
    match u.region with
    | some r => { ready := true, tags := r.rdvs, cycle := r.start, off := r.off, ends := r.ends, known := false }
    | none =>
      let s := u.t.engOf .C
      if s.ended then
        let e := u.endsAt.getD (0, 0)
        { ready := true, cycle := e.1, off := e.2, ends := true }
      else { ready := s.halted }

/-- RENDEZVOUS among the tiles' standings (R33, R339). -/
def rdvFails (l : List Stand) : Fails :=
  let idx := List.range l.length
  let at_ (k : Nat) : Stand := l.getD k {}
  let can (k : Nat) : Bool := !(at_ k).tags.isEmpty
  let ended := (idx.filter fun k => (at_ k).ends && idx.any fun j => j != k && can j).map fun k =>
    failAt 0x0E k .C (at_ k).off (at_ k).cycle
  let first := (l.flatMap fun s => s.tags.map fun q => q.2).head?
  let tags := (idx.filter fun k => (at_ k).tags.any fun q => some q.2 != first).map fun k =>
    failAt 0x0E k .C (at_ k).off (at_ k).cycle
  ended ++ tags

/-- What C's groups before and in a region have done by its end (R187, R329): results that were still to come have performed, what
the region may write is not known, and streams that it rewrites are not in use (R87). -/
def CkTile.leave (u : CkTile) (r : Region) : CkTile :=
  let mine := u.t.pend.filter fun p => p.own.eng == .C
  let u1 := mine.foldl (fun (z : CkTile) p => match p.eff with
    | .g k v _ => { z with
        t := z.t.setG k v
        unkG := if z.unkOwn.contains (p.own.gid, p.own.iid) then k :: z.unkG else z.unkG.filter fun n => n != k }
    | _ => z) u
  let loads := mine.flatMap fun p => match p.eff with
    | .access i _ _ => writtenRegs [⟨i, 0, 0⟩]
    | _ => []
  let t1 := (r.regs ++ loads).foldl (fun (z : Tile) k => z.setG k 0) { u1.t with pend := u1.t.pend.filter fun p => p.own.eng != .C }
  let t2 := r.words.foldl (fun (z : Tile) q => z.setStream q.1 { z.streamOf q.1 with tag := z.gen }) t1
  let t3 := r.fresh.foldl (fun (z : Tile) k => z.setStream k { z.streamOf k with inUse := false }) t2
  let t4 := r.descs.foldl (fun (z : Tile) k =>
    { z with desc := z.desc.setIfInBounds k {}, descTag := z.descTag.setIfInBounds k z.gen }) t3
  let t5 := r.xDeltas.foldl (fun (z : Tile) k => z.setEng .X { z.engOf .X with delta := (z.engOf .X).delta.setIfInBounds k 1 }) t4
  { u1 with
    t := t5, region := none, unkG := r.regs ++ loads ++ u1.unkG, unkS := r.words ++ u1.unkS, unkT := r.descs ++ u1.unkT
    xDelta := u1.xDelta ++ r.xDeltas.map fun k => (k, r.start, r.off)
    stray := r.xDeltas ++ u1.stray, loose := r.deltas ++ u1.loose, staleSet := u1.staleSet || r.setsMode
    closed := if r.descs.isEmpty then u1.closed else (r.start, r.off, r.descs) :: u1.closed }

/-- A tile after a rendezvous: at A, its region over, C at the group after its RDV.P; `pick` chooses among those at which a region
may end. -/
def CkTile.anchored (u0 : CkTile) (env : Env) (a wait pick : Nat) : CkTile :=
  let u := match u0.region with
    | none => u0
    | some r => u0.leave r
  let t := u.t
  let t1 := { Pitch.jump a t with mode := .anchor (wait + env.off t.x t.y) }
  match u0.region with
  | none => { u with t := t1, multi := u.multi.map fun m => (m.1, m.2.1 + (a - t.tl), m.2.2 + (a - t.tl)) }
  | some r =>
    let at_ := ((sortOn (fun (q : Nat × Nat) => q.1) r.rdvs).map Prod.fst).getD pick 0
    let s := t1.engOf .C
    let keep (v : LoopLvl) : LoopLvl := if v.active && decide (v.start ≤ at_) && decide (at_ ≤ v.stop) then v else { v with active := false }
    { u with t := t1.setEng .C (loopEndCheck { s with halted := false, pc := at_, loops := s.loops.map keep } at_).1 }

/-- Groups at which the phase of a tile may end. -/
def CkTile.ways (u : CkTile) : Nat :=
  match u.region with
  | some r => r.rdvs.length
  | none => 1

/-- The rendezvous of a cycle's end (R32, R339): failures once every C stands, and the next phase from A. Where some tile
never comes, those that wait stay, and the other engines go on. -/
def Ck.meet (ck : Ck) : Ck :=
  let l := ck.tiles.map CkTile.stand
  let anyRdv := l.any fun s => !s.tags.isEmpty
  let rest (u : CkTile) : Bool := match u.t.mode with
    | .rdv _ _ => true
    | _ => u.region.isNone || [Engine.V, .M, .N].all fun e => (u.t.engOf e).ended || (u.t.engOf e).halted
  if !(l.all fun s => s.ready) || !anyRdv || !ck.tiles.all rest then ck
  else
    let f := rdvFails l
    let bad := l.any fun s => s.tags.isEmpty
    if bad then
      let stop (u : CkTile) : CkTile := if u.stand.tags.isEmpty then u else { u with t := { u.t with mode := .frozen } }
      { ck with fails := ck.fails ++ f, tiles := ck.tiles.map stop }
    else
      let a := l.foldl (fun z s => if s.known then Nat.max z s.cycle else z) 0 + ck.env.holdLead
      let ts := ck.tiles.map fun u => u.t
      let p : Pitch := { tiles := ts, img := { w := ck.env.w, h := ck.env.h, seamC := ck.env.seamC.head?.getD 0
                                               seamR := ck.env.seamR.head?.getD 0 } }
      let r := ck.tiles.foldl (fun (z : List CkTile × List Nat × List Nat) u =>
        let on (k : Nat) : CkTile := u.anchored ck.env a ck.env.holdLead k
        if u.ways ≤ 1 then (z.1 ++ [on 0], z.2.1, z.2.2)
        else (z.1 ++ [on (z.2.1.headD 0)], z.2.1.drop 1, z.2.2 ++ [u.ways])) ([], ck.path, ck.forks)
      let land (d at_ : Nat) : Nat := let t := ts.getD d {}; if t.tl ≤ at_ then at_ + (a - t.tl) else at_
      { ck with
        fails := ck.fails ++ f, timeUnk := ck.timeUnk || l.any fun s => !s.known
        links := ck.links.map (p.jumpLink a)
        flights := ck.flights.map fun q => (q.1, q.2.1, q.2.2.1, q.2.2.2.1, land q.2.2.2.1 q.2.2.2.2)
        tiles := r.1, path := r.2.1, forks := r.2.2 }

/-- Nothing further can happen in a tile. -/
def CkTile.hasEnded (u : CkTile) : Bool :=
  match u.t.mode with
  | .frozen => true
  | .run =>
    let done (e : Engine) : Bool := (u.t.engOf e).ended || (u.t.engOf e).halted
    u.t.pend.isEmpty && done .C && done .V && done .M && done .N
  | _ => false

/-- ONE WALL CYCLE of the checked pitch. -/
def Ck.cycle (ck : Ck) : Ck :=
  let r : List (CkTile × Fails) := ck.tiles.mapIdx fun k u => ckTileCycle ck k u
  let c1 := { ck with
    tiles := r.map Prod.fst
    fails := ck.fails ++ r.flatMap Prod.snd
    links := ck.links.filter fun l => ck.tiles.any fun u => decide (u.t.tl ≤ l.p) }
  let c2 := c1.absorb
  ({ c2 with wall := ck.wall + 1 }).meet

/-- Nothing further can happen in the pitch. -/
def Ck.over (c : Ck) : Bool := c.tiles.all CkTile.hasEnded

/-- 2^n cycles of the timeline, or fewer where nothing further happens. -/
def Ck.doubling : Nat → Ck → Ck
  | 0, c => if c.over then c else c.cycle
  | n + 1, c =>
    let d := Ck.doubling n c
    if d.over then d else Ck.doubling n d

/-- The timeline of the pitch: spans of 2^k, 2^(k + 1), ... cycles until nothing further happens. -/
def Ck.run : Nat → Nat → Ck → Ck
  | 0, _, c => c
  | n + 1, k, c => if c.over then c else Ck.run n (k + 1) (Ck.doubling k c)

/-- How many spans are followed: more cycles than a checked pitch has states, so that a timeline that has not ended by then
repeats itself (notes/assumptions/86.md). -/
def ckFuel : Nat := 2 ^ 40

/-! ## Checks over the whole timeline -/

/-- Cycles of a sequence that some tile lacks, with the tiles that have them (R339, R341). -/
def unequal (code : Nat) (l : List (List (Nat × Nat))) : Fails :=
  (List.range l.length).flatMap fun k => (l.getD k []).filterMap fun q =>
    if l.all fun m => m.any fun r => r.1 == q.1 then none else some (failAt code k .C q.2 q.1)

/-- Gaps of .safe_gap (R341). -/
def gapFails (n k : Nat) : Nat → List (Nat × Nat) → Fails
  | _, [] => []
  | last, (c, off) :: rest => (if n < c - last then [failAt 0x0F k .C off c] else []) ++ gapFails n k c rest

/-- SAFE (R341); an image without .safe_gap passes. -/
def Ck.safeFails (ck : Ck) (gap : Nat) : Fails :=
  let issue (f : Nat × Nat × Nat × Nat × Nat) : Nat :=
    ck.flights.foldl (fun z g => if g.1 == f.1 && g.2.1 == f.2.1 then Nat.min z g.2.2.1 else z) f.2.2.1
  let open' (c : Nat) : Bool := ck.flights.any fun f => decide (issue f ≤ c) && decide (c < f.2.2.2.2)
  if gap == 0 then []
  else unequal 0x0F (ck.tiles.map fun u => u.safes) ++
    (List.range ck.tiles.length).flatMap fun k =>
      let s := (ck.tiles.getD k {}).safes
      (s.filter fun q => open' q.1).map (fun q => failAt 0x0F k .C q.2 q.1) ++ gapFails gap k 0 s

/-- STRICT (R343). -/
def Ck.strictFails (ck : Ck) : Fails :=
  if !ck.strict then []
  else (List.range ck.tiles.length).flatMap fun k =>
    let u := ck.tiles.getD k {}
    (u.regions ++ u.rdvtUnk ++ u.clearAt.drop 2047).map fun q => failAt 0x10 k .C q.2 q.1

/-- X deltas on streams that static engines access (R335). -/
def Ck.deltaFails (ck : Ck) : Fails :=
  (List.range ck.tiles.length).flatMap fun k =>
    let u := ck.tiles.getD k {}
    (u.xDelta.filter fun q => u.used.contains q.1).map fun q => failAt 0x09 k .C q.2.2 q.2.1

/-- The order of failures (R328): code, local cycle, tile, engine. -/
def failKey (q : Nat × CheckFail) : Nat := ((q.2.code * 2 ^ 64 + q.2.cycle) * 4096 + q.1) * 8 + q.2.eng.idx

/-- The failures of one timeline that has ended, from CLOSURE to STRICT. -/
def Ck.allFails (c : Ck) (gap : Nat) : Fails :=
  c.fails ++ c.deltaFails ++ unequal 0x0E (c.tiles.map fun u => u.rdvt) ++ c.safeFails gap ++ c.strictFails

/-- Paths that branch off a timeline behind a path's own choices: another choice at one region that may end at several RDV.P
groups, and the first group at every later one. -/
def Ck.branches (c : Ck) (p : List Nat) : List (List Nat) :=
  (List.range c.forks.length).flatMap fun j =>
    if j < p.length then []
    else (List.range (c.forks.getD j 1 - 1)).map fun k => p ++ List.replicate (j - p.length) 0 ++ [k + 1]

/-- Every timeline of an image (R339): that of each path of a list, and of those that branch off them. -/
def Ck.explore (c : Ck) (gap : Nat) : Nat → List (List Nat) → Fails × Bool × Bool
  | 0, _ => ([], true, true)
  | _, [] => ([], true, true)
  | n + 1, p :: rest =>
    let d := Ck.run ckFuel 0 { c with path := p }
    let r := Ck.explore c gap n (rest ++ d.branches p)
    (d.allFails gap ++ r.1, d.quietC && r.2.1, d.quietR && r.2.2)

/-- THE LOAD CHECKER, from CLOSURE to STRICT (R326 to R343). -/
def Image.check (i : Image) (strict : Bool) (args : List Word) : Checked :=
  let r := (Ck.init i strict args).explore i.safeGap ckFuel [[]]
  { fail := (sortOn failKey r.1).head?.map fun q => q.2, quietC := r.2.1, quietR := r.2.2 }

end Sys2Proof.Machine
end

