-- ==== Sys2Proof/Machine/Hamper.lean ====
section
/-! DEFINITION. The byte layout of a hamper (R388 to R391, R447): pitch header, tile records and their sections, as
plaintext and as the device writes it into the hamper space. -/

namespace Sys2Proof.Machine

/-- Zero bytes. -/
def zeroBytes (n : Nat) : List Byte := List.replicate n 0

/-- A list brought to `n` bytes. -/
def fit (n : Nat) (l : List Byte) : List Byte := l.take n ++ zeroBytes (n - l.length)

/-- A bitmap of flags, eight to a byte, the first in bit 0. -/
def bitmap (n : Nat) (f : Nat → Bool) : List Byte :=
  (List.range (n / 8)).map fun i => BitVec.ofNat 8 ((List.range 8).foldl (fun z k => z + b2n (f (8 * i + k)) * 2 ^ k) 0)

/-- Words of 8 bytes. -/
def bytes64 (l : List Word) : List Byte := l.flatMap fun w => leBytes 8 w.toNat

/-- A bit string packed little-endian (R390). -/
def packBits (w : Nat) (l : List Nat) : List Byte :=
  leBytes ((l.length * w + 7) / 8) (l.foldr (fun v z => z * 2 ^ w + v % 2 ^ w) 0)

/-- REGS (R389). -/
def hamperRegs (t : Tile) : List Byte :=
  bytes64 ((List.range 32).map fun r => t.reg .C r) ++ bytes64 ((List.range 16).map fun r => t.reg .X r) ++
    bytes64 ((List.range 16).flatMap fun s => (List.range 6).map fun k => (t.streamOf s).word k) ++
    bytes64 ((List.range 8).map fun r => t.maskVal r) ++
    bytes64 ((List.range 16).map fun r => if t.descCur r then (t.descOf r).toWord (at' 1 t.epoch r) else 0)

/-- SYNC (R389). -/
def hamperSync (t : Tile) : List Byte :=
  bytes64 ((List.range 64).flatMap fun k => [(at' {} t.sem k).word 0, (at' {} t.sem k).word 1]) ++
    bytes64 ((List.range 16).flatMap fun k => [(at' {} t.ring k).word 0, (at' {} t.ring k).word 1])

/-- The register tag bitmap, in REGS order (R390). -/
def regTags (t : Tile) : List Byte :=
  bitmap 88 fun k =>
    if k < 32 then !t.regStale .C k
    else if k < 48 then !t.regStale .X (k - 32)
    else if k < 64 then !t.streamStale (k - 48)
    else if k < 72 then !t.maskStale (k - 64)
    else t.descCur (k - 72)

/-- The ten token counts in the order of R390: C→X, X→C, X→V, V→X, V→M, M→V, M→N, N→M, N→C, C→N. -/
def tokenBytes (t : Tile) : List Byte :=
  [Engine.C, .X, .V, .M, .N].flatMap fun e =>
    [BitVec.ofNat 8 (at' 0 t.tok (tokIdx e.next true)), BitVec.ofNat 8 (at' 0 t.tok (tokIdx e false))]

/-- CONTROL (R390). -/
def hamperControl (t : Tile) : List Byte :=
  let four (f : EngState → Nat) : List Byte := [Engine.C, .V, .M, .N].flatMap fun e => leBytes 4 (f (t.engOf e))
  let head := leBytes 8 t.tl ++ leBytes 8 (t.vflags + t.mflags * 256 + b2n t.staleTrap * 65536) ++
    (Engine.all.flatMap fun e => leBytes 4 (t.engOf e).pc) ++ four (fun e => e.idle)
  let loops := Engine.all.flatMap fun e => (List.range 4).flatMap fun l =>
    let v := at' {} (t.engOf e).loops l
    leBytes 2 v.start ++ leBytes 2 v.stop ++ leBytes 4 v.left ++ [BitVec.ofNat 8 (b2n v.active), BitVec.ofNat 8 v.order, 0, 0]
  let deltas := Engine.all.flatMap fun e => (List.range 64).map fun k => ofSigned 21 (at' 0 (t.engOf e).delta k)
  fit 0x34 head ++ fit 12 (tokenBytes t) ++ fit 16 (regTags t) ++
    ((List.range 10).flatMap fun k => leBytes 8 (meterRead t k)) ++ fit 240 loops ++ fit 880 (packBits 21 deltas)

/-- Encoded words of an instruction as bytes. -/
def instrBytes (i : Instr) : List Byte := (encode i).flatMap fun w => leBytes 4 w

/-- XQ (R389): up to 24 words of X that have not issued. -/
def hamperXq (env : Env) (t : Tile) : List Byte :=
  if (t.engOf .X).ended then []
  else (((env.codeOf .X).words.drop (t.engOf .X).pc).take 24).flatMap fun w => leBytes 4 w

/-- A COPYQ entry (R391). -/
def copyqEntry (c : CopyRec) : List Byte :=
  let desc (sd : Side) : List Byte := match sd with
    | .region d _ _ => fit 64 d.toBytes
    | .spm _ _ => []
    | .pattern _ => []
  let list (sd : Side) : List Byte := match sd with
    | .region _ idx _ =>
      let b := idx.flatMap fun v => leBytes 4 (ofSigned 32 v)
      fit ((b.length + 63) / 64 * 64) b
    | .spm _ _ => []
    | .pattern _ => []
  fit 16 (instrBytes c.instr) ++ leBytes 8 (c.next / c.z) ++ leBytes 8 c.opD.toNat ++ leBytes 8 c.opS.toNat ++
    zeroBytes 24 ++ fit 64 (desc c.src ++ desc c.dst) ++ (desc c.src ++ desc c.dst).drop 64 ++ list c.src ++ list c.dst

/-- Words on their way to a tile, with their arrival cycles, earliest first (R43, R391). -/
def drained (t : Tile) : List (Nat × PlaneWord) :=
  sortOn (fun (q : Nat × PlaneWord) => q.1) (t.pend.filterMap fun p => match p.eff with
    | .land w => some (p.at_, w)
    | _ => none)

/-- A DRAIN entry (R391). -/
def drainEntry (t : Tile) (q : Nat × PlaneWord) : List Byte :=
  let head (kind at_ : Nat) : List Byte :=
    [BitVec.ofNat 8 kind, BitVec.ofNat 8 t.x, BitVec.ofNat 8 t.y, 0] ++ leBytes 4 at_ ++ leBytes 8 q.1
  match q.2 with
  | .granule off data => head 0 off ++ fit 64 (data.map fun v => BitVec.ofNat 8 v)
  | .line dst w _ codes => head 1 dst ++ fit 128 (packBits w codes)

/-- The data and byte-enable mask of masked bytes within a block that starts at `base`. -/
def maskedBytes (n base : Nat) (bs : List MByte) : List Byte × Nat :=
  bs.foldl (fun (r : List Byte × Nat) b =>
    if decide (base ≤ b.addr) && decide (b.addr < base + n) then
      (r.1.set (b.addr - base) (BitVec.ofNat 8 b.val), r.2 ||| 2 ^ (b.addr - base))
    else r) (zeroBytes n, 0)

/-- A PENDING entry (R447). -/
structure PendEntry where
  kind : Nat
  eng : Engine
  index : Nat := 0
  cycle : Nat
  data : List Byte
  mask : Nat := 0
  deriving DecidableEq, Repr

/-- The bytes of an entry: its head of 32 B, and the data filled up to a multiple of 32 (R447). -/
def PendEntry.bytes (e : PendEntry) : List Byte :=
  [BitVec.ofNat 8 e.kind, BitVec.ofNat 8 e.eng.idx] ++ leBytes 2 e.index ++ leBytes 4 e.data.length ++ leBytes 8 e.cycle ++
    leBytes 16 e.mask ++ fit ((e.data.length + 31) / 32 * 32) e.data

/-- The order of entries (R447): CYCLE, engine, KIND, INDEX. -/
def PendEntry.key (e : PendEntry) : Nat := ((e.cycle * 8 + e.eng.idx) * 8 + e.kind) * 65536 + e.index

/-- The tile with the scratchpad as the pending writes before a local cycle leave it: what an access in that cycle reads. -/
def Tile.spmAhead (t : Tile) (cycle : Nat) : Tile :=
  (sortOn (fun (p : Pend) => p.at_) (t.pend.filter fun p => decide (p.at_ < cycle))).foldl (fun z p =>
    match p.eff with
    | .spm bytes => z.spmWrite bytes
    | .access (.st _ _ _ sz _) a v => z.spmWrite (storeBytes a sz v)
    | _ => z) t

/-- What an instruction with reads still to make has read at its issue and since (R447). -/
def Cap.bytes (cap : Cap) (row : Nat) : List Byte :=
  leBytes 8 (cap.d.toWord 0).toNat ++ leBytes 8 (cap.a.toWord 0).toNat ++ leBytes 8 (cap.b.toWord 0).toNat ++
    (cap.offs.flatMap fun o => leBytes 4 o) ++ leBytes 8 cap.mask.toNat ++ leBytes 8 cap.sel.toNat ++
    leBytes 8 cap.g.toNat ++ (cap.rows.flatMap fun l => l.flatMap fun v => leBytes 4 v) ++ leBytes 4 cap.flags ++ leBytes 4 row

/-- What a pending effect stands as in PENDING (R447). -/
def pendingOf (t : Tile) (p : Pend) : List PendEntry :=
  let one (kind index cycle : Nat) (data : List Byte) (mask : Nat) : PendEntry :=
    { kind := kind, eng := p.own.eng, index := index, cycle := cycle, data := data, mask := mask }
  let blocks (kind n : Nat) (bs : List MByte) : List PendEntry :=
    (itemsOf n bs).map fun k => let m := maskedBytes n (k * n) bs; one kind k p.at_ m.1 m.2
  match p.eff with
  | .g r v _ => [one 0 r p.at_ (leBytes 8 v.toNat) 255]
  | .mask r v => [one 1 r p.at_ (leBytes 8 v.toNat) 255]
  | .grid d row _ bytes => let m := maskedBytes 128 0 bytes; [one 2 (64 * d + row) p.at_ m.1 m.2]
  | .spm bytes => blocks 3 64 bytes
  | .side bytes => blocks 4 64 bytes
  | .access (.st _ _ _ sz _) a v => blocks 3 64 (storeBytes a sz v)
  | .access (.ld _ gd _ sz sx _) a _ =>
    [one 0 gd (p.iss + 8) (leBytes 8 (ldValue ((t.spmAhead p.at_).spmBytes a (2 ^ sz)) sz sx).toNat) 255]
  | .vflags f => [one 5 0 p.at_ (leBytes 1 f) 0]
  | .mflags f => [one 6 0 p.at_ (leBytes 1 f) 0]
  | .job i cap r => [one 7 0 p.iss (instrBytes i ++ cap.bytes r) 0]
  | _ => []

/-- PENDING (R447): in ascending CYCLE, engine, KIND and INDEX. -/
def pendingEntries (t : Tile) : List (List Byte) :=
  (sortOn PendEntry.key (t.pend.flatMap fun p => if p.own.eng == .X then [] else pendingOf t p)).map PendEntry.bytes

/-- The payload of a tile record (R389). -/
def tilePayload (env : Env) (cs : List CopyRec) (t : Tile) : List Byte :=
  let grans := (List.range 12288).filter fun k => t.spmCur k
  let sides := (List.range 64).filter fun k => t.sideCur (64 * k)
  let rows := (List.range 1024).filter fun k => t.descCur (k / 64) && t.rowCur (k / 64) (k % 64)
  bitmap 12288 (fun k => t.spmCur k) ++ (grans.flatMap fun k => t.spmBytes (64 * k) 64) ++
    (sides.flatMap fun k => (List.range 64).map fun i => BitVec.ofNat 8 (t.sideByte (64 * k + i))) ++
    (rows.flatMap fun k => (List.range 128).map fun i => BitVec.ofNat 8 (t.gridByte (k / 64) (k % 64) i)) ++
    hamperRegs t ++ hamperSync t ++ hamperControl t ++ hamperXq env t ++ cs.flatMap copyqEntry ++
    ((drained t).flatMap (drainEntry t)) ++ (pendingEntries t).flatten

/-- The first 240 bytes of a tile record's header (R389). -/
def tileHeader (env : Env) (cs : List CopyRec) (t : Tile) : List Byte :=
  let grans := ((List.range 12288).filter fun k => t.spmCur k).length
  let sides := ((List.range 64).filter fun k => t.sideCur (64 * k)).length
  fit 240 ([BitVec.ofNat 8 t.x, BitVec.ofNat 8 t.y, BitVec.ofNat 8 t.cls, 0] ++
    leBytes 4 (256 + (tilePayload env cs t).length) ++ leBytes 2 grans ++
    [BitVec.ofNat 8 sides, BitVec.ofNat 8 ((hamperXq env t).length / 4), BitVec.ofNat 8 cs.length, 0] ++
    leBytes 2 (drained t).length ++ bitmap 64 (fun k => t.sideCur (64 * k)) ++ leBytes 4 (pendingEntries t).length ++
    zeroBytes 20 ++ bitmap 1024 fun k => t.descCur (k / 64) && t.rowCur (k / 64) (k % 64))

/-- Copies of a tile of a pitch that wait in its copy queue (R43). -/
def State.queued (s : State) (pid k : Nat) : List CopyRec :=
  s.copies.filter fun c => c.pitch == pid && c.tile == k && decide (c.next < c.total) && !c.slow && c.left.isEmpty

/-- Tile records of a pitch: header before the tag, and payload. -/
def State.hamperTiles (s : State) (p : Pitch) : List (List Byte × List Byte) :=
  (List.range p.tiles.length).map fun k =>
    let t := p.tiles.getD k {}
    let env := s.envOf p k
    (tileHeader env (s.queued p.id k) t, tilePayload env (s.queued p.id k) t)

/-- The first 112 bytes of the pitch header (R388). -/
def pitchHeader (p : Pitch) (tauF serial kind total : Nat) : List Byte :=
  fit 0x70 (leBytes 4 0x504D4148 ++ leBytes 2 1 ++ [BitVec.ofNat 8 p.img.w, BitVec.ofNat 8 p.img.h] ++ leBytes 8 tauF ++
    leBytes 8 serial ++ [BitVec.ofNat 8 p.orient, BitVec.ofNat 8 kind, 0, 0] ++ leBytes 4 (p.img.w * p.img.h) ++
    fit 32 p.img.digest ++ leBytes 2 p.img.dir ++ zeroBytes 6 ++ leBytes 8 total)

/-- Bytes of a hamper. -/
def State.hamperSize (s : State) (p : Pitch) : Nat :=
  128 + (s.hamperTiles p).foldl (fun z q => z + 256 + q.2.length) 0

/-- The IV of a record (R388): SERIAL, then the tile index; the pitch header has the index 0xFFFF_FFFF. -/
def hamperIv (serial index : Nat) : List Byte := leBytes 8 serial ++ leBytes 4 index

/-- The index of a record's IV by its place in the hamper: the pitch header is first (R388). -/
def recordIndex (k : Nat) : Nat := if k == 0 then 0xFFFFFFFF else k - 1

/-- The records of a hamper (R388): header bytes before the tag, and payload; the pitch header is first. -/
def State.hamperRecords (s : State) (l : Launch) (p : Pitch) : List (List Byte × List Byte) :=
  (pitchHeader p p.origin.tl l.serial l.kind (s.hamperSize p), []) :: s.hamperTiles p

/-- A record as it is written (R388): the header in the clear, the tag over header and ciphertext, the ciphertext. -/
def cipherRecord (key serial k : Nat) (q : List Byte × List Byte) : List Byte :=
  let iv := hamperIv serial (recordIndex k)
  let c := gcmText (Config.sliceKey key) iv q.2
  q.1 ++ gcmTag (Config.sliceKey key) iv q.1 c ++ c

/-- The same record with its payload in the clear. -/
def plainRecord (key serial k : Nat) (q : List Byte × List Byte) : List Byte :=
  (cipherRecord key serial k q).take (q.1.length + 16) ++ q.2

/-- The plaintext of a hamper (R397). -/
def State.hamperPlain (s : State) (l : Launch) (p : Pitch) : List Byte :=
  let key := match s.slice? l.slice with
    | some sl => sl.key
    | none => 0
  ((s.hamperRecords l p).mapIdx fun k q => plainRecord key l.serial k q).flatten

/-- What the device writes into the hamper space (R388): the pitch header, then each tile's record. -/
def State.hamperCipher (s : State) (sl : Slice) (l : Launch) (p : Pitch) : List (List Byte) :=
  (s.hamperRecords l p).mapIdx fun k q => cipherRecord sl.key l.serial k q

/-- A record that is read back authenticates (R388): its tag is that of the header and ciphertext read; `n` are the header
bytes before the tag. -/
def recordOpens (key serial k n : Nat) (b : List Byte) : Bool :=
  gcmTag (Config.sliceKey key) (hamperIv serial (recordIndex k)) (b.take n) (b.drop (n + 16)) == (b.drop n).take 16

/-- HAMPER_VA of a launch (R381). -/
def Launch.hamperVa (l : Launch) : Nat := fld (at' 0 l.desc 3) 0 52

/-- Move a hamper into the launch's hamper space (R387). -/
def State.storeHamper (s : State) (l : Launch) (p : Pitch) : State :=
  match s.slice? l.slice with
  | none => s
  | some sl => s.writeVa sl l.hamperVa (s.hamperCipher sl l p).flatten

/-- The first tile of a hamper in its hamper space whose tag fails at restore (R388); a header that fails counts as
tile 0. -/
def State.hamperBad (s : State) (l : Launch) (p : Pitch) : Option Nat :=
  match s.slice? l.slice with
  | none => none
  | some sl =>
    let parts := s.hamperRecords l p
    let r := parts.foldl (fun (z : Nat × List Bool) q =>
      let n := q.1.length + 16 + q.2.length
      (z.1 + n, z.2 ++ [(s.readVa sl z.1 n).any (recordOpens sl.key l.serial z.2.length q.1.length)])) (l.hamperVa, [])
    (r.2.findIdx? fun ok => !ok).map fun k => k - 1

end Sys2Proof.Machine
end

