-- ==== Sys2Proof/Machine/Place.lean ====
section
/-! DEFINITION. Where a pitch runs (R346 to R348, R361), and its tiles at a launch placement and at a resume (R45, R93). -/

namespace Sys2Proof.Machine

/-- A placement: an origin and an orientation. -/
structure Place where
  ox : Nat
  oy : Nat
  o : Nat
  deriving DecidableEq, Repr

/-- Physical indices of an image's tiles in a placement, where they lie in the package. -/
def Image.footprint (i : Image) (q : Place) : List (Option Nat) :=
  (List.range (i.w * i.h)).map fun k =>
    let m := orientMap q.o (((k % i.w : Nat) : Int)) (((k / i.w : Nat) : Int))
    physIdx ((q.ox : Int) + m.1) ((q.oy : Int) + m.2)

/-- Die boundaries that a footprint spans, each with whether a column or a row seam takes it. -/
def Image.spans (i : Image) (fp : List Nat) : List (Nat × Bool) :=
  let at_ (x y : Nat) : Nat := fp.getD (y * i.w + x) 0
  let pair (a b : Nat) (col : Bool) : List (Nat × Bool) := if dieOf a == dieOf b then [] else [(boundaryOf a b, col)]
  (List.range (i.w * i.h)).flatMap fun k =>
    let x := k % i.w
    let y := k / i.w
    (if x + 1 < i.w then pair (at_ x y) (at_ (x + 1) y) true else []) ++
      if y + 1 < i.h then pair (at_ x y) (at_ x (y + 1)) false else []

/-- Declared seams fall on die boundaries, and no other boundary lies inside (R346). -/
def Image.seamsFit (i : Image) (fp : List Nat) : Bool :=
  let at_ (x y : Nat) : Nat := dieOf (fp.getD (y * i.w + x) 0)
  (List.range (i.w - 1)).all (fun x => (at_ x 0 != at_ (x + 1) 0) == (i.seamC == x + 1)) &&
    (List.range (i.h - 1)).all fun y => (at_ 0 y != at_ 0 (y + 1)) == (i.seamR == y + 1)

/-- Bytes of a class's five streams; translated code fits in a tile (R359; notes/assumptions/41.md). -/
def Image.codeBytes (i : Image) (cls : Nat) : Nat :=
  let n := 4 * (i.code.getD cls []).foldl (fun z c => z + c.words.length) 0
  if i.block then Nat.min n 98304 else n

/-- Squares that a placement of the slice may use. -/
def Slice.usable (sl : Slice) (q : Nat) : Bool := bit sl.squares q && !bit sl.leaving q

/-- A placement of an image is valid (R346, R347, R361): `busy` are tiles of other placed pitches, `pinned` gives the
bytes that other launches' pinned code takes in a tile. A boundary with a lane under repair takes no pitch before the repair is
done (R410; notes/assumptions/122.md). -/
def State.placeOk (s : State) (sl : Slice) (i : Image) (busy : List Nat) (pinned : Nat → Nat) (q : Place) : Bool :=
  let fp := i.footprint q
  let ks := fp.map fun k => k.getD 0
  let good (b : Nat × Bool) : Bool :=
    !(s.dev.repairing.any fun r => r.1 == b.1) && match at' 0 s.dev.seams b.1 with
    | 0 => true
    | 1 => true
    | 2 => if b.2 then i.quietC else i.quietR
    | _ => false
  (fp.all fun k => k.isSome) && (ks.all fun k => sl.usable (squareOf k) && !s.dev.holes.contains k && !busy.contains k) &&
    i.seamsFit ks && ((i.spans ks).all good) &&
    (List.range ks.length).all fun k => decide (i.codeBytes (i.classOf.getD k 0) + pinned (ks.getD k 0) ≤ 98304)

/-- Order of placements (R348): squares touched, orientation, lowest row, leftmost column. -/
def Image.placeKey (i : Image) (q : Place) : Nat :=
  let ks := (i.footprint q).map fun k => k.getD 0
  let sq := ((List.range 36).filter fun n => ks.any fun k => squareOf k == n).length
  let py := ks.foldl (fun z k => Nat.min z (k / 48)) 48
  let px := ks.foldl (fun z k => Nat.min z (k % 48)) 48
  ((sq * 8 + q.o) * 64 + py) * 64 + px

/-- Bytes pinned in a tile by launches other than `l` (R361). -/
def State.pinnedBytes (s : State) (l k : Nat) : Nat :=
  (s.pins.filter fun p => p.1 == k && p.2.1 != l).foldl (fun z p => z + p.2.2) 0

/-- Orientations that a launch and its image allow (R355, R381). -/
def Launch.omask (l : Launch) : Nat :=
  match l.img with
  | some i => i.omask &&& fld (at' 0 l.desc 0) 24 8
  | none => 0

/-- The placement that the pitch manager takes (R348). -/
def State.findPlace (s : State) (sl : Slice) (l : Launch) (busy : List Nat) (pinned : Nat → Nat) : Option Place :=
  match l.img with
  | none => none
  | some i =>
    let all := (List.range 8).flatMap fun o =>
      if bit l.omask o then
        (List.range 2304).filterMap fun k =>
          let q : Place := { ox := k % 48, oy := k / 48, o := o }
          if s.placeOk sl i busy pinned q then some q else none
      else []
    all.foldl (fun (z : Option Place) q => match z with
      | none => some q
      | some r => if i.placeKey q < i.placeKey r then some q else some r) none

/-- Tiles of the placed pitches of a slice that a test keeps. -/
def State.occupied (s : State) (slice : Nat) (keep : Pitch → Bool) : List Nat :=
  (s.pitches.filter fun p => p.slice == slice && keep p).flatMap fun p => p.physAll

/-- Tiles that a moved launch leaves to the launches it was moved for (R386). -/
def State.reservedFor (s : State) (l : Launch) : List Nat :=
  if l.moved then
    (s.launches.filter fun m => m.slice == l.slice && m.id != l.id && m.ready && !m.placed && !m.done).flatMap fun m => m.area
  else []

/-- The valid placement on free tiles, with what must be evicted for it: none, or all pinned code (R361). -/
def State.freePlace (s : State) (sl : Slice) (l : Launch) : Option Place :=
  let busy := s.occupied sl.id (fun _ => true) ++ s.reservedFor l
  match s.findPlace sl l busy (s.pinnedBytes l.id) with
  | some q => some q
  | none => s.findPlace sl l busy fun _ => 0

/-- Evict pinned code of frozen pitches from the tiles of a placement, of the pitch that ran least recently first, until
the placement is valid (R361). -/
def State.evict (s : State) (sl : Slice) (l : Launch) (q : Place) : State :=
  match l.img with
  | none => s
  | some i =>
    let busy := s.occupied sl.id fun _ => true
    let ks := (i.footprint q).map fun k => k.getD 0
    let when' (n : Nat) : Nat := match s.launch? n with
      | some m => m.since
      | none => 0
    let owners := (s.pins.filter fun p => ks.contains p.1 && p.2.1 != l.id).map fun p => p.2.1
    (sortOn when' owners).foldl (fun (z : State) n =>
      if z.placeOk sl i busy (z.pinnedBytes l.id) q then z
      else { z with pins := z.pins.filter fun p => !(p.2.1 == n && ks.contains p.1) }) s

/-- Pinned code in tiles that are hard-cleared or leave their slice is dropped (R361). -/
def State.dropPins (s : State) (ks : List Nat) : State := { s with pins := s.pins.filter fun q => !ks.contains q.1 }

/-- Pinned code of a launch is dropped (R361). -/
def State.unpin (s : State) (l : Nat) : State := { s with pins := s.pins.filter fun q => q.2.1 != l }

/-- EPOCH after an increment (R93, R95). -/
def nextEpoch (e : Nat) : Nat := if 4095 ≤ e then 1 else e + 1

/-- G of a placement, before any wrap (R93). -/
def State.nextGen (s : State) (ks : List Nat) : Nat := 1 + ks.foldl (fun z k => Nat.max z (s.physOf k).maxGen) 0

/-- The largest generation that a placement may take (R93). -/
def genLimit (strict : Bool) : Nat := if strict then 2048 else 4095

/-- A launch is strict (R31, R381). -/
def Launch.strict (l : Launch) : Bool :=
  bit (at' 0 l.desc 0) 15 || match l.img with
    | some i => i.strict
    | none => false

/-- Argument words of a launch, read at its placement (R382). -/
def State.argWords (s : State) (l : Launch) : List Word :=
  let n := fld (at' 0 l.desc 4) 16 6
  match s.slice? l.slice with
  | none => []
  | some sl =>
    let h := fld (at' 0 l.desc 4) 0 16
    let e := tensorOf sl.tensors h
    (List.range n).map fun i =>
      if entLoc e == 2 then BitVec.ofNat 64 (leNat ((List.range 8).map fun k => Config.freeByte (s.fresh + 8 * i + k)))
      else if entWver e == 0 then 0
      else if entLoc e == 1 then BitVec.ofNat 64 (leNat (s.host.readAll (entBase e + 8 * i) 8))
      else if !sl.filled h 0 then 0
      else match sl.walk (entBase e + 8 * i) false with
        | none => 0
        | some lf =>
          let pa := lf.base + (entBase e + 8 * i) % lf.size
          let ln := readLine s.hbm (sl.lineOf pa) sl.key (tweakOf (entId e) (entWver e) (8 * i / 64))
          BitVec.ofNat 64 (leNat ((ln.drop (8 * i % 64)).take 8))

/-- Bytes of a record as full-mask writes. -/
def recordWrites (r : Nat × List Byte) : List MByte :=
  (List.range r.2.length).map fun i => { addr := r.1 + i, val := (r.2.getD i 0).toNat }

/-- Block code at a launch placement (R363, R369): its entry block, and the live slots with the launch's values. -/
def Image.firstBlock (i : Image) (cls : Nat) (args : List Word) : BlockRun :=
  { blk := (i.prog.getD cls (0, [])).1, live := Vector.ofFn fun k => args.getD k.val 0 }

/-- A tile at a launch placement (R93, R161, R369, R382). -/
def launchTile (img : Image) (g k lag : Nat) (ph : Phys) (args : List Word) : Tile :=
  let cls := img.classOf.getD k 0
  let t0 : Tile := { x := k % img.w, y := k / img.w, cls := cls, gen := g, pitchGen := g, maxGen := g,
                     staleTrap := img.stale, epoch := ph.epoch.map nextEpoch, mode := .pulse lag,
                     blk := if img.block then some (img.firstBlock cls args) else none }
  let recs := img.const ++ (img.data.filter fun d => d.1 == cls).map fun d => d.2
  let t1 := recs.foldl (fun (t : Tile) r => t.spmWrite (recordWrites r)) t0
  (List.range args.length).foldl (fun (t : Tile) i =>
    if i < 32 then t.setG i (args.getD i 0) else t.setX (i - 32) (args.getD i 0)) t1

/-- The tag of a live item under the new generation, or 0 (R93). -/
def reTag (old new tag : Nat) : Nat := if tag == old && old != 0 then new else 0

/-- A tile at a resume (R45, R93): every live item is written under a fresh G; what it restores is the hamper's. -/
def resumeTile (t : Tile) (g lag : Nat) (ph : Phys) : Tile :=
  let ep := ph.epoch.map nextEpoch
  let tab (l : Tab) : Tab := (l.filter fun q => q.2 == t.gen && t.gen != 0).map fun q => (q.1, g)
  let rows : Tab := (t.gridTag.filter fun q => t.descCur (q.1 / 64) && q.2 == at' 0 t.epoch (q.1 / 64)).map fun q =>
    (q.1, at' 1 ep (q.1 / 64))
  { t with
    spmTag := tab t.spmTag, sideTag := tab t.sideTag, gridTag := rows
    descTag := t.descTag.map (reTag t.gen g), epoch := ep
    g := t.g.map fun r => { r with tag := reTag t.gen g r.tag }
    xr := t.xr.map fun r => { r with tag := reTag t.gen g r.tag }
    m := t.m.map fun r => { r with tag := reTag t.gen g r.tag }
    s := t.s.map fun r => { r with tag := reTag t.gen g r.tag }
    gen := g, pitchGen := g, maxGen := g, live := false, looks := [], banksNow := [], cleared := false, reach := 0
    mode := (match t.mode with
      | .rdv tag c => .rpulse lag tag c
      | .rpulse _ tag c => .rpulse lag tag c
      | _ => .pulse lag)
    issued := false, worked := false, xs := { t.xs with tryAt := none } }

/-- Copies that the slow path has ended while the pitch was frozen leave X's lists (R92, R137). -/
def Tile.keepCopies (t : Tile) (f : Nat → Bool) : Tile := { t with xs := { t.xs with copies := t.xs.copies.filter f } }

/-- Lookaheads made at once for every wait that issues within F cycles (R26, R45), and the holds they ask for. A tile that
waits at an RDV.P issues nothing within them. -/
def State.firstLooks (s : State) (p : Pitch) : Pitch :=
  (p.mapTiles fun k t => if Pitch.waits t then t else lookSpan (s.envOf p k) t p.img.lead).gatherHolds

end Sys2Proof.Machine
end

