-- ==== Sys2Proof/Machine/Launch.lean ====
section
/-! DEFINITION. Launch chains, records, readiness, scheduling, placement, freeze and completion of pitches (R37, R41 to
R48, R93, R379 to R387, R432, R433). -/

namespace Sys2Proof.Machine

/-- A chain of a slice. -/
def Slice.chain (sl : Slice) (c : Nat) : Chain := at' {} sl.chains c

/-- Replace a chain. -/
def Slice.setChain (sl : Slice) (c : Nat) (v : Chain) : Slice := { sl with chains := sl.chains.setIfInBounds c v }

/-- The distance from `b` to `a` modulo 2^32. -/
def sub32 (a b : Nat) : Nat := (a + 2 ^ 32 - b % 2 ^ 32) % 2 ^ 32

/-- Ring bytes: host memory, or device virtual memory where LOC is set (R379). -/
def State.ringRead (s : State) (sl : Slice) (loc : Bool) (a n : Nat) : List Byte :=
  if loc then (s.readVa sl a n).getD (zeroBytes n) else s.host.readAll a n
def State.ringWrite (s : State) (sl : Slice) (loc : Bool) (a : Nat) (b : List Byte) : State :=
  if loc then s.writeVa sl a b else { s with host := s.host.writeAll a b }

/-- DONE advances past every index whose record is written (R383). -/
def passDone (l : List Nat) : Nat → Nat → Nat
  | 0, d => d
  | n + 1, d => if l.contains d then passDone l n ((d + 1) % 2 ^ 32) else d

/-- The record of an index is written (R383). -/
def Chain.recorded (c : Chain) (i : Nat) : Chain :=
  let l := i :: c.recs
  let d := passDone l (l.length + 1) c.done
  { c with done := d, recs := l.filter fun k => decide (sub32 k d < 2 ^ 31) }

/-- A field of a launch's descriptor. -/
def Launch.field (l : Launch) (word lo n : Nat) : Nat := fld (at' 0 l.desc word) lo n

/-- The eight words of a record (R383). -/
def Rec.bytes (r : Rec) (index tag : Nat) : List Byte :=
  leBytes 8 r.energy ++ leBytes 8 r.party1 ++ leBytes 8 r.party2 ++ leBytes 8 r.cycle ++ leBytes 8 r.data ++
    leBytes 8 (r.more * 2 ^ 32 + r.stale) ++ leBytes 8 (tag * 2 ^ 32 + r.status * 2 ^ 24 + r.code * 2 ^ 16 + r.check * 2 ^ 8) ++
    leBytes 8 ((index + 1) % 2 ^ 32 * 2 ^ 32)

/-- THE RECORD OF A LAUNCH (R383): written, signalled, and DONE advanced. While the slice may issue no request nothing is
written, and DONE does not pass the index (R375; notes/assumptions/104.md). -/
def State.writeRecord (s : State) (l : Launch) (r : Rec) : State :=
  match s.slice? l.slice with
  | none => s
  | some sl =>
    let c := sl.chain l.chain
    if !sl.active then s
    else
      let s1 := (s.ringWrite sl c.loc (c.recBase + 64 * (l.index % 2 ^ c.log2n)) (r.bytes l.index (l.field 0 32 32))).signal
        (l.slice + 1) 0
      s1.onSlice l.slice fun v => v.setChain l.chain ((v.chain l.chain).recorded l.index)

/-- A copy of a launch that stayed behind still writes a HOST tensor (R92, R141). -/
def State.hostWrites (s : State) (l : Launch) : Bool :=
  s.copies.any fun c => c.pitch == l.id && !c.left.isEmpty && CopyRec.locOf c.dst == some 1 && !c.done && !c.reqs.isEmpty ||
    (c.pitch == l.id && !c.left.isEmpty && CopyRec.locOf c.dst == some 1 && decide (c.next < c.total))

/-- A launch ends with a record, which is written once its writes to HOST tensors have performed (R141, R383). -/
def State.endLaunch (s : State) (l : Launch) (r : Rec) : State :=
  let v := { l with done := true, ready := false, placed := false, wrapping := false }
  if s.hostWrites l then s.putLaunch { v with owed := some r } else (s.writeRecord l r).putLaunch v

/-- Records that waited for HOST writes are written (R383). -/
def State.payRecords (s : State) : State :=
  s.launches.foldl (fun (z : State) l =>
    match l.owed with
    | none => z
    | some r => if z.hostWrites l then z else (z.writeRecord l r).putLaunch { l with owed := none }) s

/-- The block and operation of a class whose group stands at a word offset of an engine's translated stream (R372). -/
def Image.opAt (i : Image) (cls : Nat) (e : Engine) (off : Nat) : Nat × Nat :=
  let bs := (i.prog.getD cls (0, [])).2
  let all := (List.range bs.length).flatMap fun b =>
    let ops := bs.getD b []
    (List.range ops.length).map fun j => ((b, j), (ops.getD j {}).groups)
  ((all.find? fun q => q.2.contains (e.idx, off)).map fun q => q.1).getD (0, 0)

/-- A party of a record (R372, R383). -/
def partyWord (i : Image) (k : Nat) (e : Engine) (off : Nat) : Nat :=
  let cls := i.classOf.getD k 0
  let base := k / i.w * 2 ^ 57 + k % i.w * 2 ^ 51 + e.idx * 2 ^ 48 + cls * 2 ^ 40
  if i.block then
    let b := i.opAt cls e off
    base + b.1 % 4096 * 2 ^ 28 + b.2 % 128 * 2 ^ 21
  else base + off % 2 ^ 15

/-- Sums over a pitch's tiles: STALE_ARRIVALS, and MTR_TOTAL in µJ (R383). -/
def Pitch.staleSum (p : Pitch) : Nat := p.tiles.foldl (fun z t => z + t.staleArrivals) 0
def Pitch.energyUj (p : Pitch) : Nat := p.tiles.foldl (fun z t => z + meterRead t 0) 0 * 10 ^ 6 / 2 ^ 40

/-- The word offset that a record gives a trap's party: that of its group, or of the first offending word where an operation of
block code is named (R372). A record of native code has no place for the first offending word of R169, which the trap keeps in
`TrapRec.word` (R383; DEDUCED, notes/assumptions/120.md). -/
def TrapRec.place (r : TrapRec) (i : Image) : Nat := if i.block then r.word else r.off

/-- The second party of a collision: the other group that registered it (R39, R383). A landing is its sender's group (R99). -/
def Pitch.secondParty (p : Pitch) (k : Nat) (r : TrapRec) : Nat :=
  let same (q : Nat × TrapRec) : Bool :=
    q.2.code == r.code && q != (k, r) &&
      if r.code == trapLink then q.2.tau + p.off (p.tiles.getD q.1 {}) == r.tau + p.off (p.tiles.getD k {})
      else q.1 == k && q.2.tau == r.tau
  if r.code == trapBank || r.code == trapStreamCollision || r.code == trapLink then
    match (sortOn (fun (q : Nat × TrapRec) => p.trapKey q.1 q.2) (p.allTraps.filter same)).head? with
    | some q => partyWord p.img (q.2.sender.getD q.1) q.2.eng (q.2.place p.img)
    | none => 0
  else 0

/-- The fault record of a pitch (R37, R39, R383). -/
def Pitch.faultRec (p : Pitch) : Rec :=
  match p.firstTrap with
  | none => { status := 1, stale := p.staleSum, energy := p.energyUj }
  | some (k, r) =>
    { status := 1, code := r.code, more := p.allTraps.length - 1, stale := p.staleSum, data := r.data, cycle := r.tau,
      party1 := partyWord p.img (r.sender.getD k) r.eng (r.place p.img), party2 := p.secondParty k r, energy := p.energyUj }

/-- Add to the till's table of a square and a pitch: E_dyn, and tile-cycles (R430, R431). -/
def addDyn (l : List (Nat × Nat × Nat × Nat)) (sq p e n : Nat) : List (Nat × Nat × Nat × Nat) :=
  if l.any fun q => q.1 == sq && q.2.1 == p then
    l.map fun q => if q.1 == sq && q.2.1 == p then (sq, p, q.2.2.1 + e, q.2.2.2 + n) else q
  else (sq, p, e, n) :: l

/-- THE CHARGES OF A PITCH REACH THE TILL (R427, R432). -/
def State.flush (s : State) (pid : Nat) : State :=
  match s.pitch? pid with
  | none => s
  | some p =>
    match s.slice? p.slice with
    | none => s
    | some sl =>
      let sum (m : Nat) : Nat := p.tiles.foldl (fun z t => z + at' 0 t.unsent m) 0
      let total := (List.range 7).foldl (fun z m => z + sum m) 0
      let energy := (List.range 7).foldl (fun (v : Vector Int 10) m => v.setIfInBounds m (at' 0 v m + sum m)) sl.energy
      let dyn := p.tiles.foldl (fun l t =>
        let e := (List.range 5).foldl (fun z m => z + at' 0 t.unsent m) 0
        if e == 0 then l else addDyn l (squareOf (p.physOf t.x t.y)) p.id e 0) sl.dyn
      let s1 := ((s.bill (sum 4 + sum 5 + sum 6)).putSlice ({ sl with energy := energy, dyn := dyn }.debit total)).putPitch
        (p.mapTiles fun _ t => { t with unsent := Vector.replicate 7 0 })
      s1.ifExhausted p.slice sl.exhausted

/-- Ticks of a slice's quantum. -/
def Slice.quantum (sl : Slice) : Nat := msTicks sl.quantumMs

/-- Effective priority of a ready launch (R385). -/
def Launch.effective (l : Launch) (sl : Slice) (tick : Nat) : Nat :=
  Nat.min 3 (l.field 0 16 2 + (if sl.quantum == 0 then 0 else (tick - l.since) / sl.quantum) / 8)

/-- Every sublist, the shorter ones first among those that share a beginning. -/
def sublistsOf {α : Type} : List α → List (List α)
  | [] => [[]]
  | a :: l => sublistsOf l ++ (sublistsOf l).map fun r => a :: r

/-- Place pitches one after another outside a list of tiles (R386). -/
def State.replaceAll (s : State) (sl : Slice) : List Launch → List Nat → Bool
  | [], _ => true
  | l :: ls, busy =>
    match l.img, s.findPlace sl l busy (s.pinnedBytes l.id) with
    | some i, some q => s.replaceAll sl ls (busy ++ (i.footprint q).map fun k => k.getD 0)
    | _, _ => false

/-- The pitches to move so that a launch may be placed, and the area that it will take (R386): the fewest of the slice's
running pitches that have not moved in this quantum. -/
def State.movers (s : State) (sl : Slice) (l : Launch) (may : List Pitch) : Option (List Pitch × List Nat) :=
  let sets := sortOn (fun (r : List Pitch) => r.length) ((sublistsOf (may.filter fun p => !p.moved)).filter fun r => !r.isEmpty)
  sets.findSome? fun r =>
    let busy := s.occupied sl.id fun p => !(r.any fun q => q.id == p.id)
    match l.img, s.findPlace sl l busy (s.pinnedBytes l.id) with
    | some i, some q =>
      let area := (i.footprint q).map fun k => k.getD 0
      if s.replaceAll sl (r.filterMap fun p => s.launch? p.launch) (busy ++ area) then some (r, area) else none
    | _, _ => none

/-- What the pitch manager does for one waiting launch (R385, R386): its next events, `true` when it places it, and the area
that pitches are moved out of for it. -/
def State.tryLaunch (s : State) (sl : Slice) (l : Launch) : List Slot × Bool × List Nat :=
  match s.freePlace sl l with
  | some _ => ([.ev (if l.hamper.isSome then .pitchResume l.id else .pitchPlacement l.id)], true, [])
  | none =>
    let e := l.effective sl s.tick
    let mine := s.pitches.filter fun p => p.slice == sl.id
    let free := mine.filter fun p => p.reqs.isEmpty
    let may := free.filter fun p => decide (p.prio < e) || (p.prio == e && p.fullQuantum)
    match if may.isEmpty then none else s.movers sl l free with
    | some (r, area) => (r.map fun p => .ev (.pitchMove p.launch), false, area)
    | none =>
      let goes (p : Pitch) : Bool := !p.reqs.isEmpty || may.any fun q => q.id == p.id
      let busy := s.occupied sl.id fun p => !goes p
      match l.img, s.findPlace sl l busy (s.pinnedBytes l.id) with
      | some i, some q =>
        let area := (i.footprint q).map fun k => k.getD 0
        ((may.filter fun p => p.physAll.any fun k => area.contains k).map fun p => .ev (.freezeRequestPost p.id .preempt), false, [])
      | _, _ => ([], false, [])

/-- THE SCHEDULER (R385): ready launches of a slice in their order; the first that has a placement is placed, and what
the others need is asked for. -/
def State.schedule (s : State) (slice : Nat) : State :=
  match s.slice? slice with
  | none => s
  | some sl =>
    if sl.exhausted || !sl.active then s
    else
      let key (l : Launch) : Nat :=
        (((3 - l.effective sl s.tick) * 2 ^ 80 + l.since) * 8 + l.chain) * 2 ^ 32 + l.index
      let ready := sortOn key (s.launches.filter fun l => l.slice == slice && l.ready && !l.placed && !l.done && !l.wrapping)
      let r := ready.foldl (fun (z : (List Slot × Bool) × List (Nat × List Nat)) l =>
        if z.1.2 then z
        else
          let q := s.tryLaunch sl l
          ((z.1.1 ++ q.1, q.2.1), if q.2.2.isEmpty then z.2 else z.2 ++ [(l.id, q.2.2)])) (([], false), [])
      let s1 := r.2.foldl (fun (z : State) q => z.onLaunch q.1 fun l => { l with area := q.2 }) s
      s1.later (r.1.1.filter fun q => !s.agenda.contains q)

/-- A physical tile after a placement used it (R93). -/
def State.keepPhys (s : State) (p : Pitch) : State :=
  (List.range p.tiles.length).foldl (fun (z : State) k =>
    let t := p.tiles.getD k {}
    let a := p.physOf t.x t.y
    z.putPhys a { z.physOf a with maxGen := t.maxGen, epoch := t.epoch }) s

/-- Hard clears of a footprint before a placement (R93, R96): tiles that have used a nonzero generation; pinned code
there is dropped (R361), and the house bears their energy (R431). -/
def State.clearTiles (s : State) (ks : List Nat) : State :=
  ks.foldl (fun (z : State) k =>
    if (z.physOf k).maxGen == 0 then z
    else { z.putPhys k { z.physOf k with maxGen := 0, epoch := Vector.replicate 16 1 } with
      pins := z.pins.filter fun q => q.1 != k, rc := { z.rc with clears := z.rc.clears + Config.clearEnergy z.dev.epoch k } }) s

/-- Copies that may still reach a list of tiles (R93). -/
def State.copiesTo (s : State) (ks : List Nat) : Bool :=
  s.copies.any fun c => (c.parts.any fun q => ks.contains q.phys) || c.left.any fun q => ks.contains q.2

/-- Where a placement or resume goes, with its tiles and its G, after evictions; none while it may not go (R93, R346). -/
def State.chosen (s : State) (l : Launch) : Option (Slice × Image × Place × List Nat) :=
  match s.slice? l.slice, l.img with
  | some sl, some i =>
    if !l.ready || l.placed || l.done || sl.exhausted || !sl.active then none
    else (s.freePlace sl l).map fun q => (sl, i, q, (i.footprint q).map fun k => k.getD 0)
  | _, _ => none

/-- A generation wrap at a placement waits for its hard clears, or has G (R93). -/
def State.wrapOr (s : State) (l : Launch) (ks : List Nat) (k : Nat → State) : State :=
  let g := s.nextGen ks
  if genLimit l.strict < g then s.putLaunch { l with wrapping := true } else k g

/-- A pitch of a launch at a place, without its tiles. -/
def newPitch (l : Launch) (i : Image) (q : Place) (g tick : Nat) : Pitch :=
  { id := l.id, slice := l.slice, launch := l.id, img := i, ox := q.ox, oy := q.oy, orient := q.o, strict := l.strict,
    gen := g, since := tick, prio := l.field 0 16 2, moved := l.moved }

/-- PITCH_PLACEMENT (R19, R20, R93, R161, R346): the launch's tiles are set up under one generation and the start pulse
leaves the origin. -/
def State.place (s : State) (l : Launch) : State :=
  match s.chosen l with
  | none => s
  | some (sl, i, q, ks) =>
    let s0 := s.evict sl l q
    s0.wrapOr l ks fun g =>
      let args := s0.argWords l
      let p0 := newPitch l i q g s.tick
      let tiles := (List.range (i.w * i.h)).map fun k =>
        launchTile i g k (p0.off { x := k % i.w, y := k / i.w }) (s0.physOf (ks.getD k 0)) args
      let p1 := { p0 with tiles := tiles }
      let s1 := { s0 with pitches := s0.pitches ++ [s0.firstLooks p1], fresh := s0.fresh + 8 * args.length }
      (s1.putLaunch { l with placed := true, wrapping := false, area := [] }).schedule l.slice

/-- The bytes of a launch's ZFO (R381). -/
def State.zfo (s : State) (sl : Slice) (l : Launch) : List Byte :=
  s.ringRead sl (l.field 0 14 1 == 0) (l.field 1 0 52) (l.field 2 0 32)

/-- A resume reads no code from the ZFO, since every tile still holds the pinned code, or the ZFO's DIGEST still holds
(R361, R382). -/
def State.reloadOk (s : State) (sl : Slice) (l : Launch) (i : Image) (ks : List Nat) : Bool :=
  (ks.all fun k => s.pins.any fun p => p.1 == k && p.2.1 == l.id) ||
    let f := s.zfo sl l
    (f.drop 32).take 32 == i.digest && sha256 ((f.drop 64).take (fld (w64 f 8) 0 48 - 64)) == i.digest

/-- Copies and messages of a launch that never moves again are dropped, but for copies on the slow path (R37, R92). -/
def State.dropQueue (s : State) (pid : Nat) : State :=
  { s with copies := s.copies.filter fun c => c.pitch != pid || !c.left.isEmpty, msgs := s.msgs.filter fun m => m.pitch != pid }

/-- PITCH_RESUME (R45, R93, R387, R388): a hamper is restored under a fresh generation and the pitch restarts at τ_f; a
hamper whose tag fails ends the launch with MEMORY_ERROR. -/
def State.resume (s : State) (l : Launch) : State :=
  match s.chosen l, l.hamper with
  | some (sl, i, q, ks), some h =>
    (match if l.coolBox then none else s.hamperBad l h with
    | some k =>
      (((s.unpin l.id).onSlice l.slice fun v => { v with faults := v.faults + 1 }).endLaunch { l with hamper := none }
        { status := 1, code := trapMemory, party1 := partyWord i k .C 0, stale := h.staleSum, energy := h.energyUj }).dropQueue l.id
    | none =>
      let s0 := if h.ox == q.ox && h.oy == q.oy && h.orient == q.o then s.evict sl l q else (s.evict sl l q).unpin l.id
      if !s0.reloadOk sl l i ks then
        ((s0.unpin l.id).endLaunch { l with hamper := none }
          { status := 2, code := 1, stale := h.staleSum, energy := h.energyUj }).dropQueue l.id
      else s0.wrapOr l ks fun g =>
        let p0 := newPitch l i q g s.tick
        let p1 := { p0 with
          cEnded := h.cEnded, links := h.links
          tiles := h.tiles.mapIdx fun k t => (resumeTile t g (p0.off t) (s0.physOf (ks.getD k 0))).keepCopies fun c =>
            (s0.copy? c).isSome }
        let cs := s0.copies.map fun c => if c.pitch == l.id && c.left.isEmpty then { c with pgen := g } else c
        let ms := s0.msgs.map fun m => if m.pitch == l.id then { m with pgen := g } else m
        let s1 := { s0 with pitches := s0.pitches ++ [s0.firstLooks p1], copies := cs, msgs := ms }
        (s1.putLaunch { l with placed := true, wrapping := false, hamper := none, area := [] }).schedule l.slice)
  | _, _ => s

/-- GENERATION_WRAP_CLEAR (R93): once no copy can reach the footprint, its tiles are hard-cleared and G becomes 1. -/
def State.wrapClear (s : State) (l : Launch) : State :=
  let l1 := { l with wrapping := false }
  match s.chosen l1 with
  | none => s.putLaunch l1
  | some (_, _, _, ks) =>
    if s.copiesTo ks then s
    else ((s.clearTiles ks).putLaunch l1).later [.ev (if l.hamper.isSome then .pitchResume l.id else .pitchPlacement l.id)]

/-- A POSTED FREEZE REQUEST (R42, R46, R47, R435): registered at once, or waiting for a SAFE point; a pitch that already
freezes takes no second request. -/
def Pitch.post (p : Pitch) (why : FreezeWhy) (grace tick : Nat) : Pitch :=
  if !p.reqs.isEmpty then { p with reqs := p.reqs ++ [why] }
  else
    let q := { p with reqs := [why], postedP := p.origin.tl, postedAt := tick }
    if p.img.safeGap != 0 && grace != 0 then q else { q with tauR := some p.origin.tl }

/-- R47: the grace window has expired before a SAFE was taken. -/
def Pitch.expire (p : Pitch) : Pitch :=
  if p.reqs.isEmpty || p.tauR.isSome || p.safeAt.isSome then p else { p with tauR := some p.origin.tl }

/-- Pinned code that stays with a frozen pitch (R361). -/
def State.pinCode (s : State) (sl : Slice) (p : Pitch) : State :=
  if !p.img.pin then s
  else (List.range p.tiles.length).foldl (fun (z : State) k =>
    let t := p.tiles.getD k {}
    let a := p.physOf t.x t.y
    let n := p.img.codeBytes t.cls
    if z.pinnedBytes p.launch a + n ≤ sl.pinKib * 1024 then
      { z with pins := (a, p.launch, n) :: z.pins.filter fun q => !(q.1 == a && q.2.1 == p.launch) }
    else z) s

/-- A copy of a pitch with requests that a freeze leaves to the slow path (R43, R92). -/
def Pitch.late (p : Pitch) (c : CopyRec) : Bool :=
  c.pitch == p.id && c.left.isEmpty && (!c.reqs.isEmpty || !c.parts.isEmpty || (c.slow && decide (c.next < c.total)))

/-- A message stays on its way through a freeze: the block of its tile has not committed what the message may not see yet (R370,
R372). -/
def Pitch.keeps (p : Pitch) (m : Msg) : Bool :=
  m.pitch == p.id && m.phase == .going && !m.wait && match m.dest with
    | .tile k => (p.tiles.getD k {}).locked
    | .slice _ => false
    | .fabric _ _ _ => false

/-- The bytes of a copy's scratchpad source in its frozen tile; a stale granule reads as zero (R90, R130;
notes/assumptions/38.md). -/
def Pitch.keptBytes (p : Pitch) (c : CopyRec) : List Nat :=
  match c.src with
  | .spm _ off => ((p.tiles.getD c.tile {}).spmBytes off c.total).map BitVec.toNat
  | .region _ _ _ => []
  | .pattern _ => []

/-- What leaves with a frozen pitch (R43, R92): waits that have not succeeded are withdrawn, a page walk is dropped, and
copies with requests on the slow path stay behind under their old PITCH_GEN, with their source bytes. -/
def State.detach (s : State) (p : Pitch) : State :=
  let place (k : Nat) : Nat × Nat := (k, p.physOf (k % p.img.w) (k / p.img.w))
  { s with
    msgs := s.msgs.filter fun m => m.pitch != p.id || p.keeps m
    copies := s.copies.map fun c =>
      if p.late c then { c with
        left := (c.tile :: c.spmDst.1 ++ c.posts.map fun a => a.tile).map place, walk := none, kept := p.keptBytes c }
      else if c.pitch == p.id then { c with walk := none } else c }

/-- A frozen pitch as its hamper holds it (R43): the slots of what was withdrawn, and of requests that stay with the slow path
(R92), are free. `cs` are the copies in flight, `ms` the messages that stay on their way. -/
def Pitch.captured (p : Pitch) (cs : List CopyRec) (ms : List Nat) : Pitch :=
  { p with
    reqs := [], tauR := none, safeAt := none, safeTry := [], holds := [], wall := 0
    tiles := p.tiles.mapIdx fun k t =>
      let gone := cs.filter fun c => p.late c && c.tile == k
      let asks := t.xs.asks.filter ms.contains
      { t with
        looks := [], live := false, unsent := Vector.replicate 7 0
        xs := { t.xs with
          waiting := none, asks := asks, fetched := [], lastSent := false, tryAt := none
          copying := if gone.any fun c => t.xs.copying == some c.id then none else t.xs.copying
          slots := t.xs.slots + asks.length - t.xs.asks.length - gone.foldl (fun z c => z + c.reqs.length) 0 } } }

/-- A freeze counts as a pre-emption when it was asked for under R385 or R386 (R437). -/
def isPreempt (why : FreezeWhy) : Bool := why == .preempt || why == .move || why == .quantum

/-- A frozen launch's hamper lies in the cool box while the allowance has room, else in the hamper space (R387). -/
def State.keepHamper (s : State) (sl : Slice) (l : Launch) (p : Pitch) : State :=
  let used := (s.launches.filter fun m => m.slice == l.slice && m.id != l.id && m.coolBox && !m.done).foldl
    (fun z m => z + match m.hamper with
      | some h => s.hamperSize h
      | none => 0) 0
  if used + s.hamperSize p ≤ sl.hamperMib * 2 ^ 20 then s.putLaunch { l with hamper := some p, coolBox := true }
  else (s.storeHamper l p).putLaunch { l with hamper := some p, coolBox := false }

/-- A launch ends with its hamper as the fault image (R37, R384, R387). -/
def State.faultImage (s : State) (l : Launch) (p : Pitch) (r : Rec) : State :=
  let l0 := { l with kind := 2, hamper := some p, coolBox := false }
  let l1 := { l0 with plain := s.hamperPlain l0 p }
  (((s.storeHamper l1 p).unpin l.id).endLaunch l1 r).dropQueue p.id

/-- Boundaries that a seam-service freeze was for. -/
def seamOf (why : FreezeWhy) : Option Nat :=
  match why with
  | .seam b => some b
  | _ => none

/-- A fatal trap has been registered before the freeze takes effect (R37 to R39, R411; notes/assumptions/39.md). -/
def Pitch.trapped (p : Pitch) : Bool := !p.allTraps.isEmpty

/-- A FREEZE TAKES EFFECT (R37, R43, R44, R384, R387): the pitch becomes a hamper; a fatal trap ends the launch with a
fault record, an ended launch with ENDED, and any other launch is ready again. -/
def State.freezeNow (s : State) (p : Pitch) : State :=
  let s0 := s.flush p.id
  match s0.pitch? p.id, s0.slice? p.slice, s0.launch? p.launch with
  | some p1, some sl, some l =>
    let q := p1.captured s0.copies ((s0.msgs.filter p1.keeps).map fun m => m.id)
    let s1 := (((s0.detach p1).keepPhys p1).dropPitch p1.id).onSlice p1.slice fun v => { v with
      serial := v.serial + 1
      preempt := v.preempt + b2n (p1.reqs.any isPreempt)
      freezes := v.freezes + b2n (!(p1.reqs.any isPreempt)) }
    let l1 := { l with placed := false, serial := sl.serial + 1, kind := b2n p1.safeAt.isSome, since := s.tick
                       moved := l.moved || p1.reqs.contains .move }
    let s2 :=
      if p1.trapped then
        (s1.onSlice p1.slice fun v => { v with faults := v.faults + 1 }).faultImage l1 q p1.faultRec
      else if l.ending then s1.faultImage l1 q { status := 3, stale := q.staleSum, energy := q.energyUj }
      else
        let gone (why : FreezeWhy) : Bool := why == .move || why == .leave || why == .retire
        let s3 := if p1.reqs.any gone then s1.unpin l.id else s1.pinCode sl p1
        s3.keepHamper sl { l1 with ready := true } q
    let seams := p1.reqs.filterMap seamOf
    (s2.later (seams.map fun b => .ev (.seamServiceRepair b))).schedule p1.slice
  | _, _, _ => s

/-- THE PITCH COMPLETES (R48, R141, R383): its completion record, and its tiles are free. A boundary that waited for its freeze is
repaired (R410). -/
def State.completeNow (s : State) (p : Pitch) : State :=
  let s0 := s.flush p.id
  match s0.pitch? p.id, s0.launch? p.launch with
  | some q, some l =>
    let s1 := ((s0.keepPhys q).dropPitch q.id).unpin l.id
    let s2 := { s1 with msgs := s1.msgs.filter fun m => m.pitch != q.id }
    let s3 := s2.endLaunch l { status := 0, stale := q.staleSum, energy := q.energyUj }
    (s3.later ((q.reqs.filterMap seamOf).map fun b => .ev (.seamServiceRepair b))).schedule q.slice
  | _, _ => s

/-- Reserved bits, ranges and alignment of a descriptor, and its argument tensor (R381). -/
def Launch.descOk (l : Launch) (sl : Slice) : Bool :=
  let dep (w : Nat) : Bool := l.field w 44 17 == 0 && decide (l.field w 61 2 < 2)
  let w := l.field 0 0 6
  let h := l.field 0 6 6
  let narg := l.field 4 16 6
  let arg := tensorOf sl.tensors (l.field 4 0 16)
  at' 0 l.desc 7 == 0 && dep 5 && dep 6 && l.field 4 22 10 == 0 && l.field 3 52 12 == 0 && l.field 2 32 32 == 0 &&
    l.field 1 52 12 == 0 && l.field 0 18 6 == 0 && l.field 0 12 2 == 0 && decide (1 ≤ w) && decide (w ≤ 48) &&
    decide (1 ≤ h) && decide (h ≤ 48) && l.field 0 24 8 != 0 && decide (narg ≤ 48) &&
    decide (16 * w * h + 1 ≤ l.field 4 32 32) && l.field 3 0 16 == 0 && l.field 1 0 3 == 0 &&
    (narg == 0 || (entUsable arg false && decide (8 * narg ≤ entSize arg)))

/-- The launch before index `i` of a chain has been placed or has its record, so the next descriptor may be read (R380). -/
def State.mayRead (s : State) (slice chain : Nat) (c : Chain) : Bool :=
  c.enable && decide (1 ≤ sub32 c.tail c.read) && decide (sub32 c.tail c.read ≤ 2 ^ 31) &&
    match (s.launches.filter fun l => l.slice == slice && l.chain == chain && (l.index + 1) % 2 ^ 32 == c.read).getLast? with
    | none => true
    | some l => l.placed || l.hamper.isSome || l.done

/-- THE DEVICE READS A DESCRIPTOR (R380 to R382). -/
def State.readDescriptor (s : State) (slice chain : Nat) : State :=
  match s.slice? slice with
  | none => s
  | some sl =>
    let c := sl.chain chain
    if !sl.active || !s.mayRead slice chain c then s
    else
      let b := s.ringRead sl c.loc (c.base + 64 * (c.read % 2 ^ c.log2n)) 64
      let desc := Vector.ofFn fun (k : Fin 8) => leNat ((b.drop (8 * k.val)).take 8)
      let l : Launch := { id := s.fresh, slice := slice, chain := chain, index := c.read, desc := desc, since := s.tick }
      let s1 := { s with fresh := s.fresh + 1, launches := s.launches ++ [l] }.putSlice
        (sl.setChain chain { c with read := (c.read + 1) % 2 ^ 32 })
      if !l.descOk sl then s1.endLaunch l { status := 4 }
      else if l.depsHold sl then s1.later [.ev (.launchReady l.id)] else s1

end Sys2Proof.Machine
end

