-- ==== Sys2Proof/Machine/Ready.lean ====
section
/-! DEFINITION. Readiness and loading of a launch (R326 to R328, R355, R356, R382), and the chain registers' events (R379,
R380, R384). -/

namespace Sys2Proof.Machine

/-- First failing check, in ascending code order (R328). Translated code satisfies the checks of its code, and sends no beat over
a seam (R362; notes/assumptions/41.md). -/
def firstCheck (i : Image) (strict : Bool) (args : List Word) : Option CheckFail × Image :=
  if i.block then (seamCheck i, { i with quietC := true, quietR := true })
  else match streamCheck i 1 fun e c => encodingFail e c c.words.length 0 with
  | some f => (some f, i)
  | none =>
    match streamCheck i 2 controlFail with
    | some f => (some f, i)
    | none =>
      let r := i.check strict args
      match r.fail with
      | some f => (some f, i)
      | none => (seamCheck i, { i with quietC := r.quietC, quietR := r.quietR })

/-- The bytes of an image in its container. -/
def DirEnt.bytes (e : DirEnt) (f : List Byte) : List Byte := (f.drop e.off).take e.size

/-- An image of a directory entry, with its code, or the load status that rejects it (R355). -/
def buildImage (kept : List Translation) (f measure : List Byte) (e : DirEnt) (dir : Nat) : Except Nat Image :=
  let m := e.bytes f
  let block := e.kind != 0
  match imageFrame m block with
  | none => .error 3
  | some i =>
    let i1 := { i with dir := dir, digest := (f.drop 32).take 32 }
    if !block then .ok { i1 with code := imageCode m }
    else if !blockImageOk m then .error 4
    else
      let t := translation kept m measure
      .ok { i1 with code := t.code, prog := t.prog, safeGap := 0 }

/-- THE LOADER (R351 to R356): a ZFO to a checked image. -/
def loadZfo (kept : List Translation) (f measure : List Byte) (w h omask : Nat) (strict : Bool) (args : List Word) : Load :=
  if !containerOk f then .failed 1
  else
    let es := directory f
    match selectImage es Config.stepping with
    | none => .failed 2
    | some k =>
      match es[k]? with
      | none => .failed 2
      | some e =>
        match buildImage kept f measure e k with
        | .error n => .failed n
        | .ok i =>
          let c := firstCheck i (strict || i.strict) args
          match c.1 with
          | some x => .check c.2 x
          | none => if i.w != w || i.h != h || i.omask &&& omask == 0 then .mismatch c.2 else .loaded c.2

/-- A translation that was made for a load, however the load ends, is kept, and the house is charged for it (R373). -/
def State.keepTranslation (s : State) (f : List Byte) (i : Image) : State :=
  let m := (((directory f)[i.dir]?).map fun e => e.bytes f).getD []
  if !i.block || s.translations.any fun t => t.image == m && t.edition == 1 && t.measure == s.dev.measure then s
  else
    { s with
      translations := translate m s.dev.measure :: s.translations
      rc := { s.rc with translated := s.rc.translated + 1 } }

/-- The record of a load that fails a check (R328, R383). -/
def checkRec (i : Image) (x : CheckFail) : Rec :=
  { status := 2, code := 5, check := x.code, cycle := x.cycle, party1 := partyWord i x.tile x.eng x.off
    party2 := match x.party with
      | some (k, e, off) => partyWord i k e off
      | none => 0 }

/-- LAUNCH_READY (R141, R326, R355, R373, R382): a launch whose dependences hold is loaded once and joins the ready
launches of its slice, or ends with a LOAD record. -/
def execLaunchReady (launch : Nat) (s : State) : Out :=
  match s.launch? launch with
  | none => .next s
  | some l =>
    match s.slice? l.slice with
    | none => .next s
    | some sl =>
      if l.ready || l.placed || l.done || !sl.active || !l.depsHold sl then .next s
      else
        let kept := s.keepTranslation (s.zfo sl l)
        match loadZfo s.translations (s.zfo sl l) s.dev.measure (l.field 0 0 6) (l.field 0 6 6) (l.field 0 24 8) (l.field 0 15 1 == 1) (s.argWords l) with
        | .loaded i =>
          .next (((kept i).putLaunch { l with img := some i, ready := true, since := s.tick }).schedule l.slice)
        | .failed n => .next (s.endLaunch l { status := 2, code := n })
        | .check i x => .next ((kept i).endLaunch l (checkRec i x))
        | .mismatch i => .next ((kept i).endLaunch l { status := 2, code := 6 })

/-- DESCRIPTOR_READ (R380 to R382). -/
def execDescriptorRead (slice chain : Nat) (s : State) : Out := .next (s.readDescriptor slice chain)

/-- CH_TAIL_WRITE (R379, R380): a TAIL that runs back, or beyond the ring, is ignored. -/
def execChTailWrite (slice chain v : Nat) (s : State) : Out :=
  match s.slice? slice with
  | none => .next s
  | some sl =>
    let c := sl.chain chain
    let t := v % 2 ^ 32
    if decide (2 ^ 31 < sub32 t c.tail) || decide (2 ^ c.log2n < sub32 t c.done) then .next s
    else .next ((s.putSlice (sl.setChain chain { c with tail := t })).later [.ev (.descriptorRead slice chain)])

/-- CHAIN_ENABLE (R379): CH_CFG is written with ENABLE 1. While ENABLE is 1 its low byte is ignored; from 0 to 1 it takes
LOG2N and LOC, and DONE and the read position become TAIL; a LOG2N below 4 leaves ENABLE 0. -/
def execChainEnable (slice chain v : Nat) (s : State) : Out :=
  match s.slice? slice with
  | none => .next s
  | some sl =>
    let c := sl.chain chain
    if c.enable then .next s
    else
      let c1 := { c with log2n := fld v 0 4, loc := bit v 7 }
      if fld v 0 4 < 4 then .next (s.putSlice (sl.setChain chain c1))
      else .next (s.putSlice (sl.setChain chain { c1 with enable := true, done := c.tail, read := c.tail, recs := [] }))

/-- CHAIN_DISABLE (R379): CH_CFG is written with ENABLE 0. -/
def execChainDisable (slice chain v : Nat) (s : State) : Out :=
  match s.slice? slice with
  | none => .next s
  | some sl =>
    let c := sl.chain chain
    .next (s.putSlice (sl.setChain chain
      (if c.enable then { c with enable := false } else { c with log2n := fld v 0 4, loc := bit v 7 })))

/-- A launch ends on the driver's word: at once while it is not placed, by a freeze when it is (R384). Its hamper becomes a fault
image, or is discarded in the cool box (R406). -/
def State.endNow (s : State) (l : Launch) (why : FreezeWhy) (discard : Bool) : State :=
  if l.done then s
  else if l.placed then (s.putLaunch { l with ending := true }).later [.ev (.freezeRequestPost l.id why)]
  else
    match l.hamper with
    | some h =>
      let r : Rec := { status := 3, stale := h.staleSum, energy := h.energyUj }
      if discard && l.coolBox then ((s.unpin l.id).endLaunch { l with hamper := none, coolBox := false } r).dropQueue l.id
      else s.faultImage { l with ready := false } h r
    | none => s.endLaunch l { status := 3 }

/-- CH_CANCEL (R384): an index that the device has not read is ignored. -/
def execChCancel (slice chain v : Nat) (s : State) : Out :=
  match s.launches.find? fun l => l.slice == slice && l.chain == chain && l.index == v % 2 ^ 32 && !l.done with
  | none => .next s
  | some l => .next (s.endNow l .ended false)

end Sys2Proof.Machine
end

