-- ==== Sys2Proof/Machine/Till.lean ====
section
/-! DEFINITION. The till: millisecond accounting (R430, R431), receipts, house records and batches (R436 to R443). -/

namespace Sys2Proof.Machine

/-- A cost shared pro rata (R431): each share rounded down, by name; what remains goes to the idle account 0. `den` is the
sum of all weights, 0 when there is none. -/
def splitCost (cost : Int) (weights : List (Nat × Nat)) (den : Nat) : List (Nat × Int) :=
  let shares := if den == 0 then [] else weights.map fun w => (w.1, cost * (w.2 : Int) / (den : Int))
  shares ++ [(0, cost - shares.foldl (fun z q => z + q.2) 0)]

/-- Add shares to accounts. -/
def addAccounts (l : List (Nat × Int)) (shares : List (Nat × Int)) : List (Nat × Int) :=
  shares.foldl (fun a q =>
    if a.any fun r => r.1 == q.1 then a.map fun r => if r.1 == q.1 then (r.1, r.2 + q.2) else r else q :: a) l

/-- µJ of a cumulative energy, rounded down (R438). -/
def microOf (j : Int) : Int := j * 10 ^ 6 / 2 ^ 48

/-- Squares of a mask (R401). -/
def squaresOf (mask : Nat) : List Nat := (List.range 36).filter fun q => bit mask q

/-- Leakage of a square over a millisecond, in 2^-48 J (R428, R430): `band` steps of 5 °C from 25 °C. -/
def leakage (epoch q step temp : Nat) : Int :=
  (Config.calLeak epoch q step (Nat.min 17 ((temp - 25) / 5)) * 2 ^ 48 / 10 ^ 9 : Nat)

/-- One square's residual and leakage with their shares (R430, R431). -/
def squareCosts (sl : Slice) (epoch ms q : Nat) : Int × Int × List (Nat × Int) :=
  let here := sl.dyn.filter fun d => d.1 == q
  let dyn := here.foldl (fun z d => z + d.2.2.1) (0 : Nat)
  let leak := leakage epoch q sl.step (Config.sqTemp q (ms - 1))
  let res := Config.sqEnergy q ms - (dyn : Int) - leak
  (res, leak, splitCost res (here.map fun d => (d.2.1, d.2.2.1)) dyn ++
    splitCost leak (here.map fun d => (d.2.1, d.2.2.2)) (64 * sl.msCycles))

/-- One channel's refresh commands with their cost and its shares (R425, R431). -/
def channelCosts (sl : Slice) (epoch ms ch : Nat) : Nat × Nat × List (Nat × Int) :=
  let n := Config.refreshes ch ms
  let cost := n * Config.calEntry epoch 1 ch sl.step 15
  let busy := sl.chanBusy.filter fun b => b.1 == ch
  (n, cost, splitCost (cost : Int) (busy.map fun b => (b.2.1, b.2.2)) (busy.foldl (fun z b => z + b.2.2) 0))

/-- The refresh cost of a slice's channels in a millisecond. -/
def Slice.refresh (sl : Slice) (epoch ms : Nat) : Nat := sl.chans.foldl (fun z ch => z + (channelCosts sl epoch ms ch).2.1) 0

/-- A millisecond of one slice at the till (R430 to R432). -/
def Slice.account (sl : Slice) (epoch tick : Nat) : Slice :=
  let ms := tick / msTicks 1
  let sq := (squaresOf sl.squares).map (squareCosts sl epoch ms)
  let ch : List (Nat × Nat × List (Nat × Int)) := sl.chans.map (channelCosts sl epoch ms)
  let res := sq.foldl (fun (z : Int) q => z + q.1) 0
  let leak := sq.foldl (fun (z : Int) q => z + q.2.1) 0
  let refr := sl.refresh epoch ms
  let count : Nat := ch.foldl (fun z (q : Nat × Nat × List (Nat × Int)) => z + q.1) 0
  let shares : List (Nat × Int) := ch.flatMap fun (q : Nat × Nat × List (Nat × Int)) => q.2.2
  let add (v : Vector Int 10) (k : Nat) (j : Int) : Vector Int 10 := v.setIfInBounds k (at' 0 v k + j)
  { sl with
    dueLevel := sl.level, dueTick := tick
    energy := add (add (add sl.energy 7 leak) 8 refr) 9 res
    hbm := sl.hbm.setIfInBounds 4 (at' 0 sl.hbm 4 + count)
    accounts := addAccounts sl.accounts ((sq.flatMap fun (q : Int × Int × List (Nat × Int)) => q.2.2) ++ shares)
    dyn := [], chanBusy := [], msCycles := 0 }.debit (res + leak + refr)

/-- What the house bears in a millisecond (R431): the energy measured in unowned squares, the refresh of unowned channels at the
nominal step, and what slices have been billed of the base dies' energy. -/
def State.houseMs (s : State) (ms : Nat) : Receipts :=
  let squares := (List.range 36).filter fun q => !s.slices.any fun v => bit v.squares q
  let chans := (List.range 384).filter fun n => !s.slices.any fun v => v.chans.contains n
  { s.rc with
    billed := s.rc.billed + s.slices.foldl (fun z v => z + v.refresh s.dev.epoch ms) 0
    unowned := s.rc.unowned + squares.foldl (fun (z : Int) q => z + Config.sqEnergy q ms) 0
    idleChans := s.rc.idleChans + chans.foldl (fun z n => z + Config.refreshes n ms * Config.calEntry s.dev.epoch 1 n 3 15) 0 }

/-- Charges of every placed pitch reach the till. -/
def State.flushAll (s : State) : State := s.pitches.foldl (fun (z : State) p => z.flush p.id) s

/-- TILL_MS_ACCOUNTING (R430 to R433): every slice's millisecond and the house's, and freeze requests where it leaves a purse
empty. -/
def execTillMsAccounting (s : State) : Out :=
  let s0 := s.flushAll
  let s1 := { s0 with slices := s0.slices.map (fun v => v.account s.dev.epoch s.tick), rc := s0.houseMs (s.tick / msTicks 1) }
  .next (s0.slices.foldl (fun (z : State) v => z.ifExhausted v.id v.exhausted) s1)

/-- CHARGE_ARRIVAL (R427, R432, R433): the charges of a pitch's tiles, channels and ports reach the till and its purse. -/
def execChargeArrival (pitch : Nat) (s : State) : Out := .next (s.flush pitch)

/-- A slice's purse has reached R (R433). -/
def Slice.mayResume (sl : Slice) : Bool := sl.exhausted && decide (purseUnits sl.purseR ≤ sl.level)

/-- PURSE_RESUME_THRESHOLD (R433): where L has reached R, frozen pitches and waiting launches are ready under R385. -/
def execPurseResumeThreshold (s : State) : Out :=
  let due := s.slices.filter Slice.mayResume
  let s1 := { s with slices := s.slices.map fun v => if v.mayResume then { v with exhausted := false } else v }
  .next (due.foldl (fun (z : State) v => z.schedule v.id) s1)

/-- A signed number in 8 bytes. -/
def int8 (z : Int) : List Byte := leBytes 8 (z % 2 ^ 64).toNat

/-- The level at an interval's end (R325): the shares of a millisecond that ends with the interval are not yet in it. -/
def Slice.endLevel (sl : Slice) (tick : Nat) : Int := if sl.dueTick == tick then sl.dueLevel else sl.level

/-- A receipt (R437, R438). -/
def State.receipt (s : State) (sl : Slice) (final : Bool) : List Byte :=
  let field (k : Nat) : Int := microOf (at' 0 sl.energy k) - microOf (at' 0 sl.energy0 k)
  let sum (v : Vector Int 10) : Int := v.toList.foldl (fun z j => z + j) 0
  let flags := b2n sl.first + 2 * b2n final + 4 * b2n sl.prot
  fit 0xE0 (leBytes 4 0x54434552 ++ leBytes 2 1 ++ [BitVec.ofNat 8 sl.id, BitVec.ofNat 8 flags] ++ leBytes 4 sl.tenant ++
    leBytes 4 s.dev.epoch ++ leBytes 8 s.rc.index ++ leBytes 8 (Nat.max sl.created s.rc.start / 2) ++ leBytes 8 s.ptc ++
    leBytes 8 sl.cycOwned ++ leBytes 8 sl.cycActive ++ int8 (microOf (sum sl.energy) - microOf (sum sl.energy0)) ++
    ((List.range 10).flatMap fun k => int8 (field k)) ++ (sl.hbm.toList.flatMap fun n => leBytes 8 n) ++ leBytes 8 sl.flits ++
    int8 (purseMicro (sl.endLevel s.tick)) ++ leBytes 4 sl.freezes ++ leBytes 4 sl.preempt ++ leBytes 4 sl.faults) ++
    if sl.first then zeroBytes 32 else sl.prev

/-- The slice after its receipt. -/
def Slice.afterReceipt (sl : Slice) (r : List Byte) : Slice :=
  { sl with prev := sha256 r, first := false, energy0 := sl.energy, cycOwned := 0, cycActive := 0
            hbm := Vector.replicate 5 0, flits := 0, freezes := 0, preempt := 0, faults := 0 }

/-- TOTAL of a receipt (R437). -/
def receiptTotal (r : List Byte) : Int := (BitVec.ofNat 64 (leNat ((r.drop 0x38).take 8))).toInt

/-- The house's fields of an interval in µJ (R430, R431, R439), from idle seam links to translation. What a sensor tells of idle
links, idle ports and PCIe is free; translation costs nothing in an interval without one (R373). What no charge and no other field
explains of the base dies' energy stands under management (notes/assumptions/109.md). -/
def State.houseFields (s : State) : List Int :=
  let own (k : Nat) : Int := Config.houseEnergy k s.dev.epoch s.rc.index
  let base := (List.range 4).foldl (fun (z : Int) d => z + Config.baseEnergy d s.dev.epoch s.rc.index) 0
  let idle := microOf s.rc.idleChans
  let sweeps := microOf s.rc.sweeps
  [own 1, own 2, own 3, microOf (base - s.rc.billed) - own 1 - own 2 - own 3 - idle - sweeps, microOf s.rc.unowned, idle, sweeps,
    microOf s.rc.clears, if s.rc.translated == 0 then 0 else own 9]

/-- The house record (R439): the total of its fields, the fields, and the package energy measured, which is the house's and that
of the receipts. -/
def State.houseRecord (s : State) (receipts : List (List Byte)) : List Byte :=
  let total := s.houseFields.foldl (fun z j => z + j) 0
  let spent := receipts.foldl (fun z r => z + receiptTotal r) 0
  fit 256 (leBytes 4 0x45535548 ++ leBytes 2 1 ++ zeroBytes 6 ++ leBytes 4 s.dev.epoch ++ leBytes 8 s.rc.index ++
    zeroBytes 32 ++ int8 total ++ s.houseFields.flatMap int8 ++ int8 (total + spent))

/-- The seed of the receipt key (R441). -/
def State.receiptSeed (s : State) : List Byte := expand s.dev.cdi (ascii "EOL-RECEIPT")

/-- The interval record of a batch (R440, R443). -/
def State.intervalRecord (s : State) (leaves : List (List Byte)) : List Byte :=
  let hashed := leaves.map fun r => sha256 (0 :: r)
  fit 256 (leBytes 4 0x56445449 ++ leBytes 2 1 ++ leBytes 2 leaves.length ++ leBytes 4 s.dev.epoch ++
    leBytes 4 s.rc.running ++ leBytes 8 s.rc.index ++ leBytes 8 (s.rc.start / 2) ++ leBytes 8 s.ptc ++
    leBytes 4 s.rc.prevEpoch ++ zeroBytes 4 ++ leBytes 8 s.rc.prevIndex ++ fit 32 (merkleRoot leaves.length hashed) ++
    fit 32 s.rc.prevDigest ++ fit 32 (Config.slhPublic false s.receiptSeed))

/-- RECEIPT_INTERVAL_END (R436 to R443): one receipt for each slice that existed in the interval, the house record, the signed
batch, whose record's digest goes to the non-volatile store before anything is released; the next interval starts. -/
def execReceiptIntervalEnd (s0 : State) : Out :=
  let s := s0.flushAll
  let rs := s.slices.map fun v => (v.id, s.receipt v false)
  let sorted := sortOn (fun (q : Nat × List Byte) => q.1) (s.rc.finals ++ rs)
  let receipts := sorted.map fun q => q.2
  let leaves := receipts ++ [s.houseRecord receipts]
  let rec' := s.intervalRecord leaves
  let sig := Config.slhSign false s.receiptSeed rec'
  let batch := rec' ++ leaves.flatten ++ fit 17152 (fit 17088 sig)
  let held := s.rc.held ++ [batch]
  let full := decide (16 < held.length)
  .next { s with
    dev := { s.dev with nvDigest := sha256 rec', nvEpoch := s.dev.epoch, nvIndex := s.rc.index }
    slices := s.slices.map fun v => v.afterReceipt (s.receipt v false)
    rc := { s.rc with
      held := (if full then held.drop 1 else held), lost := (if full then (s.rc.lost + 1) % 2 ^ 32 else s.rc.lost)
      finals := [], translated := 0, billed := 0, unowned := 0, idleChans := 0, sweeps := 0, clears := 0
      index := s.rc.index + 1, start := s.tick, running := s.rc.interval
      prevDigest := sha256 rec', prevEpoch := s.dev.epoch, prevIndex := s.rc.index } }

/-- Slots of 256 B that a batch takes (R442). -/
def batchSlots (b : List Byte) : Nat := b.length / 256

/-- The ring has room for a batch. -/
def Receipts.room (r : Receipts) (b : List Byte) : Bool :=
  r.enable && decide (sub32 r.tail r.head + batchSlots b ≤ 2 ^ r.log2n)

/-- RECEIPT_BATCH_RELEASE (R442): the batch goes into the ring; where the ring has no room it stays held. -/
def execReceiptBatchRelease (s : State) : Out :=
  match s.rc.held with
  | [] => .next s
  | b :: rest =>
    if !s.rc.room b then .next s
    else
      let n := batchSlots b
      let host := (List.range n).foldl (fun (h : Mem) i =>
        h.writeAll (s.rc.base + 256 * ((s.rc.tail + i) % 2 ^ s.rc.log2n)) ((b.drop (256 * i)).take 256)) s.host
      .next { s with host := host, rc := { s.rc with held := rest, tail := (s.rc.tail + n) % 2 ^ 32 } }

/-- RC_CFG_ENABLE (R442): LOG2N, and ENABLE where it is 10 to 20. -/
def execRcCfgEnable (v : Nat) (s : State) : Out :=
  let n := fld v 0 5
  .next { s with rc := { s.rc with log2n := n, enable := bit v 8 && decide (10 ≤ n) && decide (n ≤ 20) } }

/-- RC_INT_WRITE (R436, R442): from the next interval; values outside 100 to 10,000 are ignored. -/
def execRcIntWrite (v : Nat) (s : State) : Out :=
  let n := fld v 0 14
  if decide (100 ≤ n) && decide (n ≤ 10000) then .next { s with rc := { s.rc with interval := n } } else .next s

/-- RC_HEAD_WRITE (R442): the host has consumed slots. -/
def execRcHeadWrite (v : Nat) (s : State) : Out := .next { s with rc := { s.rc with head := v % 2 ^ 32 } }

end Sys2Proof.Machine
end

