-- ==== Sys2Proof/Machine/Boot.lean ====
section
/-! DEFINITION. Boot, reset and loss of power (R399, R402, R413, R417 to R419, R424), retired tiles (R400), and the clock
steps with the power-cap controller (R402, R407, R409). -/

namespace Sys2Proof.Machine

/-- DEV_INFO's word for step i (R402). -/
def State.stepWord (s : State) (i : Nat) : Nat :=
  if i < 6 then b2n (Config.stepValid s.dev.epoch i) * 2 ^ 32 + Config.stepMv i % 2 ^ 16 * 2 ^ 16 + stepMhz i else 0

/-- A firmware image verifies and is not older than the fused minimum (R417, R418). -/
def fwGood (f : List Byte) : Bool := Config.fwVerifies f && decide (Config.fusedSvn ≤ Config.fwSvn f)

/-- Tiles that are holes at every boot: the fused census and the retired tiles (R399). -/
def Dev.oldHoles (d : Dev) : List Nat := Config.fusedHoles ++ d.retired.filter fun k => !Config.fusedHoles.contains k

/-- What a boot or reset leaves of the device's state: the package's non-volatile store and what lies outside the
package. -/
def State.afterReset (s : State) : State :=
  { tick := s.tick, fresh := s.fresh, inputs := s.inputs, host := s.host, hbm := s.hbm
    dev := { seams := s.dev.seams, crossDown := s.dev.crossDown, spares := s.dev.spares, retired := s.dev.retired
             epoch := s.dev.epoch, sweeps := s.dev.sweeps, flash := s.dev.flash, nvDigest := s.dev.nvDigest
             nvEpoch := s.dev.nvEpoch, nvIndex := s.dev.nvIndex, holes := s.dev.oldHoles
             fused := Config.fusedHoles.length, booted := true } }

/-- The seed of the Alias key (R419). -/
def aliasSeed (cdi : List Byte) : List Byte := expand cdi (ascii "EOL-ALIAS")

/-- The Alias certificate (R419): the DeviceID key signs it. -/
def aliasCert (cdi : List Byte) : List Byte :=
  let body := Config.certBody (Config.slhPublic true (aliasSeed cdi))
  body ++ Config.slhSign true (expand Config.uds (ascii "EOL-DEVICEID")) body

/-- Steps 3 to 7 of R417 with a good image: census, calibration with the seams retrained (R413), identities, the boot
epoch; the till starts (R436, R443). -/
def State.bootImage (s0 : State) (f : List Byte) : State :=
  let s := s0.afterReset
  let e := (s.dev.epoch + 1) % 2 ^ 32
  let bad := (List.range 2304).filter fun k => Config.fusedHoles.contains k || Config.censusHole e k
  let better (b v : Nat) : Nat := if decide (2 ≤ v) && Config.trains e b then 0 else v
  let seams := Vector.ofFn fun (b : Fin 4) => better b.val (at' 0 s.dev.seams b.val)
  { s with
    dev := { s.dev with
      svn := Config.fwSvn f % 2 ^ 32, fwver := Config.fwVersion f % 2 ^ 32, epoch := e, fused := bad.length
      holes := bad ++ s.dev.retired.filter fun k => !bad.contains k
      seams := seams
      crossDown := s.dev.crossDown.filter fun k => at' 0 seams (k / 24) == 3
      spares := s.dev.spares.filter fun k => at' 0 seams (k % 96 / 24) != 0
      measure := sha256 f, cdi := hmac Config.uds (sha256 f), aliasCert := aliasCert (hmac Config.uds (sha256 f)) }
    rc := { start := s.tick, prevDigest := s.dev.nvDigest, prevEpoch := s.dev.nvEpoch, prevIndex := s.dev.nvIndex } }

/-- The boot from flash (R417, R418): a failed image leaves the device in recovery. -/
def State.bootFlash (s : State) : State :=
  let f := s.dev.flash.getD Config.flashImage
  if fwGood f then s.bootImage f else let r := s.afterReset; { r with dev := { r.dev with recovery := true } }

/-- BOOT (R417). -/
def execBoot (s : State) : Out := .next s.bootFlash

/-- POWER_CUT (R424): the device loses power and does nothing until it boots. -/
def execPowerCut (s : State) : Out :=
  let r := s.afterReset
  .next { r with dev := { r.dev with powered := false, booted := false } }

/-- A tile is retired (R399, R400): it is a hole from now on, and a pitch on it is frozen and placed again. -/
def State.retire (s : State) (phys : Nat) : State :=
  if s.dev.retired.contains phys then s
  else
    let dev := { s.dev with
      retired := phys :: s.dev.retired
      holes := if s.dev.holes.contains phys then s.dev.holes else phys :: s.dev.holes }
    let on := s.pitches.filter fun p => p.physAll.contains phys
    State.later { s with dev := dev } (on.map fun (p : Pitch) => Slot.ev (.freezeRequestPost p.id .retire))

/-- Ticks of 24 hours. -/
def dayTicks : Nat := msTicks (24 * 3600 * 1000)

/-- SRAM_CORRECTED_ERROR (R400): 16 within 24 hours retire the tile. -/
def execSramCorrectedError (phys : Nat) (s : State) : Out :=
  let v := s.physOf phys
  let errs := s.tick :: v.errs.filter fun n => decide (s.tick < n + dayTicks)
  let s1 := s.putPhys phys { v with errs := errs }
  .next (if 16 ≤ errs.length then s1.retire phys else s1)

/-- SRAM_UNCORRECTABLE_ERROR (R400): the tile is retired; in a live item it is MEMORY_ERROR in the pitch first. -/
def execSramUncorrectableError (phys : Nat) (live : Bool) (s : State) : Out :=
  let s1 := match live, s.atPhys phys with
    | true, some (p, k) => s.putPitch (p.trapIn k (p.tiles.getD k {}).tl trapMemory ((p.tiles.getD k {}).engOf .C).pc)
    | _, _ => s
  .next (s1.retire phys)

/-- Valid steps of the running epoch. -/
def State.validStep (s : State) (k : Nat) : Bool := decide (k < 6) && Config.stepValid s.dev.epoch k

/-- The next valid step above or below. -/
def State.stepAbove (s : State) (k : Nat) : Option Nat :=
  ((List.range 6).filter fun n => decide (k < n) && s.validStep n).head?
def State.stepBelow (s : State) (k : Nat) : Option Nat :=
  ((List.range 6).filter fun n => decide (n < k) && s.validStep n).getLast?

/-- When a step change decided now takes effect (R407). -/
def changeAt (tick : Nat) : Nat := (tick + usTicks 200 + usTicks 100 - 1) / usTicks 100 * usTicks 100

/-- The power-cap controller's decision (R409): the step to go to, if any, and whether it is a lowering. -/
def State.capDecision (s : State) (sl : Slice) (hot : Bool) : Option (Nat × Bool) :=
  let ms := s.tick / msTicks 1
  let sq := squaresOf sl.squares
  let power := sq.foldl (fun z q => z + Config.sqPower q ms) 0
  let tooHot := sq.any fun q => decide (100 ≤ Config.sqTemp q ms)
  let v (k : Nat) : Nat := Config.stepMv k
  if decide (1000 * sl.cap < power) || tooHot then (s.stepBelow sl.step).map fun k => (k, true)
  else
    match s.stepAbove sl.step with
    | none => none
    | some k =>
      let quiet := sl.lowered == 0 || decide (sl.lowered + msTicks 4 ≤ s.tick)
      let fits := decide (power * stepMhz k * v k ^ 2 * 100 ≤ 95 * 1000 * sl.cap * stepMhz sl.step * v sl.step ^ 2)
      if decide (k ≤ sl.maxStep) && quiet && fits && !hot then some (k, false) else none

/-- The step that a slice is to go to, once a change that is pending has taken effect. -/
def Slice.aim (sl : Slice) : Nat :=
  match sl.newStep with
  | some q => q.1
  | none => sl.step

/-- A change to step `k` is decided (R407): one that is pending and goes at least as low, as under a new MAXSTEP, stands. -/
def Slice.goTo (sl : Slice) (k tick : Nat) : Option (Nat × Nat) :=
  match sl.newStep with
  | some q => if q.1 ≤ k then some q else some (k, changeAt tick)
  | none => some (k, changeAt tick)

/-- The controller of one slice acts (R409). -/
def State.capSlice (s : State) (sl : Slice) : Slice :=
  let ms := s.tick / msTicks 1
  let sq := squaresOf sl.squares
  let hot := (sq.any fun q => decide (100 ≤ Config.sqTemp q ms)) || (sl.hot && !sq.all fun q => decide (Config.sqTemp q ms < 95))
  match s.capDecision sl hot with
  | none => { sl with hot := hot }
  | some (k, down) =>
    { sl with hot := hot, newStep := sl.goTo k s.tick, lowered := if down then s.tick else sl.lowered }

/-- POWER_CAP_TICK (R409): every slice's controller. -/
def execPowerCapTick (s : State) : Out := .next { s with slices := s.slices.map s.capSlice }

/-- One slice's step change, when it is due (R407): its squares run at the new step after a stop of at most 20 µs. -/
def Slice.stepNow (sl : Slice) (tick stop : Nat) : Slice :=
  match sl.newStep with
  | none => sl
  | some (k, at_) =>
    if tick < at_ then sl else { sl with step := k, newStep := none, clockStop := tick + stop % (usTicks 20 + 1) }

/-- STEP_CHANGE (R407). -/
def execStepChange (s : State) : Out :=
  .next { s with
    fresh := s.fresh + 1
    slices := s.slices.map fun v => v.stepNow s.tick (Config.freeNat s.fresh) }

end Sys2Proof.Machine
end

