-- ==== Sys2Proof/Machine/Mailbox.lean ====
section
/-! DEFINITION. The management mailbox: its lock and its commands (R376 to R378, R403 to R406, R418, R434, R444). A
command acts when it is accepted, and BUSY stands until it completes. -/

namespace Sys2Proof.Machine

/-- RESULT values (R376). -/
def resOk : Nat := 0
def resBadCmd : Nat := 1
def resBadArg : Nat := 2
def resRefused : Nat := 3

/-- An argument word. -/
def State.arg (s : State) (k : Nat) : Nat := at' 0 s.mb.args k

/-- A requester's command is accepted (R377, R418): it holds the lock, BUSY is 0, and in recovery it is FW_STAGE. -/
def State.accepts (s : State) (requester code : Nat) : Bool :=
  s.dev.booted && requester != 0 && requester == s.mb.owner && !s.mb.busy && (!s.dev.recovery || code == 8)

/-- BUSY is set, and what the command will end with is kept: the RESULT, the response and the slice that it names (R376). -/
def State.begin (s : State) (code result : Nat) (resp : Option Nat) : State :=
  { s with mb := { s.mb with code := code, busy := true, last := s.tick, next := result, nextResp := resp
                             target := fld (s.arg 0) 0 6, started := s.tick } }

/-- A command that is accepted, or ignored. -/
def State.command (s : State) (requester code : Nat) (k : State → State) : Out :=
  if s.accepts requester code then .next (k s) else .next s

/-- MB_LOCK (R377): a valid ID takes a free lock. -/
def execMbLock (v : Nat) (s : State) : Out :=
  let id := v % 2 ^ 16
  if s.mb.owner == 0 && id != 0 && id != 0xFFFF then .next { s with mb := { s.mb with owner := id, last := s.tick } }
  else .next s

/-- MB_UNLOCK (R376, R377): the owner's value releases the lock. -/
def execMbUnlock (v : Nat) (s : State) : Out :=
  if s.mb.owner != 0 && v % 2 ^ 16 == s.mb.owner then .next { s with mb := { s.mb with owner := 0, last := s.tick } }
  else .next s

/-- MB_LOCK_TIMEOUT (R377): 2 s with BUSY 0 and no accepted write. -/
def execMbLockTimeout (s : State) : Out :=
  if s.mb.owner != 0 && !s.mb.busy && decide (s.mb.last + msTicks 2000 ≤ s.tick) then
    .next { s with mb := { s.mb with owner := 0 } }
  else .next s

/-- PF_FLR (R377): a function level reset of the PF. -/
def execPfFlr (s : State) : Out :=
  .next { s with mb := { s.mb with owner := 0, args := Vector.replicate 32 0 } }

/-- MB_BAD_CMD (R378). -/
def execMbBadCmd (requester code : Nat) (s : State) : Out :=
  s.command requester code fun q => q.begin code resBadCmd none

/-- An entry count and its bytes, read from the host. -/
def State.hostTable (s : State) (a n size : Nat) : List (Nat × List Byte) :=
  (List.range n).map fun k => (k, s.host.readAll (a + size * k) size)

/-- Fields that a tensor table word holds; reserved bits stay 0 (R5, R114). -/
def entryMask (word v : Nat) : Nat :=
  match word with
  | 0 => fld v 0 52
  | 1 => fld v 0 48
  | 3 => fld v 34 30 * 2 ^ 34 + fld v 4 3 * 16 + fld v 0 3
  | _ => v % 2 ^ 64

/-- The tensor table of R403 word 16, without the entries that are zero. -/
def State.hostTensors (s : State) (a n : Nat) : List (Nat × Vector Word 4) :=
  ((s.hostTable a n 32).map fun q =>
    (q.1, Vector.ofFn fun (k : Fin 4) =>
      BitVec.ofNat 64 (entryMask k.val (leNat ((q.2.drop (8 * k.val)).take 8))))).filter
      fun q => q.2 != Vector.replicate 4 0

/-- Total SIZE of the HBM entries of a table (R121). -/
def hbmTotal (l : List (Nat × Vector Word 4)) : Nat :=
  (l.filter fun q => wfld (at' 0 q.2 3) 0 1 == 1 && entLoc q.2 == 0).foldl (fun z q => z + entSize q.2) 0

/-- The channel list of a mask in words 2 to 7. -/
def State.argChans (s : State) : List Nat :=
  (List.range 384).filter fun n => bit (s.arg (2 + n / 64)) (n % 64)

/-- The port mask of words 8 and 9. -/
def State.argPorts (s : State) : Nat := s.arg 8 % 2 ^ 64 + s.arg 9 % 2 ^ 64 * 2 ^ 64

/-- Words 0, 1 and 10 of R403 are well formed. -/
def State.argsOk (s : State) : Bool :=
  s.arg 0 == fld (s.arg 0) 0 6 + fld (s.arg 0) 8 2 * 256 && decide (fld (s.arg 0) 0 6 ≤ 35) &&
    (!bit (s.arg 0) 9 || bit (s.arg 0) 8) && decide (s.arg 1 < 2 ^ 36) && decide (1 ≤ fld (s.arg 10) 0 32) &&
    decide (fld (s.arg 10) 0 32 ≤ 3400) && decide (s.arg 10 < 2 ^ 36)

/-- Words 11 to 19 of R403 are well formed. -/
def State.tableArgsOk (s : State) : Bool :=
  decide (s.arg 11 < 2 ^ 32) && decide (s.arg 12 < 2 ^ 48) && decide (s.arg 13 < 2 ^ 32) && s.arg 15 % 4096 == 0 &&
    decide (s.arg 15 ≤ 64 * 2 ^ 20) && decide (s.arg 17 ≤ 65536) && decide (s.arg 19 ≤ 16384)

/-- A resource mask meets none of the other slices'. -/
def State.freeFor (s : State) (id squares ports : Nat) (chans : List Nat) : Bool :=
  (s.slices.filter fun v => v.id != id).all fun v =>
    v.squares &&& squares == 0 && v.ports &&& ports == 0 && v.chans.all fun c => !chans.contains c

/-- Sum of the caps of the other slices. -/
def State.capsBut (s : State) (id : Nat) : Nat := (s.slices.filter fun v => v.id != id).foldl (fun z v => z + v.cap) 0

/-- The starting step: the greatest valid step at or below the nominal step 3 and MAXSTEP. -/
def State.startStep (s : State) (maxStep : Nat) : Option Nat :=
  ((List.range 6).filter fun k => s.validStep k && decide (k ≤ 3) && decide (k ≤ maxStep)).getLast?

/-- A step of SLICE_CREATE or SLICE_RESIZE exhausts its attempts (R404). -/
def State.stepFails (s : State) (l : List Nat) : Bool := l.any fun k => Config.stepFails k s.tick

/-- Tiles of a set of squares. -/
def tilesOfSquares (squares : Nat) : List Nat := (List.range 2304).filter fun k => bit squares (squareOf k)

/-- Hard clears of the tiles of woken squares (R96, R401). -/
def State.wakeSquares (s : State) (squares : Nat) : State :=
  ((tilesOfSquares squares).foldl (fun (z : State) k =>
    z.putPhys k { z.physOf k with maxGen := 0, epoch := Vector.replicate 16 1 }) s).dropPins (tilesOfSquares squares)

/-- The slice that SLICE_CREATE makes (R378, R403, R404, R432). -/
def State.newSlice (s : State) (step : Nat) : Slice :=
  let p := s.arg 11
  let b := if s.arg 12 == 0 then p * 1000 else s.arg 12
  let tensors := s.hostTensors (s.arg 16) (s.arg 17)
  let bind := (s.hostTable (s.arg 18) (s.arg 19) 8).map fun q => (fld (leNat q.2) 0 14, fld (leNat q.2) 16 6)
  { id := fld (s.arg 0) 0 6, prot := bit (s.arg 0) 8, adbg := bit (s.arg 0) 9, squares := s.arg 1, chans := s.argChans
    ports := s.argPorts, cap := fld (s.arg 10) 0 32, maxStep := fld (s.arg 10) 32 4, tenant := s.arg 13, key := s.fresh
    step := step, pt := Mem.writeAll [] 0 (s.host.readAll (s.arg 14) (s.arg 15)), ptSize := s.arg 15, tensors := tensors
    fills := (tensors.filter fun q => entWver q.2 != 0).map fun q => { handle := q.1, all := true }
    bind := bind, purseP := p, purseB := b, purseR := b / 8, level := purseUnits b, created := s.tick, vf := false }

/-- SLICE_CREATE (R378, R392, R401 to R404, R422). -/
def execSliceCreate (requester : Nat) (s : State) : Out :=
  s.command requester 1 fun q =>
    if !q.argsOk || !q.tableArgsOk then q.begin 1 resBadArg none
    else
      let id := fld (q.arg 0) 0 6
      let tensors := q.hostTensors (q.arg 16) (q.arg 17)
      let pts := q.slices.foldl (fun z v => z + v.ptSize) 0
      let ok := (q.slice? id).isNone && q.freeFor id (q.arg 1) q.argPorts q.argChans && q.arg 1 != 0 && !q.argChans.isEmpty &&
        decide (q.capsBut id + fld (q.arg 10) 0 32 ≤ 3400) && decide (pts + q.arg 15 ≤ 256 * 2 ^ 20) &&
        decide (hbmTotal tensors ≤ q.argChans.length * 2 ^ 31) && !q.stepFails (List.range 10)
      match ok, q.startStep (fld (q.arg 10) 32 4) with
      | true, some k =>
        let v := q.newSlice k
        ({ q with fresh := q.fresh + 1, slices := q.slices ++ [v] }.wakeSquares v.squares).begin 1 resOk none
      | _, _ => q.begin 1 resRefused none

/-- The launches of a slice end (R406, R420): those not placed at once, the others at their freezes; `discard` drops the hampers
that lie in the cool box. -/
def State.endAll (s : State) (slice : Nat) (why : FreezeWhy) (discard : Bool) : State :=
  (s.launches.filter fun l => l.slice == slice && !l.done).foldl (fun (z : State) l =>
    match z.launch? l.id with
    | some m => z.endNow m why discard
    | none => z) s

/-- SLICE_DESTROY, step 1 (R406): no chain is read any more, every launch ends, and hampers in the cool box are discarded. -/
def execSliceDestroy (requester : Nat) (s : State) : Out :=
  s.command requester 2 fun q =>
    let id := fld (q.arg 0) 0 6
    match q.slice? id with
    | none => q.begin 2 resBadArg none
    | some sl =>
      let off := { sl with chains := sl.chains.map fun c => { c with enable := false } }
      ((q.putSlice off).endAll id .ended true).begin 2 resOk none

/-- SLICE_DESTROY, steps 2 to 5 (R406, R421): the final receipt, and the slice and all that it held are gone. -/
def State.dropSlice (s0 : State) (id : Nat) : State :=
  let s := s0.flushAll
  match s.slice? id with
  | none => s
  | some sl =>
    let mine (n : Nat) : Bool := s.launches.any fun l => l.id == n && l.slice == id
    { s with
      rc := { s.rc with finals := s.rc.finals ++ [(id, s.receipt sl true)] }
      slices := s.slices.filter fun v => v.id != id
      pins := s.pins.filter fun p => !mine p.2.1
      launches := s.launches.filter fun l => l.slice != id
      pitches := s.pitches.filter fun p => p.slice != id
      copies := s.copies.filter fun c => c.slice != id
      tlb := s.tlb.filter fun e => e.slice != id
      dev := { s.dev with sweeps := (sl.chans.map fun c => (c, 0)) ++ s.dev.sweeps.filter fun q => !sl.chans.contains q.1 } }

/-- Pitches that occupy squares of a mask. -/
def State.onSquares (s : State) (slice mask : Nat) : List Pitch :=
  s.pitches.filter fun p => p.slice == slice && p.physAll.any fun k => bit mask (squareOf k)

/-- A slice can keep to a new MAXSTEP: its step is no higher, or some valid step is (R403; notes/assumptions/54.md). -/
def State.canRun (s : State) (sl : Slice) (maxStep : Nat) : Bool :=
  decide (sl.aim ≤ maxStep) || (List.range (maxStep + 1)).any s.validStep

/-- A slice above a new MAXSTEP goes down to the highest valid step that it allows (R403, R407). -/
def State.lowered (s : State) (sl : Slice) (maxStep : Nat) : Option (Nat × Nat) :=
  if sl.aim ≤ maxStep then sl.newStep
  else ((List.range (maxStep + 1)).filter s.validStep).getLast?.map fun k => (k, changeAt s.tick)

/-- SLICE_RESIZE (R405): added squares and ports at once; squares leave when their pitches have moved. -/
def execSliceResize (requester : Nat) (s : State) : Out :=
  s.command requester 3 fun q =>
    let id := fld (q.arg 0) 0 6
    match q.slice? id with
    | none => q.begin 3 resBadArg none
    | some sl =>
      if !q.argsOk || q.argChans != sl.chans then q.begin 3 resBadArg none
      else
        let sq := q.arg 1
        let gone := (List.range 36).foldl (fun z k => if bit sl.squares k && !bit sq k then z + 2 ^ k else z) 0
        let added := (List.range 36).foldl (fun z k => if bit sq k && !bit sl.squares k then z + 2 ^ k else z) 0
        let must := q.onSquares id gone
        let keep := q.occupied id fun p => !must.any fun m => m.id == p.id
        let small := { sl with squares := sq, leaving := 0 }
        let fits := q.replaceAll small (must.filterMap fun p => q.launch? p.launch) keep
        let ok := q.freeFor id sq q.argPorts sl.chans && sq != 0 && decide (q.capsBut id + fld (q.arg 10) 0 32 ≤ 3400) &&
          fits && q.canRun sl (fld (q.arg 10) 32 4) && (sl.tdisp == .unlocked || sl.tdisp == .error) && !q.stepFails [0, 1, 2, 4]
        if !ok then q.begin 3 resRefused none
        else
          let v := { sl with
            squares := sl.squares ||| sq, leaving := gone, ports := q.argPorts, prot := bit (q.arg 0) 8
            adbg := bit (q.arg 0) 9, cap := fld (q.arg 10) 0 32, maxStep := fld (q.arg 10) 32 4
            newStep := q.lowered sl (fld (q.arg 10) 32 4)
            lowered := if sl.aim ≤ fld (q.arg 10) 32 4 then sl.lowered else q.tick }
          (((q.putSlice v).wakeSquares added).later
            (must.map fun p => .ev (.freezeRequestPost p.id .leave))).begin 3 resOk none

/-- The slice's configuration words are frozen: its interface is locked and has not left RUN (R420). -/
def Slice.frozenWords (sl : Slice) : Bool := sl.tdisp == .locked || sl.tdisp == .run

/-- A parameter word: none keeps the present value. -/
def param (v cur : Nat) (ok : Nat → Bool) : Option Nat := if v == 0xFFFFFFFF then some cur else if ok v then some v else none

/-- SLICE_PARAMS (R378); frozen words do not change (R420; notes/assumptions/55.md). -/
def execSliceParams (requester : Nat) (s : State) : Out :=
  s.command requester 4 fun q =>
    match q.slice? (fld (q.arg 0) 0 6) with
    | none => q.begin 4 resBadArg none
    | some sl =>
      match param (q.arg 1) sl.quantumMs fun v => decide (1 ≤ v) && decide (v ≤ 1000),
          param (q.arg 2) sl.pinKib fun v => v % 4 == 0 && decide (v ≤ 96),
          param (q.arg 3) sl.graceUs fun v => decide (v ≤ 10000), param (q.arg 4) sl.hamperMib fun v => decide (v ≤ 192) with
      | some a, some b, some c, some d =>
        let v := { sl with quantumMs := a, pinKib := b, graceUs := c, hamperMib := d }
        if sl.frozenWords && v != sl then q.begin 4 resRefused none else (q.putSlice v).begin 4 resOk none
      | _, _, _, _ => q.begin 4 resBadArg none

/-- DEBUG_GRANT (R378, R397, R420). -/
def execDebugGrant (requester : Nat) (s : State) : Out :=
  s.command requester 5 fun q =>
    match q.slice? (fld (q.arg 0) 0 6) with
    | none => q.begin 5 resBadArg none
    | some sl =>
      let on := bit (q.arg 1) 0
      if on && sl.prot && !sl.adbg then q.begin 5 resRefused none
      else (q.putSlice { sl with dbgGrant := on }).begin 5 resOk none

/-- A word of PURSE_SET: all ones keeps the present value (R434). -/
def purseWord (v cur : Nat) : Nat := if v == 2 ^ 64 - 1 then cur else v

/-- PURSE_SET (R432 to R434); frozen words do not change, the level may (R420; notes/assumptions/55.md). -/
def execPurseSet (requester : Nat) (s : State) : Out :=
  s.command requester 6 fun q =>
    match q.slice? (fld (q.arg 0) 0 6) with
    | none => q.begin 6 resBadArg none
    | some sl =>
      let p := purseWord (q.arg 1) sl.purseP
      let b := if q.arg 2 == 0 then p * 1000 else purseWord (q.arg 2) sl.purseB
      let r := if q.arg 3 == 0 then b / 8 else purseWord (q.arg 3) sl.purseR
      let action := fld (q.arg 4) 0 2
      if q.arg 0 != fld (q.arg 0) 0 6 || p == 0 || b == 0 || decide (2 ^ 47 ≤ b) || decide (b < r) || action == 3 then
        q.begin 6 resBadArg none
      else if sl.frozenWords && (p != sl.purseP || b != sl.purseB || r != sl.purseR) then q.begin 6 resRefused none
      else
        let w := purseUnits (toSigned 64 (q.arg 5 % 2 ^ 64))
        let l0 := if action == 1 then w else if action == 2 then sl.level + w else sl.level
        let lim := purseUnits b
        let l := if l0 < -lim then -lim else if lim < l0 then lim else l0
        let v := { sl with purseP := p, purseB := b, purseR := r, level := l, exhausted := sl.exhausted || decide (l ≤ 0) }
        (((q.putSlice v).ifExhausted sl.id sl.exhausted).later [.ev .purseResumeThreshold]).begin 6 resOk
          (some (ofSigned 64 (purseMicro l)))

/-- The claims of an attestation token, by key (R445). -/
def State.claims (s : State) (sl : Slice) (nonce : List Byte) : List (Int × List Byte) :=
  let steps := (List.range 16).flatMap fun k => leBytes 8 (s.stepWord k)
  let mask (f : Nat → Bool) (n : Nat) : List Byte := bitmap n f
  [(10, nonce), (256, 1 :: sha256 (Config.slhPublic true (expand Config.uds (ascii "EOL-DEVICEID")))),
    (259, ascii "EOL-2048M" ++ [BitVec.ofNat 8 Config.stepping]), (263, [if sl.dbgGrant then 0 else 1]),
    (273, s.dev.measure ++ leBytes 4 s.dev.svn ++ leBytes 4 s.dev.fwver),
    (-70001, leBytes 1 sl.id ++ leBytes 4 sl.tenant ++ leBytes 4 s.dev.epoch),
    (-70002, mask (bit sl.squares) 64 ++ mask (fun n => sl.chans.contains n) 384 ++ mask (bit sl.ports) 128),
    (-70003, steps ++ leBytes 1 sl.maxStep ++ leBytes 4 sl.cap), (-70004, leBytes 8 sl.purseP ++ leBytes 8 sl.purseB ++ leBytes 8 sl.purseR),
    (-70005, [BitVec.ofNat 8 (b2n sl.prot), BitVec.ofNat 8 (b2n sl.adbg), BitVec.ofNat 8 (match sl.tdisp with
      | .unlocked => 0
      | .locked => 1
      | .run => 2
      | .error => 3)]),
    (-70006, Config.slhPublic false s.receiptSeed)]

/-- The head of a CBOR item and the items that a token needs (RFC 8949; notes/assumptions/42.md): integers, byte and text
strings, arrays, maps. -/
def cborHead (major n : Nat) : List Byte :=
  if n < 24 then [BitVec.ofNat 8 (major * 32 + n)]
  else
    let k := if n < 2 ^ 8 then 0 else if n < 2 ^ 16 then 1 else if n < 2 ^ 32 then 2 else 3
    BitVec.ofNat 8 (major * 32 + 24 + k) :: beBytes (2 ^ k) n
def cborInt (i : Int) : List Byte := if 0 ≤ i then cborHead 0 i.toNat else cborHead 1 (-1 - i).toNat
def cborBytes (b : List Byte) : List Byte := cborHead 2 b.length ++ b
def cborText (b : List Byte) : List Byte := cborHead 3 b.length ++ b
def cborArray (l : List (List Byte)) : List Byte := cborHead 4 l.length ++ l.flatten
def cborMap (l : List (Int × List Byte)) : List Byte := cborHead 5 l.length ++ l.flatMap fun q => cborInt q.1 ++ q.2

/-- The protected header of the token: alg = −65,601 (R445). -/
def tokenProtected : List Byte := cborBytes (cborMap [(1, cborInt (-65601))])

/-- What the Alias key signs: the Sig_structure of COSE_Sign1 over the header and the claims (R445). -/
def sigStructure (payload : List Byte) : List Byte :=
  cborArray [cborText (ascii "Signature1"), tokenProtected, cborBytes [], cborBytes payload]

/-- The CBOR item of a claim's value (R445): nonce, ueid, hwmodel and RPK are byte strings and dbgstat is a number, by RFC 9711; how an
item holds several values is free (notes/assumptions/42.md). -/
def claimItem (key : Int) (v : List Byte) : List Byte :=
  if key == 263 then cborInt (leNat v : Nat)
  else if key == 10 || key == 256 || key == 259 || key == -70006 then cborBytes v
  else Config.claimCbor key v

/-- THE TOKEN (R444, R445): a COSE_Sign1 of the claims, with the Alias and DeviceID certificates in x5chain, signed with the Alias
key. -/
def State.token (s : State) (sl : Slice) (nonce : List Byte) : List Byte :=
  let payload := cborMap ((s.claims sl nonce).map fun q => (q.1, claimItem q.1 q.2))
  let certs := cborMap [(33, cborArray [cborBytes s.dev.aliasCert, cborBytes Config.deviceCert])]
  cborHead 6 18 ++ cborArray [tokenProtected, certs, cborBytes payload,
    cborBytes (Config.slhSign true (aliasSeed s.dev.cdi) (sigStructure payload))]

/-- ATTEST (R444). -/
def execAttest (requester : Nat) (s : State) : Out :=
  s.command requester 7 fun q =>
    match q.slice? (fld (q.arg 0) 0 6) with
    | none => q.begin 7 resBadArg none
    | some sl =>
      let t := q.token sl ((List.range 4).flatMap fun k => leBytes 8 (q.arg (1 + k)))
      if q.arg 6 < t.length then q.begin 7 resBadArg none
      else { q with host := q.host.writeAll (q.arg 5) t }.begin 7 resOk (some t.length)

/-- FW_STAGE's argument words and verification (R418): none is a malformed word. -/
def State.fwImage (s : State) : Option (List Byte) :=
  if decide (s.arg 1 ≤ 32 * 2 ^ 20) && decide (s.arg 2 < 2) then some (s.host.readAll (s.arg 0) (s.arg 1)) else none

/-- FW_STAGE with ACTION 0 (R418): the image boots from memory. -/
def execFwStageBoot (requester : Nat) (s : State) : Out :=
  s.command requester 8 fun q =>
    match q.fwImage with
    | none => q.begin 8 resBadArg none
    | some f => if !fwGood f || !q.slices.isEmpty then q.begin 8 resRefused none else q.bootImage f

/-- FW_STAGE with ACTION 1 (R418): the flash is written and the device resets. -/
def execFwStageFlash (requester : Nat) (s : State) : Out :=
  s.command requester 8 fun q =>
    match q.fwImage with
    | none => q.begin 8 resBadArg none
    | some f =>
      if !fwGood f || !q.slices.isEmpty then q.begin 8 resRefused none
      else { q with dev := { q.dev with flash := some f } }.bootFlash

/-- What a command still waits for: the launches of a slice under destruction and their records, the pitches on leaving squares
(R141, R405, R406). -/
def State.stillBusy (s : State) : Bool :=
  let id := s.mb.target
  s.mb.next == resOk && match s.mb.code with
    | 2 => s.launches.any fun l => l.slice == id && (!l.done || l.owed.isSome)
    | 3 => (match s.slice? id with
      | some sl => !(s.onSquares id sl.leaving).isEmpty
      | none => false)
    | _ => false

/-- MB_COMMAND_COMPLETE (R376, R405, R406): the last steps of a command, BUSY clears and the PF's vector is signalled. -/
def execMbCommandComplete (s : State) : Out :=
  if !s.mb.busy || s.stillBusy then .next s
  else
    let id := s.mb.target
    let s1 := if s.mb.next != resOk then s
      else match s.mb.code with
        | 1 => s.onSlice id fun v => { v with vf := true }
        | 2 => s.dropSlice id
        | 3 => (s.dropPins (tilesOfSquares (match s.slice? id with
            | some v => v.leaving
            | none => 0))).onSlice id fun v => { v with squares := (List.range 36).foldl (fun z k =>
              if bit v.squares k && !bit v.leaving k then z + 2 ^ k else z) 0, leaving := 0 }
        | _ => s
    let resp := match s.mb.nextResp with
      | some v => s1.mb.resp.setIfInBounds 0 v
      | none => s1.mb.resp
    .next ({ s1 with mb := { s1.mb with busy := false, result := s.mb.next, resp := resp, last := s.tick } }.signal 0 0)

end Sys2Proof.Machine
end

