-- ==== Sys2Proof/Machine/Seam.lean ====
section
/-! DEFINITION. The seam service and lost words (R410 to R413), fabric links (R414 to R416), and the HBM sweep (R421,
R422). -/

namespace Sys2Proof.Machine

/-- A pitch's footprint spans a die boundary. -/
def Pitch.spansBoundary (p : Pitch) (b : Nat) : Bool := (p.img.spans p.physAll).any fun q => q.1 == b

/-- SEAM_FAULT (R412): a stream-plane word that cannot land at `at_` is lost, and the pitch traps at that cycle. -/
def execSeamFault (pitch tile at_ : Nat) (s : State) : Out :=
  let lost (e : Pend) : Bool := e.at_ == at_ && match e.eff with
    | .land _ => true
    | _ => false
  let hit (t : Tile) : Tile :=
    match t.pend.find? lost with
    | none => t
    | some e => { t with pend := t.pend.erase e }.record
        { tau := at_, eng := .N, code := trapSeam, info := (t.engOf .N).pc, off := (t.engOf .N).pc, word := (t.engOf .N).pc }
  .next (s.onTile pitch tile hit)

/-- Change the state of a boundary. -/
def Dev.setSeam (d : Dev) (b v : Nat) : Dev := { d with seams := d.seams.setIfInBounds b v }

/-- Key of a crossing's spare on a plane. -/
def spareKey (copyPlane : Bool) (b c : Nat) : Nat := b2n copyPlane * 96 + 24 * b + c

/-- SEAM_LANE_THRESHOLD (R410): every pitch that spans the boundary is asked to freeze, and the repair waits. -/
def execSeamLaneThreshold (boundary : Nat) (copyPlane : Bool) (crossing : Nat) (s : State) : Out :=
  let astride := s.pitches.filter fun p => p.spansBoundary boundary
  let dev := { s.dev with repairing := (boundary, spareKey copyPlane boundary crossing) :: s.dev.repairing }
  .next (State.later { s with dev := dev }
    ((astride.map fun (p : Pitch) => Slot.ev (.freezeRequestPost p.id (.seam boundary))) ++ [Slot.ev (.seamServiceRepair boundary)]))

/-- One lane's repair: onto the spare, or the boundary is derated (R410). -/
def Dev.repair (d : Dev) (b key : Nat) : Dev :=
  if d.spares.contains key then d.setSeam b (Nat.max 2 (at' 0 d.seams b))
  else { d with spares := key :: d.spares }.setSeam b (Nat.max 1 (at' 0 d.seams b))

/-- SEAM_SERVICE_REPAIR (R410): once every pitch asked for has frozen, the lanes are repaired or the boundary is derated,
and the frozen pitches are placed again. -/
def execSeamServiceRepair (boundary : Nat) (s : State) : Out :=
  let waits := s.pitches.any fun p => p.spansBoundary boundary && p.reqs.contains (.seam boundary)
  let mine := s.dev.repairing.filter fun q => q.1 == boundary
  if waits || mine.isEmpty then .next s
  else
    let d := mine.foldl (fun (z : Dev) q => z.repair boundary q.2) s.dev
    let s1 := { s with dev := { d with repairing := d.repairing.filter fun q => q.1 != boundary } }
    .next (s1.slices.foldl (fun (z : State) v => z.schedule v.id) s1)

/-- Open requests of copies are lost (R130). -/
def State.loseCopies (s : State) (f : CopyRec → Req → Bool) : State :=
  s.copies.foldl (fun (z : State) c =>
    (c.reqs.filter (f c)).foldl (fun (y : State) r =>
      match y.copy? c.id with
      | some d => y.loseRequest { d with slow := true } r.id none
      | none => y) z) s

/-- Parts on their way to tiles across a failed boundary are lost (R130, R412). -/
def State.loseParts (s : State) (b : Nat) : State :=
  s.copies.foldl (fun (z : State) c =>
    let gone (q : Part) : Bool := decide (q.stage < 2) && (z.pitch? c.pitch).any fun p => crosses b (p.route c.tile q.tile)
    match z.copy? c.id with
    | some d => if d.parts.any gone then z.settle { d with lost := true, slow := true, parts := d.parts.filter fun q => !gone q } else z
    | none => z) s

/-- COPY_PLANE_CROSSING_DOWN (R412): flits move to other crossings; with all 24 down the boundary has failed, and requests
that cannot cross are lost, with the parts on their way. -/
def execCopyPlaneCrossingDown (boundary crossing : Nat) (s : State) : Out :=
  let k := 24 * boundary + crossing
  let down := if s.dev.crossDown.contains k then s.dev.crossDown else k :: s.dev.crossDown
  let all := (List.range 24).all fun c => down.contains (24 * boundary + c)
  let d := { s.dev with crossDown := down }
  let cut : State := { s with dev := d.setSeam boundary 3 }
  if all then .next ((cut.loseCopies cut.cutOff).loseParts boundary) else .next { s with dev := d }

/-- FABRIC_KEY_ROTATION (R415): in each direction that is due for one, a key is installed in the idle slot; the transmitter goes over
to it with a marker flit at a time of its own choice. -/
def execFabricKeyRotation (port key salt : Nat) (s : State) : Out :=
  let v := s.port port
  let new : KeySlot := { key := key, salt := salt, counter := 0, valid := true }
  let v1 := (v.installRx new).installTx new
  if keyDue v.tx v.txSlot then .next (s.putPort port (v1.drainQueue v1.queue.length))
  else if keyDue v.rx v.rxSlot then .next (s.putPort port v1)
  else .next s

/-- An accepted flit's effect at the receiving end (R414, R415): a marker retires the old slot, an acknowledgement frees the
oldest flits of the replay buffer, of a number that the manual leaves open (notes/assumptions/69.md), and what another package
sends to this one is delivered. -/
def Port.accept (v : Port) (slot ty dpkg pkg : Nat) (text : List Byte) : Port :=
  let k := slotAt v.rx slot
  let v1 := { v with expect := (v.expect + 1) % 2 ^ 32, rx := v.rx.setIfInBounds slot { k with counter := k.counter + 1 } }
  if ty == 3 then { v1 with rxSlot := 1 - slot, rx := v1.rx.setIfInBounds slot (slotAt v1.rx slot).retired }
  else
    let v2 := if ty == 2 then { v1 with replay := v1.replay.drop (Config.acked k.key k.counter) } else v1
    if ty < 3 && dpkg == pkg then { v2 with inbox := v2.inbox ++ [(ty, text)] } else v2

/-- FABRIC_FLIT_RECEIVE (R414 to R416): a flit of an unassigned TYPE is dropped; one that authenticates is accepted in SEQ order;
one that does not is answered with a negative acknowledgement. -/
def execFabricFlitReceive (port : Nat) (flit : List Nat) (s : State) : Out :=
  let v := s.port port
  let h := leNat ((flit.take 8).map fun b => BitVec.ofNat 8 b)
  let ty := fld h 56 8
  let slot := fld h 55 1
  let seq := fld h 0 32
  let k := slotAt v.rx slot
  if v.down || flit.length != 256 then .next s
  else if !k.valid || !(v.counters slot seq).any fun n => flitOpens k.key k.salt n flit then
    .next (s.putPort port { v with nacks := v.nacks ++ [seq] })
  else if seq != v.expect || decide (5 < ty) then .next s
  else .next (s.putPort port (v.accept slot ty (fld h 34 14) s.dev.pkg (flitText k.key k.salt k.counter flit)))

/-- A copy that moves data of another package for a slice that owns a port (R412, R416). -/
def State.usesPort (s : State) (p : Nat) (c : CopyRec) : Bool :=
  let remote (sd : Side) : Bool := match CopyRec.entryOf sd with
    | some (_, e) => entLoc e == 2
    | none => false
  (remote c.src || remote c.dst) && match s.slice? c.slice with
    | some sl => bit sl.ports p
    | none => false

/-- FABRIC_NACK_RECEIVE (R416): the named flit and every later one are sent again unchanged. The first negative acknowledgement
tells of the first sending and each later one of a resend: after 8 failed resends of a flit the link retrains and they are sent once
more, or the port goes down. -/
def execFabricNackReceive (port seq : Nat) (s : State) : Out :=
  let v := s.port port
  match v.replay.find? fun f => f.seq == seq with
  | none => .next s
  | some f =>
    let kept := v.replay.dropWhile fun g => g.seq != seq
    let again := kept.map fun g => if g.seq == seq then { g with fails := g.fails + 1 } else g
    if f.fails < 8 then .next (s.putPort port { v with replay := again, flits := v.flits + again.length })
    else if Config.retrains port s.tick then
      .next (s.putPort port { v with replay := again.map (fun g => { g with fails := 0 }), flits := v.flits + again.length })
    else .next ((s.putPort port { v with down := true, replay := again }).loseCopies fun c _ => s.usesPort port c)

/-- SWEEP_CHUNK_DONE (R421, R422): a 64 MiB chunk of a released channel holds zeros under a throwaway key, but for what a
new slice has written there; the progress is stored, and the house bears the energy of its bursts (R431). -/
def execSweepChunkDone (channel : Nat) (s : State) : Out :=
  match s.dev.sweeps.find? fun q => q.1 == channel && decide (q.2 < 32) with
  | none => .next s
  | some (_, n) =>
    let lo := channel * 2 ^ 25 + n * 2 ^ 20
    let live (k : Nat) : Bool := s.slices.any fun v => v.key == k
    let wipe (l : Line) : Line :=
      if decide (lo ≤ l.at_) && decide (l.at_ < lo + 2 ^ 20) && !live l.key then
        { l with key := s.fresh, tweak := 0, data := List.replicate 64 0 }
      else l
    .next { s with
      fresh := s.fresh + 1, hbm := s.hbm.map wipe
      rc := { s.rc with sweeps := s.rc.sweeps + 2 ^ 20 * Config.calEntry s.dev.epoch 1 channel 3 13 }
      dev := { s.dev with sweeps := mapIf (fun q => q.1 == channel) (fun q => (q.1, q.2 + 1)) s.dev.sweeps } }

end Sys2Proof.Machine
end

