-- ==== Sys2Proof/Machine/Window.lean ====
section
/-! DEFINITION. A slice's own registers (R393 to R397): translation faults, page tables and shootdowns, the tensor table,
slice semaphores, debug accesses; TDISP (R375, R420); the registers that only hold a value (R5). -/

namespace Sys2Proof.Machine

/-- The launch, tile and X state that an XCTL or fault-queue word names (R393). -/
def State.stoppedX (s : State) (slice v : Nat) : Option (Pitch × Nat) :=
  match s.pitches.find? fun p => p.slice == slice && match s.launch? p.launch with
      | some l => l.chain == fld v 32 3 && l.index == fld v 0 32
      | none => false with
  | none => none
  | some p =>
    let k := fld v 41 6 * p.img.w + fld v 35 6
    if decide (fld v 35 6 < p.img.w) && decide (k < p.tiles.length) && ((p.tiles.getD k {}).xs.stopped) then some (p, k) else none

/-- X goes on after a translation fault (R129). -/
def Tile.xResume (t : Tile) : Tile := { t with xs := { t.xs with stopped := false, told := false } }

/-- A hampered launch that an XCTL word names, with its tile. -/
def State.stoppedHamper (s : State) (slice v : Nat) : Option (Launch × Pitch × Nat) :=
  match s.launches.find? fun l => l.slice == slice && l.chain == fld v 32 3 && l.index == fld v 0 32 && !l.done with
  | none => none
  | some l =>
    match l.hamper with
    | none => none
    | some p =>
      let k := fld v 41 6 * p.img.w + fld v 35 6
      if decide (fld v 35 6 < p.img.w) && decide (k < p.tiles.length) && ((p.tiles.getD k {}).xs.stopped) then some (l, p, k) else none

/-- XCTL_RESUME (R129, R393). -/
def execXctlResume (slice v : Nat) (s : State) : Out :=
  match s.stoppedX slice v, s.stoppedHamper slice v with
  | some (p, k), _ => .next (s.onTile p.id k Tile.xResume)
  | none, some (l, p, k) => .next (s.putLaunch { l with hamper := some (p.onTile k Tile.xResume) })
  | none, none => .next s

/-- The fatal TRANSLATION of a stopped X (R38, R40, R393). -/
def Tile.xFatal (t : Tile) : Tile :=
  (t.xTrap t.xs.faultOff trapTranslation t.xs.faultVa t.xs.faultVa t.xs.faultWr).xResume

/-- XCTL_FATAL (R40, R393): the trap is registered at the cycle of the report; a frozen pitch ends at once. -/
def execXctlFatal (slice v : Nat) (s : State) : Out :=
  match s.stoppedX slice v, s.stoppedHamper slice v with
  | some (p, k), _ => .next (s.onTile p.id k Tile.xFatal)
  | none, some (l, p, k) =>
    let q := p.onTile k Tile.xFatal
    .next ((s.onSlice slice fun w => { w with faults := w.faults + 1 }).faultImage { l with ready := false } q q.faultRec)
  | none, none => .next s

/-- PT_DATA_WRITE (R394): one entry is replaced; walks may read either value until the next shootdown. -/
def execPtDataWrite (slice v : Nat) (s : State) : Out :=
  match s.slice? slice with
  | none => .next s
  | some sl =>
    if sl.ptSize < sl.ptOff + 8 then .next s
    else
      let old := leNat (sl.pt.readAll sl.ptOff 8)
      .next (s.putSlice { sl with
        pt := sl.pt.writeAll sl.ptOff (leBytes 8 v)
        ptOld := if sl.ptOld.any fun q => q.1 == sl.ptOff then sl.ptOld else (sl.ptOff, old) :: sl.ptOld })

/-- A TLB entry translated a request that has not performed (R394). -/
def State.tlbOpen (s : State) (id : Nat) : Bool := s.copies.any fun c => c.reqs.any fun r => r.tlb.contains id

/-- SHOOTDOWN_GO (R394): entries that overlap the range are invalid, and BUSY stands until their requests have performed. -/
def execShootdownGo (slice v : Nat) (s : State) : Out :=
  match s.slice? slice with
  | none => .next s
  | some sl =>
    let n := fld v 0 6
    if sl.sdBusy || decide (n < 12) || decide (52 < n) then .next s
    else
      let hit (e : TlbEnt) : Bool :=
        e.slice == slice && !e.dead && decide (e.va < sl.sdVa + 2 ^ n) && decide (sl.sdVa < e.va + e.size)
      let ids := (s.tlb.filter fun e => hit e && s.tlbOpen e.id).map fun e => e.id
      let keep := s.tlb.filter fun e => !hit e || s.tlbOpen e.id
      .next (State.putSlice { s with tlb := mapIf hit (fun e => { e with dead := true }) keep }
        { sl with sdBusy := true, sdSize := n, sdWait := ids, ptOld := [] })

/-- SHOOTDOWN_DONE (R394): every invalidated entry's requests have performed; vector 2, where the slice may
issue a request (R375). -/
def execShootdownDone (slice : Nat) (s : State) : Out :=
  match s.slice? slice with
  | none => .next s
  | some sl =>
    if !sl.sdBusy || sl.sdWait.any s.tlbOpen then .next s
    else
      let s1 := State.putSlice { s with tlb := s.tlb.filter fun e => !(e.slice == slice && e.dead) }
        { sl with sdBusy := false, sdDone := true, sdWait := [] }
      .next (if sl.active then s1.signal (slice + 1) 2 else s1)

/-- TENSOR_ENTRY_STAGE (R395). -/
def execTensorEntryStage (slice handle word v : Nat) (s : State) : Out :=
  .next (s.onSlice slice fun sl => { sl with
    staged := (handle, word, v) :: sl.staged.filter fun q => !(q.1 == handle && q.2.1 == word) })

/-- TENSOR_ENTRY_COMMIT (R118, R121, R395): word 3 commits the entry with its staged words and sets or clears its fill
bits; a table beyond the slice's capacity is refused. -/
def execTensorEntryCommit (slice handle v : Nat) (s : State) : Out :=
  match s.slice? slice with
  | none => .next s
  | some sl =>
    let word (k : Nat) : Word :=
      if k == 3 then BitVec.ofNat 64 (entryMask 3 v)
      else match sl.staged.find? fun q => q.1 == handle && q.2.1 == k with
        | some q => BitVec.ofNat 64 (entryMask k q.2.2)
        | none => at' 0 (tensorOf sl.tensors handle) k
    let e : Vector Word 4 := Vector.ofFn fun (k : Fin 4) => word k.val
    let others := sl.tensors.filter fun q => q.1 != handle
    let table := if e == Vector.replicate 4 0 then others else (handle, e) :: others
    if sl.capacity < hbmTotal table then .next (s.putSlice { sl with ttStat := sl.ttStat ||| 1 })
    else
      let fills := sl.fills.filter fun f => f.handle != handle
      .next (s.putSlice { sl with
        tensors := table, staged := sl.staged.filter fun q => q.1 != handle
        fills := if entWver e == 0 then fills else { handle := handle, all := true } :: fills })

/-- SLICE_SEM_SET (R396). -/
def execSliceSemSet (slice k v : Nat) (s : State) : Out :=
  match s.slice? slice with
  | none => .next s
  | some sl =>
    let q := { sl.sem k with count := fld v 0 32, ceiling := fld v 32 32, phase := 0, expect := 0, expValid := false, err := false }
    .next ((s.putSlice (sl.setSem k q)).wake slice)

/-- SLICE_SEM_HOST_POST (R106, R396): a refused post changes nothing but TT_STAT[1]. -/
def execSliceSemHostPost (slice k v : Nat) (s : State) : Out :=
  match s.slice? slice with
  | none => .next s
  | some sl =>
    let o := (sl.sem k).post (fld v 0 32)
    match o.2 with
    | .trap _ _ => .next (s.putSlice { sl with ttStat := sl.ttStat ||| 2 })
    | _ => .next ((s.putSlice (sl.setSem k o.1)).wake slice)

/-- The fields of DBG_CTL; its other bits are reserved and read 0 (R5, R397). -/
def dbgFields (v : Nat) : Nat := fld v 48 16 * 2 ^ 48 + fld v 42 3 * 2 ^ 42 + fld v 0 32

/-- A DBG_CTL write starts an access (R397). -/
def State.debugStart (s : State) (slice v : Nat) : State :=
  s.onSlice slice fun sl => if sl.dbgBusy || fld v 60 2 == 3 then sl else { sl with dbgCtl := dbgFields v, dbgBusy := true }

/-- DEBUG_READ (R397). -/
def execDebugRead (slice v : Nat) (s : State) : Out := .next (s.debugStart slice v)

/-- DEBUG_WRITE (R397). -/
def execDebugWrite (slice v : Nat) (s : State) : Out := .next (s.debugStart slice v)

/-- The slice holds the debug capability (R98, R397, R420). -/
def Slice.mayDebug (sl : Slice) : Bool := sl.dbgGrant && (!sl.prot || sl.adbg)

/-- Sixty-four bytes of a tile for a debugger, and whether they are current (R98). -/
def Tile.debugGet (t : Tile) (kind addr : Nat) : List Byte × Bool :=
  if kind == 0 then (t.spmBytes (addr / 64 * 64) 64, t.spmCur (addr / 64))
  else
    let r := addr / 128 % 16
    let row := addr / 2 % 64
    let cur := t.descCur r && t.rowCur r row
    (if cur then (List.range 64).map fun i => BitVec.ofNat 8 (t.gridByte r row (64 * (addr % 2) + i)) else zeroBytes 64, cur)

/-- A debugger's write of sixty-four bytes, as a program write (R90, R98). It sets the tag of what it writes, as R98's table has it
under R90, where R98's text has no debugger access change a tag (DEDUCED, notes/assumptions/123.md). -/
def Tile.debugPut (t : Tile) (kind addr : Nat) (data : List Byte) : Tile :=
  let bytes (base : Nat) : List MByte :=
    (List.range 64).map fun i => { addr := base + i, val := (data.getD i 0).toNat }
  if kind == 0 then t.spmWrite (bytes (addr / 64 * 64))
  else t.gridWrite (addr / 128 % 16) (addr / 2 % 64) (bytes (64 * (addr % 2)))

/-- DEBUG_ACCESS_DONE (R98, R397): the access completes and BUSY clears; accesses to a tile that clears wait (R97). -/
def execDebugAccessDone (slice : Nat) (s : State) : Out :=
  match s.slice? slice with
  | none => .next s
  | some sl =>
    if !sl.dbgBusy then .next s
    else
      let v := sl.dbgCtl
      let wr := fld v 62 2 == 2
      let kind := fld v 60 2
      let finish (z : State) (data : List Byte) (cur : Bool) : State := z.onSlice slice fun q =>
        { q with dbgBusy := false, dbgData := if wr then q.dbgData else data, dbgNot := !cur }
      let l := s.launches.find? fun l => l.slice == slice && l.chain == fld v 42 3 && l.index == fld v 0 32
      match sl.mayDebug, l with
      | true, some l =>
        if kind == 2 then
          match l.hamper with
          | some h => .next (if wr then finish s [] false
              else
                let image := if l.kind == 2 then l.plain else s.hamperPlain l h
                finish s (fit 64 ((image.drop (sl.dbgAddr / 64 * 64)).take 64)) true)
          | none => .next (finish s (zeroBytes 64) false)
        else
          (match s.pitch? l.id with
          | none => .next (finish s (zeroBytes 64) false)
          | some p =>
            let x := fld v 48 6
            let y := fld v 54 6
            match p.tiles[y * p.img.w + x]?, decide (x < p.img.w) with
            | some t, true =>
              if t.clearing.isSome || (kind == 0 && t.banksNow.contains (sl.dbgAddr / 64 % 16)) then .next s
              else if wr then
                .next (finish (s.onTile p.id (y * p.img.w + x) fun t => t.debugPut kind sl.dbgAddr sl.dbgData) []
                  (t.debugGet kind sl.dbgAddr).2)
              else let r := t.debugGet kind sl.dbgAddr; .next (finish s r.1 r.2)
            | _, _ => .next (finish s (zeroBytes 64) false))
      | _, _ => .next (finish s (zeroBytes 64) false)

/-- TDISP_LOCK_INTERFACE (R420). -/
def execTdispLockInterface (slice : Nat) (s : State) : Out :=
  .next (s.onSlice slice fun sl => if sl.prot && sl.tdisp == .unlocked then { sl with tdisp := .locked } else sl)

/-- TDISP_RUN (R375): the interface answers, and requests for the slice begin. -/
def execTdispRun (slice : Nat) (s : State) : Out :=
  match s.slice? slice with
  | none => .next s
  | some sl =>
    if sl.prot && sl.tdisp == .locked then .next (((s.putSlice { sl with tdisp := .run }).wake slice).schedule slice)
    else .next s

/-- TDISP_ERROR (R420): the interface leaves RUN; every pitch is frozen and every launch ends with ENDED. -/
def execTdispError (slice : Nat) (s : State) : Out :=
  match s.slice? slice with
  | none => .next s
  | some sl =>
    if sl.tdisp == .run then .next ((s.putSlice { sl with tdisp := .error }).endAll slice .tdisp false) else .next s

/-- PKG_WRITE (R402): an MCTP write, while no slice exists. -/
def execPkgWrite (v : Nat) (s : State) : Out :=
  if s.slices.isEmpty then .next { s with dev := { s.dev with pkg := fld v 0 14 } } else .next s

/-- A chain register that only holds a value (R379). -/
def Chain.hold (c : Chain) (off v : Nat) : Chain :=
  if c.enable then c
  else if off == 0 then { c with base := fld v 6 46 * 64 }
  else if off == 8 then { c with recBase := fld v 6 46 * 64 }
  else c

/-- A register of VF BAR0 that only holds a value, or clears the bits written as 1 (R379, R393 to R397). -/
def Slice.hold (sl : Slice) (off v : Nat) : Slice :=
  let clear (x m : Nat) : Nat := (List.range 2).foldl (fun z k => if bit x k && !bit m k then z + 2 ^ k else z) 0
  if decide (0x100 ≤ off) && decide (off < 0x300) then
    sl.setChain ((off - 0x100) / 64) ((sl.chain ((off - 0x100) / 64)).hold (off % 64) v)
  else
    match off with
    | 0x30 => { sl with ttStat := clear sl.ttStat v }
    | 0x400 => { sl with fqBase := v % 2 ^ 64 }
    | 0x408 => { sl with fqEnable := bit v 8, fqLog2n := fld v 0 4 }
    | 0x418 => { sl with fqHead := v % 2 ^ 32 }
    | 0x500 => { sl with ptOff := fld v 3 61 * 8 }
    | 0x510 => { sl with sdVa := fld v 12 52 * 4096 }
    | 0x520 => { sl with sdDone := sl.sdDone && !bit v 1 }
    | 0x608 => { sl with dbgAddr := v % 2 ^ 64 }
    | _ =>
      if decide (0x640 ≤ off) && decide (off < 0x680) then
        { sl with dbgData := (fit 64 sl.dbgData).take (off - 0x640) ++ leBytes 8 v ++ (fit 64 sl.dbgData).drop (off - 0x640 + 8) }
      else sl

/-- REGISTER_WRITE (R5, R376, R429, R442): a register that has no behaviour of its own takes the value of its fields. -/
def execRegisterWrite (fn bar off v : Nat) (s : State) : Out :=
  if fn == 0 && bar == 0 then
    if decide (0x200 ≤ off) && decide (off < 0x300) then
      .next { s with mb := { s.mb with args := s.mb.args.setIfInBounds ((off - 0x200) / 8) (v % 2 ^ 64) } }
    else
      match off with
      | 0x400 => .next (if s.rc.enable then s else { s with rc := { s.rc with base := fld v 8 44 * 256 } })
      | 0x440 => .next { s with rc := { s.rc with calSel := fld v 20 6 * 2 ^ 20 + fld v 0 14 } }
      | _ => .next s
  else if bar == 0 then .next (s.onSlice (fn - 1) fun sl => sl.hold off v)
  else .next s

end Sys2Proof.Machine
end

