-- ==== Sys2Proof/Machine/Slots.lean ====
section
/-! DEFINITION. The wall cycles of a placed pitch, cut into the slots that a step takes (R13 to R34, R42 to R48, R99 to
R101), and the events of tiles and pitches. -/

namespace Sys2Proof.Machine

/-- The instruction that C issues at the lookahead's cycle is a SAFE (R46). -/
def safeAhead (env : Env) (t : Tile) : Bool :=
  match groupIn env t .C env.holdLead with
  | some (_, [q]) => (match q.i with
    | .safe _ => true
    | _ => false)
  | _ => false

/-- A posted request waits for a SAFE point (R46, R47). -/
def Pitch.wantsSafe (p : Pitch) : Bool := !p.reqs.isEmpty && p.tauR.isNone && p.safeAt.isNone

/-- A tile is held in its present wall cycle, the first cycle after a pulse included (R27). -/
def Pitch.heldNow (p : Pitch) (t : Tile) : Bool :=
  match t.mode with
  | .pulse 0 => p.heldAt { t with reach := p.wall }
  | .anchor 0 => p.heldAt { t with reach := p.wall }
  | _ => p.heldAt t

/-- Whether an asynchronous item of a kind makes its next move in this tick. -/
def State.goes (s : State) (kind id : Nat) : Bool := Config.fires (16 * id + kind) s.tick

/-- The start of a wall cycle: beats that collide are stopped before they land, results that perform are in place; then
lookaheads and admissions follow, tile by tile. -/
def State.cycleStart (s : State) (pid : Nat) : State :=
  match s.pitch? pid with
  | none => s
  | some p =>
    let p1 := (p.mapTiles fun k t => tileStart (s.envOf p k) (p.heldNow t) t).linkRules
    let turn (k : Nat) (t : Tile) : Tile := blockTurn (s.envOf p k) (p1.xStop t) (s.goes 14 (4096 * pid + k)) t
    let q := p1.mapTiles fun k t => turn k (tileBegin (s.envOf p k) t)
    let slots := (List.range q.tiles.length).flatMap fun k =>
      let t := q.tiles.getD k {}
      let env := s.envOf q k
      (if hasLook env t || (q.wantsSafe && t.live && safeAhead env t) then [Slot.ev (.lookahead pid k)] else []) ++
        [Slot.group pid k .C, .group pid k .V, .group pid k .M, .group pid k .N]
    (s.putPitch q).soon (slots ++ [.cycleMid pid, .cycleReads pid, .cycleEnd pid, .pitchEnd pid])

/-- Count one tile's look at a SAFE (R46). -/
def Pitch.addSafe (p : Pitch) (c : Nat) (ok : Bool) : Pitch :=
  let old := p.safeTry.find? fun q => q.1 == c
  let n := match old with
    | some q => (c, q.2.1 + 1, q.2.2 && ok)
    | none => (c, 1, ok)
  let q := { p with safeTry := n :: p.safeTry.filter fun q => q.1 != c }
  if n.2.1 == p.tiles.length && n.2.2 && p.wantsSafe then { q with safeAt := some c } else q

/-- LOOKAHEAD (R26, R46): the tile's waiting groups F cycles ahead are decided; a SAFE is tried. A SAFE whose lookahead cycle a
re-anchor skips, or that lies before local cycle 0, is never tried (notes/assumptions/98.md). -/
def execLookahead (pid k : Nat) (s : State) : Out :=
  match s.pitch? pid, s.tile? pid k with
  | some p, some t =>
    let env := s.envOf p k
    if !t.live then .next s
    else
      let t1 := lookFor env env.holdLead t
      let q := p.onTile k fun _ => t1
      if !(p.wantsSafe && safeAhead env t) then .next (s.putPitch q)
      else
        let grace := match s.slice? p.slice with
          | some sl => usTicks sl.graceUs
          | none => 0
        let ok := decide (p.postedP ≤ t.tl) && decide (s.tick ≤ p.postedAt + grace) && t.xs.slots == 0 &&
          t.xs.copies.isEmpty && t.xs.asks.isEmpty
        .next (s.putPitch (q.addSafe (t.tl + env.holdLead) ok))
  | _, _ => .next s

/-- Point the cursor at an engine's group. -/
def State.aim (s : State) (pid k : Nat) (e : Engine) (gid gpc pc : Nat) : State :=
  { s with cur := { pitch := pid, tile := k, eng := e, gid := gid, iid := 0, gpc := gpc, pc := pc } }

/-- A group issues: its instructions follow one by one (R14). -/
def State.pushGroup (s : State) (pid k : Nat) (e : Engine) (gpc : Nat) (l : List Placed) : State :=
  let gid := match s.tile? pid k with
    | some t => t.gseq + 1
    | none => 0
  let s1 := s.onTile pid k fun t => { t with gseq := t.gseq + 1 }
  s1.soon ((List.range l.length).filterMap fun n => l[n]?.map fun q =>
    Slot.instr { pitch := pid, tile := k, eng := e, gid := gid, iid := n, gpc := gpc, pc := q.pc })

/-- The scratchpad address of a C LD or ST that its checks let through (R203). -/
def cAddr (t : Tile) (i : Instr) : Option Nat :=
  match i with
  | .ld _ _ ga sz _ off => let a := lsAddr (t.reg .C ga) sz off; if lsBad a sz then none else some a
  | .st _ _ ga sz off => let a := lsAddr (t.reg .C ga) sz off; if lsBad a sz then none else some a
  | _ => none

/-- A C LD or ST reads a stale register where that is STALE_READ (R188). -/
def cStale (t : Tile) (i : Instr) : Bool :=
  match i with
  | .ld _ _ ga _ _ _ => t.staleTrap && t.anyStale .C [ga]
  | .st _ gs ga _ _ => t.staleTrap && t.anyStale .C [gs, ga]
  | _ => false

/-- One engine's turn in a cycle of a tile that is followed ahead. A wait on X, a semaphore or a time holds by then: a hold adds
no local cycle (R27). -/
def engineTurn (env : Env) (t : Tile) (e : Engine) : Tile :=
  let pc := (t.engOf e).pc
  let c : Ctx := { env := env, eng := e, gid := t.gseq + 1, gpc := pc, pc := pc, iss := t.tl }
  match enterBy (staticTrap env t e) env t e with
  | .quiet => idleTick t e
  | .expiry => idleExpiry (idleTick t e) c
  | .illegal _ _ => t.trap c trapIllegal
  | .trap _ code => t.trap c code
  | .run _ l => (List.range l.length).foldl (fun q n =>
      match l[n]? with
      | some x => if (q.engOf e).halted then q else issueOf x.i q { c with iid := n, pc := x.pc, len := x.len }
      | none => q) { t with gseq := t.gseq + 1 }

/-- A tile followed ahead passes to its next local cycle. -/
def turnOver (env : Env) (t : Tile) : Tile :=
  tileBegin env (tileStart env false { tileEnd env t with out := [], mode := .run })

/-- The bank cycles of C groups that have not issued yet are no choice: they keep no bank from V, M and N (R99). -/
def freeOfC (n : Nat) (t : Tile) : Tile := { t with banks := t.banks.filter fun b => !(b.own.eng == .C && decide (n < b.own.gid)) }

/-- The next `n` local cycles of a tile whose present one has begun and whose groups up to number `g` have issued, each as its
reads leave it: the static schedule as it stands, followed in this tile (R99). -/
def ahead (env : Env) (g : Nat) : Nat → Tile → List Tile
  | 0, _ => []
  | n + 1, t =>
    let u := tileReads env (tileMid env (freeOfC g ([Engine.C, .V, .M, .N].foldl (engineTurn env) t)))
    u :: ahead env g n (turnOver env u)

/-- The next `n` local cycles of tile `j`, while C of tile `k` is admitted: tiles before `k` have issued what they issue in this
wall cycle. -/
def Pitch.aheadOf (p : Pitch) (env : Env) (j k n : Nat) : List Tile :=
  let t := p.tiles.getD j {}
  match t.mode with
  | .rdv _ _ => []
  | .rpulse _ _ _ => []
  | .frozen => []
  | _ =>
    if !t.live then ahead env t.gseq n (tileBegin env (tileStart env false { t with mode := .run }))
    else if j < k then
      let u := tileReads env (tileMid env t)
      (u :: ahead env t.gseq (n - 1) (turnOver env u)).take n
    else ahead env t.gseq n t

/-- The bank cycles of landings that sends still to issue make in tile `k` within six cycles of its present one (R99, R275). -/
def State.landingsAhead (s : State) (p : Pitch) (k : Nat) : List BankUse :=
  let t := p.tiles.getD k {}
  (List.range p.tiles.length).flatMap fun j =>
    let u := p.tiles.getD j {}
    let env := s.envOf p j
    let way := arrival env u.x u.y 0 ((t.x : Int) - u.x) ((t.y : Int) - u.y)
    (p.aheadOf env j k (t.tl + 7 - way - u.tl)).flatMap fun z => z.out.filterMap fun g =>
      match g with
      | .word x y at_ own (.granule off _) =>
        if x == t.x && y == t.y then some { at_ := at_, bank := off / 64 % 16, own := own } else none
      | _ => none

/-- The bank cycles that a C group's accesses choose at its issue, from left to right, where `known` holds the accesses that are
reserved or foreseen; none where one of them finds no cycle (R99; notes/assumptions/13.md). -/
def pickBanks (t : Tile) (known : List BankUse) (gid gpc : Nat) (l : List Placed) : Option (List BankUse) :=
  (List.range l.length).foldl (fun (r : Option (List BankUse)) n =>
    match r, (l[n]?).bind fun q => cAddr t q.i with
    | some us, some a =>
      (firstFree (us ++ known) (a / 64 % 16) 6 (t.tl + 1)).map fun k =>
        us ++ [{ at_ := k, bank := a / 64 % 16, own := ⟨.C, gid, n, gpc⟩, iss := t.tl }]
    | r, _ => r) (some [])

/-- What C's accesses meet: what is reserved, what V, M and N of the tile still issue, and landings. -/
def State.banksAhead (s : State) (p : Pitch) (k : Nat) (t : Tile) : List BankUse :=
  t.banks ++ s.landingsAhead p k ++
    (ahead (s.envOf p k) t.gseq 7 t).flatMap fun u => u.banks.filter fun b => b.at_ == u.tl && b.own.eng != .C

/-- The bank cycles of a C group; a group without an access, or with a stale register in trap mode in an access, chooses none (R99,
R188; the choice is final). An access without a cycle is BANK_COLLISION before any other trap of the group (DESIGN CHOICE,
notes/assumptions/13.md). -/
def State.planBanks (s : State) (p : Pitch) (k : Nat) (t : Tile) (gid gpc : Nat) (l : List Placed) : Option (List BankUse) :=
  if (l.all fun q => (cAddr t q.i).isNone) || l.any fun q => cStale t q.i then some []
  else pickBanks t (s.banksAhead p k t) gid gpc l

/-- The admission of a static engine's next group (R13, R18, R26, R30, R31, R165 to R169, R194). -/
def State.openGroup (s : State) (pid k : Nat) (e : Engine) : State :=
  match s.pitch? pid, s.tile? pid k with
  | some p, some t =>
    let env := s.envOf p k
    let s1 := s.onTile pid k fun t => idleTick t e
    let pc := (t.engOf e).pc
    (match enter env t e with
    | .quiet => s1
    | .expiry => (s1.aim pid k e (t.gseq + 1) pc pc).soon [.ev .idleCountExpiry]
    | .illegal gpc w => (s.aim pid k e (t.gseq + 1) gpc w).soon [.ev .illegalEncoding]
    | .trap gpc code =>
      let c : Ctx := { env := env, eng := e, gid := t.gseq + 1, gpc := gpc, pc := gpc, iss := t.tl }
      s.onTile pid k fun t => t.trap c code
    | .run gpc l =>
      if e == .C then
        match s.planBanks p k t (t.gseq + 1) gpc l with
        | some us => (s.onTile pid k fun t => { t with banks := t.banks ++ us }).pushGroup pid k e gpc l
        | none =>
          let c : Ctx := { env := env, eng := e, gid := t.gseq + 1, gpc := gpc, pc := gpc, iss := t.tl }
          s.onTile pid k fun t => t.trap c trapBank
      else s.pushGroup pid k e gpc l)
  | _, _ => s

/-- IDLE_COUNT_EXPIRY (R194, R197): the last cycle of the cursor's IDLE. -/
def execIdleCountExpiry (s : State) : Out := s.atTile 1 fun t c => idleExpiry t c

/-- ILLEGAL_ENCODING (R169): the group at the cursor is suppressed with a fatal trap. -/
def execIllegalEncoding (s : State) : Out := s.atTile 1 fun t c => illegalGroup t c

/-- Remote takes, phase waits and claims are tried in every cycle at their tiles (R298). -/
def State.tryRemotes (s : State) (p : Pitch) : State :=
  (s.msgs.filter fun m => m.pitch == p.id && m.phase == .trying && waitsAt m.op && !p.stopped m).foldl (fun (z : State) m =>
    match m.dest with
    | .tile k =>
      let from' := p.tiles.getD m.tile {}
      z.onTile p.id k fun t => if t.clearing.isSome || t.locked then t else stageRemote m from'.y from'.x t
    | _ => z) s

/-- Parts on their way reach their banks (R101). -/
def State.reachBanks (s : State) (p : Pitch) : State :=
  let area := p.physAll
  let move (q : Part) : Part :=
    if q.stage == 1 && area.contains q.phys && s.goes 1 q.id then { q with stage := 2, age := p.wall } else q
  { s with copies := s.copies.map fun c => { c with parts := c.parts.map move } }

/-- What waits for a bank of a tile in this wall cycle, oldest first; an arrival before X's own access (R101). -/
def State.bankTurns (s : State) (p : Pitch) (k : Nat) : List Slot :=
  let t := p.tiles.getD k {}
  let phys := p.physOf t.x t.y
  let reads := (s.copies.filter fun c => c.pitch == p.id && c.tile == k && c.left.isEmpty).flatMap fun c =>
    match c.src with
    | .spm _ _ => (c.reqs.filter fun r => r.phase == .fetch).map fun r => (2 * r.age, Slot.ev (.copySourceRead c.id r.id))
    | _ => []
  let lands := s.copies.flatMap fun c => (c.parts.filter fun q => q.stage == 2 && q.phys == phys).map fun q =>
    (2 * q.age, Slot.ev (.copyPartArrival c.id q.id))
  let own := (2 * (t.xs.tryAt.getD p.wall) + 1, Slot.xTurn p.id k)
  (sortOn (fun (q : Nat × Slot) => q.1) (lands ++ reads ++ [own])).map fun q => q.2

/-- The middle of a wall cycle, every static group issued: collisions and the rules of rendezvous, remote waits, then what the
banks leave. -/
def State.cycleMid (s : State) (pid : Nat) : State :=
  match s.pitch? pid with
  | none => s
  | some p0 =>
    let p := (p0.rdvAtIssue.linkRules.mapTiles fun k t => tileMid (s.envOf p0 k) t).landRules
    let s1 := ((s.putPitch p).tryRemotes p).reachBanks p
    let q := (s1.pitch? pid).getD p
    let sends := q.tiles.filterMap fun t => t.xs.copying.map fun c => Slot.ev (.copyRequestDispatch c)
    s1.soon (sends ++ [.bankTurns pid])

/-- The copies of this wall cycle are dispatched: what waits for a bank takes its turn, in every tile (R101, R285). -/
def State.bankStart (s : State) (pid : Nat) : State :=
  match s.pitch? pid with
  | none => s
  | some p => s.soon ((List.range p.tiles.length).flatMap fun k => s.bankTurns p k)

/-- The reads and scratchpad writes of a wall cycle in every tile. -/
def State.cycleReads (s : State) (pid : Nat) : State :=
  match s.pitch? pid with
  | none => s
  | some p => s.putPitch ((p.chargeLandings (s.envOf p)).mapTiles fun k t => tileReads (s.envOf p k) t)

/-- Streams that X's instruction would move by a delta in this cycle (R87, R214). -/
def xDeltas (env : Env) (t : Tile) (i : Instr) (c : Ctx) : List Nat :=
  ((streamMoves env (issueOf i t c)).filter fun a => a.2.own.eng == .X).map fun a => a.1

/-- Static moves of one of these streams in this cycle. -/
def xMeets (env : Env) (t : Tile) (l : List Nat) : List Pend :=
  ((streamMoves env t).filter fun b => b.2.own.eng != .X && l.contains b.1).map fun b => b.2

/-- STREAM_COLLISION between X's loop-back and static moves: X's instruction is suppressed before it has any effect, and each
static group is trapped (R38, R87). -/
def xCollide (c : Ctx) (l : List Pend) (t : Tile) : Tile :=
  l.foldl (fun q b =>
    if q.traps.any fun r => r.code == trapStreamCollision && r.tau == q.tl && r.eng == b.own.eng then q
    else q.trapAny b.own b.iss q.tl trapStreamCollision) (t.trap c trapStreamCollision)

/-- X would issue but for a bank (R99, R101). -/
def bankOnly (env : Env) (t : Tile) (stop : Bool) : Bool :=
  xOpen t stop && !xMoves env t && match groupAt .X (env.codeOf .X) (t.engOf .X).pc with
    | .ok (q :: _) => xReady t (preOfInstr q.i) q.i
    | _ => false

/-- An SPOST, SFADD or SCAS that X would apply to its own tile's semaphore waits until the tile's earlier messages to that
semaphore have acted; in the cycle in which one acts it would come before it (R108, R138, R296). -/
def State.inOrder (s : State) (p : Pitch) (k : Nat) (i : Instr) : Bool :=
  let sem : Option Nat := match i with
    | .spost _ o => if o.obj == 0 then some o.index else none
    | .sfadd _ o => if o.obj == 0 then some o.index else none
    | .scas _ o => if o.obj == 0 then some o.index else none
    | _ => none
  sem.all fun n => !s.msgs.any fun m =>
    m.pitch == p.id && m.tile == k && m.dest == .tile k && m.phase != .back && m.op.writes == some n

/-- X's turn in a wall cycle (R15, R97, R99). -/
def State.xTurn (s : State) (pid k : Nat) : State :=
  match s.pitch? pid, s.tile? pid k with
  | some p, some t =>
    let r := clearTick (s.envOf p k) t
    let s0 := if t.clearing.isNone && r.1.clearing.isSome then s.dropPins [p.physOf t.x t.y] else s
    let s1 := s0.onTile pid k fun _ => r.1
    if r.2 then s1.soon [.ev (.hardClearDone pid k)]
    else
      let env := s.envOf p k
      let stop := p.xStop t || match groupAt .X (env.codeOf .X) (t.engOf .X).pc with
        | .ok (q :: _) => !s.inOrder p k q.i
        | _ => false
      let u := xFetch env r.1 stop
      let s2 := s1.onTile pid k fun _ => u
      (match xAdmit env u stop with
      | .run pc l =>
        let c : Ctx := { env := env, eng := .X, gid := t.gseq + 1, gpc := pc, pc := pc, iss := env.wall
                         len := match l.head? with
                           | some q => q.len
                           | none => 1 }
        let moved := match l.head? with
          | some q => xDeltas env u q.i c
          | none => []
        let met := xMeets env u moved
        let s3 := s2.onTile pid k fun t => { t with xs := { t.xs with fetched := [], tryAt := none } }
        if met.isEmpty && !moved.any u.collided.contains then s3.pushGroup pid k .X pc l else s3.onTile pid k (xCollide c met)
      | .illegal gpc w => (s2.aim pid k .X (t.gseq + 1) gpc w).soon [.ev .illegalEncoding]
      | _ => if bankOnly env u stop then s2.onTile pid k fun t => xTried env t else s2)
  | _, _ => s

/-- HARD_CLEAR_DONE (R97): the clear that a GENCLR's lookahead started has run its 12,800 cycles. -/
def execHardClearDone (pid k : Nat) (s : State) : Out :=
  .next (s.onTile pid k fun t => match t.clearing with
    | some n => if n ≤ 1 then t.clearEnd else t
    | none => t)

/-- The end of a wall cycle in every tile. -/
def State.cycleEnd (s : State) (pid : Nat) : State :=
  match s.pitch? pid with
  | none => s
  | some p => s.putPitch (p.mapTiles fun k t => (tileEnd (s.envOf p k) t).holdBack)

/-- Posts to other packages that left in this cycle go out as flits, each charged with its acknowledgement (R280, R292). -/
def State.sendPosts (s : State) (p : Pitch) (first : Nat) : State :=
  (s.msgs.filter fun m => m.pitch == p.id && decide (first ≤ m.id)).foldl (fun (z : State) m =>
    match m.dest with
    | .fabric pkg _ _ => if pkg == s.dev.pkg then z else z.sendFlit p.slice p.id m.tile pkg 1
    | .tile _ => z
    | .slice _ => z) s

/-- Copies that completed in this cycle leave (R134). -/
def State.dropDone (s : State) (pid : Nat) : State :=
  let out := (s.copies.filter fun c => c.pitch == pid && c.done).map fun c => c.id
  let clear (t : Tile) : Tile := { t with xs := { t.xs with copies := t.xs.copies.filter fun k => !out.contains k } }
  if out.isEmpty then s
  else
    { s with
      copies := s.copies.filter fun c => !out.contains c.id
      pitches := mapIf (fun p => p.id == pid) (fun p => p.mapTiles fun _ => clear) s.pitches }

/-- Copies whose X dispatches nothing more before a resume let their cut parts set out (R127, R129). -/
def State.cutCopies (s : State) (p : Pitch) : State :=
  let stalled (k : Nat) : Bool :=
    let t := p.tiles.getD k {}
    t.xs.stopped || p.xStop t || (t.engOf .X).halted
  let waits (c : CopyRec) : Bool := c.pitch == p.id && c.left.isEmpty && decide (c.next < c.total) && stalled c.tile
  { s with copies := mapIf waits CopyRec.cutParts s.copies }

/-- Nothing of the pitch's outstanding X work is left that a freeze completes (R43): requests on the slow path stay
behind, waits that have not succeeded are withdrawn, and a message to a tile whose block has not committed stays on its way
(R372). -/
def State.drainedFor (s : State) (p : Pitch) : Bool :=
  (s.copies.all fun c => c.pitch != p.id || !c.left.isEmpty || c.slow ||
    (c.reqs.isEmpty && c.parts.isEmpty && !c.done && !c.complete)) &&
    (s.msgs.all fun m => m.pitch != p.id || p.keeps m || (m.wait && m.phase != .back)) &&
    p.tiles.all fun t => t.clearing.isNone && t.semOps.isEmpty && t.out.isEmpty && t.pend.all fun e => e.own.eng != .X

/-- The meters of the slice for one wall cycle of a placed pitch: a tile that has stopped for a freeze is still occupied (R431,
R437). -/
def State.countCycle (s : State) (p : Pitch) : State :=
  let owned := (p.tiles.filter fun t => t.mode != .frozen).length
  let active := (p.tiles.filter fun t => t.issued).length
  s.onSlice p.slice fun v =>
    let d := p.tiles.foldl (fun l (t : Tile) => addDyn l (squareOf (p.physOf t.x t.y)) p.id 0 1) v.dyn
    { v with cycOwned := v.cycOwned + owned, cycActive := v.cycActive + active, dyn := d }

/-- The end of a wall cycle of a pitch: signals, holds, rendezvous, freezes and completion (R26, R33, R43, R48). -/
def State.pitchEnd (s : State) (pid : Nat) : State :=
  match s.pitch? pid with
  | none => s
  | some p0 =>
    let first := s.fresh
    let r := absorbAll s p0
    let s1 := ((r.1.putPitch r.2).sendPosts r.2 first).dropDone pid
    match s1.pitch? pid with
    | none => s1
    | some p1 =>
      let p2 := p1.rdvRules.gatherHolds.stopTiles
      let s2 := (s1.countCycle p2).cutCopies p2
      let p3 := { p2 with
        wall := p2.wall + 1
        safeTry := p2.safeTry.filter fun q => p2.tiles.any fun t => decide (t.tl ≤ q.1) }
      let s3 := s2.putPitch p3
      if p3.rdvReady then s3.soon [.ev (.rendezvousResume pid)]
      else if p3.finished && !p0.allStopped then s3.soon [.ev (.pitchComplete pid)]
      else if p3.allStopped && s3.drainedFor p3 then s3.soon [.ev (.freeze pid)]
      else s3

/-- HOLD_RELEASE (R27): the q of a hold is known, and every tile issues the stop cycle after its own q wall cycles. -/
def execHoldRelease (pid stop : Nat) (s : State) : Out :=
  match s.pitch? pid with
  | none => .next s
  | some p =>
    let known (h : Hold) : Hold := { h with q := p.holdQ stop }
    .next (s.putPitch { p with holds := mapIf (fun h => h.stop == stop && h.q.isNone) known p.holds })

/-- RENDEZVOUS_RESUME (R26, R32): every tile's TIME_LOCAL becomes A, the lookaheads that the re-anchor skips are made, and
the tiles restart at their offsets. A freeze that is registered stops them at A (R44). -/
def execRendezvousResume (pid : Nat) (s : State) : Out :=
  match s.pitch? pid with
  | none => .next s
  | some p => if p.rdvReady then .next (s.putPitch (s.firstLooks p.reanchored).stopTiles) else .next s

/-- FREEZE_REQUEST_POST (R41, R42, R46, R47). -/
def execFreezeRequestPost (pid : Nat) (why : FreezeWhy) (s : State) : Out :=
  match s.pitch? pid with
  | none => .next s
  | some p =>
    let grace := match s.slice? p.slice with
      | some sl => sl.graceUs
      | none => 0
    .next (s.putPitch (p.post why grace s.tick))

/-- GRACE_WINDOW_EXPIRY (R47). -/
def execGraceWindowExpiry (pid : Nat) (s : State) : Out :=
  match s.pitch? pid with
  | none => .next s
  | some p => .next (s.putPitch p.expire)

/-- FREEZE (R37, R43, R44, R127, R387). -/
def execFreeze (pid : Nat) (s : State) : Out :=
  match s.pitch? pid with
  | none => .next s
  | some p => if p.allStopped && s.drainedFor p then .next (s.freezeNow p) else .next s

/-- PITCH_COMPLETE (R48). -/
def execPitchComplete (pid : Nat) (s : State) : Out :=
  match s.pitch? pid with
  | none => .next s
  | some p => if p.finished then .next (s.completeNow p) else .next s

/-- PITCH_PLACEMENT (R19, R20, R93, R161, R346). -/
def execPitchPlacement (launch : Nat) (s : State) : Out :=
  match s.launch? launch with
  | none => .next s
  | some l => if l.hamper.isSome then .next s else .next (s.place l)

/-- PITCH_RESUME (R45, R93, R387). -/
def execPitchResume (launch : Nat) (s : State) : Out :=
  match s.launch? launch with
  | none => .next s
  | some l => .next (s.resume l)

/-- GENERATION_WRAP_CLEAR (R93, R96). -/
def execGenerationWrapClear (launch : Nat) (s : State) : Out :=
  match s.launch? launch with
  | none => .next s
  | some l => if l.wrapping then .next (s.wrapClear l) else .next s

/-- PITCH_MOVE (R386): the pitch is frozen to be placed elsewhere; no pitch moves twice in a quantum. -/
def execPitchMove (launch : Nat) (s : State) : Out :=
  match s.launch? launch with
  | none => .next s
  | some l =>
    match s.pitch? l.id with
    | none => .next s
    | some p =>
      let grace := match s.slice? p.slice with
        | some sl => sl.graceUs
        | none => 0
      let q := p.post .move grace s.tick
      if p.moved then .next s else .next (s.putPitch { q with moved := true })

/-- QUANTUM_END (R385): the pitch has run one more full quantum, and ready pitches are placed or displace others. -/
def execQuantumEnd (pid : Nat) (s : State) : Out :=
  match s.pitch? pid with
  | none => .next s
  | some p =>
    let s1 := (s.putPitch { p with fullQuantum := true, moved := false }).onLaunch p.launch fun l => { l with moved := false }
    .next (s1.schedule p.slice)

end Sys2Proof.Machine
end

