-- ==== Sys2Proof/Machine/Regs.lean ====
section
/-! DEFINITION. The register maps of the device: what a read of a BAR returns, and the event that a write is (R374 to
R379, R393 to R399, R402, R420, R429, R442). -/

namespace Sys2Proof.Machine

/-- DEV_INFO (R402). -/
def State.devInfo (s : State) (off : Nat) : Nat :=
  let d := s.dev
  match off with
  | 0x00 => 2 ^ 48 + 2 ^ 40 + Config.stepping % 256 * 2 ^ 32 + 0x1F
  | 0x08 => d.svn * 2 ^ 32 + d.fwver
  | 0x10 => d.epoch * 2 ^ 32 + b2n d.recovery
  | 0x18 => (2304 - d.holes.length) * 2 ^ 32 + d.retired.length * 2 ^ 16 + d.fused
  | 0x20 => d.pkg
  | 0x28 => (List.range 4).foldl (fun z b => z + at' 0 d.seams b * 4 ^ b) 0
  | 0x30 => 6
  | _ => if decide (0x40 ≤ off) && decide (off < 0xC0) then s.stepWord ((off - 0x40) / 8) else 0

/-- CAL_DATA word k at the selection of CAL_SEL (R429). -/
def State.calData (s : State) (k : Nat) : Nat :=
  let kind := fld s.rc.calSel 24 2
  let step := fld s.rc.calSel 20 4
  let n := fld s.rc.calSel 0 14
  if !s.validStep step then 0
  else
    match kind with
    | 0 => if n < 2304 && k < 12 then Config.calEntry s.dev.epoch 0 n step k else 0
    | 1 => if n < 384 && 12 ≤ k && k < 16 then Config.calEntry s.dev.epoch 1 n step k else 0
    | 2 => if n < 128 && k == 16 then Config.calEntry s.dev.epoch 2 n step k else 0
    | _ => if n < 36 && k < 18 then Config.calLeak s.dev.epoch n step k % 2 ^ 32 else 0

/-- Word at byte `off` of the hole map (R399). -/
def State.holeWord (s : State) (off : Nat) : Nat :=
  leNat ((List.range 8).map fun b => BitVec.ofNat 8 ((List.range 8).foldl (fun z i =>
    if s.dev.holes.contains (8 * (off + b) + i) then z + 2 ^ i else z) 0))

/-- PF BAR0 (R376, R399, R402, R429, R442). -/
def State.pfRead (s : State) (off : Nat) : Nat :=
  if off < 0x100 then s.devInfo off
  else if decide (0x200 ≤ off) && decide (off < 0x300) then at' 0 s.mb.args ((off - 0x200) / 8)
  else if decide (0x300 ≤ off) && decide (off < 0x400) then at' 0 s.mb.resp ((off - 0x300) / 8)
  else if decide (0x480 ≤ off) && decide (off < 0x580) then s.calData ((off - 0x480) / 8)
  else if decide (0x1000 ≤ off) && decide (off < 0x1120) then s.holeWord (off - 0x1000)
  else
    match off with
    | 0x100 => s.mb.owner
    | 0x118 => s.mb.code * 2 ^ 16 + b2n s.mb.busy * 2 ^ 8 + s.mb.result
    | 0x400 => s.rc.base
    | 0x408 => b2n s.rc.enable * 2 ^ 8 + s.rc.log2n
    | 0x410 => s.rc.interval
    | 0x418 => s.rc.tail
    | 0x420 => s.rc.head
    | 0x428 => s.rc.lost
    | 0x440 => s.rc.calSel
    | _ => 0

/-- A chain's registers (R379). -/
def Chain.regRead (c : Chain) (off : Nat) : Nat :=
  match off with
  | 0x00 => c.base
  | 0x08 => c.recBase
  | 0x10 => b2n c.enable * 2 ^ 8 + b2n c.loc * 2 ^ 7 + c.log2n
  | 0x18 => c.tail
  | 0x20 => c.done
  | _ => 0

/-- VF BAR0 (R379, R393 to R397). What PT_DATA and SD_CTL read as is not stated: a free value. -/
def State.vfRead (s : State) (sl : Slice) (off : Nat) : Nat :=
  if decide (0x100 ≤ off) && decide (off < 0x300) then (sl.chain ((off - 0x100) / 64)).regRead (off % 64)
  else if decide (0x640 ≤ off) && decide (off < 0x680) then leNat (((fit 64 sl.dbgData).drop (off - 0x640)).take 8)
  else if decide (0x10000 ≤ off) && decide (off < 0x20000) then
    ((sl.sem ((off - 0x10000) / 16)).word (off / 8 % 2)).toNat
  else
    match off with
    | 0x30 => sl.ttStat
    | 0x400 => sl.fqBase
    | 0x408 => b2n sl.fqEnable * 2 ^ 8 + sl.fqLog2n
    | 0x410 => sl.fqTail
    | 0x418 => sl.fqHead
    | 0x500 => sl.ptOff
    | 0x508 => Config.freeNat s.fresh % 2 ^ 64
    | 0x510 => sl.sdVa
    | 0x518 => Config.freeNat s.fresh % 2 ^ 64
    | 0x520 => b2n sl.sdBusy + 2 * b2n sl.sdDone
    | 0x600 => sl.dbgCtl
    | 0x608 => sl.dbgAddr
    | 0x610 => b2n sl.dbgBusy + 2 * b2n sl.dbgNot
    | _ => 0

/-- The slice behind a function's BARs, where they answer: the function is enabled, and a TDISP interface runs; a protected
slice is not reached through MCTP (R375, R404, R420). -/
def State.answering (s : State) (fn : Nat) (mctp : Bool) : Option Slice :=
  match s.slice? (fn - 1) with
  | some sl => if sl.vf && sl.active && !(mctp && sl.prot) then some sl else none
  | none => none

/-- What configuration space reports (R374). -/
def ConfigField.value (f : ConfigField) : Nat :=
  match f with
  | .totalVfs => 36
  | .firstVfOffset => 1
  | .vfStride => 1
  | .barSize fn bar =>
    if fn == 0 then (if bar == 0 then 64 * 1024 else 0)
    else if decide (fn ≤ 36) && bar == 0 then 256 * 1024
    else if decide (fn ≤ 36) && bar == 2 then 2 * 2 ^ 20
    else 0
  | .msixVectors fn => if fn == 0 then 1 else if fn ≤ 36 then 3 else 0
  | .maxPayload => 512
  | .maxReadRequest => 4096
  | .doe fn => if fn == 0 then 1 else 0
  | .spdmVersion => 0x13
  | .ideStreams => 36
  | .linkIde => 0

/-- A REGISTER READ (R375): only a naturally aligned 8-byte access of a function that answers reads a register. -/
def State.regRead (s : State) (fn bar off size : Nat) (mctp : Bool) : Nat :=
  if size != 8 || off % 8 != 0 || !s.dev.booted then 0
  else if fn == 0 then (if bar == 0 then s.pfRead off else 0)
  else
    match s.answering fn mctp, bar with
    | some sl, 0 => s.vfRead sl off
    | some sl, 2 => (at' 0 (tensorOf sl.tensors (off / 32)) (off / 8 % 4)).toNat
    | _, _ => 0

/-- An MB_CMD write by its CODE (R376, R378, R418). -/
def State.mbCommand (s : State) (v : Nat) : Instr :=
  let r := fld v 48 16
  match fld v 0 16 with
  | 1 => .sliceCreate r
  | 2 => .sliceDestroy r
  | 3 => .sliceResize r
  | 4 => .sliceParams r
  | 5 => .debugGrant r
  | 6 => .purseSet r
  | 7 => .attest r
  | 8 => if bit (s.arg 2) 0 then .fwStageFlash r else .fwStageBoot r
  | k => .mbBadCmd r k

/-- A write of PF BAR0 (R376, R402, R429, R442). -/
def State.pfWrite (s : State) (off v : Nat) (mctp : Bool) : Option Instr :=
  if decide (0x200 ≤ off) && decide (off < 0x300) then some (.registerWrite 0 0 off v)
  else
    match off with
    | 0x20 => if mctp then some (.pkgWrite v) else none
    | 0x100 => some (.mbLock v)
    | 0x108 => some (.mbUnlock v)
    | 0x110 => some (s.mbCommand v)
    | 0x400 => some (.registerWrite 0 0 off v)
    | 0x408 => some (.rcCfgEnable v)
    | 0x410 => some (.rcIntWrite v)
    | 0x420 => some (.rcHeadWrite v)
    | 0x440 => some (.registerWrite 0 0 off v)
    | _ => none

/-- A write of a chain's registers (R379, R384). -/
def chainWrite (slice fn off v : Nat) : Option Instr :=
  let c := (off - 0x100) / 64
  match off % 64 with
  | 0x00 => some (.registerWrite fn 0 off v)
  | 0x08 => some (.registerWrite fn 0 off v)
  | 0x10 => some (if bit v 8 then .chainEnable slice c v else .chainDisable slice c v)
  | 0x18 => some (.chTailWrite slice c v)
  | 0x28 => some (.chCancel slice c v)
  | _ => none

/-- A write of VF BAR0 (R379, R393 to R397). -/
def vfWrite (fn off v : Nat) : Option Instr :=
  let slice := fn - 1
  if decide (0x100 ≤ off) && decide (off < 0x300) then chainWrite slice fn off v
  else if decide (0x640 ≤ off) && decide (off < 0x680) then some (.registerWrite fn 0 off v)
  else if decide (0x10000 ≤ off) && decide (off < 0x20000) then
    some (if off / 8 % 2 == 0 then .sliceSemSet slice ((off - 0x10000) / 16) v else .sliceSemHostPost slice ((off - 0x10000) / 16) v)
  else
    match off with
    | 0x30 => some (.registerWrite fn 0 off v)
    | 0x400 => some (.registerWrite fn 0 off v)
    | 0x408 => some (.registerWrite fn 0 off v)
    | 0x418 => some (.registerWrite fn 0 off v)
    | 0x420 => if fld v 48 2 == 1 then some (.xctlResume slice v) else if fld v 48 2 == 2 then some (.xctlFatal slice v) else none
    | 0x500 => some (.registerWrite fn 0 off v)
    | 0x508 => some (.ptDataWrite slice v)
    | 0x510 => some (.registerWrite fn 0 off v)
    | 0x518 => if bit v 8 then some (.shootdownGo slice v) else none
    | 0x520 => some (.registerWrite fn 0 off v)
    | 0x600 => if fld v 62 2 == 1 then some (.debugRead slice v) else if fld v 62 2 == 2 then some (.debugWrite slice v) else none
    | 0x608 => some (.registerWrite fn 0 off v)
    | _ => none

/-- A REGISTER WRITE (R375, R395): the event that it is, if it is one. -/
def State.writeEvent (s : State) (fn bar off size v : Nat) (mctp : Bool) : Option Instr :=
  if size != 8 || off % 8 != 0 || !s.dev.booted then none
  else if fn == 0 then (if bar == 0 then s.pfWrite off v mctp else none)
  else
    match s.answering fn mctp, bar with
    | some _, 0 => vfWrite fn off v
    | some _, 2 =>
      if 2 ^ 21 ≤ off then none
      else some (if off / 8 % 4 == 3 then .tensorEntryCommit (fn - 1) (off / 32) v else .tensorEntryStage (fn - 1) (off / 32) (off / 8 % 4) v)
    | _, _ => none

end Sys2Proof.Machine
end

