-- ==== Sys2Proof/Machine/Agenda.lean ====
section
/-! DEFINITION. What happens next when nothing is under way: an input that is due, else the next half nanosecond, with
everything that a tick of the device does (R12, R13, R15, R32, R376, R407, R409, R430 to R433, R436). -/

namespace Sys2Proof.Machine

/-- Events whose cause lies outside the machine's state. -/
def external (i : Instr) : Bool :=
  match i with
  | .fabricPostDelivery _ _ _ | .fabricPostAck _ _ | .remoteFailureReport _ | .hbmUncorrectableRead _ _
  | .pcieCompletionError _ _ | .slowPathLossReport _ _ | .seamFault _ _ _
  | .copyPlaneCrossingDown _ _ | .sramCorrectedError _ | .sramUncorrectableError _ _ | .tdispLockInterface _
  | .tdispRun _ | .tdispError _ | .fabricFlitReceive _ _ | .fabricNackReceive _ _ | .fabricKeyRotation _ _ _ | .pfFlr
  | .powerCut | .boot => true
  | _ => false

/-- An event may come from outside: a device without power only boots (R417, R424). -/
def State.takes (s : State) (i : Instr) : Bool := external i && (s.dev.booted || i == .boot)

/-- A numeric sensor's reading (R423): the value of its last update, and that of its square for a square's temperature; no
other ID is a sensor. -/
def sensorValue (id tick : Nat) : Option Int :=
  if id == 0 || decide (56 < id) then none
  else if decide (7 ≤ id) && decide (id ≤ 42) then some (Config.sqTemp (id - 7) (tick / msTicks 1) : Nat)
  else some (Config.sensor id (tick / msTicks (if id ≤ 6 then 1 else if id ≤ 54 then 10 else 100)))

/-- The module cuts power (R424): a square's junction reads 110 °C, or the input has been above 4,400 W for 10 ms. -/
def State.cutsPower (s : State) : Bool :=
  let ms := s.tick / msTicks 1
  (List.range 36).any (fun q => decide (110 ≤ Config.sqTemp q ms)) ||
    decide (10 ≤ ms) && (List.range 10).all fun k => decide (4400 < Config.sensor 2 (ms - k))

/-- A lane's error is counted, of the 32 data lanes and the spare lane of a crossing; above 1,000 within any second the seam service
acts (R410). -/
def State.laneError (s : State) (b : Nat) (plane : Bool) (c lane : Nat) : State :=
  let k := spareKey plane b c * 33 + lane
  let l := (k, s.tick) :: s.dev.laneErrs.filter fun q => decide (s.tick < q.2 + msTicks 1000)
  if 1000 < (l.filter fun q => q.1 == k).length then
    { s with dev := { s.dev with laneErrs := l.filter fun q => q.1 != k } }.later [.ev (.seamLaneThreshold b plane c)]
  else { s with dev := { s.dev with laneErrs := l } }

/-- AN INPUT ARRIVES. -/
def State.input (s : State) (i : Input) : State :=
  match i with
  | .event e => if s.takes e then s.later [.ev e] else s
  | .read fn bar off size mctp => { s with readData := s.regRead fn bar off size mctp, fresh := s.fresh + 1 }
  | .write fn bar off size v mctp =>
    match s.writeEvent fn bar off size v mctp with
    | some e => s.later [.ev e]
    | none => s
  | .host a b => { s with host := s.host.writeAll a b }
  | .laneError b plane c lane => s.laneError b plane c lane
  | .ideKey slice key => s.onSlice slice fun sl => if sl.prot then { sl with ide := some key } else sl
  | .sensor id => match sensorValue id s.tick with
    | some v => { s with readData := (BitVec.ofInt 64 v).toNat }
    | none => s
  | .config f => { s with readData := f.value }
  | .remote pkg src slice handle at_ n bytes => s.remoteRequest pkg src slice handle at_ n bytes

/-- Events of a condition. -/
def evIf (c : Bool) (i : Instr) : List Slot := if c then [.ev i] else []

/-- A slice's clock after one tick (R407): a tile cycle passes when it reaches 2,000. -/
def Slice.clockTick (sl : Slice) (tick : Nat) : Slice :=
  if tick < sl.clockStop then sl
  else
    let c := sl.clock + stepMhz sl.step
    if 2000 ≤ c then { sl with clock := c - 2000, msCycles := sl.msCycles + 1 } else { sl with clock := c }

/-- A tile cycle passes in the tick. -/
def Slice.beats (sl : Slice) (tick : Nat) : Bool := decide (sl.clockStop ≤ tick) && decide (2000 ≤ sl.clock + stepMhz sl.step)

/-- The purse's refill in one tick (R432): P mW, up to B. -/
def Slice.refill (sl : Slice) : Slice :=
  let l := sl.level + (sl.purseP : Int) * 2 ^ 35
  let b := purseUnits sl.purseB
  { sl with level := if b < l then b else l }

/-- Copies that a removed pitch left behind and that are complete leave (R92). -/
def State.dropLeft (s : State) : State :=
  { s with copies := s.copies.filter fun c => !(c.done && !c.left.isEmpty && (s.pitch? c.pitch).isNone) }

/-- THE TICK: time moves on by half a nanosecond; records that waited are written. -/
def State.tickOn (s : State) : State :=
  let q := s.payRecords.dropLeft
  { q with tick := s.tick + 1, slices := q.slices.map fun v => (v.refill).clockTick (s.tick + 1) }

/-- The till, the clocks and the mailbox in a tick. -/
def State.deviceSlots (s : State) : List Slot :=
  let ms := s.tick % msTicks 1 == 0
  evIf (s.slices.any fun v => match v.newStep with
    | some q => decide (q.2 ≤ s.tick)
    | none => false) .stepChange ++
  (if s.tick % usTicks 1 == 0 then s.pitches.map fun p => .ev (.chargeArrival p.id) else []) ++
  evIf ms .tillMsAccounting ++ evIf ms .powerCapTick ++ evIf (ms && s.cutsPower) .powerCut ++
  evIf (s.mb.owner != 0 && !s.mb.busy && decide (s.mb.last + msTicks 2000 ≤ s.tick)) .mbLockTimeout ++
  evIf (s.mb.busy && (s.goes 0 0 || (s.mb.code == 1 && decide (s.mb.started + msTicks 50 ≤ s.tick)) ||
    (s.mb.code == 7 && decide (s.mb.started + msTicks 400 ≤ s.tick)))) .mbCommandComplete ++
  evIf (!s.dev.recovery && decide (s.rc.start + msTicks s.rc.running ≤ s.tick)) .receiptIntervalEnd ++
  evIf (match s.rc.held with
    | b :: rest => s.rc.room b && (s.goes 9 0 || !rest.isEmpty || decide (s.rc.start + msTicks 40 ≤ s.tick))
    | [] => false) .receiptBatchRelease ++
  (s.dev.sweeps.filter fun q => decide (q.2 < 32) && s.goes 6 q.1).map fun q => .ev (.sweepChunkDone q.1)

/-- A slice's own events in a tick (R380, R393, R394, R397). -/
def State.sliceSlots (s : State) (sl : Slice) : List Slot :=
  ((List.range 8).flatMap fun c =>
    evIf (sl.active && s.mayRead sl.id c (sl.chain c) && s.goes 7 (8 * sl.id + c)) (.descriptorRead sl.id c)) ++
  evIf (sl.sdBusy && !(sl.sdWait.any s.tlbOpen) && s.goes 11 sl.id) (.shootdownDone sl.id) ++
  evIf (sl.dbgBusy && s.goes 10 sl.id) (.debugAccessDone sl.id)

/-- A pitch's own events in a tick beside its cycles (R47, R385, R393). -/
def State.pitchSlots (s : State) (p : Pitch) : List Slot :=
  match s.slice? p.slice with
  | none => []
  | some sl =>
    let room := decide (sub32 sl.fqTail sl.fqHead < 2 ^ sl.fqLog2n)
    ((List.range p.tiles.length).flatMap fun k =>
      let t := p.tiles.getD k {}
      evIf (t.xs.stopped && !t.xs.told && sl.fqOn && room && s.goes 8 (4096 * p.id + k)) (.faultQueueWrite sl.id p.id k)) ++
    evIf (decide (p.since < s.tick) && sl.quantum != 0 && (s.tick - p.since) % sl.quantum == 0) (.quantumEnd p.id) ++
    evIf (p.wantsSafe && decide (p.postedAt + usTicks sl.graceUs ≤ s.tick)) (.graceWindowExpiry p.id)

/-- What a copy does in a tick outside the tiles' banks (R15, R128, R134, R285). -/
def State.copySlots (s : State) (c : CopyRec) : List Slot :=
  let fromSpm := match c.src with
    | .spm _ _ => true
    | _ => false
  let lost (q : Part) : Bool := q.stage != 0 && (s.atPhys q.phys).isNone && s.goes 1 q.id
  evIf (c.walk.isSome && s.goes 3 c.id) (.translationWalkDone c.id) ++
  evIf (!c.left.isEmpty && decide (c.next < c.total) && s.goes 13 c.id) (.copyRequestDispatch c.id) ++
  (c.reqs.flatMap fun r =>
    evIf ((r.phase == .slow || (r.phase == .fetch && (!fromSpm || !c.left.isEmpty))) && s.goes 4 r.id) (.copySourceRead c.id r.id) ++
    evIf (c.toTensor && s.goes 5 r.id && match r.phase with
      | .carry _ => true
      | _ => false) (.tensorWritePerform c.id r.id)) ++
  (c.parts.flatMap fun q => evIf (lost q) (.copyPartArrival c.id q.id)) ++
  evIf c.complete (.copyComplete c.id)

/-- The message acts in this package. -/
def State.within (s : State) (d : MsgTo) : Bool :=
  match d with
  | .fabric pkg _ _ => pkg == s.dev.pkg
  | .tile _ => true
  | .slice _ => true

/-- Two messages of a native tile act in their order: each is an SPOST, SFADD or SCAS to one semaphore (R138); no order holds
between posts over the fabric. -/
def Msg.ordered (q m : Msg) : Bool :=
  m.op.writes.isSome && q.dest == m.dest && q.op.writes == m.op.writes && match m.dest with
    | .fabric _ _ _ => false
    | .tile _ => true
    | .slice _ => true

/-- A message of the same tile that must act first is still under way: in native code by R138, and in block code every earlier one
within the package, since effects become visible in op order and an operation observes those before it (R370). -/
def State.behind (s : State) (m : Msg) : Bool :=
  let block := (s.pitch? m.pitch).any fun p => p.img.block
  s.msgs.any fun q => decide (q.id < m.id) && q.phase == .going && q.pitch == m.pitch && q.tile == m.tile &&
    if block then s.within q.dest && s.within m.dest else q.ordered m

/-- What a message does in a tick (R15, R138, R298, R299). -/
def State.msgSlots (s : State) (m : Msg) : List Slot :=
  let go := s.goes 2 m.id && !s.behind m
  match m.phase, m.dest with
  | .back, _ => evIf (s.goes 2 m.id) (.remoteSyncReply m.id)
  | .going, .tile k => evIf (go && !(s.tile? m.pitch k).any Tile.locked) (.remoteSyncArrival m.id)
  | .going, .slice _ => evIf go (.sliceSemOp m.id)
  | .going, .fabric pkg _ _ => evIf (go && pkg == s.dev.pkg) (.sliceSemOp m.id)
  | .trying, .slice _ => evIf (!((s.pitch? m.pitch).any fun p => p.stopped m)) (.sliceSemOp m.id)
  | .trying, _ => []

/-- The pitches whose tile clock ticks: holds that end are released, then the wall cycle runs (R12, R27). -/
def State.cycleSlots (s : State) (beats : List Nat) : List Slot :=
  (s.pitches.filter fun p => beats.contains p.slice).flatMap fun p =>
    (match p.releaseDue with
    | some c => [.ev (.holdRelease p.id c)]
    | none => []) ++ [.cycleStart p.id]

/-- Everything of a tick, in order. -/
def State.tickSlots (s : State) (beats : List Nat) : List Slot :=
  s.deviceSlots ++ s.slices.flatMap s.sliceSlots ++ evIf (s.slices.any Slice.mayResume) .purseResumeThreshold ++
    s.pitches.flatMap s.pitchSlots ++
    (s.launches.filter fun l => l.wrapping && s.goes 12 l.id).map (fun l => .ev (.generationWrapClear l.id)) ++
    s.copies.flatMap s.copySlots ++ s.msgs.flatMap s.msgSlots ++ s.cycleSlots beats

/-- THE MACHINE GOES ON: the oldest input that is due, else the next tick. -/
def State.advance (s : State) : State :=
  match s.inputs.find? fun q => decide (q.1 ≤ s.tick) with
  | some q => { s with inputs := s.inputs.erase q }.input q.2
  | none =>
    if !s.dev.booted then { s with tick := s.tick + 1 }
    else
      let beats := (s.slices.filter fun v => v.beats (s.tick + 1)).map fun v => v.id
      let q := s.tickOn
      { q with agenda := q.tickSlots beats }

/-- The instruction at a cursor: the engine's words from its word 0. -/
def State.fetch (s : State) (c : Cursor) : Except Nat Instr :=
  let code := match s.pitch? c.pitch with
    | some p => (s.envOf p c.tile).codeOf c.eng
    | none => {}
  match decode c.eng [code.word c.pc, code.word (c.pc + 1), code.word (c.pc + 2)] with
  | .ok (i, _) => .ok i
  | .error _ => .error c.pc

/-- An earlier instruction of the group has stopped the engine (R37, R38). -/
def State.halts (s : State) (c : Cursor) : Bool :=
  match s.tile? c.pitch c.tile with
  | some t => (t.engOf c.eng).halted
  | none => false

/-- A pitch of one tile whose engine `e` holds the given words: what a step needs to fetch and run them. -/
def onePitch (e : Engine) (words : List Nat) : Pitch :=
  let code := Engine.all.map fun k => if k == e then ({ words := words, starts := [0] } : Code) else {}
  { id := 1, launch := 1
    img := { w := 1, h := 1, safeGap := 1, classOf := [0], code := [code] }
    tiles := [{ gen := 1, pitchGen := 1, maxGen := 1, epoch := Vector.replicate 16 1, mode := .run, live := true }] }

end Sys2Proof.Machine
end

