-- ==== Sys2Proof/Machine/ExecArith.lean ====
section
/-! DEFINITION. Integer arithmetic, constants, fields, LD and ST (R199 to R206): the meaning of each at the machine. -/

namespace Sys2Proof.Machine

/-- ADD (R199): writes the 64-bit wrapping sum of two registers. -/
def execAdd (p : Pre) (gd ga gb : Nat) (s : State) : Out :=
  s.atTile 1 (issueOf (.add p gd ga gb))

/-- SUB (R199): writes the 64-bit wrapping difference of two registers. -/
def execSub (p : Pre) (gd ga gb : Nat) (s : State) : Out :=
  s.atTile 1 (issueOf (.sub p gd ga gb))

/-- ADDI (R200): adds a sign-extended 10-bit immediate to a register. -/
def execAddi (p : Pre) (gd ga : Nat) (imm : Int) (s : State) : Out :=
  s.atTile 1 (issueOf (.addi p gd ga imm))

/-- MUL (R199): writes the low 64 bits of a product. -/
def execMul (p : Pre) (gd ga gb : Nat) (s : State) : Out :=
  s.atTile 1 (issueOf (.mul p gd ga gb))

/-- MULH (R199): writes the high 64 bits of a signed product. -/
def execMulh (p : Pre) (gd ga gb : Nat) (s : State) : Out :=
  s.atTile 1 (issueOf (.mulh p gd ga gb))

/-- MULHU (R199): writes the high 64 bits of an unsigned product. -/
def execMulhu (p : Pre) (gd ga gb : Nat) (s : State) : Out :=
  s.atTile 1 (issueOf (.mulhu p gd ga gb))

/-- DIV (R199): writes the signed quotient by R60. -/
def execDiv (p : Pre) (gd ga gb : Nat) (s : State) : Out :=
  s.atTile 1 (issueOf (.div p gd ga gb))

/-- DIVU (R199): writes the unsigned quotient by R60. -/
def execDivu (p : Pre) (gd ga gb : Nat) (s : State) : Out :=
  s.atTile 1 (issueOf (.divu p gd ga gb))

/-- REM (R199): writes the signed remainder by R60. -/
def execRem (p : Pre) (gd ga gb : Nat) (s : State) : Out :=
  s.atTile 1 (issueOf (.rem p gd ga gb))

/-- REMU (R199): writes the unsigned remainder by R60. -/
def execRemu (p : Pre) (gd ga gb : Nat) (s : State) : Out :=
  s.atTile 1 (issueOf (.remu p gd ga gb))

/-- AND (R199): writes the bitwise and of two registers. -/
def execAnd (p : Pre) (gd ga gb : Nat) (s : State) : Out :=
  s.atTile 1 (issueOf (.and p gd ga gb))

/-- OR (R199): writes the bitwise or of two registers. -/
def execOr (p : Pre) (gd ga gb : Nat) (s : State) : Out :=
  s.atTile 1 (issueOf (.or p gd ga gb))

/-- XOR (R199): writes the bitwise exclusive or of two registers. -/
def execXor (p : Pre) (gd ga gb : Nat) (s : State) : Out :=
  s.atTile 1 (issueOf (.xor p gd ga gb))

/-- ANDN (R199): writes a and not b. -/
def execAndn (p : Pre) (gd ga gb : Nat) (s : State) : Out :=
  s.atTile 1 (issueOf (.andn p gd ga gb))

/-- SHL (R199): shifts left by the low six bits of b. -/
def execShl (p : Pre) (gd ga gb : Nat) (s : State) : Out :=
  s.atTile 1 (issueOf (.shl p gd ga gb))

/-- SHR (R199): shifts right logically. -/
def execShr (p : Pre) (gd ga gb : Nat) (s : State) : Out :=
  s.atTile 1 (issueOf (.shr p gd ga gb))

/-- SRA (R199): shifts right arithmetically. -/
def execSra (p : Pre) (gd ga gb : Nat) (s : State) : Out :=
  s.atTile 1 (issueOf (.sra p gd ga gb))

/-- ROTL (R199): rotates left. -/
def execRotl (p : Pre) (gd ga gb : Nat) (s : State) : Out :=
  s.atTile 1 (issueOf (.rotl p gd ga gb))

/-- CLZ (R199): counts leading zero bits. -/
def execClz (p : Pre) (gd ga : Nat) (s : State) : Out :=
  s.atTile 1 (issueOf (.clz p gd ga))

/-- CTZ (R199): counts trailing zero bits. -/
def execCtz (p : Pre) (gd ga : Nat) (s : State) : Out :=
  s.atTile 1 (issueOf (.ctz p gd ga))

/-- POPC (R199): counts one bits. -/
def execPopc (p : Pre) (gd ga : Nat) (s : State) : Out :=
  s.atTile 1 (issueOf (.popc p gd ga))

/-- MIN (R199): writes the signed minimum. -/
def execMin (p : Pre) (gd ga gb : Nat) (s : State) : Out :=
  s.atTile 1 (issueOf (.min p gd ga gb))

/-- MAX (R199): writes the signed maximum. -/
def execMax (p : Pre) (gd ga gb : Nat) (s : State) : Out :=
  s.atTile 1 (issueOf (.max p gd ga gb))

/-- MINU (R199): writes the unsigned minimum. -/
def execMinu (p : Pre) (gd ga gb : Nat) (s : State) : Out :=
  s.atTile 1 (issueOf (.minu p gd ga gb))

/-- MAXU (R199): writes the unsigned maximum. -/
def execMaxu (p : Pre) (gd ga gb : Nat) (s : State) : Out :=
  s.atTile 1 (issueOf (.maxu p gd ga gb))

/-- CMPEQ (R199): writes 1 when the registers are equal. -/
def execCmpeq (p : Pre) (gd ga gb : Nat) (s : State) : Out :=
  s.atTile 1 (issueOf (.cmpeq p gd ga gb))

/-- CMPNE (R199): writes 1 when the registers differ. -/
def execCmpne (p : Pre) (gd ga gb : Nat) (s : State) : Out :=
  s.atTile 1 (issueOf (.cmpne p gd ga gb))

/-- CMPLT (R199): writes 1 when a is signed-less than b. -/
def execCmplt (p : Pre) (gd ga gb : Nat) (s : State) : Out :=
  s.atTile 1 (issueOf (.cmplt p gd ga gb))

/-- CMPLTU (R199): writes 1 when a is unsigned-less than b. -/
def execCmpltu (p : Pre) (gd ga gb : Nat) (s : State) : Out :=
  s.atTile 1 (issueOf (.cmpltu p gd ga gb))

/-- SEL (R199): selects a or b on a condition register. -/
def execSel (p : Pre) (gd ga gb gc : Nat) (s : State) : Out :=
  s.atTile 1 (issueOf (.sel p gd ga gb gc))

/-- MOVI (R201): loads a sign-extended 32-bit constant. -/
def execMovi (p : Pre) (gd imm : Nat) (s : State) : Out :=
  s.atTile 2 (issueOf (.movi p gd imm))

/-- MOVK (R201): replaces the upper 32 bits of a register. -/
def execMovk (p : Pre) (gd imm : Nat) (s : State) : Out :=
  s.atTile 2 (issueOf (.movk p gd imm))

/-- EXT (R202): extracts a sign-extended bit field. -/
def execExt (p : Pre) (gd ga len pos : Nat) (s : State) : Out :=
  s.atTile 2 (issueOf (.ext p gd ga len pos))

/-- EXTU (R202): extracts a zero-extended bit field. -/
def execExtu (p : Pre) (gd ga len pos : Nat) (s : State) : Out :=
  s.atTile 2 (issueOf (.extu p gd ga len pos))

/-- INS (R202): inserts a bit field into a register. -/
def execIns (p : Pre) (gd ga len pos : Nat) (s : State) : Out :=
  s.atTile 2 (issueOf (.ins p gd ga len pos))

/-- LD (R204): loads a scalar from the tile scratchpad in a chosen bank cycle. -/
def execLd (p : Pre) (gd ga sz : Nat) (sx : Bool) (off : Int) (s : State) : Out :=
  s.atTile 1 (issueOf (.ld p gd ga sz sx off))

/-- ST (R204): stores a scalar into the tile scratchpad in a chosen bank cycle. -/
def execSt (p : Pre) (gs ga sz : Nat) (off : Int) (s : State) : Out :=
  s.atTile 1 (issueOf (.st p gs ga sz off))

end Sys2Proof.Machine
end

