-- ==== Sys2Proof/Machine/ExecConfig.lean ====
section
/-! DEFINITION. Stream registers, loop deltas and tile-register descriptors (R210 to R217): the meaning of each at the machine. -/

namespace Sys2Proof.Machine

/-- SCFG (R210): writes one word of a stream register. -/
def execScfg (p : Pre) (ga sr wsel : Nat) (s : State) : Out :=
  s.atTile 1 (issueOf (.scfg p ga sr wsel))

/-- SGET (R212): reads one word of a stream register. -/
def execSget (p : Pre) (gd sr wsel : Nat) (s : State) : Out :=
  s.atTile 1 (issueOf (.sget p gd sr wsel))

/-- SRST (R213): resets a stream register and ends its use. -/
def execSrst (p : Pre) (sr : Nat) (s : State) : Out :=
  s.atTile 1 (issueOf (.srst p sr))

/-- LDEL (R214): writes a loop-delta entry of an engine. -/
def execLdel (p : Pre) (eng lvl sr : Nat) (delta : Int) (s : State) : Out :=
  s.atTile 2 (issueOf (.ldel p eng lvl sr delta))

/-- TCFG (R215): configures a tile-register descriptor, bumps its epoch and cancels pending writes. -/
def execTcfg (p : Pre) (ga tr : Nat) (s : State) : Out :=
  s.atTile 1 (issueOf (.tcfg p ga tr))

/-- TGET (R217): reads a tile-register descriptor. -/
def execTget (p : Pre) (gd tr : Nat) (s : State) : Out :=
  s.atTile 1 (issueOf (.tget p gd tr))

end Sys2Proof.Machine
end

