-- ==== Sys2Proof/Machine/ExecCopy.lean ====
section
/-! DEFINITION. Copy instructions, fabric posts and fences (R281 to R295): the meaning of each at the machine. -/

namespace Sys2Proof.Machine

/-- CPT (R287): copies granules from the local scratchpad to a pitch tile. -/
def execCpt (p : Pre) (o : XcOps) (s : State) : Out :=
  s.atTile 3 (issueOf (.cpt p o))

/-- CLD (R282): copies a tensor region into the local scratchpad. -/
def execCld (p : Pre) (o : XcOps) (s : State) : Out :=
  s.atTile 3 (issueOf (.cld p o))

/-- CST (R282): copies local scratchpad bytes into a tensor region. -/
def execCst (p : Pre) (o : XcOps) (s : State) : Out :=
  s.atTile 3 (issueOf (.cst p o))

/-- CTT (R291): copies one tensor region to another. -/
def execCtt (p : Pre) (o : XcOps) (s : State) : Out :=
  s.atTile 3 (issueOf (.ctt p o))

/-- CBC (R289): broadcasts a tensor region into a rectangle of tiles. -/
def execCbc (p : Pre) (o : XcOps) (s : State) : Out :=
  s.atTile 3 (issueOf (.cbc p o))

/-- CGA (R288): gathers indexed tensor lines into the scratchpad. -/
def execCga (p : Pre) (o : XcOps) (s : State) : Out :=
  s.atTile 3 (issueOf (.cga p o))

/-- CSC (R288): scatters scratchpad lines to indexed tensor lines. -/
def execCsc (p : Pre) (o : XcOps) (s : State) : Out :=
  s.atTile 3 (issueOf (.csc p o))

/-- CFB (R290): fills a tensor region with a 64-bit pattern. -/
def execCfb (p : Pre) (o : XcOps) (s : State) : Out :=
  s.atTile 3 (issueOf (.cfb p o))

/-- FSPOST (R292): posts to a slice semaphore of a bound slice over the fabric. -/
def execFspost (p : Pre) (xp xa : Nat) (pr ar : Bool) (index pkg amt : Nat) (s : State) : Out :=
  s.atTile 2 (issueOf (.fspost p xp xa pr ar index pkg amt))

/-- CFEN (R294): orders later copies and state writes after earlier copies complete. -/
def execCfen (p : Pre) (s : State) : Out :=
  s.atTile 1 (issueOf (.cfen p))

/-- CDRN (R294): waits until every earlier copy and remote operation is complete and acknowledged. -/
def execCdrn (p : Pre) (s : State) : Out :=
  s.atTile 1 (issueOf (.cdrn p))

/-- TINFO (R295): reads one word of a tensor table entry. -/
def execTinfo (p : Pre) (xd xa word : Nat) (s : State) : Out :=
  s.atTile 1 (issueOf (.tinfo p xd xa word))

end Sys2Proof.Machine
end

