-- ==== Sys2Proof/Machine/ExecFlow.lean ====
section
/-! DEFINITION. Shared instructions and control transfer (R193 to R198, R207 to R209): the meaning of each at the machine. -/

namespace Sys2Proof.Machine

/-- NOP (R193): occupies one cycle and changes no state except through its dependency bits. -/
def execNop (p : Pre) (s : State) : Out :=
  s.atTile 1 (issueOf (.nop p))

/-- IDLE (R194): holds the issuing static stream for n local cycles. -/
def execIdle (p : Pre) (n : Nat) (s : State) : Out :=
  s.atTile 1 (issueOf (.idle p n))

/-- ENDS (R195): takes its waits, puts its signals and ends the stream. -/
def execEnds (p : Pre) (s : State) : Out :=
  s.atTile 1 (issueOf (.ends p))

/-- LOOP (R196): starts a hardware loop at a level, or skips the body when the count is zero. -/
def execLoop (p : Pre) (lvl : Nat) (src : Bool) (rc body count : Nat) (s : State) : Out :=
  s.atTile 2 (issueOf (.loop p lvl src rc body count))

/-- BZ (R207): branches when a register is zero. -/
def execBz (p : Pre) (ga : Nat) (off : Int) (s : State) : Out :=
  s.atTile 1 (issueOf (.bz p ga off))

/-- BNZ (R207): branches when a register is nonzero. -/
def execBnz (p : Pre) (ga : Nat) (off : Int) (s : State) : Out :=
  s.atTile 1 (issueOf (.bnz p ga off))

/-- J (R208): jumps to a target. -/
def execJ (p : Pre) (off : Int) (s : State) : Out :=
  s.atTile 1 (issueOf (.j p off))

/-- CALL (R208): jumps and writes the link into g31. -/
def execCall (p : Pre) (off : Int) (s : State) : Out :=
  s.atTile 1 (issueOf (.call p off))

/-- RET (R209): transfers to the offset in g31. -/
def execRet (p : Pre) (s : State) : Out :=
  s.atTile 1 (issueOf (.ret p))

end Sys2Proof.Machine
end

