-- ==== Sys2Proof/Machine/ExecMatrix.lean ====
section
/-! DEFINITION. Matrix and transfer instructions (R257 to R273): the meaning of each at the machine. -/

namespace Sys2Proof.Machine

/-- MMA (R264): matrix multiply-accumulate into Tc. -/
def execMma (p : Pre) (tc ta tb : Nat) (s : State) : Out :=
  s.atTile 1 (issueOf (.mma p tc ta tb))

/-- MMAZ (R264): matrix multiply from a zero accumulator. -/
def execMmaz (p : Pre) (tc ta tb : Nat) (s : State) : Out :=
  s.atTile 1 (issueOf (.mmaz p tc ta tb))

/-- MMAS (R267): sparse 2:4 matrix multiply-accumulate. -/
def execMmas (p : Pre) (tc ta tb tm : Nat) (s : State) : Out :=
  s.atTile 1 (issueOf (.mmas p tc ta tb tm))

/-- MMAL (R264): matrix multiply-accumulate into the lower triangle. -/
def execMmal (p : Pre) (tc ta tb : Nat) (s : State) : Out :=
  s.atTile 1 (issueOf (.mmal p tc ta tb))

/-- MRK1 (R264): rank-1 update from one column and row. -/
def execMrk1 (p : Pre) (tc ta tb idx : Nat) (s : State) : Out :=
  s.atTile 1 (issueOf (.mrk1 p tc ta tb idx))

/-- LDT (R270): loads a tile register through a stream. -/
def execLdt (p : Pre) (tr sr : Nat) (s : State) : Out :=
  s.atTile 1 (issueOf (.ldt p tr sr))

/-- STT (R271): stores a tile register through a stream, converting. -/
def execStt (p : Pre) (tr sr : Nat) (sat : Bool) (rnd : Nat) (s : State) : Out :=
  s.atTile 1 (issueOf (.stt p tr sr sat rnd))

/-- TZRO (R273): makes every row of a tile register stale. -/
def execTzro (p : Pre) (tc : Nat) (s : State) : Out :=
  s.atTile 1 (issueOf (.tzro p tc))

/-- TCPY (R273): copies a tile register and its descriptor. -/
def execTcpy (p : Pre) (tc ta : Nat) (s : State) : Out :=
  s.atTile 1 (issueOf (.tcpy p tc ta))

/-- LDSC (R272): loads a tile register's scales into the side file. -/
def execLdsc (p : Pre) (tr sr : Nat) (s : State) : Out :=
  s.atTile 1 (issueOf (.ldsc p tr sr))

end Sys2Proof.Machine
end

