-- ==== Sys2Proof/Machine/ExecPlane.lean ====
section
/-! DEFINITION. Stream-plane sends (R274 to R280): the meaning of each at the machine. -/

namespace Sys2Proof.Machine

/-- SEND (R278): sends granules to one tile over the stream plane. -/
def execSend (p : Pre) (dx dy : Int) (sr off len : Nat) (s : State) : Out :=
  s.atTile 2 (issueOf (.send p dx dy sr off len))

/-- SENDL (R279): sends a grid line to a grid line. -/
def execSendl (p : Pre) (dx dy : Int) (dst src : Nat) (s : State) : Out :=
  s.atTile 2 (issueOf (.sendl p dx dy dst src))

/-- SENDM (R278): sends granules to a rectangle of tiles. -/
def execSendm (p : Pre) (dx dy : Int) (sr off len : Nat) (s : State) : Out :=
  s.atTile 2 (issueOf (.sendm p dx dy sr off len))

end Sys2Proof.Machine
end

