-- ==== Sys2Proof/Machine/ExecSync.lean ====
section
/-! DEFINITION. Synchronisation instructions (R296 to R303): the meaning of each at the machine. -/

namespace Sys2Proof.Machine

/-- SMCFG (R103): configures a semaphore's mode, count and ceiling. -/
def execSmcfg (p : Pre) (o : SyOps) (s : State) : Out :=
  s.atTile 2 (issueOf (.smcfg p o))

/-- SWAIT (R301): takes n from a semaphore, waiting until it can. -/
def execSwait (p : Pre) (o : SyOps) (s : State) : Out :=
  s.atTile 2 (issueOf (.swait p o))

/-- SPOST (R301): posts k to a semaphore as a release. -/
def execSpost (p : Pre) (o : SyOps) (s : State) : Out :=
  s.atTile 2 (issueOf (.spost p o))

/-- SFADD (R301): atomically adds to a semaphore and returns the old count. -/
def execSfadd (p : Pre) (o : SyOps) (s : State) : Out :=
  s.atTile 2 (issueOf (.sfadd p o))

/-- SCAS (R301): atomically compares and swaps a semaphore count. -/
def execScas (p : Pre) (o : SyOps) (s : State) : Out :=
  s.atTile 2 (issueOf (.scas p o))

/-- SRD (R301): reads one word of a semaphore's state. -/
def execSrd (p : Pre) (o : SyOps) (s : State) : Out :=
  s.atTile 2 (issueOf (.srd p o))

/-- SEXP (R301): sets or raises a semaphore's expectation. -/
def execSexp (p : Pre) (o : SyOps) (s : State) : Out :=
  s.atTile 2 (issueOf (.sexp p o))

/-- SPHW (R301): waits until a semaphore's phase differs from p. -/
def execSphw (p : Pre) (o : SyOps) (s : State) : Out :=
  s.atTile 2 (issueOf (.sphw p o))

/-- RCFG (R303): configures a ring and its two semaphores. -/
def execRcfg (p : Pre) (o : SyOps) (s : State) : Out :=
  s.atTile 2 (issueOf (.rcfg p o))

/-- RCLF (R112): claims a free ring slot as producer. -/
def execRclf (p : Pre) (o : SyOps) (s : State) : Out :=
  s.atTile 2 (issueOf (.rclf p o))

/-- RCLD (R112): claims a filled ring slot as consumer. -/
def execRcld (p : Pre) (o : SyOps) (s : State) : Out :=
  s.atTile 2 (issueOf (.rcld p o))

/-- RFIL (R112): posts a filled slot to a ring. -/
def execRfil (p : Pre) (o : SyOps) (s : State) : Out :=
  s.atTile 2 (issueOf (.rfil p o))

/-- RREL (R112): releases a consumed slot to a ring. -/
def execRrel (p : Pre) (o : SyOps) (s : State) : Out :=
  s.atTile 2 (issueOf (.rrel p o))

/-- RSTAT (R303): reads one word of a ring's state. -/
def execRstat (p : Pre) (o : SyOps) (s : State) : Out :=
  s.atTile 2 (issueOf (.rstat p o))

end Sys2Proof.Machine
end

