-- ==== Sys2Proof/Machine/ExecSystem.lean ====
section
/-! DEFINITION. System instructions, control registers and meters (R304 to R312): the meaning of each at the machine. -/

namespace Sys2Proof.Machine

/-- RDV.P (R32): stops the tile's static engines until every tile reaches the rendezvous. -/
def execRdvP (p : Pre) (tag : Nat) (s : State) : Out :=
  s.atTile 1 (issueOf (.rdvP p tag))

/-- RDV.T (R34): holds the pitch until the package time reaches a register value. -/
def execRdvT (p : Pre) (ga : Nat) (s : State) : Out :=
  s.atTile 1 (issueOf (.rdvT p ga))

/-- SAFE (R305): offers a freeze point to a waiting freeze request. -/
def execSafe (p : Pre) (s : State) : Out :=
  s.atTile 1 (issueOf (.safe p))

/-- TICK (R306): writes the pitch cycle. -/
def execTick (p : Pre) (gd : Nat) (s : State) : Out :=
  s.atTile 1 (issueOf (.tick p gd))

/-- GETC (R309): reads a control register. -/
def execGetc (p : Pre) (gd csr : Nat) (s : State) : Out :=
  s.atTile 1 (issueOf (.getc p gd csr))

/-- SETC (R309): writes, ORs into or clears a control register. -/
def execSetc (p : Pre) (gs csr sub : Nat) (s : State) : Out :=
  s.atTile 1 (issueOf (.setc p gs csr sub))

/-- GENCLR (R307): advances the tile generation, making every tagged item stale. -/
def execGenclr (p : Pre) (s : State) : Out :=
  s.atTile 1 (issueOf (.genclr p))

/-- MTRD (R312): reads a tile meter. -/
def execMtrd (p : Pre) (gd num : Nat) (s : State) : Out :=
  s.atTile 1 (issueOf (.mtrd p gd num))

/-- TRAP (R308): raises SOFTWARE_TRAP with a code. -/
def execTrap (p : Pre) (code : Nat) (s : State) : Out :=
  s.atTile 1 (issueOf (.trap p code))

end Sys2Proof.Machine
end

