-- ==== Sys2Proof/Machine/ExecVector.lean ====
section
/-! DEFINITION. Vector instructions (R218 to R256): the meaning of each at the machine. -/

namespace Sys2Proof.Machine

/-- VADD (R229): adds float lanes with one rounding. -/
def execVadd (p : Pre) (o : VOps) (s : State) : Out :=
  s.atTile 2 (issueOf (.vadd p o))

/-- VSUB (R229): subtracts float lanes. -/
def execVsub (p : Pre) (o : VOps) (s : State) : Out :=
  s.atTile 2 (issueOf (.vsub p o))

/-- VMUL (R229): multiplies float lanes. -/
def execVmul (p : Pre) (o : VOps) (s : State) : Out :=
  s.atTile 2 (issueOf (.vmul p o))

/-- VFMA (R230): fused multiply-add into the destination. -/
def execVfma (p : Pre) (o : VOps) (s : State) : Out :=
  s.atTile 2 (issueOf (.vfma p o))

/-- VFMS (R230): fused multiply minus the destination. -/
def execVfms (p : Pre) (o : VOps) (s : State) : Out :=
  s.atTile 2 (issueOf (.vfms p o))

/-- VNEG (R231): negates float lanes. -/
def execVneg (p : Pre) (o : VOps) (s : State) : Out :=
  s.atTile 2 (issueOf (.vneg p o))

/-- VABS (R231): takes the absolute value of float lanes. -/
def execVabs (p : Pre) (o : VOps) (s : State) : Out :=
  s.atTile 2 (issueOf (.vabs p o))

/-- VMIN (R229): IEEE minimum of lanes. -/
def execVmin (p : Pre) (o : VOps) (s : State) : Out :=
  s.atTile 2 (issueOf (.vmin p o))

/-- VMAX (R229): IEEE maximum of lanes. -/
def execVmax (p : Pre) (o : VOps) (s : State) : Out :=
  s.atTile 2 (issueOf (.vmax p o))

/-- VMINN (R229): IEEE minimumNumber of lanes. -/
def execVminn (p : Pre) (o : VOps) (s : State) : Out :=
  s.atTile 2 (issueOf (.vminn p o))

/-- VMAXN (R229): IEEE maximumNumber of lanes. -/
def execVmaxn (p : Pre) (o : VOps) (s : State) : Out :=
  s.atTile 2 (issueOf (.vmaxn p o))

/-- VDIV (R232): correctly rounded division. -/
def execVdiv (p : Pre) (o : VOps) (s : State) : Out :=
  s.atTile 2 (issueOf (.vdiv p o))

/-- VRCP (R232): correctly rounded reciprocal. -/
def execVrcp (p : Pre) (o : VOps) (s : State) : Out :=
  s.atTile 2 (issueOf (.vrcp p o))

/-- VSQRT (R232): correctly rounded square root. -/
def execVsqrt (p : Pre) (o : VOps) (s : State) : Out :=
  s.atTile 2 (issueOf (.vsqrt p o))

/-- VRSQ (R232): correctly rounded reciprocal square root. -/
def execVrsq (p : Pre) (o : VOps) (s : State) : Out :=
  s.atTile 2 (issueOf (.vrsq p o))

/-- VEXP2 (R232): correctly rounded power of two. -/
def execVexp2 (p : Pre) (o : VOps) (s : State) : Out :=
  s.atTile 2 (issueOf (.vexp2 p o))

/-- VLOG2 (R232): correctly rounded base-2 logarithm. -/
def execVlog2 (p : Pre) (o : VOps) (s : State) : Out :=
  s.atTile 2 (issueOf (.vlog2 p o))

/-- VTANH (R232): correctly rounded hyperbolic tangent. -/
def execVtanh (p : Pre) (o : VOps) (s : State) : Out :=
  s.atTile 2 (issueOf (.vtanh p o))

/-- VCMPEQ (R233): compares lanes for equality into a mask. -/
def execVcmpeq (p : Pre) (o : VOps) (s : State) : Out :=
  s.atTile 2 (issueOf (.vcmpeq p o))

/-- VCMPLT (R233): compares lanes for less-than into a mask. -/
def execVcmplt (p : Pre) (o : VOps) (s : State) : Out :=
  s.atTile 2 (issueOf (.vcmplt p o))

/-- VCMPLE (R233): compares lanes for less-or-equal into a mask. -/
def execVcmple (p : Pre) (o : VOps) (s : State) : Out :=
  s.atTile 2 (issueOf (.vcmple p o))

/-- VCMPUN (R233): marks unordered lanes in a mask. -/
def execVcmpun (p : Pre) (o : VOps) (s : State) : Out :=
  s.atTile 2 (issueOf (.vcmpun p o))

/-- VSEL (R235): selects lanes of A or B by a mask. -/
def execVsel (p : Pre) (o : VOps) (s : State) : Out :=
  s.atTile 2 (issueOf (.vsel p o))

/-- VCLASS (R234): classifies lanes into a mask. -/
def execVclass (p : Pre) (o : VOps) (s : State) : Out :=
  s.atTile 2 (issueOf (.vclass p o))

/-- VIADD (R236): adds integer lanes, wrapping or saturating. -/
def execViadd (p : Pre) (o : VOps) (s : State) : Out :=
  s.atTile 2 (issueOf (.viadd p o))

/-- VISUB (R236): subtracts integer lanes. -/
def execVisub (p : Pre) (o : VOps) (s : State) : Out :=
  s.atTile 2 (issueOf (.visub p o))

/-- VIMUL (R236): multiplies integer lanes. -/
def execVimul (p : Pre) (o : VOps) (s : State) : Out :=
  s.atTile 2 (issueOf (.vimul p o))

/-- VAND (R236): bitwise and of lanes. -/
def execVand (p : Pre) (o : VOps) (s : State) : Out :=
  s.atTile 2 (issueOf (.vand p o))

/-- VOR (R236): bitwise or of lanes. -/
def execVor (p : Pre) (o : VOps) (s : State) : Out :=
  s.atTile 2 (issueOf (.vor p o))

/-- VXOR (R236): bitwise exclusive or of lanes. -/
def execVxor (p : Pre) (o : VOps) (s : State) : Out :=
  s.atTile 2 (issueOf (.vxor p o))

/-- VSHL (R237): shifts lanes left. -/
def execVshl (p : Pre) (o : VOps) (s : State) : Out :=
  s.atTile 2 (issueOf (.vshl p o))

/-- VSHR (R237): shifts lanes right logically. -/
def execVshr (p : Pre) (o : VOps) (s : State) : Out :=
  s.atTile 2 (issueOf (.vshr p o))

/-- VSRA (R237): shifts lanes right arithmetically. -/
def execVsra (p : Pre) (o : VOps) (s : State) : Out :=
  s.atTile 2 (issueOf (.vsra p o))

/-- VIMIN (R236): signed minimum of integer lanes. -/
def execVimin (p : Pre) (o : VOps) (s : State) : Out :=
  s.atTile 2 (issueOf (.vimin p o))

/-- VIMAX (R236): signed maximum of integer lanes. -/
def execVimax (p : Pre) (o : VOps) (s : State) : Out :=
  s.atTile 2 (issueOf (.vimax p o))

/-- VMIX (R238): mixes two 32-bit lanes reproducibly. -/
def execVmix (p : Pre) (o : VOps) (s : State) : Out :=
  s.atTile 2 (issueOf (.vmix p o))

/-- VIOTA (R239): writes start plus lane index. -/
def execViota (p : Pre) (o : VOps) (s : State) : Out :=
  s.atTile 2 (issueOf (.viota p o))

/-- VCVT (R240): converts lanes between formats. -/
def execVcvt (p : Pre) (o : VOps) (s : State) : Out :=
  s.atTile 2 (issueOf (.vcvt p o))

/-- VQNT (R242): quantizes a tile with block scales. -/
def execVqnt (p : Pre) (o : VOps) (s : State) : Out :=
  s.atTile 2 (issueOf (.vqnt p o))

/-- VDQT (R241): dequantizes lanes with their block scales. -/
def execVdqt (p : Pre) (o : VOps) (s : State) : Out :=
  s.atTile 2 (issueOf (.vdqt p o))

/-- VTS8 (R242): quantizes a tile to twin-shift codes with block scales. -/
def execVts8 (p : Pre) (o : VOps) (s : State) : Out :=
  s.atTile 2 (issueOf (.vts8 p o))

/-- VRSUM (R244): reduces a line by pairwise sum. -/
def execVrsum (p : Pre) (o : VOps) (s : State) : Out :=
  s.atTile 2 (issueOf (.vrsum p o))

/-- VRMAX (R244): reduces a line to its maximum. -/
def execVrmax (p : Pre) (o : VOps) (s : State) : Out :=
  s.atTile 2 (issueOf (.vrmax p o))

/-- VRMIN (R244): reduces a line to its minimum. -/
def execVrmin (p : Pre) (o : VOps) (s : State) : Out :=
  s.atTile 2 (issueOf (.vrmin p o))

/-- VSCAN (R245): computes an inclusive prefix sum. -/
def execVscan (p : Pre) (o : VOps) (s : State) : Out :=
  s.atTile 2 (issueOf (.vscan p o))

/-- VARGMX (R244): reduces a line to the index of its maximum. -/
def execVargmx (p : Pre) (o : VOps) (s : State) : Out :=
  s.atTile 2 (issueOf (.vargmx p o))

/-- VMOV (R246): copies lanes unchanged. -/
def execVmov (p : Pre) (o : VOps) (s : State) : Out :=
  s.atTile 2 (issueOf (.vmov p o))

/-- VBCST (R246): broadcasts a g register into lanes. -/
def execVbcst (p : Pre) (o : VOps) (s : State) : Out :=
  s.atTile 2 (issueOf (.vbcst p o))

/-- VSPL (R246): splats one lane into every lane. -/
def execVspl (p : Pre) (o : VOps) (s : State) : Out :=
  s.atTile 2 (issueOf (.vspl p o))

/-- VPERM (R247): permutes lanes by an index line. -/
def execVperm (p : Pre) (o : VOps) (s : State) : Out :=
  s.atTile 2 (issueOf (.vperm p o))

/-- VSHF (R247): shuffles lanes by xor of the index. -/
def execVshf (p : Pre) (o : VOps) (s : State) : Out :=
  s.atTile 2 (issueOf (.vshf p o))

/-- VROT (R247): rotates lanes. -/
def execVrot (p : Pre) (o : VOps) (s : State) : Out :=
  s.atTile 2 (issueOf (.vrot p o))

/-- VTRN (R248): transposes a tile register. -/
def execVtrn (p : Pre) (o : VOps) (s : State) : Out :=
  s.atTile 2 (issueOf (.vtrn p o))

/-- VZIP (R247): interleaves lanes of two lines. -/
def execVzip (p : Pre) (o : VOps) (s : State) : Out :=
  s.atTile 2 (issueOf (.vzip p o))

/-- VUNZ (R247): de-interleaves lanes of two lines. -/
def execVunz (p : Pre) (o : VOps) (s : State) : Out :=
  s.atTile 2 (issueOf (.vunz p o))

/-- VEXT (R249): moves one lane into a g register. -/
def execVext (p : Pre) (o : VOps) (s : State) : Out :=
  s.atTile 2 (issueOf (.vext p o))

/-- VLD (R250): loads a line or tile through a stream. -/
def execVld (p : Pre) (o : VOps) (s : State) : Out :=
  s.atTile 2 (issueOf (.vld p o))

/-- VST (R250): stores a line or tile through a stream. -/
def execVst (p : Pre) (o : VOps) (s : State) : Out :=
  s.atTile 2 (issueOf (.vst p o))

/-- VGATH (R252): gathers lanes by index through a stream. -/
def execVgath (p : Pre) (o : VOps) (s : State) : Out :=
  s.atTile 2 (issueOf (.vgath p o))

/-- VSCAT (R252): scatters lanes by index through a stream. -/
def execVscat (p : Pre) (o : VOps) (s : State) : Out :=
  s.atTile 2 (issueOf (.vscat p o))

/-- VCMPR (R254): compresses a line 2:4 with metadata. -/
def execVcmpr (p : Pre) (o : VOps) (s : State) : Out :=
  s.atTile 2 (issueOf (.vcmpr p o))

/-- VEXPD (R255): expands a 2:4 compressed line. -/
def execVexpd (p : Pre) (o : VOps) (s : State) : Out :=
  s.atTile 2 (issueOf (.vexpd p o))

/-- VMAND (R256): ands two masks. -/
def execVmand (p : Pre) (o : VOps) (s : State) : Out :=
  s.atTile 2 (issueOf (.vmand p o))

/-- VMOR (R256): ors two masks. -/
def execVmor (p : Pre) (o : VOps) (s : State) : Out :=
  s.atTile 2 (issueOf (.vmor p o))

/-- VMNOT (R256): inverts a mask. -/
def execVmnot (p : Pre) (o : VOps) (s : State) : Out :=
  s.atTile 2 (issueOf (.vmnot p o))

/-- VMPOP (R256): counts mask bits into a g register. -/
def execVmpop (p : Pre) (o : VOps) (s : State) : Out :=
  s.atTile 2 (issueOf (.vmpop p o))

end Sys2Proof.Machine
end

