-- ==== Sys2Proof/Machine/Dispatch.lean ====
section
/-! DEFINITION. The one dispatch from an instruction or event to its meaning. -/

namespace Sys2Proof.Machine

/-- The meaning of every instruction and event, one direct call each. -/
def exec (i : Instr) (s : State) : Host.Outcome State Fault Refusal :=
  match i with
  | .nop p => Sys2Proof.Machine.execNop p s
  | .idle p n => Sys2Proof.Machine.execIdle p n s
  | .ends p => Sys2Proof.Machine.execEnds p s
  | .loop p lvl src rc body count => Sys2Proof.Machine.execLoop p lvl src rc body count s
  | .add p gd ga gb => Sys2Proof.Machine.execAdd p gd ga gb s
  | .sub p gd ga gb => Sys2Proof.Machine.execSub p gd ga gb s
  | .addi p gd ga imm => Sys2Proof.Machine.execAddi p gd ga imm s
  | .mul p gd ga gb => Sys2Proof.Machine.execMul p gd ga gb s
  | .mulh p gd ga gb => Sys2Proof.Machine.execMulh p gd ga gb s
  | .mulhu p gd ga gb => Sys2Proof.Machine.execMulhu p gd ga gb s
  | .div p gd ga gb => Sys2Proof.Machine.execDiv p gd ga gb s
  | .divu p gd ga gb => Sys2Proof.Machine.execDivu p gd ga gb s
  | .rem p gd ga gb => Sys2Proof.Machine.execRem p gd ga gb s
  | .remu p gd ga gb => Sys2Proof.Machine.execRemu p gd ga gb s
  | .and p gd ga gb => Sys2Proof.Machine.execAnd p gd ga gb s
  | .or p gd ga gb => Sys2Proof.Machine.execOr p gd ga gb s
  | .xor p gd ga gb => Sys2Proof.Machine.execXor p gd ga gb s
  | .andn p gd ga gb => Sys2Proof.Machine.execAndn p gd ga gb s
  | .shl p gd ga gb => Sys2Proof.Machine.execShl p gd ga gb s
  | .shr p gd ga gb => Sys2Proof.Machine.execShr p gd ga gb s
  | .sra p gd ga gb => Sys2Proof.Machine.execSra p gd ga gb s
  | .rotl p gd ga gb => Sys2Proof.Machine.execRotl p gd ga gb s
  | .clz p gd ga => Sys2Proof.Machine.execClz p gd ga s
  | .ctz p gd ga => Sys2Proof.Machine.execCtz p gd ga s
  | .popc p gd ga => Sys2Proof.Machine.execPopc p gd ga s
  | .min p gd ga gb => Sys2Proof.Machine.execMin p gd ga gb s
  | .max p gd ga gb => Sys2Proof.Machine.execMax p gd ga gb s
  | .minu p gd ga gb => Sys2Proof.Machine.execMinu p gd ga gb s
  | .maxu p gd ga gb => Sys2Proof.Machine.execMaxu p gd ga gb s
  | .cmpeq p gd ga gb => Sys2Proof.Machine.execCmpeq p gd ga gb s
  | .cmpne p gd ga gb => Sys2Proof.Machine.execCmpne p gd ga gb s
  | .cmplt p gd ga gb => Sys2Proof.Machine.execCmplt p gd ga gb s
  | .cmpltu p gd ga gb => Sys2Proof.Machine.execCmpltu p gd ga gb s
  | .sel p gd ga gb gc => Sys2Proof.Machine.execSel p gd ga gb gc s
  | .movi p gd imm => Sys2Proof.Machine.execMovi p gd imm s
  | .movk p gd imm => Sys2Proof.Machine.execMovk p gd imm s
  | .ext p gd ga len pos => Sys2Proof.Machine.execExt p gd ga len pos s
  | .extu p gd ga len pos => Sys2Proof.Machine.execExtu p gd ga len pos s
  | .ins p gd ga len pos => Sys2Proof.Machine.execIns p gd ga len pos s
  | .ld p gd ga sz sx off => Sys2Proof.Machine.execLd p gd ga sz sx off s
  | .st p gs ga sz off => Sys2Proof.Machine.execSt p gs ga sz off s
  | .bz p ga off => Sys2Proof.Machine.execBz p ga off s
  | .bnz p ga off => Sys2Proof.Machine.execBnz p ga off s
  | .j p off => Sys2Proof.Machine.execJ p off s
  | .call p off => Sys2Proof.Machine.execCall p off s
  | .ret p => Sys2Proof.Machine.execRet p s
  | .scfg p ga str wsel => Sys2Proof.Machine.execScfg p ga str wsel s
  | .sget p gd str wsel => Sys2Proof.Machine.execSget p gd str wsel s
  | .srst p str => Sys2Proof.Machine.execSrst p str s
  | .ldel p eng lvl str delta => Sys2Proof.Machine.execLdel p eng lvl str delta s
  | .tcfg p ga t => Sys2Proof.Machine.execTcfg p ga t s
  | .tget p gd t => Sys2Proof.Machine.execTget p gd t s
  | .rdvP p tag => Sys2Proof.Machine.execRdvP p tag s
  | .rendezvousResume pitch => Sys2Proof.Machine.execRendezvousResume pitch s
  | .rdvT p ga => Sys2Proof.Machine.execRdvT p ga s
  | .safe p => Sys2Proof.Machine.execSafe p s
  | .tick p gd => Sys2Proof.Machine.execTick p gd s
  | .getc p gd csr => Sys2Proof.Machine.execGetc p gd csr s
  | .setc p gs csr sub => Sys2Proof.Machine.execSetc p gs csr sub s
  | .genclr p => Sys2Proof.Machine.execGenclr p s
  | .hardClearDone pitch tile => Sys2Proof.Machine.execHardClearDone pitch tile s
  | .mtrd p gd num => Sys2Proof.Machine.execMtrd p gd num s
  | .trap p code => Sys2Proof.Machine.execTrap p code s
  | .smcfg p o => Sys2Proof.Machine.execSmcfg p o s
  | .swait p o => Sys2Proof.Machine.execSwait p o s
  | .spost p o => Sys2Proof.Machine.execSpost p o s
  | .sfadd p o => Sys2Proof.Machine.execSfadd p o s
  | .scas p o => Sys2Proof.Machine.execScas p o s
  | .srd p o => Sys2Proof.Machine.execSrd p o s
  | .sexp p o => Sys2Proof.Machine.execSexp p o s
  | .sphw p o => Sys2Proof.Machine.execSphw p o s
  | .rcfg p o => Sys2Proof.Machine.execRcfg p o s
  | .rclf p o => Sys2Proof.Machine.execRclf p o s
  | .rcld p o => Sys2Proof.Machine.execRcld p o s
  | .rfil p o => Sys2Proof.Machine.execRfil p o s
  | .rrel p o => Sys2Proof.Machine.execRrel p o s
  | .rstat p o => Sys2Proof.Machine.execRstat p o s
  | .cpt p o => Sys2Proof.Machine.execCpt p o s
  | .cld p o => Sys2Proof.Machine.execCld p o s
  | .cst p o => Sys2Proof.Machine.execCst p o s
  | .ctt p o => Sys2Proof.Machine.execCtt p o s
  | .cbc p o => Sys2Proof.Machine.execCbc p o s
  | .cga p o => Sys2Proof.Machine.execCga p o s
  | .csc p o => Sys2Proof.Machine.execCsc p o s
  | .cfb p o => Sys2Proof.Machine.execCfb p o s
  | .fspost p xp xa pr ar index pkg amt => Sys2Proof.Machine.execFspost p xp xa pr ar index pkg amt s
  | .cfen p => Sys2Proof.Machine.execCfen p s
  | .cdrn p => Sys2Proof.Machine.execCdrn p s
  | .tinfo p xd xa word => Sys2Proof.Machine.execTinfo p xd xa word s
  | .vadd p o => Sys2Proof.Machine.execVadd p o s
  | .vsub p o => Sys2Proof.Machine.execVsub p o s
  | .vmul p o => Sys2Proof.Machine.execVmul p o s
  | .vfma p o => Sys2Proof.Machine.execVfma p o s
  | .vfms p o => Sys2Proof.Machine.execVfms p o s
  | .vneg p o => Sys2Proof.Machine.execVneg p o s
  | .vabs p o => Sys2Proof.Machine.execVabs p o s
  | .vmin p o => Sys2Proof.Machine.execVmin p o s
  | .vmax p o => Sys2Proof.Machine.execVmax p o s
  | .vminn p o => Sys2Proof.Machine.execVminn p o s
  | .vmaxn p o => Sys2Proof.Machine.execVmaxn p o s
  | .vdiv p o => Sys2Proof.Machine.execVdiv p o s
  | .vrcp p o => Sys2Proof.Machine.execVrcp p o s
  | .vsqrt p o => Sys2Proof.Machine.execVsqrt p o s
  | .vrsq p o => Sys2Proof.Machine.execVrsq p o s
  | .vexp2 p o => Sys2Proof.Machine.execVexp2 p o s
  | .vlog2 p o => Sys2Proof.Machine.execVlog2 p o s
  | .vtanh p o => Sys2Proof.Machine.execVtanh p o s
  | .vcmpeq p o => Sys2Proof.Machine.execVcmpeq p o s
  | .vcmplt p o => Sys2Proof.Machine.execVcmplt p o s
  | .vcmple p o => Sys2Proof.Machine.execVcmple p o s
  | .vcmpun p o => Sys2Proof.Machine.execVcmpun p o s
  | .vsel p o => Sys2Proof.Machine.execVsel p o s
  | .vclass p o => Sys2Proof.Machine.execVclass p o s
  | .viadd p o => Sys2Proof.Machine.execViadd p o s
  | .visub p o => Sys2Proof.Machine.execVisub p o s
  | .vimul p o => Sys2Proof.Machine.execVimul p o s
  | .vand p o => Sys2Proof.Machine.execVand p o s
  | .vor p o => Sys2Proof.Machine.execVor p o s
  | .vxor p o => Sys2Proof.Machine.execVxor p o s
  | .vshl p o => Sys2Proof.Machine.execVshl p o s
  | .vshr p o => Sys2Proof.Machine.execVshr p o s
  | .vsra p o => Sys2Proof.Machine.execVsra p o s
  | .vimin p o => Sys2Proof.Machine.execVimin p o s
  | .vimax p o => Sys2Proof.Machine.execVimax p o s
  | .vmix p o => Sys2Proof.Machine.execVmix p o s
  | .viota p o => Sys2Proof.Machine.execViota p o s
  | .vcvt p o => Sys2Proof.Machine.execVcvt p o s
  | .vqnt p o => Sys2Proof.Machine.execVqnt p o s
  | .vdqt p o => Sys2Proof.Machine.execVdqt p o s
  | .vts8 p o => Sys2Proof.Machine.execVts8 p o s
  | .vrsum p o => Sys2Proof.Machine.execVrsum p o s
  | .vrmax p o => Sys2Proof.Machine.execVrmax p o s
  | .vrmin p o => Sys2Proof.Machine.execVrmin p o s
  | .vscan p o => Sys2Proof.Machine.execVscan p o s
  | .vargmx p o => Sys2Proof.Machine.execVargmx p o s
  | .vmov p o => Sys2Proof.Machine.execVmov p o s
  | .vbcst p o => Sys2Proof.Machine.execVbcst p o s
  | .vspl p o => Sys2Proof.Machine.execVspl p o s
  | .vperm p o => Sys2Proof.Machine.execVperm p o s
  | .vshf p o => Sys2Proof.Machine.execVshf p o s
  | .vrot p o => Sys2Proof.Machine.execVrot p o s
  | .vtrn p o => Sys2Proof.Machine.execVtrn p o s
  | .vzip p o => Sys2Proof.Machine.execVzip p o s
  | .vunz p o => Sys2Proof.Machine.execVunz p o s
  | .vext p o => Sys2Proof.Machine.execVext p o s
  | .vld p o => Sys2Proof.Machine.execVld p o s
  | .vst p o => Sys2Proof.Machine.execVst p o s
  | .vgath p o => Sys2Proof.Machine.execVgath p o s
  | .vscat p o => Sys2Proof.Machine.execVscat p o s
  | .vcmpr p o => Sys2Proof.Machine.execVcmpr p o s
  | .vexpd p o => Sys2Proof.Machine.execVexpd p o s
  | .vmand p o => Sys2Proof.Machine.execVmand p o s
  | .vmor p o => Sys2Proof.Machine.execVmor p o s
  | .vmnot p o => Sys2Proof.Machine.execVmnot p o s
  | .vmpop p o => Sys2Proof.Machine.execVmpop p o s
  | .mma p tc ta tb => Sys2Proof.Machine.execMma p tc ta tb s
  | .mmaz p tc ta tb => Sys2Proof.Machine.execMmaz p tc ta tb s
  | .mmas p tc ta tb tm => Sys2Proof.Machine.execMmas p tc ta tb tm s
  | .mmal p tc ta tb => Sys2Proof.Machine.execMmal p tc ta tb s
  | .mrk1 p tc ta tb idx => Sys2Proof.Machine.execMrk1 p tc ta tb idx s
  | .ldt p t str => Sys2Proof.Machine.execLdt p t str s
  | .stt p t str sat rnd => Sys2Proof.Machine.execStt p t str sat rnd s
  | .tzro p tc => Sys2Proof.Machine.execTzro p tc s
  | .tcpy p tc ta => Sys2Proof.Machine.execTcpy p tc ta s
  | .ldsc p t str => Sys2Proof.Machine.execLdsc p t str s
  | .send p dx dy str off len => Sys2Proof.Machine.execSend p dx dy str off len s
  | .sendl p dx dy dst src => Sys2Proof.Machine.execSendl p dx dy dst src s
  | .sendm p dx dy str off len => Sys2Proof.Machine.execSendm p dx dy str off len s
  | .lookahead pitch tile => Sys2Proof.Machine.execLookahead pitch tile s
  | .holdRelease pitch stop => Sys2Proof.Machine.execHoldRelease pitch stop s
  | .freezeRequestPost pitch why => Sys2Proof.Machine.execFreezeRequestPost pitch why s
  | .graceWindowExpiry pitch => Sys2Proof.Machine.execGraceWindowExpiry pitch s
  | .freeze pitch => Sys2Proof.Machine.execFreeze pitch s
  | .pitchResume launch => Sys2Proof.Machine.execPitchResume launch s
  | .pitchPlacement launch => Sys2Proof.Machine.execPitchPlacement launch s
  | .generationWrapClear launch => Sys2Proof.Machine.execGenerationWrapClear launch s
  | .pitchMove launch => Sys2Proof.Machine.execPitchMove launch s
  | .pitchComplete pitch => Sys2Proof.Machine.execPitchComplete pitch s
  | .copyRequestDispatch copy => Sys2Proof.Machine.execCopyRequestDispatch copy s
  | .translationWalkDone copy => Sys2Proof.Machine.execTranslationWalkDone copy s
  | .faultQueueWrite slice pitch tile => Sys2Proof.Machine.execFaultQueueWrite slice pitch tile s
  | .copySourceRead copy req => Sys2Proof.Machine.execCopySourceRead copy req s
  | .copyPartArrival copy part => Sys2Proof.Machine.execCopyPartArrival copy part s
  | .tensorWritePerform copy req => Sys2Proof.Machine.execTensorWritePerform copy req s
  | .copyComplete copy => Sys2Proof.Machine.execCopyComplete copy s
  | .remoteSyncArrival msg => Sys2Proof.Machine.execRemoteSyncArrival msg s
  | .remoteSyncReply msg => Sys2Proof.Machine.execRemoteSyncReply msg s
  | .sliceSemOp msg => Sys2Proof.Machine.execSliceSemOp msg s
  | .fabricPostDelivery route ss amt => Sys2Proof.Machine.execFabricPostDelivery route ss amt s
  | .fabricPostAck msg refused => Sys2Proof.Machine.execFabricPostAck msg refused s
  | .remoteFailureReport copy => Sys2Proof.Machine.execRemoteFailureReport copy s
  | .hbmUncorrectableRead copy req => Sys2Proof.Machine.execHbmUncorrectableRead copy req s
  | .pcieCompletionError copy lost => Sys2Proof.Machine.execPcieCompletionError copy lost s
  | .slowPathLossReport copy lost => Sys2Proof.Machine.execSlowPathLossReport copy lost s
  | .seamFault pitch tile at_ => Sys2Proof.Machine.execSeamFault pitch tile at_ s
  | .seamLaneThreshold boundary copyPlane crossing => Sys2Proof.Machine.execSeamLaneThreshold boundary copyPlane crossing s
  | .seamServiceRepair boundary => Sys2Proof.Machine.execSeamServiceRepair boundary s
  | .copyPlaneCrossingDown boundary crossing => Sys2Proof.Machine.execCopyPlaneCrossingDown boundary crossing s
  | .sramCorrectedError phys => Sys2Proof.Machine.execSramCorrectedError phys s
  | .sramUncorrectableError phys live => Sys2Proof.Machine.execSramUncorrectableError phys live s
  | .quantumEnd pitch => Sys2Proof.Machine.execQuantumEnd pitch s
  | .launchReady launch => Sys2Proof.Machine.execLaunchReady launch s
  | .descriptorRead slice chain => Sys2Proof.Machine.execDescriptorRead slice chain s
  | .chTailWrite slice chain v => Sys2Proof.Machine.execChTailWrite slice chain v s
  | .chainEnable slice chain v => Sys2Proof.Machine.execChainEnable slice chain v s
  | .chainDisable slice chain v => Sys2Proof.Machine.execChainDisable slice chain v s
  | .chCancel slice chain v => Sys2Proof.Machine.execChCancel slice chain v s
  | .xctlResume slice v => Sys2Proof.Machine.execXctlResume slice v s
  | .xctlFatal slice v => Sys2Proof.Machine.execXctlFatal slice v s
  | .ptDataWrite slice v => Sys2Proof.Machine.execPtDataWrite slice v s
  | .shootdownGo slice v => Sys2Proof.Machine.execShootdownGo slice v s
  | .shootdownDone slice => Sys2Proof.Machine.execShootdownDone slice s
  | .tensorEntryStage slice handle word v => Sys2Proof.Machine.execTensorEntryStage slice handle word v s
  | .tensorEntryCommit slice handle v => Sys2Proof.Machine.execTensorEntryCommit slice handle v s
  | .sliceSemSet slice k v => Sys2Proof.Machine.execSliceSemSet slice k v s
  | .sliceSemHostPost slice k v => Sys2Proof.Machine.execSliceSemHostPost slice k v s
  | .debugRead slice v => Sys2Proof.Machine.execDebugRead slice v s
  | .debugWrite slice v => Sys2Proof.Machine.execDebugWrite slice v s
  | .debugAccessDone slice => Sys2Proof.Machine.execDebugAccessDone slice s
  | .mbLock v => Sys2Proof.Machine.execMbLock v s
  | .mbUnlock v => Sys2Proof.Machine.execMbUnlock v s
  | .sliceCreate requester => Sys2Proof.Machine.execSliceCreate requester s
  | .sliceDestroy requester => Sys2Proof.Machine.execSliceDestroy requester s
  | .sliceResize requester => Sys2Proof.Machine.execSliceResize requester s
  | .sliceParams requester => Sys2Proof.Machine.execSliceParams requester s
  | .debugGrant requester => Sys2Proof.Machine.execDebugGrant requester s
  | .purseSet requester => Sys2Proof.Machine.execPurseSet requester s
  | .attest requester => Sys2Proof.Machine.execAttest requester s
  | .fwStageBoot requester => Sys2Proof.Machine.execFwStageBoot requester s
  | .fwStageFlash requester => Sys2Proof.Machine.execFwStageFlash requester s
  | .mbBadCmd requester code => Sys2Proof.Machine.execMbBadCmd requester code s
  | .pkgWrite v => Sys2Proof.Machine.execPkgWrite v s
  | .rcCfgEnable v => Sys2Proof.Machine.execRcCfgEnable v s
  | .rcIntWrite v => Sys2Proof.Machine.execRcIntWrite v s
  | .rcHeadWrite v => Sys2Proof.Machine.execRcHeadWrite v s
  | .registerWrite fn bar off v => Sys2Proof.Machine.execRegisterWrite fn bar off v s
  | .tdispLockInterface slice => Sys2Proof.Machine.execTdispLockInterface slice s
  | .tdispRun slice => Sys2Proof.Machine.execTdispRun slice s
  | .tdispError slice => Sys2Proof.Machine.execTdispError slice s
  | .chargeArrival pitch => Sys2Proof.Machine.execChargeArrival pitch s
  | .sweepChunkDone channel => Sys2Proof.Machine.execSweepChunkDone channel s
  | .fabricFlitReceive port flit => Sys2Proof.Machine.execFabricFlitReceive port flit s
  | .fabricNackReceive port seq => Sys2Proof.Machine.execFabricNackReceive port seq s
  | .fabricKeyRotation port key salt => Sys2Proof.Machine.execFabricKeyRotation port key salt s
  | .idleCountExpiry => Sys2Proof.Machine.execIdleCountExpiry s
  | .illegalEncoding => Sys2Proof.Machine.execIllegalEncoding s
  | .mbLockTimeout => Sys2Proof.Machine.execMbLockTimeout s
  | .mbCommandComplete => Sys2Proof.Machine.execMbCommandComplete s
  | .pfFlr => Sys2Proof.Machine.execPfFlr s
  | .boot => Sys2Proof.Machine.execBoot s
  | .powerCut => Sys2Proof.Machine.execPowerCut s
  | .powerCapTick => Sys2Proof.Machine.execPowerCapTick s
  | .stepChange => Sys2Proof.Machine.execStepChange s
  | .tillMsAccounting => Sys2Proof.Machine.execTillMsAccounting s
  | .purseResumeThreshold => Sys2Proof.Machine.execPurseResumeThreshold s
  | .receiptIntervalEnd => Sys2Proof.Machine.execReceiptIntervalEnd s
  | .receiptBatchRelease => Sys2Proof.Machine.execReceiptBatchRelease s

end Sys2Proof.Machine
end

