-- ==== Sys2Proof/Machine/Step.lean ====
section
/-! DEFINITION. One step of the machine: the first entry of the agenda, or, where it is empty, what happens next. -/

namespace Sys2Proof.Machine

/-- An instruction at a cursor: fetched, decoded and executed; a word that decodes to nothing is ILLEGAL (R169). -/
def runAt (c : Cursor) (s : State) : Host.Outcome State Fault Refusal :=
  if s.halts c then .next s
  else
    match s.fetch c with
    | .ok i => exec i { s with cur := c }
    | .error _ => exec .illegalEncoding { s with cur := c }

/-- One entry of the agenda. -/
def runSlot (k : Slot) (s : State) : Host.Outcome State Fault Refusal :=
  match k with
  | .ev i => exec i s
  | .instr c => runAt c s
  | .group pid tile e => .next (s.openGroup pid tile e)
  | .cycleStart pid => .next (s.cycleStart pid)
  | .cycleMid pid => .next (s.cycleMid pid)
  | .bankTurns pid => .next (s.bankStart pid)
  | .cycleReads pid => .next (s.cycleReads pid)
  | .xTurn pid tile => .next (s.xTurn pid tile)
  | .cycleEnd pid => .next (s.cycleEnd pid)
  | .pitchEnd pid => .next (s.pitchEnd pid)

/-- ONE STEP OF THE MACHINE. -/
def step (s : State) : Host.Outcome State Fault Refusal :=
  match s.agenda with
  | [] => .next s.advance
  | k :: rest => runSlot k { s with agenda := rest }

/-- The state with an instruction word of the opcode table as the next thing that a step fetches: in the engine that
accepts it, in a pitch of one tile, at the cursor. -/
def State.withFetchWord (s : State) (nbits w : Nat) : State :=
  let e := (tableEngine nbits w).getD .C
  { s with
    pitches := onePitch e (tableWords nbits w) :: s.pitches
    agenda := .instr { pitch := 1, eng := e } :: s.agenda }

end Sys2Proof.Machine
end

