-- ==== Sys2Proof/Safety.lean ====
section
/-! DEFINITION. What a safe run of the device is, in the terms that claims use: states that steps reach, the register
rules that every step keeps, and the words in which claims speak of one instruction in its tile. -/

namespace Sys2Proof

open Machine

/-- Device registers hold only values that their fields admit (R376, R377, R402, R436, R442). -/
structure Machine.State.RegsOk (s : State) : Prop where
  /-- OWNER is never 0xFFFF (R377). -/
  owner : s.mb.owner < 0xFFFF
  /-- RESULT is at most 3 (R376). -/
  result : s.mb.result ≤ 3
  /-- The RESULT that the running command will report. -/
  next : s.mb.next ≤ 3
  /-- RC_INT and the running interval lie in 100 to 10,000 ms (R436, R442). -/
  interval : 100 ≤ s.rc.interval ∧ s.rc.interval ≤ 10000
  running : 100 ≤ s.rc.running ∧ s.rc.running ≤ 10000
  /-- ENABLE stands only with LOG2N from 10 to 20 (R442). -/
  ring : s.rc.enable = true → 10 ≤ s.rc.log2n ∧ s.rc.log2n ≤ 20
  /-- PKG has 14 bits (R402). -/
  pkg : s.dev.pkg < 2 ^ 14

/-- A step leads from one state to the next. -/
def Machine.Steps (s t : State) : Prop := step s = .next t

/-- A state that a run from another reaches. -/
inductive Machine.Reaches (s : State) : State → Prop where
  | here : Reaches s s
  | next {t u : State} : Reaches s t → Steps t u → Reaches s u

/-- A run is safe when no step of it stops with a fault. -/
def Machine.State.Safe (s : State) : Prop := ∀ t, Reaches s t → ∀ f, step t ≠ .fault f

/-- The cursor of `s` names tile `t` of the placed pitch `p`. -/
structure Machine.State.At (s : State) (p : Pitch) (t : Tile) : Prop where
  pitch : s.pitch? s.cur.pitch = some p
  tile : p.tiles[s.cur.tile]? = some t

/-- `s` with `t` in place of the tile at the cursor in its pitch `p`. Nothing else of `s` differs: no register, no byte
of memory and no other tile. -/
def Machine.State.become (s : State) (p : Pitch) (t : Tile) : State :=
  s.putPitch { p with tiles := p.tiles.set s.cur.tile t }

/-- What the dependency bits of word 0 do at the end of the issue cycle (R16, R17). -/
def Pre.moves (p : Pre) (e : Engine) : List Eff :=
  (if p.wp then [.tokTake e true] else []) ++ (if p.wn then [.tokTake e false] else []) ++
    (if p.sp then [.tokPut e true] else []) ++ (if p.sn then [.tokPut e false] else [])

/-- The same, with the step to the next group where the stop bit closes the group (R162, R196). -/
def Pre.tail (p : Pre) (c : Ctx) : List Eff :=
  p.moves c.eng ++ (if p.s then [.goto c.eng none (c.pc + c.len - 1)] else [])

/-- Effects at the end of the issue cycle. -/
def Machine.Ctx.ends (c : Ctx) (t : Tile) (l : List Eff) : List Pend := l.map fun e => ⟨t.now c, 2, Tile.own c, c.iss, e⟩

/-- Effects at the beginning of cycle `k`, the cycle in which their results are visible. -/
def Machine.Ctx.at (c : Ctx) (k : Nat) (l : List Eff) : List Pend := l.map fun e => ⟨k, 0, Tile.own c, c.iss, e⟩

/-- A register result: g[r] at issue + 1 in a static engine, x[r] before X's next issue (R187, R192). -/
def Machine.Ctx.result (c : Ctx) (t : Tile) (r : Nat) (v : Word) : List Pend :=
  if c.eng = .X then c.at (t.now c + 1) [.x r v] else c.at (t.tl + 1) [.g r v (c.eng == .C)]

/-- The operand registers raise no STALE_READ (R188): the tile reads stale registers as zero, or none is stale. -/
def Machine.Tile.Readable (t : Tile) (e : Engine) (rs : List Nat) : Prop :=
  t.staleTrap = false ∨ ∀ r ∈ rs, t.regStale e r = false

/-- One effect of the issuing instruction at cycle `k` and phase `ph`. -/
def Machine.Ctx.one (c : Ctx) (k ph : Nat) (e : Eff) : List Pend := [⟨k, ph, Tile.own c, c.iss, e⟩]

/-- The word offset `k` starts a group of the issuing stream (R163). -/
def Machine.Ctx.Starts (c : Ctx) (k : Int) : Prop := 0 ≤ k ∧ k.toNat ∈ (c.env.codeOf c.eng).starts

/-- `t` with the meter charge of a CTL instruction and `l` appended to what it still has to perform. -/
def Machine.Tile.issued1 (t : Tile) (c : Ctx) (l : List Pend) : Tile := { t.charge c.env 0 1 with pend := t.pend ++ l }

/-- `t` is `s` after the scheduler has looked at it (R385, R386): events that it asks for follow, and launches may have been
given an area to wait for. -/
def Machine.State.Scheduled (s t : State) : Prop :=
  ∃ (more : List Slot) (area : Launch → List Nat),
    t = { s with launches := s.launches.map (fun l => { l with area := area l }), agenda := s.agenda ++ more }

end Sys2Proof
end

