-- ==== Sys2Proof/Certificates/Slice0/Obligations.lean ====
section
/-! DEFINITION. The statements for the provers. Each says in its docstring which rule of spec/ it formalises. -/

open Sys2Proof Sys2Proof.Machine

/-- The number a value stands for: (−1)^neg · m · 2^e. -/
def Sys2Proof.Machine.Val.num (v : Val) : Option ℚ :=
  match v with
  | .fin neg m e => some ((if neg then -1 else 1) * m * (2 : ℚ) ^ e)
  | _ => none

/-- ADD to MAXU, CMPEQ to CMPLTU with two sources, as R199 gives each result. -/
def Sys2Proof.aluTwo : List ((Pre → Nat → Nat → Nat → Instr) × (Word → Word → Word)) :=
  [(.add, fun a b => a + b), (.sub, fun a b => a - b), (.mul, fun a b => BitVec.ofNat 64 (a.toNat * b.toNat)),
   (.mulh, fun a b => BitVec.ofInt 64 (a.toInt * b.toInt / 2 ^ 64)),
   (.mulhu, fun a b => BitVec.ofNat 64 (a.toNat * b.toNat / 2 ^ 64)),
   (.div, fun a b => if b = 0 then -1 else BitVec.ofInt 64 (a.toInt.tdiv b.toInt)),
   (.divu, fun a b => if b = 0 then -1 else BitVec.ofNat 64 (a.toNat / b.toNat)),
   (.rem, fun a b => if b = 0 then a else BitVec.ofInt 64 (a.toInt.tmod b.toInt)),
   (.remu, fun a b => if b = 0 then a else BitVec.ofNat 64 (a.toNat % b.toNat)),
   (.and, fun a b => a &&& b), (.or, fun a b => a ||| b), (.xor, fun a b => a ^^^ b), (.andn, fun a b => a &&& ~~~b),
   (.shl, fun a b => a <<< (b.toNat % 64)), (.shr, fun a b => a >>> (b.toNat % 64)),
   (.sra, fun a b => a.sshiftRight (b.toNat % 64)), (.rotl, fun a b => a.rotateLeft (b.toNat % 64)),
   (.min, fun a b => if a.toInt ≤ b.toInt then a else b), (.max, fun a b => if a.toInt ≤ b.toInt then b else a),
   (.minu, fun a b => if a.toNat ≤ b.toNat then a else b), (.maxu, fun a b => if a.toNat ≤ b.toNat then b else a),
   (.cmpeq, fun a b => if a = b then 1 else 0), (.cmpne, fun a b => if a = b then 0 else 1),
   (.cmplt, fun a b => if a.toInt < b.toInt then 1 else 0), (.cmpltu, fun a b => if a.toNat < b.toNat then 1 else 0)]

/-- R187, R188, R192, R199: a two-source operation reads its registers at issue and completes; its result, its dependency
bits, its step to the next group and one CTL charge are all it leaves. -/
def Obligations.AluTwoSource : Prop :=
  ∀ q ∈ aluTwo, ∀ (p : Pre) (gd ga gb : Nat) (s : State) (pit : Pitch) (t : Tile), s.At pit t →
    t.Readable s.cur.eng [ga, gb] →
    exec (q.1 p gd ga gb) s = .next (s.become pit (t.issued1 (s.ctxAt pit 1)
      ((s.ctxAt pit 1).ends t (p.tail (s.ctxAt pit 1)) ++
        (s.ctxAt pit 1).result t gd (q.2 (t.reg s.cur.eng ga) (t.reg s.cur.eng gb)))))

/-- R187, R199: CLZ, CTZ and POPC count the leading zero, trailing zero and one bits of one register. -/
def Sys2Proof.saysBitCounts : Prop :=
  ∀ (p : Pre) (gd ga : Nat) (s : State) (pit : Pitch) (t : Tile), s.At pit t → t.Readable s.cur.eng [ga] →
    let c := s.ctxAt pit 1
    let a := t.reg s.cur.eng ga
    let out (n : Nat) := Host.Outcome.next (φ := Fault) (ρ := Refusal)
      (s.become pit (t.issued1 c (c.ends t (p.tail c) ++ c.result t gd (BitVec.ofNat 64 n))))
    exec (.clz p gd ga) s = out ((List.range 64).takeWhile fun k => !a.getLsbD (63 - k)).length ∧
      exec (.ctz p gd ga) s = out ((List.range 64).takeWhile fun k => !a.getLsbD k).length ∧
      exec (.popc p gd ga) s = out ((List.range 64).countP fun k => a.getLsbD k)

/-- R200, R201, R202 and SEL of R199: immediates, constants, bit fields and the selection, each with all that it
leaves. -/
def Sys2Proof.saysImmediatesAndFields : Prop :=
  ∀ (p : Pre) (gd ga gb gc imm len pos : Nat) (simm : Int) (s : State) (pit : Pitch) (t : Tile), s.At pit t →
    let reads (l : List Nat) : Prop := t.Readable s.cur.eng l
    let r (k : Nat) : Word := t.reg s.cur.eng k
    let out (n : Nat) (v : Word) := Host.Outcome.next (φ := Fault) (ρ := Refusal)
      (s.become pit (t.issued1 (s.ctxAt pit n) ((s.ctxAt pit n).ends t (p.tail (s.ctxAt pit n)) ++
        (s.ctxAt pit n).result t gd v)))
    let field : Nat := (r ga).toNat / 2 ^ pos % 2 ^ (len + 1)
    (reads [ga] → exec (.addi p gd ga simm) s = out 1 (r ga + BitVec.ofInt 64 simm)) ∧
      (reads [ga, gb, gc] → exec (.sel p gd ga gb gc) s = out 1 (if r gc = 0 then r gb else r ga)) ∧
      (imm < 2 ^ 32 → exec (.movi p gd imm) s = out 2 ((BitVec.ofNat 32 imm).signExtend 64)) ∧
      (imm < 2 ^ 32 → reads [gd] → exec (.movk p gd imm) s = out 2 (BitVec.ofNat 32 imm ++ (r gd).setWidth 32)) ∧
      (pos + len + 1 ≤ 64 → reads [ga] →
        exec (.extu p gd ga len pos) s = out 2 (BitVec.ofNat 64 field) ∧
        exec (.ext p gd ga len pos) s =
          out 2 (BitVec.ofInt 64 (if field < 2 ^ len then field else (field : Int) - 2 ^ (len + 1)))) ∧
      (pos + len + 1 ≤ 64 → reads [gd, ga] →
        ∃ v, exec (.ins p gd ga len pos) s = out 2 v ∧ ∀ k < 64, v.getLsbD k =
          (if pos ≤ k ∧ k ≤ pos + len then (r ga).getLsbD (k - pos) else (r gd).getLsbD k))

/-- R187, R199 to R202: bit counts, immediates, constants, bit fields and the selection. -/
def Obligations.ImmediatesAndFields : Prop := Sys2Proof.saysBitCounts ∧ Sys2Proof.saysImmediatesAndFields

/-- R16, R17, R193, R294, R304, R305: NOP, SAFE, RDV.T and CDRN, once they issue, change nothing but by their dependency
bits, the step to the next group and one CTL charge. -/
def Sys2Proof.saysNoEffect : Prop :=
  ∀ (p : Pre) (ga : Nat) (s : State) (pit : Pitch) (t : Tile), s.At pit t →
    let c := s.ctxAt pit 1
    ∀ i ∈ [Instr.nop p, .safe p, .rdvT p ga, .cdrn p],
      exec i s = .next (s.become pit (t.issued1 c (c.ends t (p.tail c))))

/-- R306, R309, R310, R312: TICK reads TIME_LOCAL plus the tile's offset; GETC reads the control register of its number;
MTRD reads a meter: energies in 2^-40 J from counts in 2^-48 J, the total over all seven, and the two cycle counts. -/
def Sys2Proof.saysSystemReads : Prop :=
  ∀ (p : Pre) (gd n : Nat) (s : State) (pit : Pitch) (t : Tile), s.At pit t →
    let c := s.ctxAt pit 1
    let out (v : Word) := Host.Outcome.next (φ := Fault) (ρ := Refusal)
      (s.become pit (t.issued1 c (c.ends t (p.tail c) ++ c.result t gd v)))
    exec (.tick p gd) s = out (BitVec.ofNat 64 (t.tl + c.env.off t.x t.y)) ∧
      exec (.getc p gd n) s = out (match n with
        | 0 => BitVec.ofNat 64 (t.y * 256 + t.x)
        | 1 => BitVec.ofNat 64 (pit.img.h * 256 + pit.img.w)
        | 2 => BitVec.ofNat 64 pit.orient
        | 3 => BitVec.ofNat 64 (t.pitchGen * 65536 + t.gen)
        | 4 => if t.staleTrap then 1 else 0
        | 5 => BitVec.ofNat 64 t.staleArrivals
        | 6 => BitVec.ofNat 64 (4 * (pit.img.w + pit.img.h) + 20 * pit.img.seams + 8)
        | 7 => if pit.strict then 1 else 0
        | 8 => BitVec.ofNat 64 t.tl
        | 9 => BitVec.ofNat 64 (s.tick / 2)
        | 10 => BitVec.ofNat 64 t.vflags
        | 11 => BitVec.ofNat 64 t.mflags
        | 12 => BitVec.ofNat 64 pit.slice
        | 13 => BitVec.ofInt 64 c.env.purse
        | _ => t.trapInfo) ∧
      exec (.mtrd p gd n) s = out (BitVec.ofNat 64 (match n with
        | 0 => (t.acc.toList.sum) / 256
        | 8 => t.cycActive
        | 9 => t.cycOwned
        | k + 1 => t.acc[k]?.getD 0 / 256))

/-- R16, R17, R193, R294, R304 to R306, R309, R310, R312: instructions without an effect of their own, and reads of clocks,
control registers and meters. -/
def Obligations.SystemReads : Prop := Sys2Proof.saysNoEffect ∧ Sys2Proof.saysSystemReads

/-- R168, R207, R208, R209: a branch to a word that starts no group is ILLEGAL_ENCODING, taken or not; otherwise the
engine's next group is the target where the branch is taken, and the next one, by the loop end check, where it is not. CALL
writes the offset of the next group into g31, and RET goes to the offset in g31. -/
def Sys2Proof.saysBranches : Prop :=
  ∀ (p : Pre) (ga : Nat) (off : Int) (s : State) (pit : Pitch) (t : Tile), s.At pit t →
    let reads (r : Nat) : Prop := t.Readable s.cur.eng [r]
    let c := s.ctxAt pit 1
    let k : Int := c.pc + off
    let r31 : Int := (t.reg s.cur.eng 31).toNat
    let go (l : List Pend) (target : Option Nat) := Host.Outcome.next (φ := Fault) (ρ := Refusal)
      (s.become pit (t.issued1 c (c.ends t (p.moves c.eng) ++ l ++ c.ends t [.goto c.eng target c.pc])))
    let bad := Host.Outcome.next (φ := Fault) (ρ := Refusal) (s.become pit (t.trap c trapIllegal))
    (c.Starts k → reads ga →
      exec (.bz p ga off) s = go [] (if t.reg s.cur.eng ga = 0 then some k.toNat else none) ∧
      exec (.bnz p ga off) s = go [] (if t.reg s.cur.eng ga = 0 then none else some k.toNat)) ∧
    (c.Starts k → exec (.j p off) s = go [] (some k.toNat) ∧
      exec (.call p off) s = go (c.result t 31 (BitVec.ofNat 64 (c.pc + 1))) (some k.toNat)) ∧
    (¬ c.Starts k → reads ga → exec (.bz p ga off) s = bad ∧ exec (.bnz p ga off) s = bad) ∧
    (¬ c.Starts k → exec (.j p off) s = bad ∧ exec (.call p off) s = bad) ∧
    (c.Starts r31 → reads 31 → exec (.ret p) s = go [] (some r31.toNat)) ∧
    (¬ c.Starts r31 → reads 31 → exec (.ret p) s = bad)

/-- A synchronisation instruction of R174: the registers that its fields RA and RB name, its operation from the value of
RA and its amount, its destination register, and whether it waits. -/
structure Sys2Proof.SyncRow where
  make : Pre → SyOps → Instr
  useA : Bool
  useB : Bool
  rd : Bool
  waits : Bool
  op : SyOps → Word → Word → SemDo

/-- The table of R174, with the amounts of R300. -/
def Sys2Proof.syncRows : List SyncRow :=
  [⟨.smcfg, true, true, false, false, fun o a b => .config o.index (a.toNat % 2 ^ 32) (b.toNat % 2 ^ 32) (o.mode % 2 == 1)⟩,
   ⟨.spost, false, true, false, false, fun o _ b => .post o.index b.toNat⟩,
   ⟨.sfadd, false, true, true, false, fun o _ b => .fadd o.index b.toInt⟩,
   ⟨.scas, true, true, true, false, fun o a b => .cas o.index a.toNat b.toNat⟩,
   ⟨.srd, false, false, true, false, fun o _ _ => .read o.index (o.mode % 2)⟩,
   ⟨.sexp, false, true, false, false, fun o _ b => .exp o.index b.toNat⟩,
   ⟨.rcfg, true, false, false, false, fun o a _ => .ringConfig o.index a⟩,
   ⟨.rfil, false, false, false, false, fun o _ _ => .give o.index true⟩,
   ⟨.rrel, false, false, false, false, fun o _ _ => .give o.index false⟩,
   ⟨.rstat, false, false, true, false, fun o _ _ => .ringRead o.index (o.mode % 2)⟩,
   ⟨.swait, false, true, false, true, fun o _ b => .take o.index b.toNat⟩,
   ⟨.sphw, false, true, false, true, fun o _ b => .phaseWait o.index b.toNat⟩,
   ⟨.rclf, false, false, true, true, fun o _ _ => .claim o.index true⟩,
   ⟨.rcld, false, false, true, true, fun o _ _ => .claim o.index false⟩]

/-- R188: an instruction of C or X that reads a stale register where the tile traps stale reads takes STALE_READ at its
issue. That BZ, BNZ and RET do so before their target is looked at is the model's choice (notes/assumptions/112.md). -/
def Sys2Proof.saysStaleOperands : Prop :=
  ∀ (p : Pre) (gd ga gb gc imm len pos sz lvl body count pkg amt : Nat) (sx pr ar : Bool) (off : Int) (o : XcOps) (s : State)
    (pit : Pitch) (t : Tile), s.At pit t → t.staleTrap = true →
    ∀ q ∈ (aluTwo.map fun q => (q.1 p gd ga gb, 1, [ga, gb])) ++
      [(Instr.clz p gd ga, 1, [ga]), (.ctz p gd ga, 1, [ga]), (.popc p gd ga, 1, [ga]), (.addi p gd ga off, 1, [ga]),
       (.sel p gd ga gb gc, 1, [ga, gb, gc]), (.movk p gd imm, 2, [gd]), (.ext p gd ga len pos, 2, [ga]),
       (.extu p gd ga len pos, 2, [ga]), (.ins p gd ga len pos, 2, [gd, ga]), (.ld p gd ga sz sx off, 1, [ga]), (.st p gd ga sz off, 1, [gd, ga]),
       (.bz p ga off, 1, [ga]), (.bnz p ga off, 1, [ga]), (.ret p, 1, [31]), (.loop p lvl true gc body count, 2, [gc]),
       (.tinfo p gd ga imm, 1, [ga]), (.fspost p ga gb pr ar imm pkg amt, 2, (if pr then [ga] else []) ++ if ar then [gb] else [])] ++
      ([Instr.cpt p o, .cld p o, .cst p o, .ctt p o, .cbc p o, .cga p o, .csc p o, .cfb p o].map fun i => (i, 3, [o.xd, o.xs])),
    (∃ r ∈ q.2.2, t.regStale s.cur.eng r = true) →
    exec q.1 s = .next (s.become pit (t.trap (s.ctxAt pit q.2.1) trapStale))

/-- R172, R173, R188, R296, R302: the same of synchronisation instructions: the registers that their fields RA and RB name, and in X
the coordinates' register with RSEL. A wait of C whose lookahead found a stale amount takes STALE_READ. -/
def Sys2Proof.saysStaleSync : Prop :=
  ∀ (p : Pre) (o : SyOps) (s : State) (pit : Pitch) (t : Tile), s.At pit t → t.staleTrap = true →
    let c := s.ctxAt pit 2
    let stops (i : Instr) : Prop := exec i s = .next (s.become pit (t.trap c trapStale))
    (∀ q ∈ syncRows, (o.imm = true → q.useB = true ∧ q.useA = false) → (s.cur.eng = .C ∨ s.cur.eng = .X) →
      (q.waits = true → s.cur.eng = .C → lookOf t c = none) →
      let sends := s.cur.eng = .X ∧ o.rsel = true ∧ q.make p o ≠ .smcfg p o ∧ q.make p o ≠ .rcfg p o
      ((q.useA = true ∧ t.regStale s.cur.eng o.ra = true) ∨ (q.useB = true ∧ o.imm = false ∧ t.regStale s.cur.eng o.rb = true) ∨
        (sends ∧ t.regStale .X o.rc = true)) → stops (q.make p o)) ∧
    ∀ l, s.cur.eng = .C → lookOf t c = some l → l.stale = true →
      ∀ i ∈ [Instr.swait p o, .sphw p o, .rclf p o, .rcld p o], stops i

/-- R168, R188, R196, R207 to R209, R283, R293, R295, R296, R302: control transfers, and stale operands of the instructions of C and X.
That BZ, BNZ and RET take STALE_READ before their target is looked at is the model's choice (notes/assumptions/112.md). -/
def Obligations.Branches : Prop := Sys2Proof.saysBranches ∧ Sys2Proof.saysStaleOperands ∧ Sys2Proof.saysStaleSync

/-- R194, R195, R196, R197: LOOP with a count starts its level at the body and goes there, and with a count of 0 goes past
it; a body that ends inside a group is ILLEGAL_ENCODING. ENDS ends its engine. IDLE n holds its engine for n cycles: IDLE 1
steps on at once, a longer one leaves n − 1. -/
def Sys2Proof.saysLoopEndsIdle : Prop :=
  ∀ (p : Pre) (lvl rc body count n : Nat) (src : Bool) (s : State) (pit : Pitch) (t : Tile), s.At pit t →
    t.Readable s.cur.eng (if src then [rc] else []) →
    let c := s.ctxAt pit 2
    let c1 := s.ctxAt pit 1
    let times := if src then (t.reg s.cur.eng rc).toNat % 2 ^ 32 else count
    let after := c.pc + 2 + body
    let fits := c.Starts after ∨ after = (c.env.codeOf c.eng).words.length
    (fits → exec (.loop p lvl src rc body count) s = .next (s.become pit (t.issued1 c (c.ends t (p.moves c.eng ++
      if times = 0 then [.goto c.eng (some after) (c.pc + 1)]
      else [.loopStart c.eng lvl (c.pc + 2) (c.pc + 1 + body) times, .goto c.eng (some (c.pc + 2)) (c.pc + 1)]))))) ∧
    (¬ fits → exec (.loop p lvl src rc body count) s = .next (s.become pit (t.trap c trapIllegal))) ∧
    exec (.ends p) s = .next (s.become pit (t.issued1 c1 (c1.ends t (p.moves c1.eng ++ [.ends c1.eng])))) ∧
    (s.cur.eng ≠ .X → exec (.idle p n) s = .next (s.become pit { t with pend := t.pend ++ c1.ends t (p.moves c1.eng ++
      if n ≤ 1 then [.goto c1.eng none c1.pc] else [.idle c1.eng (n - 1)]) }))

/-- The formats of R81 by their FMT code, with the limit of COLS and whether elements may be scaled. -/
def Sys2Proof.formatCodes : List (Fmt × Nat × Bool) :=
  [(.fp32, 32, false), (.fp16, 64, false), (.bf16, 64, false), (.f8a, 128, true), (.f8b, 128, true), (.f4, 256, true),
   (.ts8, 128, true), (.i8, 128, false), (.i32, 32, false), (.e8, 128, false)]

/-- R32, R80, R81, R82, R87, R94, R188, R210 to R217, R304, R307, R309, R310: SCFG, SRST, LDEL, TCFG, SETC, GENCLR and RDV.P in
C leave what they write for the end of the issue cycle; SGET and TGET read what stands. A word 0 with MODE 2 or 3 or a FMT
above 9, and a descriptor value that R81 does not allow, are ILLEGAL_ENCODING: a FMT above 9, ROWS above 64, COLS of 0 with ROWS
nonzero or above the format's limit, SCALE_A above 5, scales of a format that has none, a nonzero reserved field. A word 0 that would
change bits [9:6] of BASE or CUR of a stream in use is STREAM_PHASE; nk · no scale bytes of R82 that reach past the side file's 4,096
are SCRATCH_BOUNDS; in trap mode a stale g register,
stream register or descriptor that is read is STALE_READ. That RDV.P keeps C's state as it stood is the model's choice
(notes/assumptions/36.md). -/
def Obligations.Configuration : Prop :=
  ∀ (p : Pre) (r str wsel eng lvl sub n : Nat) (delta : Int) (s : State) (pit : Pitch) (t : Tile), s.At pit t →
    s.cur.eng = .C →
    let c := s.ctxAt pit 1
    let c2 := s.ctxAt pit 2
    let v : Word := t.reg .C r
    let fmt := wfld v 0 4
    let rows := wfld v 10 7
    let cols := wfld v 17 9
    let a := 2 ^ wfld v 27 3
    let d : TDesc := { fmt := fmt, rows := rows, cols := cols, kaxis := v.getLsbD 26, scaleA := wfld v 27 3,
                       scaleOn := v.getLsbD 30, sslice := wfld v 31 6 }
    let kext := if v.getLsbD 26 then rows else cols
    let oext := if v.getLsbD 26 then cols else rows
    let beyond : Prop := v.getLsbD 30 = true ∧ 4096 < wfld v 31 6 * 64 + (kext + a - 1) / a * ((oext + 32 / a - 1) / (32 / a))
    let st := t.streamOf str
    let out (l : List Eff) (m : List Pend) := Host.Outcome.next (φ := Fault) (ρ := Refusal)
      (s.become pit (t.issued1 c (c.ends t (p.tail c ++ l) ++ m)))
    let bad (code : Nat) := Host.Outcome.next (φ := Fault) (ρ := Refusal) (s.become pit (t.trap c code))
    let reads := t.Readable .C [r]
    let noWord := wsel = 0 ∧ (1 < wfld v 24 2 ∨ 9 < wfld v 20 4)
    let phase := wsel = 0 ∧ (at' {} t.s str).inUse = true ∧
      (wfld v 6 4 ≠ st.base / 64 % 16 ∨ wfld v 6 4 ≠ st.cur / 64 % 16)
    let noDesc := wfld v 4 6 ≠ 0 ∨ wfld v 49 15 ≠ 0 ∨ match formatCodes[fmt]? with
      | none => True
      | some (_, limit, scaled) => 64 < rows ∨ (cols = 0 ∧ rows ≠ 0) ∨ limit < cols ∨ 5 < wfld v 27 3 ∨
          (v.getLsbD 30 = true ∧ scaled = false)
    (reads → noWord → exec (.scfg p r str wsel) s = bad trapIllegal) ∧
    (reads → ¬ noWord → phase → exec (.scfg p r str wsel) s = bad trapStreamPhase) ∧
    (reads → ¬ noWord → ¬ phase → exec (.scfg p r str wsel) s = out [.scfg str wsel v] []) ∧
    (¬ reads → ∀ i ∈ [Instr.scfg p r str wsel, .tcfg p r n, .setc p r n sub], exec i s = bad trapStale) ∧
    ((t.staleTrap = false ∨ t.streamStale str = false) →
      exec (.sget p r str wsel) s = out [] (c.result t r (st.word wsel))) ∧
    (t.staleTrap = true → t.streamStale str = true → exec (.sget p r str wsel) s = bad trapStale) ∧
    exec (.srst p str) s = out [.srst str] [] ∧
    exec (.ldel p eng lvl str delta) s =
      .next (s.become pit (t.issued1 c2 (c2.ends t (p.tail c2 ++ [.ldel eng lvl str delta])))) ∧
    (reads → noDesc → exec (.tcfg p r n) s = bad trapIllegal) ∧
    (reads → ¬ noDesc → beyond → exec (.tcfg p r n) s = bad trapBounds) ∧
    (reads → ¬ noDesc → ¬ beyond → exec (.tcfg p r n) s = out [.tdesc n d, .epoch n] []) ∧
    ((t.staleTrap = false ∨ t.descCur n = true) → exec (.tget p r n) s =
      out [] (c.result t r (if t.descCur n then (at' {} t.desc n).toWord (at' 1 t.epoch n) else 0))) ∧
    (t.staleTrap = true → t.descCur n = false → exec (.tget p r n) s = bad trapStale) ∧
    (reads → exec (.setc p r n sub) s = out [.csr n sub v] []) ∧
    exec (.genclr p) s = out [.genclr] [] ∧
    exec (.rdvP p n) s = .next (s.become pit
      { t.issued1 c (c.ends t (p.tail c ++ [.rdv n])) with rdvEng := t.engOf .C })

/-- R36, R37, R38, R168, R169, R311: TRAP, and a word that is no instruction, take their trap at the issue cycle: it is
registered with the tile's local cycle, the engine and the group, TRAP_INFO names it, the engine issues nothing further and
its program counter stays. Nothing of the group takes effect: what it staged, its semaphore and ring operations and its bank
cycles are gone, those of every other group stay, nothing leaves the tile, and every register and store stands as it was. -/
def Obligations.TrapTaken : Prop :=
  ∀ (p : Pre) (code : Nat) (s : State) (pit : Pitch) (t : Tile), s.At pit t → s.cur.eng.idx < t.eng.size →
    let c := s.ctxAt pit 1
    ∀ q ∈ [(Instr.trap p code, trapSoftware, code, code), (.illegalEncoding, trapIllegal, c.gpc, 0)],
    ∃ t', exec q.1 s = .next (s.become pit t') ∧
      t'.traps = t.traps ++ [{ tau := t.tl, eng := c.eng, code := q.2.1, wr := false, info := q.2.2.1, data := q.2.2.2,
                               off := c.gpc, word := c.pc }] ∧
      t'.trapInfo = BitVec.ofNat 64 (q.2.1 * 2 ^ 56 + c.eng.idx * 2 ^ 53 + q.2.2.1 % 2 ^ 52) ∧
      (t'.engOf c.eng).halted = true ∧ (t'.engOf c.eng).pc = (t.engOf c.eng).pc ∧
      (∀ e, e ∈ t'.pend ↔ e ∈ t.pend ∧ ¬ (e.own.eng = c.eng ∧ e.own.gid = c.gid)) ∧
      (∀ b, b ∈ t'.banks ↔ b ∈ t.banks ∧ ¬ (b.own.eng = c.eng ∧ b.own.gid = c.gid)) ∧
      (∀ o, o ∈ t'.semOps ↔ o ∈ t.semOps ∧
        ¬ (o.gid = c.gid ∧ (o.src = .c ∧ c.eng = .C ∨ o.src = .x ∧ c.eng = .X))) ∧ t'.out = t.out ∧
      t'.g = t.g ∧ t'.xr = t.xr ∧ t'.m = t.m ∧ t'.s = t.s ∧ t'.desc = t.desc ∧ t'.epoch = t.epoch ∧ t'.spm = t.spm ∧
      t'.spmTag = t.spmTag ∧ t'.grid = t.grid ∧ t'.gridTag = t.gridTag ∧ t'.side = t.side ∧ t'.sideTag = t.sideTag ∧
      t'.sem = t.sem ∧ t'.ring = t.ring ∧ t'.tok = t.tok ∧ t'.vflags = t.vflags ∧ t'.mflags = t.mflags ∧ t'.gen = t.gen ∧
      t'.tl = t.tl ∧ t'.mode = t.mode

/-- R99, R203, R204: LD and ST in C whose address lies in the scratchpad and is aligned to the access issue one access
of that address, in the bank cycle that was chosen when the group was admitted (`fixed`), or else in the first cycle from
issue + 1 to issue + 6 in which no reserved access takes the bank; without one the group takes BANK_COLLISION. Any other
address is SCRATCH_BOUNDS. That the cycle is chosen when the group is admitted, by the accesses reserved or foreseen by
then, is the model's choice (notes/assumptions/13.md). -/
def Obligations.ScalarAccessInC : Prop :=
  ∀ (p : Pre) (r ga sz : Nat) (sx : Bool) (off : Int) (s : State) (pit : Pitch) (t : Tile), s.At pit t →
    s.cur.eng = .C → t.Readable .C [r, ga] →
    let c := s.ctxAt pit 1
    let a := (t.reg .C ga + BitVec.ofInt 64 (off * 2 ^ sz)).toNat
    let good := a + 2 ^ sz ≤ 0xC0000 ∧ a % 2 ^ sz = 0
    let bank := a / 64 % 16
    let fixed (k : Nat) : Prop := (t.banks.find? fun u => u.own == Tile.own c).map BankUse.at_ = some k
    let open_ := ∀ u ∈ t.banks, u.own ≠ Tile.own c
    let taken (k : Nat) : Prop := ∃ u ∈ t.banks, u.at_ = k ∧ u.bank = bank
    let out (i : Instr) (v : Word) (k : Nat) (more : List BankUse) := Host.Outcome.next (φ := Fault) (ρ := Refusal)
      (s.become pit { t.issued1 c (c.ends t (p.tail c) ++ c.one k 1 (.access i a v)) with banks := t.banks ++ more })
    let bad (code : Nat) := Host.Outcome.next (φ := Fault) (ρ := Refusal) (s.become pit (t.trap c code))
    ∀ q ∈ [(Instr.ld p r ga sz sx off, t.reg .C ga), (.st p r ga sz off, t.reg .C r)],
    (good → ∀ k, fixed k → exec q.1 s = out q.1 q.2 k []) ∧
    (good → open_ → ∀ k, t.tl < k → k ≤ t.tl + 6 → ¬ taken k → (∀ j, t.tl < j → j < k → taken j) →
      exec q.1 s = out q.1 q.2 k [⟨k, bank, Tile.own c, c.iss⟩]) ∧
    (good → open_ → (∀ k, t.tl < k → k ≤ t.tl + 6 → taken k) → exec q.1 s = bad trapBank) ∧
    (¬ good → exec q.1 s = bad trapBounds)

/-- R90, R91, R204, R206: ST in X at a good address completes: afterwards the scratchpad reads as the low 2^sz bytes of
x[r], little-endian, at the address that x[ga] and the offset give, and as before at every other address; no register,
no other store, no semaphore and no ring has changed. -/
def Obligations.StoreInX : Prop :=
  ∀ (p : Pre) (r ga sz : Nat) (off : Int) (s : State) (pit : Pitch) (t : Tile), s.At pit t → s.cur.eng = .X →
    t.Readable .X [r, ga] → t.spm.wf = true → t.gen ≠ 0 → sz < 4 →
    let a := (t.reg .X ga + BitVec.ofInt 64 (off * 2 ^ sz)).toNat
    a + 2 ^ sz ≤ 0xC0000 → a % 2 ^ sz = 0 →
    ∃ t', exec (.st p r ga sz off) s = .next (s.become pit t') ∧
      (∀ k, t'.spmByte k =
        if a ≤ k ∧ k < a + 2 ^ sz then BitVec.ofNat 8 ((t.reg .X r).toNat / 256 ^ (k - a)) else t.spmByte k) ∧
      t'.spm.wf = true ∧ t'.traps = t.traps ∧ t'.g = t.g ∧ t'.xr = t.xr ∧ t'.m = t.m ∧ t'.s = t.s ∧ t'.desc = t.desc ∧
      t'.epoch = t.epoch ∧ t'.grid = t.grid ∧ t'.gridTag = t.gridTag ∧ t'.side = t.side ∧ t'.sideTag = t.sideTag ∧
      t'.sem = t.sem ∧ t'.ring = t.ring ∧ t'.tok = t.tok ∧ t'.vflags = t.vflags ∧ t'.mflags = t.mflags ∧
      t'.gen = t.gen ∧ t'.trapInfo = t.trapInfo ∧ t'.eng = t.eng

/-- R90, R203, R204, R206: LD in X at an address inside the scratchpad and aligned to the access. Of a granule that is current, or
that reads as zero because stale reads are not trapped, it completes: x[r] receives, eight wall cycles later, the zero- or
sign-extended little-endian bytes at the address; nothing is stored. Of a stale granule in trap mode it takes STALE_READ. -/
def Obligations.LoadInX : Prop :=
  ∀ (p : Pre) (r ga sz : Nat) (sx : Bool) (off : Int) (s : State) (pit : Pitch) (t : Tile), s.At pit t →
    s.cur.eng = .X → t.Readable .X [ga] → sz < 4 →
    let a := (t.reg .X ga + BitVec.ofInt 64 (off * 2 ^ sz)).toNat
    a + 2 ^ sz ≤ 0xC0000 → a % 2 ^ sz = 0 →
    let c := s.ctxAt pit 1
    let n := leNat (t.spmBytes a (2 ^ sz))
    let v : Int := if sx = true ∧ 2 ^ (8 * 2 ^ sz - 1) ≤ n then (n : Int) - 2 ^ (8 * 2 ^ sz) else n
    (t.staleTrap = true → t.spmCur (a / 64) = false →
      exec (.ld p r ga sz sx off) s = .next (s.become pit (t.trap c trapStale))) ∧
    ((t.staleTrap = false ∨ t.spmCur (a / 64) = true) → ∃ t', exec (.ld p r ga sz sx off) s = .next (s.become pit t') ∧
      t'.pend = t.pend ++ c.ends t (p.tail c) ++ c.one (pit.wall + 8) 0 (.x r (BitVec.ofInt 64 v)) ∧
      t'.xs.busyRegs = r :: t.xs.busyRegs ∧ t'.spm = t.spm ∧ t'.spmTag = t.spmTag ∧ t'.traps = t.traps ∧ t'.g = t.g ∧
      t'.xr = t.xr ∧ t'.m = t.m ∧ t'.s = t.s ∧ t'.desc = t.desc ∧ t'.epoch = t.epoch ∧ t'.grid = t.grid ∧
      t'.gridTag = t.gridTag ∧ t'.side = t.side ∧ t'.sideTag = t.sideTag ∧ t'.sem = t.sem ∧ t'.ring = t.ring ∧
      t'.tok = t.tok ∧ t'.vflags = t.vflags ∧ t'.mflags = t.mflags ∧ t'.gen = t.gen ∧ t'.eng = t.eng)

/-- The value of the amount field: a 5-bit immediate, signed for SFADD alone, or a register (R172, R300). -/
def Sys2Proof.SyncRow.amount (q : SyncRow) (t : Tile) (e : Engine) (o : SyOps) : Word :=
  if o.imm then
    (match q.make ⟨false, false, false, false, false⟩ o with
      | .sfadd _ _ => BitVec.ofInt 64 (toSigned 5 o.rb)
      | _ => BitVec.ofNat 64 o.rb)
  else t.reg e o.rb

/-- R172, R173, R174, R296, R297, R300: every synchronisation instruction on an object of its own tile, once it issues,
hands its operation to the step of R108 of this cycle, with its dependency bits and one charge; nothing else changes. A
wait of C whose lookahead has passed takes the lookahead's amount (R302), which the hypothesis leaves out. -/
def Sys2Proof.saysLocalSync : Prop :=
  ∀ q ∈ syncRows, ∀ (p : Pre) (o : SyOps) (s : State) (pit : Pitch) (t : Tile), s.At pit t →
    (o.obj = 0 ∨ o.obj = 3) → o.rsel = false → (o.imm = true → q.useB = true ∧ q.useA = false ∧ o.rb < 32) →
    t.Readable s.cur.eng ((if q.useA then [o.ra] else []) ++ (if q.useB && !o.imm then [o.rb] else [])) →
    let c := s.ctxAt pit 2
    (q.waits = true → s.cur.eng = .C → lookOf t c = none) → (s.cur.eng = .C ∨ s.cur.eng = .X) →
    exec (q.make p o) s = .next (s.become pit { t with
      pend := t.pend ++ c.ends t (p.tail c ++ [.charge 0 1 1])
      semOps := t.semOps ++ [{ src := if s.cur.eng = .C then .c else .x, gid := c.gid, iid := c.iid,
                               op := q.op o (t.reg s.cur.eng o.ra) (q.amount t s.cur.eng o),
                               rd := if q.rd then some o.rd else none }] })

/-- R302: a wait in C whose lookahead has been made acts with the amount that the lookahead found. -/
def Sys2Proof.saysWaitUsesLookahead : Prop :=
  ∀ (p : Pre) (o : SyOps) (l : Look) (s : State) (pit : Pitch) (t : Tile), s.At pit t → s.cur.eng = .C →
    (o.obj = 0 ∨ o.obj = 3) →
    let c := s.ctxAt pit 2
    lookOf t c = some l → l.stale = false →
    ∀ q ∈ [(Instr.swait p o, SemDo.take o.index l.amount, none), (.sphw p o, .phaseWait o.index l.amount, none),
      (.rclf p o, .claim o.index true, some o.rd), (.rcld p o, .claim o.index false, some o.rd)],
    exec q.1 s = .next (s.become pit { t with
      pend := t.pend ++ c.ends t (p.tail c ++ [.charge 0 1 1])
      semOps := t.semOps ++ [{ src := .c, gid := c.gid, iid := c.iid, op := q.2.1, rd := q.2.2 }] })

/-- R172 to R174, R296, R297, R300, R302: synchronisation on objects of the tile. -/
def Obligations.LocalSync : Prop := Sys2Proof.saysLocalSync ∧ Sys2Proof.saysWaitUsesLookahead

/-- R173, R296, R298: the same instructions of X on an object of another tile, or on a slice semaphore, send one message
with the operation; an instruction that waits stays until its reply, and the others go on. A remote tile outside the pitch
is SCRATCH_BOUNDS. That a waiting form moves no token and does not step before its reply is the model's choice
(notes/assumptions/7.md). -/
def Obligations.RemoteSync : Prop :=
  ∀ q ∈ syncRows, ∀ (p : Pre) (o : SyOps) (s : State) (pit : Pitch) (t : Tile), s.At pit t → s.cur.eng = .X →
    (∀ o, q.make p o ≠ .smcfg p o ∧ q.make p o ≠ .rcfg p o) →
    (o.imm = true → q.useB = true ∧ q.useA = false ∧ o.rb < 32) →
    t.Readable .X ((if q.useA then [o.ra] else []) ++ (if q.useB && !o.imm then [o.rb] else []) ++
      (if o.rsel then [o.rc] else [])) →
    let c := s.ctxAt pit 2
    let op := q.op o (t.reg .X o.ra) (q.amount t .X o)
    let rd := if q.rd then some o.rd else none
    let tx := if o.rsel then wfld (t.reg .X o.rc) 20 6 else o.tx
    let ty := if o.rsel then wfld (t.reg .X o.rc) 26 6 else o.ty
    let moved := if q.waits then [] else c.ends t (p.tail c)
    ((o.obj = 1 ∨ o.obj = 4) → tx < pit.img.w → ty < pit.img.h →
      ∃ t', exec (q.make p o) s = .next (s.become pit t') ∧
        t'.out = t.out ++ [.remote tx ty op rd q.waits c.gpc] ∧ t'.pend = t.pend ++ moved ∧ t'.semOps = t.semOps ∧
        t'.sem = t.sem ∧ t'.ring = t.ring ∧ t'.xr = t.xr ∧ t'.g = t.g ∧ t'.spm = t.spm ∧ t'.tok = t.tok ∧
        t'.traps = t.traps) ∧
    ((o.obj = 1 ∨ o.obj = 4) → ¬ (tx < pit.img.w ∧ ty < pit.img.h) →
      exec (q.make p o) s = .next (s.become pit (t.trap c trapBounds))) ∧
    (o.obj = 2 →
      ∃ t', exec (q.make p o) s = .next (s.become pit t') ∧
        t'.out = t.out ++ [.slice o.index op rd q.waits c.gpc] ∧ t'.pend = t.pend ++ moved ∧ t'.semOps = t.semOps ∧
        t'.sem = t.sem ∧ t'.ring = t.ring ∧ t'.xr = t.xr ∧ t'.g = t.g ∧ t'.spm = t.spm ∧ t'.tok = t.tok ∧
        t'.traps = t.traps)

/-- The destination and source operands of a copy (R175): a register and its displacement, wrapped to 64 bits. -/
def Sys2Proof.opDst (t : Tile) (o : XcOps) : Word := t.reg .X o.xd + BitVec.ofInt 64 (toSigned 32 o.dimm)
def Sys2Proof.opSrc (t : Tile) (o : XcOps) : Word := t.reg .X o.xs + BitVec.ofNat 64 o.simm

/-- What an X instruction leaves that hands `g` on: its dependency bits, its step, a CTL charge, the charge of the
descriptor granules it read. -/
def Sys2Proof.commanded (p : Pre) (t : Tile) (c : Ctx) (granules : Nat) (g : Sig) : Tile :=
  { ((({ t with pend := t.pend ++ c.ends t (p.tail c) } : Tile).charge c.env 0 1).charge c.env 1 granules) with
    out := t.out ++ [g] }

/-- `n` bytes from `a` lie inside the scratchpad, and `a` is a multiple of `z`. -/
def Sys2Proof.Fits (a n z : Nat) : Prop := a % z = 0 ∧ a + n ≤ 0xC0000

/-- The target of a completion post: tile `k`, with the SEM, INC and ARR of the copy (R286). -/
def Sys2Proof.target (o : XcOps) (k : Nat) : CopySem := ⟨k, o.sem, o.inc, o.arr⟩

/-- R175, R176, R283, R286, R287: CPT on granules that lie inside both scratchpads, toward a tile of the pitch, commands
the copy of 64·AUX bytes; anything else is SCRATCH_BOUNDS. -/
def Sys2Proof.saysCopyPush : Prop :=
  ∀ (p : Pre) (o : XcOps) (s : State) (pit : Pitch) (t : Tile), s.At pit t → s.cur.eng = .X →
    t.Readable .X [o.xd, o.xs] →
    let c := s.ctxAt pit 3
    let d := (opDst t o).toNat
    let x := d / 2 ^ 20 % 64
    let y := d / 2 ^ 26 % 64
    let n := 64 * o.aux
    let good := Fits (opSrc t o).toNat n 64 ∧ Fits (d % 2 ^ 20) n 64 ∧ x < pit.img.w ∧ y < pit.img.h
    (good → exec (.cpt p o) s = .next (s.become pit (commanded p t c 0 (.copy (.cpt p o) (opDst t o) (opSrc t o)
      (.spm [t.y * pit.img.w + t.x] (opSrc t o).toNat) (.spm [y * pit.img.w + x] (d % 2 ^ 20)) n 1
      [target o (y * pit.img.w + x)] c.gpc)))) ∧
    (¬ good → exec (.cpt p o) s = .next (s.become pit (t.trap c trapBounds)))

/-- R115, R122 to R124, R175, R176, R283, R288: CLD and CGA read their descriptor (with the index list) at the source
operand, CST and CSC at the destination operand: SCRATCH_BOUNDS where it is out of the scratchpad or not on a granule;
TENSOR_BOUNDS where the region or its table entry fails a check; SCRATCH_BOUNDS where the scratchpad side does not fit;
otherwise the copy of the region's elements is commanded, with its post at the issuing tile. -/
def Sys2Proof.saysCopyRegion : Prop :=
  ∀ (p : Pre) (o : XcOps) (s : State) (pit : Pitch) (t : Tile), s.At pit t → s.cur.eng = .X →
    t.Readable .X [o.xd, o.xs] →
    ∀ q ∈ [(Instr.cld p o, true, false), (.cga p o, true, true), (.cst p o, false, false), (.csc p o, false, true)],
    let load := q.2.1
    let gathered := q.2.2
    let c := s.ctxAt pit 3
    let a := (if load then opSrc t o else opDst t o).toNat
    let off := (if load then opDst t o else opSrc t o).toNat
    let span := if gathered then 64 + (o.aux + 15) / 16 * 64 else 64
    let d := RegionDesc.ofBytes (t.spmBytes a 64)
    let idx := if gathered then indexList t a o.aux else []
    let e := tensorOf c.env.tensors d.handle
    let n := d.count idx gathered
    let me := t.y * pit.img.w + t.x
    let bad (code : Nat) := Host.Outcome.next (φ := Fault) (ρ := Refusal) (s.become pit (t.trap c code))
    (¬ Fits a span 64 → exec q.1 s = bad trapBounds) ∧
    (Fits a span 64 → t.staleTrap = true → t.spmStale a span = true → exec q.1 s = bad trapStale) ∧
    (Fits a span 64 → (t.staleTrap = false ∨ t.spmStale a span = false) →
      (regionOk d idx gathered (!load) e = false → exec q.1 s = bad trapTensor) ∧
      (regionOk d idx gathered (!load) e = true → ¬ Fits off (n * d.z) d.z → exec q.1 s = bad trapBounds) ∧
      (regionOk d idx gathered (!load) e = true → Fits off (n * d.z) d.z →
        exec q.1 s = .next (s.become pit (commanded p t c (span / 64) (.copy q.1 (opDst t o) (opSrc t o)
          (if load then .region d idx e else .spm [me] off) (if load then .spm [me] off else .region d idx e)
          n d.z [target o me] c.gpc)))))

/-- R114, R115, R122 to R124, R288: a region and its checks. A descriptor's fields stand in its 64 bytes as R122 lays them out, an index
list after them. A side is good when its entry may be used (VALID, LOC, RD or WR, and of HOST an aligned BASE inside 2^52), ESIZE is at
most 4, the extents beyond the innermost are 1 where it is gathered, and every element's address, formed term by term, stays in 64
signed bits and lies in the tensor, or outside with PAD on the side that is read and CLIP on the side that is written. Elements go in
region order, the innermost index fastest, then the item of the list. -/
def Sys2Proof.saysRegions : Prop :=
  ∀ (b : List Byte) (t : Tile) (at_ count : Nat) (d : RegionDesc) (idx : List Int) (gathered write : Bool) (e : Vector Word 4),
    let word (k : Nat) : Nat := leNat ((b.drop (4 * k)).take 4)
    let signed (k : Nat) : Int := (BitVec.ofNat 32 (word k)).toInt
    let r := RegionDesc.ofBytes b
    let bits (k lo n : Nat) : Nat := (at' 0 e k).toNat / 2 ^ lo % 2 ^ n
    let base := bits 0 0 52
    let size := bits 1 0 48
    let usable := bits 3 0 1 = 1 ∧ bits 3 4 2 ≠ 3 ∧ bits 3 (if write then 2 else 1) 1 = 1 ∧
      (bits 3 4 2 = 0 → base % 64 = 0 ∧ base + size ≤ 2 ^ 52)
    let extent (k : Nat) : Nat := at' 0 d.extent k
    let term (j : Int) (k : Nat) : Int := (at' 0 d.start k + j) * at' 0 d.stride k
    let fits (z : Int) : Prop := -(2 ^ 63) ≤ z ∧ z < 2 ^ 63
    let formed (l : List Int) : Prop := (∀ z ∈ l, fits z) ∧ ∀ n ≤ l.length, fits (d.offset + (l.take n).sum)
    let good (l : List Int) : Prop := let a := d.offset + l.sum
      formed l ∧ ((if write then d.clip else d.pad) = true ∨ (0 ≤ a ∧ a + 2 ^ d.esize ≤ size))
    let plain (j : Nat → Nat) : List Int := (List.range 4).map fun k => term (j k) k
    let listed (j item : Nat) : List Int := [term j 0, term (idx.getD item 0) 1]
    (b.length = 64 → r.handle = word 1 / 2 ^ 16 ∧ r.pad = (word 0).testBit 7 ∧ r.clip = (word 0).testBit 6 ∧ r.esize = word 0 % 8 ∧
      r.offset = (BitVec.ofNat 64 (word 2 + 2 ^ 32 * word 3)).toInt ∧
      ∀ k < 4, at' 0 r.start k = signed (4 + k) ∧ at' 0 r.stride k = signed (8 + k) ∧ at' 0 r.extent k = word (12 + k)) ∧
    (indexList t at_ count).length = count ∧
    (∀ k < count, (indexList t at_ count).getD k 0 = (BitVec.ofNat 32 (leNat (t.spmBytes (at_ + 64 + 4 * k) 4))).toInt) ∧
    d.count idx false = extent 0 * extent 1 * extent 2 * extent 3 ∧ d.count idx true = extent 0 * idx.length ∧ d.z = 2 ^ d.esize ∧
    (regionOk d idx gathered write e = true ↔ usable ∧ d.esize ≤ 4 ∧
      (gathered = true → extent 1 = 1 ∧ extent 2 = 1 ∧ extent 3 = 1) ∧
      if gathered then ∀ item < idx.length, ∀ j < extent 0, good (listed j item)
      else ∀ j : Nat → Nat, (∀ k < 4, j k < extent k) → good (plain j)) ∧
    (∀ j : Nat → Nat, (∀ k < 4, j k < extent k) → formed (plain j) →
      d.addr [] (j 0 + extent 0 * (j 1 + extent 1 * (j 2 + extent 2 * j 3))) = some (d.offset + (plain j).sum)) ∧
    ∀ item < idx.length, ∀ j < extent 0, formed (listed j item) →
      d.addr idx (j + extent 0 * item) = some (d.offset + (listed j item).sum)

/-- R114, R115, R122 to R124, R175, R176, R283, R286 to R288: the copies between one scratchpad and another or a region, and the
checks of a region. -/
def Obligations.CopyRegion : Prop := Sys2Proof.saysCopyPush ∧ Sys2Proof.saysCopyRegion ∧ Sys2Proof.saysRegions

/-- R90, R115, R122, R125, R283, R289, R290, R291: CTT, CBC and CFB. A descriptor out of the scratchpad or not on a granule is
SCRATCH_BOUNDS, a stale one in trap mode STALE_READ. On descriptors that can be read: TENSOR_BOUNDS where a region or
its entry fails a check, or where CTT's sides differ in count or element size or are both remote; SCRATCH_BOUNDS where
CBC's rectangle leaves the pitch or its bytes the scratchpad; otherwise the copy is commanded: CBC to every tile of the
rectangle with a post at each, CFB with the pattern of x[XS]. The checks of a region, and what its descriptor's bytes say, are those
of `CopyRegion`. -/
def Obligations.CopyTensorForms : Prop :=
  ∀ (p : Pre) (o : XcOps) (s : State) (pit : Pitch) (t : Tile), s.At pit t → s.cur.eng = .X →
    t.Readable .X [o.xd, o.xs] →
    let c := s.ctxAt pit 3
    let a := (opSrc t o).toNat
    let b := (opDst t o).toNat
    let reads (k : Nat) : Prop := Fits k 64 64 ∧ (t.staleTrap = false ∨ t.spmCur (k / 64) = true)
    let fails (k code : Nat) : Prop := (¬ Fits k 64 64 ∧ code = trapBounds) ∨
      (Fits k 64 64 ∧ t.staleTrap = true ∧ t.spmCur (k / 64) = false ∧ code = trapStale)
    let sd := RegionDesc.ofBytes (t.spmBytes a 64)
    let dd := RegionDesc.ofBytes (t.spmBytes b 64)
    let es := tensorOf c.env.tensors sd.handle
    let ed := tensorOf c.env.tensors dd.handle
    let me := t.y * pit.img.w + t.x
    let x := b / 2 ^ 20 % 64
    let y := b / 2 ^ 26 % 64
    let w := o.aux / 64 + 1
    let h := o.aux % 64 + 1
    let tiles := (List.range h).flatMap fun r => (List.range w).map fun k => (y + r) * pit.img.w + (x + k)
    let bad (code : Nat) := Host.Outcome.next (φ := Fault) (ρ := Refusal) (s.become pit (t.trap c code))
    let out (i : Instr) (g : Nat) (src dst : Side) (n z : Nat) (l : List Nat) :=
      Host.Outcome.next (φ := Fault) (ρ := Refusal) (s.become pit (commanded p t c g
        (.copy i (opDst t o) (opSrc t o) src dst n z (l.map (target o)) c.gpc)))
    let pair := regionOk sd [] false false es = true ∧ regionOk dd [] false true ed = true ∧
      dd.count [] false = sd.count [] false ∧ sd.esize = dd.esize ∧ ¬ (entLoc es = 2 ∧ entLoc ed = 2)
    let rect := Fits (b % 2 ^ 20) (sd.count [] false * sd.z) sd.z ∧ x + w ≤ pit.img.w ∧ y + h ≤ pit.img.h
    (∀ code, fails a code → exec (.cbc p o) s = bad code ∧ (reads b ∨ fails b code → exec (.ctt p o) s = bad code)) ∧
    (∀ code, fails b code → exec (.cfb p o) s = bad code ∧ (reads a → exec (.ctt p o) s = bad code)) ∧
    (reads a → reads b →
      (pair → exec (.ctt p o) s =
        out (.ctt p o) 2 (.region sd [] es) (.region dd [] ed) (sd.count [] false) sd.z [me]) ∧
      (¬ pair → exec (.ctt p o) s = bad trapTensor)) ∧
    (reads a →
      (regionOk sd [] false false es = false → exec (.cbc p o) s = bad trapTensor) ∧
      (regionOk sd [] false false es = true → rect → exec (.cbc p o) s =
        out (.cbc p o) 1 (.region sd [] es) (.spm tiles (b % 2 ^ 20)) (sd.count [] false) sd.z tiles) ∧
      (regionOk sd [] false false es = true → ¬ rect → exec (.cbc p o) s = bad trapBounds)) ∧
    (reads b →
      (regionOk dd [] false true ed = true → exec (.cfb p o) s =
        out (.cfb p o) 1 (.pattern (t.reg .X o.xs).toNat) (.region dd [] ed) (dd.count [] false) dd.z [me]) ∧
      (regionOk dd [] false true ed = false → exec (.cfb p o) s = bad trapTensor))

/-- R137, R177, R292, R294, R295, R114: FSPOST to this package or a bound one hands its post on, to any other it is
TENSOR_BOUNDS; CFEN sets its fence before the copies that are open; TINFO reads a word of the table entry of a handle. -/
def Obligations.PostsFencesInfo : Prop :=
  ∀ (p : Pre) (xp xa index pkg amt xd word : Nat) (pr ar : Bool) (s : State) (pit : Pitch) (t : Tile), s.At pit t →
    s.cur.eng = .X → t.Readable .X [xp, xa] →
    let c := s.ctxAt pit 1
    let c2 := s.ctxAt pit 2
    let k := if pr then (t.reg .X xp).toNat % 2 ^ 14 else pkg
    let n := if ar then (t.reg .X xa).toNat % 2 ^ 32 else amt
    let bound := k = s.dev.pkg ∨ ∃ sl, s.slice? pit.slice = some sl ∧ k ∈ sl.bind.map Prod.fst
    (bound → exec (.fspost p xp xa pr ar index pkg amt) s = .next (s.become pit
      { t.issued1 c2 (c2.ends t (p.tail c2)) with out := t.out ++ [.fpost index k n c2.gpc] })) ∧
    (¬ bound → exec (.fspost p xp xa pr ar index pkg amt) s = .next (s.become pit (t.trap c2 trapTensor))) ∧
    exec (.cfen p) s = .next (s.become pit
      { t.issued1 c (c.ends t (p.tail c)) with xs := { t.xs with fence := t.xs.copies } }) ∧
    exec (.tinfo p xd xa word) s = .next (s.become pit (t.issued1 c (c.ends t (p.tail c) ++
      c.result t xd (at' 0 (tensorOf c.env.tensors ((t.reg .X xa).toNat % 2 ^ 16)) word))))

/-- R194, R197: in the last cycle of an IDLE the loop end check of its word is due, and nothing else changes. -/
def Sys2Proof.saysIdleExpires : Prop :=
  ∀ (s : State) (pit : Pitch) (t : Tile), s.At pit t → s.cur.eng ≠ .X →
    let c := s.ctxAt pit 1
    exec .idleCountExpiry s =
      .next (s.become pit { t with pend := t.pend ++ c.ends t [.expire c.eng c.pc] })

/-- R86, R90, R196, R197: the loop end check of a group whose last word is at `e`. Without an active level that ends there
the next group follows. Of those levels the one with the highest ORDER is looked at first: with LEFT above 1 it loops back to
its start, and every current stream in LOOP mode moves by its delta of that level; otherwise it is no longer active and the
check goes on. -/
def Sys2Proof.saysLoopEndCheck : Prop :=
  ∀ (env : Env) (t : Tile) (p : Pend) (eng : Engine) (e : Nat), p.eff = .goto eng none e →
    let s := t.engOf eng
    let level (l : Nat) : LoopLvl := at' {} s.loops l
    let ending (l : Nat) : Prop := l < 4 ∧ (level l).active = true ∧ (level l).stop = e
    let first (l : Nat) : Prop := ending l ∧ ∀ k, ending k → k ≠ l → (level k).order < (level l).order
    let t' := applyEff env t p
    ((∀ l, ¬ ending l) → t' = { t.setEng eng { s with pc := e + 1 } with issued := true }) ∧
    (∀ l, first l → (level l).left ≤ 1 →
      t' = applyEff env (t.setEng eng { s with loops := s.loops.setIfInBounds l { level l with active := false } }) p) ∧
    ∀ l, first l → 1 < (level l).left →
      t'.engOf eng = { s with
        pc := (level l).start, loops := s.loops.setIfInBounds l { level l with left := (level l).left - 1 } } ∧
      (∀ k < 16, t'.streamOf k =
        if t.streamStale k = false ∧ (t.streamOf k).mode = 0 ∧ at' 0 s.delta (16 * l + k) ≠ 0 then
          { t.streamOf k with cur := (((t.streamOf k).cur + at' 0 s.delta (16 * l + k)) % 2 ^ 20).toNat }
        else t.streamOf k) ∧
      t'.g = t.g ∧ t'.xr = t.xr ∧ t'.m = t.m ∧ t'.desc = t.desc ∧ t'.epoch = t.epoch ∧ t'.spm = t.spm ∧ t'.grid = t.grid ∧
      t'.sem = t.sem ∧ t'.ring = t.ring ∧ t'.tok = t.tok ∧ t'.pend = t.pend ∧ t'.traps = t.traps

/-- R196: a LOOP that has issued makes its level active, with its first and last word, its count, and an order above every
earlier one; the other levels stay as they are. -/
def Sys2Proof.saysLoopStarts : Prop :=
  ∀ (env : Env) (t : Tile) (p : Pend) (eng : Engine) (l start stop left : Nat), p.eff = .loopStart eng l start stop left →
    let s := t.engOf eng
    (applyEff env t p).engOf eng = { s with
      seq := s.seq + 1
      loops := s.loops.setIfInBounds l
        { active := true, start := start, stop := stop, left := left, order := s.seq + 1 } }

/-- R86, R194 to R197: LOOP, ENDS and IDLE at issue, the last cycle of an IDLE, and the loop end check. -/
def Obligations.LoopEndsIdle : Prop :=
  Sys2Proof.saysLoopEndsIdle ∧ Sys2Proof.saysIdleExpires ∧ Sys2Proof.saysLoopStarts ∧ Sys2Proof.saysLoopEndCheck

/-- R162 to R186: decoding the words of a well-formed instruction gives that instruction and its length, whatever
words follow. -/
def Obligations.DecodeEncode : Prop :=
  ∀ (e : Engine) (i : Instr) (rest : List Nat), wf e i = true → decode e (encode i ++ rest) = .ok (i, (encode i).length)

/-- R168: what decodes is a well-formed instruction, and its words are exactly the encoding of that instruction: no bit of
them is ignored. -/
def Obligations.DecodeOnlyEncoded : Prop :=
  ∀ (e : Engine) (ws : List Nat) (i : Instr) (n : Nat), (∀ w ∈ ws, w < 2 ^ 32) → decode e ws = .ok (i, n) →
    wf e i = true ∧ ws.take n = encode i

/-- The number whose fields, from the most significant bit down, have these widths and values. -/
def Sys2Proof.fields (l : List (Nat × Nat)) : Nat := l.foldl (fun z f => z * 2 ^ f.1 + f.2 % 2 ^ f.1) 0

/-- Word 0 of R162 with the stop bit alone: WP, SP, WN, SN, S, OP and its 20 bits. -/
def Sys2Proof.w0 (op : Nat) (l : List (Nat × Nat)) : Nat :=
  fields ([(1, 0), (1, 0), (1, 0), (1, 0), (1, 1), (7, op)] ++ l)

/-- R162, R170 to R186: words laid out field by field from the formats decode to the instructions that the maps name;
words that the maps leave unassigned decode to nothing. -/
def Obligations.SpecWords : Prop :=
  let p : Pre := {}
  decode .C [w0 0x06 [(5, 3), (5, 4), (10, 1023)]] = .ok (.addi p 3 4 (-1), 1) ∧
    decode .C [w0 0x21 [(5, 1), (5, 2), (5, 3), (5, 4)]] = .ok (.sel p 1 2 3 4, 1) ∧
    decode .C [w0 0x27 [(5, 7), (5, 8), (2, 2), (1, 1), (7, 127)]] = .ok (.ld p 7 8 2 true (-1), 1) ∧
    decode .C [w0 0x25 [(5, 9), (5, 10), (10, 0)], fields [(18, 0), (6, 15), (2, 0), (6, 48)]] =
      .ok (.extu p 9 10 15 48, 2) ∧
    decode .C [w0 0x31 [(3, 2), (2, 3), (4, 5), (11, 0)], fields [(11, 0), (21, 2 ^ 21 - 64)]] =
      .ok (.ldel p 2 3 5 (-64), 2) ∧
    decode .X [w0 0x43 [(5, 1), (5, 0), (5, 31), (3, 2), (2, 0)],
        fields [(12, 4095), (6, 0), (6, 0), (1, 0), (5, 0), (1, 0), (1, 1)]] =
      .ok (.sfadd p { rd := 1, rb := 31, obj := 2, index := 4095, imm := true }, 2) ∧
    decode .X [w0 0x51 [(4, 1), (4, 2), (6, 63), (4, 1), (1, 1), (1, 0)], 4294967232, fields [(20, 64), (12, 0)]] =
      .ok (.cld p { xd := 1, xs := 2, sem := 63, inc := 1, arr := true, dimm := 4294967232, simm := 64 }, 3) ∧
    decode .V [w0 0x04 [(12, 0x141), (3, 1), (5, 0)], fields [(12, 0x242), (12, 0x343), (2, 1), (6, 0)]] =
      .ok (.vadd p { d := 0x141, mask := 1, a := 0x242, b := 0x343, rnd := 1 }, 2) ∧
    decode .M [w0 0x08 [(4, 1), (4, 2), (4, 3), (4, 3), (4, 15)]] = .ok (.mrk1 p 1 2 3 63, 1) ∧
    decode .N [w0 0x04 [(6, 63), (6, 1), (4, 5), (4, 0)], fields [(20, 0x40), (12, 8)]] =
      .ok (.send p (-1) 1 5 0x40 8, 2) ∧
    decode .C [fields [(1, 1), (1, 0), (1, 1), (1, 0), (1, 0), (7, 0), (20, 0)]] =
      .ok (.nop ⟨true, false, true, false, false⟩, 1) ∧
    decode .X [w0 0x01 [(20, 1)]] = .error (.badOp .X 1) ∧
    decode .C [w0 0x3C [(20, 0)]] = .error (.badOp .C 0x3C) ∧
    (decode .C [w0 0x04 [(5, 1), (5, 2), (5, 3), (5, 1)]]).isOk = false ∧
    (decode .C [w0 0x01 [(20, 0)]]).isOk = false

/-- R13, R14, R169: a step whose turn is an engine's instruction fetches its words from the engine's code, at the word
offset of the cursor, and is `exec` of what they decode to; words that decode to nothing are ILLEGAL_ENCODING, and an
engine that an earlier instruction of its group has stopped runs nothing. -/
def Sys2Proof.saysStepRunsDecoded : Prop :=
  ∀ (s : State) (c : Cursor) (rest : List Slot) (pit : Pitch) (t : Tile), s.agenda = .instr c :: rest →
    s.pitch? c.pitch = some pit → pit.tiles[c.tile]? = some t →
    let code := (pit.img.code.getD t.cls []).getD c.eng.idx {}
    let words := [code.word c.pc, code.word (c.pc + 1), code.word (c.pc + 2)]
    let s1 := { s with agenda := rest, cur := c }
    ((t.engOf c.eng).halted = false → ∀ i n, decode c.eng words = .ok (i, n) → step s = exec i s1) ∧
    ((t.engOf c.eng).halted = false → ∀ f, decode c.eng words = .error f → step s = exec .illegalEncoding s1) ∧
    ((t.engOf c.eng).halted = true → step s = .next { s with agenda := rest })

/-- A step whose turn is an event is `exec` of the event. With nothing under way the oldest input that is due arrives, and
without one the next half nanosecond begins: each is a next state. That inputs are listed with their ticks, and arrive before
the next tick, is the model's choice (notes/assumptions/74.md). -/
def Sys2Proof.saysStepRunsEvents : Prop :=
  (∀ (s : State) (i : Instr) (rest : List Slot), s.agenda = .ev i :: rest → step s = exec i { s with agenda := rest }) ∧
    (∀ (s : State) (q : Nat × Input), s.agenda = [] → s.inputs.find? (fun q => decide (q.1 ≤ s.tick)) = some q →
      step s = .next ({ s with inputs := s.inputs.erase q }.input q.2)) ∧
    ∀ s : State, s.agenda = [] → (∀ q ∈ s.inputs, s.tick < q.1) → ∃ t, step s = .next t ∧ t.tick = s.tick + 1

/-- R13, R14, R169: a step runs the instruction that it decodes, or the event whose turn it is. -/
def Obligations.StepRuns : Prop := Sys2Proof.saysStepRunsDecoded ∧ Sys2Proof.saysStepRunsEvents

/-- R120, R376, R377, R402, R436, R442: what every step keeps: device registers hold only values that their fields admit,
and host memory stays in canonical form. -/
def Sys2Proof.Machine.State.Inv (s : State) : Prop := s.RegsOk ∧ s.host.wf = true

/-- Every step keeps the invariant, from every state that has it. -/
def Obligations.StepsKeepInv : Prop := ∀ s t : State, s.Inv → step s = .next t → t.Inv

/-- R376, R417, R436: after reset the time is 0, the boot sequence is next, no slice exists, nothing is launched, placed or
copied, the mailbox is free and idle, an interval is 1 s, and the invariant holds. That host memory and HBM list nothing is
the model's choice (notes/assumptions/2.md). -/
def Obligations.ResetState : Prop :=
  State.reset.tick = 0 ∧ State.reset.agenda = [.ev .boot] ∧ State.reset.slices = [] ∧ State.reset.pitches = [] ∧
    State.reset.launches = [] ∧ State.reset.copies = [] ∧ State.reset.host = [] ∧ State.reset.hbm = [] ∧
    State.reset.mb.owner = 0 ∧ State.reset.mb.busy = false ∧ State.reset.rc.interval = 1000 ∧ State.reset.Inv

/-- A floating format of R50: exponent and fraction bits, bias, largest finite value, whether it has infinities, and its
canonical NaN (R52, R65). -/
structure Sys2Proof.FloatRow where
  fmt : Fmt
  ebits : Nat
  fbits : Nat
  bias : Int
  max : ℚ
  inf : Bool
  nan : Nat

/-- The floating formats (R50). -/
def Sys2Proof.floatRows : List FloatRow :=
  [⟨.fp32, 8, 23, 127, (2 ^ 24 - 1) * 2 ^ 104, true, 0x7FC00000⟩, ⟨.fp16, 5, 10, 15, 65504, true, 0x7E00⟩,
   ⟨.bf16, 8, 7, 127, (2 ^ 8 - 1) * 2 ^ 120, true, 0x7FC0⟩, ⟨.f8a, 4, 3, 7, 448, false, 0x7F⟩,
   ⟨.f8b, 5, 2, 15, 57344, true, 0x7E⟩, ⟨.f4, 2, 1, 1, 6, false, 0⟩]

/-- What the lanes of a line write: one write of a row for a row line, one write per lane otherwise (R218, R225). -/
def Sys2Proof.laneWrites (d : TDesc) (f : Nat) (l : List (Nat × Nat × Nat)) : List Eff :=
  let bytes := l.flatMap fun q => Tile.elemBytes (linePos d f q.1).2 d.w q.2.1
  if gridDir f = 1 then (if bytes = [] then [] else [.grid (fieldTile f) (f % 64) .vec bytes])
  else l.map fun q => .grid (fieldTile f) (linePos d f q.1).1 .vec (Tile.elemBytes (linePos d f q.1).2 d.w q.2.1)

/-- What a line operation with outcome `r` writes: lanes of D, the row of B of VCMPR, a mask, a g register, flags. -/
def Sys2Proof.lineEffects (i : Instr) (cap : Cap) (o : VOps) (fd fb : Nat) (r : LineOut) : List Eff :=
  (if vGridD i then laneWrites cap.d fd r.lanes else []) ++
    (if vWritesB i = true ∧ cap.bOn = true ∧ fb % 64 < cap.b.rows ∧ r.bytesB ≠ [] then
      [.grid (fieldTile fb) (fb % 64) .vec r.bytesB] else []) ++
    (r.mask.toList.map fun m => .mask (o.d % 8) m) ++ (r.g.toList.map fun v => .g (o.d % 32) v false) ++
    if r.flags = 0 then [] else [.vflags r.flags]

/-- The instructions of unit L and VEXT that work on lines, with their latency and the event of a cycle (R222 to R256,
R228): 2 VLINE, 3 VHEAVY. -/
def Sys2Proof.lineRows : List ((Pre → VOps → Instr) × Nat × Nat) :=
  [(.vadd, 4, 2), (.vsub, 4, 2), (.vmul, 4, 2), (.vfma, 5, 3), (.vfms, 5, 3), (.vneg, 4, 2), (.vabs, 4, 2), (.vmin, 4, 2),
   (.vmax, 4, 2), (.vminn, 4, 2), (.vmaxn, 4, 2), (.vdiv, 14, 3), (.vrcp, 10, 3), (.vsqrt, 14, 3), (.vrsq, 10, 3),
   (.vexp2, 10, 3), (.vlog2, 10, 3), (.vtanh, 12, 3), (.vcmpeq, 4, 2), (.vcmplt, 4, 2), (.vcmple, 4, 2), (.vcmpun, 4, 2),
   (.vsel, 4, 2), (.vclass, 4, 2), (.viadd, 4, 2), (.visub, 4, 2), (.vimul, 4, 2), (.vand, 4, 2), (.vor, 4, 2),
   (.vxor, 4, 2), (.vshl, 4, 2), (.vshr, 4, 2), (.vsra, 4, 2), (.vimin, 4, 2), (.vimax, 4, 2), (.vmix, 4, 2),
   (.viota, 4, 2), (.vcvt, 4, 2), (.vdqt, 4, 2), (.vrsum, 8, 2), (.vrmax, 8, 2), (.vrmin, 8, 2), (.vscan, 8, 2),
   (.vargmx, 8, 2), (.vmov, 4, 2), (.vbcst, 4, 2), (.vspl, 4, 2), (.vperm, 4, 2), (.vshf, 4, 2), (.vrot, 4, 2),
   (.vzip, 4, 2), (.vunz, 4, 2), (.vcmpr, 4, 2), (.vexpd, 4, 2)]

/-- R53, R80, R81, R90, R218, R219: the lanes of a line of register r in lane order: of row n element (n, i), of column n (i, n), of
diagonal n (i, (i + n) mod COLS); zero past the line's end and where the line is absent. Element c of a row lies at byte c·w/8,
little-endian, two F4 elements in a byte with the lower one first; a stale row reads as zero. -/
def Sys2Proof.saysLines : Prop :=
  ∀ (t : Tile) (d : TDesc) (r n i row col : Nat), r < 16 → n < 64 →
    let field (dir : Nat) : Nat := r * 256 + dir * 64 + n
    let w := d.w
    let byte (k : Nat) : Nat := t.gridByte r row k
    ((∀ k < 10, ({ fmt := k } : TDesc).w = [32, 16, 16, 8, 8, 4, 8, 8, 32, 8].getD k 0) ∧
      (w = 4 → t.gridElem r row col w = byte (col / 2) / 16 ^ (col % 2) % 16) ∧
      (∀ z ∈ [1, 2, 4], w = 8 * z →
        t.gridElem r row col w = ((List.range z).map fun k => byte (z * col + k) * 256 ^ k).sum) ∧
      (t.rowCur r row = false → t.gridElem r row col w = 0)) ∧
    (∀ dir, 8 * lineBytes d (field dir) < lineLen d (field dir) * w + 8 ∧
      lineLen d (field dir) * w ≤ 8 * lineBytes d (field dir)) ∧
    lineLen d (field 1) = (if n < d.rows then d.cols else 0) ∧ lineLen d (field 2) = (if n < d.cols then d.rows else 0) ∧
    lineLen d (field 3) = (if n < d.cols then d.rows else 0) ∧
    t.lane d (field 1) i = (if n < d.rows ∧ i < d.cols then t.gridElem r n i w else 0) ∧
    t.lane d (field 2) i = (if n < d.cols ∧ i < d.rows then t.gridElem r i n w else 0) ∧
    t.lane d (field 3) i = (if n < d.cols ∧ i < d.rows then t.gridElem r i ((i + n) % d.cols) w else 0) ∧
    linePos d (field 1) i = (n, i) ∧ linePos d (field 2) i = (i, n) ∧
    (0 < d.cols → linePos d (field 3) i = (i, (i + n) % d.cols))

/-- The instructions that work on lines: whether D, A and B name grid operands, and whether A's line drives them (R179, R219, R233,
R244, R254). -/
def Sys2Proof.lineShapes : List ((Pre → VOps → Instr) × Bool × Bool × Bool × Bool) :=
  ([.vadd, .vsub, .vmul, .vfma, .vfms, .vmin, .vmax, .vminn, .vmaxn, .vdiv, .vsel, .viadd, .visub, .vimul, .vand, .vor, .vxor, .vimin,
    .vimax, .vmix, .vperm, .vzip, .vunz, fun p o => .vshl p { o with func := 0 }, fun p o => .vshr p { o with func := 0 },
    fun p o => .vsra p { o with func := 0 }].map fun i => (i, true, true, true, false)) ++
  ([.vneg, .vabs, .vrcp, .vsqrt, .vrsq, .vexp2, .vlog2, .vtanh, .vcvt, .vdqt, .vscan, .vmov, .vspl, .vshf, .vrot,
    fun p o => .vshl p { o with func := 1 }, fun p o => .vshr p { o with func := 1 },
    fun p o => .vsra p { o with func := 1 }].map fun i => (i, true, true, false, false)) ++
  ([.viota, .vbcst].map fun i => (i, true, false, false, false)) ++
  ([.vcmpeq, .vcmplt, .vcmple, .vcmpun].map fun i => (i, false, true, true, true)) ++
  ([.vclass, .vext].map fun i => (i, false, true, false, true)) ++
  [(.vrsum, true, true, false, true), (.vrmax, true, true, false, true), (.vrmin, true, true, false, true),
   (.vargmx, true, true, false, true), (.vcmpr, true, true, true, true)]

/-- R76, R216, R218, R219, R220, R227, R255: what a line instruction sees: the descriptors, mask, selector and g register that stand
at its issue, an unconfigured register as absent lines; the lanes of each operand; lane k active where MASK is 0 or bit k of the mask
is 1, bit ⌊k·w/16⌋ where the driving line's w is below 16; and for VEXPD the nibbles of B's row. -/
def Sys2Proof.saysLaneOperands : Prop :=
  ∀ (p : Pre) (o : VOps) (t : Tile) (cap : Cap) (fd fa fb : Nat),
    let bit (m : Word) (w k : Nat) : Bool := m.getLsbD (if 16 ≤ w then k else k * w / 16)
    let operand (r : Nat) : TDesc := if t.configured r then t.descOf r else { cols := (t.descOf r).cols }
    (∀ q ∈ lineShapes,
      let now := vCapture (q.1 p o) t
      let v := vLanes (q.1 p o) t cap o fd fa fb none
      (q.2.1 = true → now.d = operand (fieldTile o.d)) ∧ (q.2.2.1 = true → now.a = operand (fieldTile o.a)) ∧
      (q.2.2.2.1 = true → now.b = operand (fieldTile o.b)) ∧ now.mask = (if o.mask = 0 then 0 else t.maskVal o.mask) ∧
      now.sel = t.maskVal (o.imm % 8) ∧ now.g = t.reg .V (o.a % 32) ∧
      v.o = o ∧ v.fd = cap.d.format ∧ v.fa = cap.a.format ∧ v.fb = cap.b.format ∧ v.g = cap.g ∧ v.oldMask = t.maskVal (o.d % 8) ∧
      v.nD = (if q.2.1 then lineLen cap.d fd else 0) ∧ v.nA = (if q.2.2.1 then lineLen cap.a fa else 0) ∧
      v.nB = (if q.2.2.2.1 then lineLen cap.b fb else 0) ∧
      ∀ k, v.D k = (if q.2.1 then t.lane cap.d fd k else 0) ∧ v.A k = (if q.2.2.1 then t.lane cap.a fa k else 0) ∧
        v.B k = (if q.2.2.2.1 then t.lane cap.b fb k else 0) ∧
        v.active k = (o.mask == 0 || bit cap.mask (if q.2.2.2.2 then cap.a.w else cap.d.w) k) ∧
        v.sel k = bit cap.sel cap.d.w k) ∧
    (let v := vLanes (.vexpd p o) t cap o fd fa fb none
     v.nD = lineLen cap.d fd ∧ v.nA = lineLen cap.a fa ∧ ∀ k, v.A k = t.lane cap.a fa k ∧
       v.active k = (o.mask == 0 || bit cap.mask cap.d.w k) ∧
       v.B k = if fb % 64 < cap.b.rows then t.gridByte (fieldTile fb) (fb % 64) (k / 2) / 16 ^ (k % 2) % 16 else 0)

/-- R59, R61, R63, R82, R90, R241: an element of a scaled format whose register has the scale geometry has its code's value times the
scale of its block: 2^(e − 127) for the side-file byte e of block (⌊k/a⌋, ⌊o/b⌋), NaN for 255; any other element its code's value. A
stale granule of the side file reads as zeros. VDQT reads its lanes so. -/
def Sys2Proof.saysElementScales : Prop :=
  ∀ (t : Tile) (d : TDesc) (row col code : Nat), d.scaleA ≤ 5 →
    let k := if d.kaxis then row else col
    let o := if d.kaxis then col else row
    let a := 2 ^ d.scaleA
    let nk := ((if d.kaxis then d.rows else d.cols) + a - 1) / a
    let place := d.sslice * 64 + o / (32 / a) * nk + k / a
    let e := t.sideByte place
    let v := d.format.decode code
    let x := t.elemValue d row col code
    let scaled : Prop := d.scaleOn = true ∧ d.format ∈ [Fmt.f8a, .f8b, .f4, .ts8]
    d.scaleByte k o = place ∧ e < 256 ∧ (t.sideCur place = false → e = 0) ∧ (¬ scaled → x = v) ∧ (scaled → e = 255 → x = .nan) ∧
    (scaled → e ≠ 255 → x.sign = v.sign ∧ (v.num = none → x = v) ∧
      ∀ z, v.num = some z → x.num = some (z * (2 : ℚ) ^ ((e : Int) - 127))) ∧
    ∀ (p : Pre) (f : VOps) (cap : Cap) (fd fa fb j : Nat),
      let l := vLanes (.vdqt p f) t cap f fd fa fb none
      (j < l.nA → l.aVal j = t.elemValue cap.a (linePos cap.a fa j).1 (linePos cap.a fa j).2 (t.lane cap.a fa j)) ∧
        (l.nA ≤ j → l.aVal j = .fin false 0 0)

/-- The lanes of A and of B that a line instruction reads for its active lanes (R219, R220, R233, R244 to R249, R254). -/
structure Sys2Proof.ReadRow where
  make : Pre → VOps → Instr
  a : LaneEnv → Nat → Prop
  b : LaneEnv → Nat → Prop

/-- What each line instruction but VEXPD and VDQT reads of A and B. -/
def Sys2Proof.readRows : List ReadRow :=
  let on (v : LaneEnv) (k : Nat) : Prop := k < v.nD ∧ v.active k = true
  let onA (v : LaneEnv) (k : Nat) : Prop := k < v.nA ∧ v.active k = true
  let from' (g : LaneEnv → Nat → Nat) (v : LaneEnv) (j : Nat) : Prop := ∃ k, on v k ∧ j = g v k
  ([.vadd, .vsub, .vmul, .vfma, .vfms, .vmin, .vmax, .vminn, .vmaxn, .vdiv, .viadd, .visub, .vimul, .vand, .vor, .vxor, .vimin,
    .vimax, .vmix].map fun i => ⟨i, on, on⟩) ++
  ([fun p o => .vshl p { o with func := 0 }, fun p o => .vshr p { o with func := 0 },
    fun p o => .vsra p { o with func := 0 }].map fun i => ⟨i, on, fun v k => v.o.func = 0 ∧ on v k⟩) ++
  ([fun p o => .vshl p { o with func := 1 }, fun p o => .vshr p { o with func := 1 },
    fun p o => .vsra p { o with func := 1 }].map fun i => ⟨i, on, fun _ _ => False⟩) ++
  ([.vneg, .vabs, .vrcp, .vsqrt, .vrsq, .vexp2, .vlog2, .vtanh, .vcvt, .vmov].map fun i => ⟨i, on, fun _ _ => False⟩) ++
  ([.vcmpeq, .vcmplt, .vcmple, .vcmpun].map fun i => ⟨i, onA, onA⟩) ++
  ([.vclass, .vrsum, .vrmax, .vrmin, .vargmx, .vscan, .vcmpr].map fun i => ⟨i, onA, fun _ _ => False⟩) ++
  [⟨.vsel, fun v k => on v k ∧ v.sel k = true, fun v k => on v k ∧ v.sel k = false⟩,
   ⟨.vspl, from' fun v _ => v.o.imm, fun _ _ => False⟩, ⟨.vperm, from' fun v k => v.B k, on⟩,
   ⟨.vshf, from' fun v k => k ^^^ v.o.imm, fun _ _ => False⟩, ⟨.vrot, from' fun v k => (k + v.o.imm) % v.nD, fun _ _ => False⟩,
   ⟨.vzip, fun v j => ∃ k, on v k ∧ k % 2 = 0 ∧ j = k / 2 + v.o.imm % 2 * (v.nD / 2),
     fun v j => ∃ k, on v k ∧ k % 2 = 1 ∧ j = k / 2 + v.o.imm % 2 * (v.nD / 2)⟩,
   ⟨.vunz, fun v j => ∃ k, on v k ∧ j < v.nD ∧ j = 2 * k + v.o.imm % 2,
     fun v j => ∃ k, on v k ∧ j + v.nD = 2 * k + v.o.imm % 2⟩,
   ⟨.vext, fun v j => j = v.o.imm, fun _ _ => False⟩, ⟨.viota, fun _ _ => False, fun _ _ => False⟩,
   ⟨.vbcst, fun _ _ => False, fun _ _ => False⟩]

/-- R90, R219, R220, R225, R230, R241, R255: a line instruction finds a stale element in exactly these cases: a lane of A or B that it
reads lies inside its line and in a stale row, a lane of D as well for VFMA and VFMS; VEXPD reads B's row of nibbles, VDQT the scales
of A's blocks. `fixed` says that B is no source of this row. -/
def Sys2Proof.saysLineReads : Prop :=
  ∀ (p : Pre) (o : VOps) (t : Tile) (cap : Cap) (v : LaneEnv) (fd fa fb : Nat) (fixed : Bool),
    let stale (d : TDesc) (f j : Nat) : Prop := j < lineLen d f ∧ t.rowCur (fieldTile f) (linePos d f j).1 = false
    let on (k : Nat) : Prop := k < v.nD ∧ v.active k = true
    (∀ q ∈ readRows, vLineStale (q.make p o) t cap v fd fa fb fixed = true ↔
      (∃ j, q.a v j ∧ stale cap.a fa j) ∨ (fixed = false ∧ ∃ j, q.b v j ∧ stale cap.b fb j) ∨
        ((q.make p o = .vfma p o ∨ q.make p o = .vfms p o) ∧ ∃ j, on j ∧ stale cap.d fd j)) ∧
    (vLineStale (.vexpd p o) t cap v fd fa fb fixed = true ↔
      (∃ k j, on k ∧ (j = 2 * (k / 4) ∨ j = 2 * (k / 4) + 1) ∧ stale cap.a fa j) ∨
        (fixed = false ∧ (∃ k, on k) ∧ fb % 64 < cap.b.rows ∧ t.rowCur (fieldTile fb) (fb % 64) = false)) ∧
    (vLineStale (.vdqt p o) t cap v fd fa fb fixed = true ↔
      (∃ j, on j ∧ stale cap.a fa j) ∨
        (cap.a.scaleOn = true ∧ cap.a.format ∈ [Fmt.f8a, .f8b, .f4, .ts8] ∧ ∃ j, on j ∧ j < v.nA ∧
          let q := linePos cap.a fa j
          t.sideCur (cap.a.scaleByte (if cap.a.kaxis then q.1 else q.2) (if cap.a.kaxis then q.2 else q.1)) = false))

/-- R90, R216, R218, R222 to R225, R228: a line instruction of unit L that raises no trap occupies the unit for its longest line
in 128-byte cycles, at least one, and leaves what its lanes give for the cycle issue + λ + occupancy − 1; nothing else
changes. VEXT works in unit K, in one cycle. Where it reads a stale element in trap mode, STALE_READ. The one cycle of an instruction
with no line (notes/assumptions/9.md), the lanes of VSCAN (notes/assumptions/8.md) and those of VSEL and VEXPD that are read
(notes/assumptions/127.md) are the model's choices. -/
def Sys2Proof.saysLineIssue : Prop :=
  ∀ q ∈ lineRows ++ [(Instr.vext, 4, 4)], ∀ (p : Pre) (o : VOps) (s : State) (pit : Pitch) (t : Tile), s.At pit t →
    s.cur.eng = .V →
    let i := q.1 p o
    let cap := vCapture i t
    let c := s.ctxAt pit 2
    let v := vLanes i t cap o o.d o.a o.b none
    let scalar := vUnit i = .scalar
    let longest := Nat.max (if vGridD i then lineBytes cap.d o.d else 0)
      (Nat.max (if vGridA i then lineBytes cap.a o.a else 0) (if vGridB i && !vWritesB i then lineBytes cap.b o.b else 0))
    let occ := if scalar then 1 else Nat.max 1 ((longest + 127) / 128)
    let stale := vLineStale i t cap v o.d o.a o.b (vWritesB i)
    vTrap i t cap = none → vWhole i = false →
    (t.staleTrap = true → stale = true → exec i s = .next (s.become pit (t.trap c trapStale))) ∧
    ((t.staleTrap = false ∨ stale = false) → exec i s = .next (s.become pit { t with
      eng := if scalar then t.eng else t.eng.setIfInBounds 2 { t.engOf .V with busyA := t.tl + occ }
      pend := t.pend ++ c.ends t (p.tail c ++ [.charge q.2.2 1 occ]) ++
        c.at (t.tl + q.2.1 + occ - 1) (lineEffects i cap o o.d o.b ((laneOf i).line v)) }))

/-- R53, R59, R61, R63, R76, R80 to R82, R90, R179, R216, R218 to R220, R222 to R225, R227, R228, R230, R233, R241, R244 to R249, R254,
R255: the operands of line instructions, what they read, and when they read, occupy and perform. The model's choices among what these
say are notes/assumptions/8.md, 9.md and 127.md. -/
def Obligations.VectorLines : Prop :=
  Sys2Proof.saysLines ∧ Sys2Proof.saysLaneOperands ∧ Sys2Proof.saysElementScales ∧ Sys2Proof.saysLineReads ∧ Sys2Proof.saysLineIssue

/-- R90, R221, R222, R223, R224, R225, R244: a whole-tile form that raises no trap occupies unit L for one cycle per row, at least one,
and begins with row 0 in its issue cycle, with one row of B, where B is a line beside a whole D, read once at issue, STALE_READ
where that read finds a stale row in trap mode; with no row it does nothing more. One cycle for a form with no row
(notes/assumptions/9.md), whole registers reduced into a line (77.md), the lanes that the read of B takes (127.md) and the one
cycle of a reduction's longer D (128.md) are the model's choices. -/
def Obligations.VectorWholeForms : Prop :=
  ∀ q ∈ lineRows, ∀ (p : Pre) (o : VOps) (s : State) (pit : Pitch) (t : Tile), s.At pit t → s.cur.eng = .V →
    let i := q.1 p o
    let cap := vCapture i t
    let c := s.ctxAt pit 2
    let n := if vGridD i && gridWhole o.d then cap.d.rows else cap.a.rows
    let fixed : List Nat := match i with
      | .vexpd _ _ => (List.range 64).map (metaNibble t cap.b o.b)
      | _ => (List.range 256).map (t.lane cap.b o.b)
    let once := vGridB i = true ∧ gridWhole o.b = false ∧ vWritesB i = false
    let stale : Prop := once ∧ n ≠ 0 ∧ match i with
      | .vexpd _ _ => o.b % 64 < cap.b.rows ∧ t.rowCur (fieldTile o.b) (o.b % 64) = false
      | _ => ∃ k < cap.d.cols, laneActive o.mask cap.mask cap.d.w k = true ∧ k < lineLen cap.b o.b ∧
          t.rowCur (fieldTile o.b) (linePos cap.b o.b k).1 = false
    let rows : List (List Nat) := if once then [fixed] else []
    vTrap i t cap = none → vWhole i = true →
    (t.staleTrap = true → stale → exec i s = .next (s.become pit (t.trap c trapStale))) ∧
    ((t.staleTrap = false ∨ ¬ stale) → exec i s = .next (s.become pit { t with
      eng := t.eng.setIfInBounds 2 { t.engOf .V with busyA := t.tl + Nat.max 1 n }
      pend := t.pend ++ c.ends t (p.tail c ++ [.charge q.2.2 1 (Nat.max 1 n)]) ++
        if n = 0 then [] else c.one t.tl 1 (.job i { cap with rows := rows } 0) }))

/-- R90, R221, R224, R225: the turn of row r of a whole-tile form: what its lanes give stands λ cycles later, and the next row's
turn is the next cycle; nothing else changes. Its operands are row r of each whole field. A stale element that it reads in trap mode
is STALE_READ. That a reduction of a whole
register has its row r perform at its turn + 8 is the model's choice (notes/assumptions/77.md). -/
def Sys2Proof.saysVectorRows : Prop :=
  ∀ q ∈ lineRows, ∀ (p : Pre) (o : VOps) (env : Env) (t : Tile) (e : Pend) (cap : Cap) (r : Nat),
    let i := q.1 p o
    let whole (f : Nat) : Nat := if gridWhole f then fieldTile f * 256 + 64 + r % 64 else f
    let fd := if vGridD i then whole o.d else o.d
    let fa := if vGridA i then whole o.a else o.a
    let fb := if vGridB i then whole o.b else o.b
    let o' := if vGridD i && gridWhole o.d then o else { o with imm := r }
    let v := vLanes i t cap o' fd fa fb cap.rows.head?
    let c := ctxOf env e
    let n := if vGridD i && gridWhole o.d then cap.d.rows else cap.a.rows
    let stale := vLineStale i t cap v fd fa fb (!cap.rows.isEmpty || vWritesB i)
    e.eff = .job i cap r → e.own.eng = .V →
    (t.staleTrap = true → stale = true → applyEff env t e = t.trapAny (Tile.own c) c.iss t.tl trapStale) ∧
    ((t.staleTrap = false ∨ stale = false) → applyEff env t e = { t with
      pend := t.pend ++ c.at (t.tl + q.2.1) (lineEffects i cap o' fd fb ((laneOf i).line v)) ++
        if r + 1 < n then c.one (t.tl + 1) 1 (.job i cap (r + 1)) else [] })

/-- Element-wise instructions, R229 to R255: whether B is a source beside A, and code and flags of lane k of D from the lanes
of A, B and D. -/
def Sys2Proof.elementRows : List ((Pre → VOps → Instr) × Bool × (LaneEnv → Nat → Nat × Nat)) :=
  let signed (v : LaneEnv) (z : Nat) : Int := toSigned v.fd.width (z % 2 ^ v.fd.width)
  let sat (v : LaneEnv) (z : Int) : Nat × Nat :=
    if v.o.imm % 2 = 1 ∧ (2 ^ (v.fd.width - 1) : Int) ≤ z then (2 ^ (v.fd.width - 1) - 1, flagOF)
    else if v.o.imm % 2 = 1 ∧ z < -(2 ^ (v.fd.width - 1) : Int) then (2 ^ (v.fd.width - 1), flagOF)
    else ((z % 2 ^ v.fd.width).toNat, 0)
  let least (v : LaneEnv) (x y : Int) : Nat × Nat := (((if x ≤ y then x else y) % 2 ^ v.fd.width).toNat, 0)
  let most (v : LaneEnv) (x y : Int) : Nat × Nat := (((if x ≤ y then y else x) % 2 ^ v.fd.width).toNat, 0)
  [(.vadd, true, fun v k => v.deliver (Val.add v.rnd (v.av k) (v.bv k))),
   (.vsub, true, fun v k => v.deliver (Val.add v.rnd (v.av k) (v.bv k).neg)),
   (.vmul, true, fun v k => v.deliver (Val.mul (v.av k) (v.bv k))),
   (.vmin, true, fun v k => v.deliver ((v.av k).minimum (v.bv k), 0)),
   (.vmax, true, fun v k => v.deliver ((v.av k).maximum (v.bv k), 0)),
   (.vminn, true, fun v k => v.deliver ((v.av k).minimumNumber (v.bv k), 0)),
   (.vmaxn, true, fun v k => v.deliver ((v.av k).maximumNumber (v.bv k), 0)),
   (.vfma, true, fun v k => v.deliver (fusedVal v.rnd (v.av k) (v.bv k) (v.dv k))),
   (.vfms, true, fun v k => v.deliver (fusedVal v.rnd (v.av k) (v.bv k) (v.dv k).neg)),
   (.vneg, false, fun v k => v.deliver ((v.av k).neg, 0)), (.vabs, false, fun v k => v.deliver ((v.av k).abs, 0)),
   (.vdiv, true, fun v k => divLane (v.av k) (v.bv k)), (.vrcp, false, fun v k => rcpLane (v.av k)),
   (.vsqrt, false, fun v k => sqrtLane (v.av k)), (.vrsq, false, fun v k => rsqLane (v.av k)),
   (.vexp2, false, fun v k => exp2Lane (v.av k)), (.vlog2, false, fun v k => log2Lane (v.av k)),
   (.vtanh, false, fun v k => tanhLane (v.av k)), (.vsel, true, fun v k => (if v.sel k then v.A k else v.B k, 0)),
   (.viadd, true, fun v k => sat v (signed v (v.A k) + signed v (v.B k))),
   (.visub, true, fun v k => sat v (signed v (v.A k) - signed v (v.B k))),
   (.vimul, true, fun v k => sat v (signed v (v.A k) * signed v (v.B k))),
   (.vimin, true, fun v k => least v (signed v (v.A k)) (signed v (v.B k))),
   (.vimax, true, fun v k => most v (signed v (v.A k)) (signed v (v.B k))),
   (.vand, true, fun v k => (v.A k &&& v.B k, 0)), (.vor, true, fun v k => (v.A k ||| v.B k, 0)),
   (.vxor, true, fun v k => (v.A k ^^^ v.B k, 0)),
   (.vcvt, false, fun v k => v.fd.round v.rnd (v.o.imm % 2 == 1) (v.av k)),
   (.vdqt, false, fun v k => v.fd.round v.rnd false (v.aVal k)), (.vmov, false, fun v k => (v.A k, 0)),
   (.vbcst, false, fun v _ => (v.g.toNat % 2 ^ v.fd.width, 0)), (.vspl, false, fun v _ => (v.A v.o.imm, 0)),
   (.vperm, true, fun v k => (v.A (v.B k), 0)), (.vshf, false, fun v k => (v.A (k ^^^ v.o.imm), 0)),
   (.vrot, false, fun v k => (v.A ((k + v.o.imm) % v.nD), 0)),
   (.vzip, true, fun v k => ((if k % 2 = 0 then v.A else v.B) (k / 2 + v.o.imm % 2 * (v.nD / 2)), 0)),
   (.vunz, true, fun v k => (let j := 2 * k + v.o.imm % 2; if j < v.nD then v.A j else v.B (j - v.nD), 0)),
   (.vexpd, true, fun v k => (let first := v.B (k / 4) % 4; let second := v.B (k / 4) / 4 % 4
     if k % 4 = second then v.A (2 * (k / 4) + 1) else if k % 4 = first then v.A (2 * (k / 4)) else 0, 0))]

/-- R67, R76, R219, R229 to R232, R235, R236, R240, R241, R246, R247, R255: what an element-wise instruction gives in each
active lane of D; the flags of its active lanes are ORed. A lane all of whose sources are absent raises none, and one with a
source present raises those of its operation, zero bits for an absent source: that is the model's choice
(notes/assumptions/114.md). -/
def Sys2Proof.saysLaneValues : Prop :=
  ∀ q ∈ elementRows, ∀ (p : Pre) (o : VOps) (v : LaneEnv),
    let l := ((List.range v.nD).filter v.active).map fun k => (k, (q.2.2 v k).1,
      if k < v.nA ∨ (q.2.1 = true ∧ k < v.nB) then (q.2.2 v k).2 else 0)
    (laneOf (q.1 p o)).line v = { lanes := l, flags := l.foldl (fun z x => z ||| x.2.2) 0 }

/-- R75, R76, R249, R254: VEXT gives one lane of A, zero- or sign-extended. VCMPR keeps two elements of each group of four, in
rising order: each ranks above the two left out, a NaN above every number, then by magnitude, the lower index first among
equals, an absent element as +0. The kept codes go into lanes 2j and 2j + 1 of D, their indexes into nibble j of B's row. -/
def Sys2Proof.saysExtractCompress : Prop :=
  ∀ (p : Pre) (o : VOps) (v : LaneEnv),
    let w := v.fa.width
    let one := v.A v.o.imm
    let groups := (v.nA + 3) / 4
    let here (k : Nat) : Bool := decide (k < v.nA) && v.active k
    let code (k : Nat) : Nat := if here k then v.A k else 0
    let value (k : Nat) : Val := if here k then v.av k else .fin false 0 0
    let larger (a b : Val) : Prop := b.isNan = false ∧ (a.isNan = true ∨ b.abs.lt a.abs = true)
    let ranks (j k : Nat) : Prop := larger (value j) (value k) ∨ (¬ larger (value k) (value j) ∧ j < k)
    (laneOf (.vext p o)).line v = { g := some (if v.o.func = 1 then BitVec.ofInt 64 (toSigned w (one % 2 ^ w))
      else BitVec.ofNat 64 one) } ∧
    ∃ kept : Nat → Nat × Nat,
      (∀ j, (kept j).1 < (kept j).2 ∧ (kept j).2 < 4 ∧ ∀ k < 4, k ≠ (kept j).1 → k ≠ (kept j).2 →
        ranks (4 * j + (kept j).1) (4 * j + k) ∧ ranks (4 * j + (kept j).2) (4 * j + k)) ∧
      let nibble (j : Nat) : Nat := if j < groups then (kept j).1 + 4 * (kept j).2 else 0
      (laneOf (.vcmpr p o)).line v =
        { lanes := ((List.range groups).flatMap fun j =>
            [(2 * j, code (4 * j + (kept j).1), 0), (2 * j + 1, code (4 * j + (kept j).2), 0)]).filter
              fun l => decide (l.1 < v.nD)
          bytesB := (List.range ((groups + 1) / 2)).map fun k =>
            { addr := k, val := nibble (2 * k) + 16 * nibble (2 * k + 1) } }

/-- R237, R238, R239: shifts take their amount modulo the width from B with FUNC 0, from IMM6 with FUNC 1; VMIX mixes two
32-bit lanes as R238 writes it; VIOTA of an integer format gives IMM6 + lane, wrapped. No flag, λ = 4, meter class VLINE. -/
def Sys2Proof.saysShiftMixIota : Prop :=
  ∀ (p : Pre) (o : VOps) (v : LaneEnv),
    let w := v.fd.width
    let n (k : Nat) : Nat := (if v.o.func = 0 then v.B k else v.o.imm) % w
    let gives (i : Instr) (f : Nat → Nat) : Prop :=
      ((laneOf i).line v).lanes = (((List.range v.nD).filter v.active).map fun k => (k, f k, 0)) ∧
        ((laneOf i).line v).flags = 0 ∧ vLatency i = 4 ∧ vEvent i = 2
    (∀ k, v.A k < 2 ^ w) →
    gives (.vshl p o) (fun k => v.A k * 2 ^ n k % 2 ^ w) ∧
    gives (.vshr p o) (fun k => v.A k / 2 ^ n k) ∧
    gives (.vsra p o) (fun k => ((BitVec.ofNat w (v.A k)).sshiftRight (n k)).toNat) ∧
    (w = 32 → gives (.vmix p o) (fun k =>
      let u0 : BitVec 32 := BitVec.ofNat 32 (v.A k) * 0x9E3779B9#32 + BitVec.ofNat 32 (v.B k)
      let u2 := (u0 ^^^ (u0 >>> 15)) * 0x85EBCA6B#32
      (u2 ^^^ (u2 >>> 13)).toNat)) ∧
    ((v.fd = .i8 ∨ v.fd = .i32) → gives (.viota p o) (fun k => (v.o.imm + k) % 2 ^ w))

/-- R233, R234, R256: a compare or class test writes its mask whole: the result in each active lane of A's line, the old bit
in an inactive lane, 0 beyond the line. VCMPLT and VCMPLE of a NaN give 0 and raise NV, VCMPUN gives 1; VCLASS tests the class set in
B. No other flag is raised. -/
def Sys2Proof.saysCompareMasks : Prop :=
  ∀ (p : Pre) (o : VOps) (v : LaneEnv),
    let gives (i : Instr) (flags : Nat) (f : Nat → Bool) : Prop := ((laneOf i).line v).flags = flags ∧
      ∃ m, ((laneOf i).line v).mask = some m ∧ ∀ k < 64,
        m.getLsbD k = (decide (k < v.nA) && if v.active k then f k else v.oldMask.getLsbD k)
    let nan (k : Nat) : Bool := (v.av k).isNan || (v.bv k).isNan
    let invalid := if (List.range v.nA).any (fun k => v.active k && nan k) then flagNV else 0
    gives (.vcmpeq p o) 0 (fun k => (v.av k).eqv (v.bv k)) ∧
    gives (.vcmplt p o) invalid (fun k => !nan k && (v.av k).lt (v.bv k)) ∧
    gives (.vcmple p o) invalid (fun k => !nan k && ((v.av k).lt (v.bv k) || (v.av k).eqv (v.bv k))) ∧
    gives (.vcmpun p o) 0 nan ∧
    gives (.vclass p o) 0 (fun k => v.o.b.testBit (classBit v.fa (v.A k)))

/-- R229, R231, R233: the order of values that are no NaN, which zeros of both signs do not divide; equality; the negative and the
magnitude; minimum and maximum, which rank −0 below +0 and deliver one of their operands, a NaN where one is; and minimumNumber and
maximumNumber, which deliver the other operand of a NaN. -/
def Sys2Proof.saysOrder : Prop :=
  let below (a b : Val) : Prop := match a, b with
    | .nan, _ => False
    | _, .nan => False
    | .inf s, .inf t => s = true ∧ t = false
    | .inf s, .fin _ _ _ => s = true
    | .fin _ _ _, .inf t => t = false
    | .fin _ _ _, .fin _ _ _ => a.num.getD 0 < b.num.getD 0
  let less (a b : Val) : Prop := below a b ∨ (a.num = some 0 ∧ b.num = some 0 ∧ a.sign = true ∧ b.sign = false)
  ∀ (a b : Val) (s : Bool) (m : Nat) (e : Int),
    (a.isNan = true ↔ a = .nan) ∧ (a.lt b = true ↔ below a b) ∧
    (a.eqv b = true ↔ a ≠ .nan ∧ b ≠ .nan ∧ ¬ below a b ∧ ¬ below b a) ∧
    ((Val.fin s m e).neg = .fin (!s) m e ∧ (Val.inf s).neg = .inf (!s) ∧ Val.nan.neg = .nan) ∧
    ((Val.fin s m e).abs = .fin false m e ∧ (Val.inf s).abs = .inf false ∧ Val.nan.abs = .nan) ∧
    (a = .nan ∨ b = .nan → a.minimum b = .nan ∧ a.maximum b = .nan) ∧
    (a ≠ .nan → b ≠ .nan →
      (a.minimum b = a ∨ a.minimum b = b) ∧ ¬ less a (a.minimum b) ∧ ¬ less b (a.minimum b) ∧
      (a.maximum b = a ∨ a.maximum b = b) ∧ ¬ less (a.maximum b) a ∧ ¬ less (a.maximum b) b ∧
      a.minimumNumber b = a.minimum b ∧ a.maximumNumber b = a.maximum b) ∧
    (Val.nan.minimumNumber b = b ∧ a.minimumNumber .nan = a ∧ Val.nan.maximumNumber b = b ∧ a.maximumNumber .nan = a)

/-- R230: A · B + C before its one rounding: the exact sum with the sign of a zero by VADD's rule; ∞ times 0 gives NaN and NV whatever
C is, an infinite product with the opposite infinity NaN and NV, another NaN operand NaN without a flag. -/
def Sys2Proof.saysFusedValues : Prop :=
  ∀ (md : Rnd) (s t u : Bool) (m n k : Nat) (e f g : Int) (c v : Val),
    let a : Val := .fin s m e
    let b : Val := .fin t n f
    let z : Val := .fin u k g
    (fusedVal md (.inf s) (.fin t 0 f) c = (.nan, flagNV) ∧ fusedVal md (.fin t 0 f) (.inf s) c = (.nan, flagNV)) ∧
    (∀ x ∈ [(Val.inf s, Val.inf t), (.inf s, .fin t (n + 1) f), (.fin s (m + 1) e, .inf t)],
      fusedVal md x.1 x.2 z = (.inf (s != t), 0) ∧ fusedVal md x.1 x.2 (.inf (s != t)) = (.inf (s != t), 0) ∧
      fusedVal md x.1 x.2 (.inf !(s != t)) = (.nan, flagNV) ∧ fusedVal md x.1 x.2 .nan = (.nan, 0)) ∧
    (fusedVal md .nan v c = (.nan, 0) ∧ fusedVal md v .nan c = (.nan, 0) ∧ fusedVal md a b .nan = (.nan, 0)) ∧
    fusedVal md a b (.inf u) = (.inf u, 0) ∧
    ∃ w h x, fusedVal md a b z = (.fin w h x, 0) ∧
      (Val.fin w h x).num = some (a.num.getD 0 * b.num.getD 0 + z.num.getD 0) ∧
      (h = 0 → w = if (m = 0 ∨ n = 0) ∧ k = 0 ∧ (s != t) = u then u else decide (md = .rdn))

/-- R234: the class of a code in its own format: NaN 8, infinities 0 and 7, zeros 3 and 4, subnormals, below the least normal number,
2 and 5, other numbers 1 and 6. -/
def Sys2Proof.saysClasses : Prop :=
  ∀ q ∈ floatRows, ∀ c < 2 ^ (1 + q.ebits + q.fbits), classBit q.fmt c = match q.fmt.decode c with
    | .nan => 8
    | .inf neg => if neg then 0 else 7
    | .fin neg m e =>
      if m = 0 then (if neg then 3 else 4)
      else if (m : ℚ) * 2 ^ e < 2 ^ (1 - q.bias) then (if neg then 2 else 5)
      else if neg then 1 else 6

/-- R75, R76, R229 to R241, R246, R247, R249, R254 to R256: what element-wise instructions, shifts, VMIX, VIOTA, VEXT, VCMPR,
VEXPD, compares and class tests give, with the order of values, the fused product and sum, and the classes of codes. Which flags a
lane with an absent source raises is the model's choice (notes/assumptions/114.md). -/
def Obligations.LaneValues : Prop :=
  Sys2Proof.saysLaneValues ∧ Sys2Proof.saysShiftMixIota ∧ Sys2Proof.saysCompareMasks ∧ Sys2Proof.saysExtractCompress ∧
    Sys2Proof.saysOrder ∧ Sys2Proof.saysFusedValues ∧ Sys2Proof.saysClasses

/-- R72, R244: an integer VRSUM writes the wrapped sum of the active lanes of A into the lane of D that IMM6 names, and
nothing where D has no such lane. -/
def Sys2Proof.saysIntegerReduction : Prop :=
  ∀ (p : Pre) (o : VOps) (v : LaneEnv), v.fa = .i32 → v.nA ≤ 512 → (∀ k, v.A k < 2 ^ 32) →
    let sum : Int := (((List.range v.nA).filter v.active).map fun k => (BitVec.ofNat 32 (v.A k)).toInt).sum
    ((laneOf (.vrsum p o)).line v).lanes =
      if v.o.imm < v.nD then [(v.o.imm, (BitVec.ofInt 32 sum).toNat, 0)] else []

/-- R65, R67, R72, R244: VRSUM of a float format, VRMAX and VRMIN reduce the lanes of A, absent and inactive ones by the
filler of R72, in a tree of n lanes rounded up to a power of two: lane i of a level combines lanes 2i and 2i + 1 of the one
before. VRSUM adds in FP32 with a rounding each; the last value is rounded once to D's format, into the lane that IMM6 names.
VARGMX names the lane that ranks first: a NaN above every number, the lower index among equals. -/
def Sys2Proof.saysReductions : Prop :=
  ∀ (p : Pre) (o : VOps) (v : LaneEnv) (n : Nat), v.nA ≤ 512 → v.nA ≤ 2 ^ n → (∀ k < n, 2 ^ k < v.nA) →
    let here (k : Nat) : Bool := decide (k < v.nA) && v.active k
    let out (code flags : Nat) : LineOut :=
      { lanes := if v.o.imm < v.nD then [(v.o.imm, code, flags)] else [], flags := flags }
    let add (a b : Nat × Nat) : Nat × Nat :=
      let r := Val.add v.rnd (Fmt.fp32.decode a.1) (Fmt.fp32.decode b.1)
      let q := Fmt.fp32.round v.rnd false r.1
      (q.1, a.2 ||| b.2 ||| r.2 ||| q.2)
    let top (neg : Bool) (k : Nat) : Val := if here k then v.av k else .inf neg
    let ranks (j k : Nat) : Prop :=
      if (top true j).isNan then (top true k).isNan = true → j < k
      else (top true k).isNan = false ∧ ((top true k).lt (top true j) = true ∨
        ((top true j).lt (top true k) = false ∧ j < k))
    (∀ x : Nat → Nat → Nat × Nat, v.fa ≠ .i32 →
      (∀ k, x 0 k = if here k then ((Fmt.fp32.round .rne false (v.av k)).1, 0) else (0, 0)) →
      (∀ l k, x (l + 1) k = add (x l (2 * k)) (x l (2 * k + 1))) →
      let q := v.fd.round v.rnd false (Fmt.fp32.decode (x n 0).1)
      (laneOf (.vrsum p o)).line v = out q.1 ((x n 0).2 ||| q.2)) ∧
    (∀ x : Nat → Nat → Val, (∀ k, x 0 k = top true k) → (∀ l k, x (l + 1) k = (x l (2 * k)).maximum (x l (2 * k + 1))) →
      let q := v.fd.round .rne false (x n 0)
      (laneOf (.vrmax p o)).line v = out q.1 q.2) ∧
    (∀ x : Nat → Nat → Val, (∀ k, x 0 k = top false k) → (∀ l k, x (l + 1) k = (x l (2 * k)).minimum (x l (2 * k + 1))) →
      let q := v.fd.round .rne false (x n 0)
      (laneOf (.vrmin p o)).line v = out q.1 q.2) ∧
    (∃ j < 2 ^ n, (∀ k < 2 ^ n, k ≠ j → ranks j k) ∧ (laneOf (.vargmx p o)).line v = out (j % 2 ^ v.fd.width) 0)

/-- R65, R73, R245: VSCAN of n lanes of A and D, in n's passes of distance 1, 2, 4 and so on, each adding the lane that far
before; an inactive or absent lane of A enters as +0. Lane i of the result, rounded to D's format, goes into each active lane
of D. That the flags of every addition are raised is the model's choice (notes/assumptions/8.md). -/
def Sys2Proof.saysScans : Prop :=
  ∀ (p : Pre) (o : VOps) (v : LaneEnv) (n : Nat),
    let lanes := Nat.max v.nA v.nD
    lanes ≤ 2 ^ n → n ≤ 9 →
    let here (k : Nat) : Bool := decide (k < v.nA) && v.active k
    let add (a b : Nat × Nat) : Nat × Nat :=
      let r := Val.add v.rnd (Fmt.fp32.decode a.1) (Fmt.fp32.decode b.1)
      let q := Fmt.fp32.round v.rnd false r.1
      (q.1, a.2 ||| b.2 ||| r.2 ||| q.2)
    (∀ x : Nat → Nat → Nat × Nat, v.fa ≠ .i32 →
      (∀ k, x 0 k = if here k then ((Fmt.fp32.round .rne false (v.av k)).1, 0) else (0, 0)) →
      (∀ l k, x (l + 1) k = if 2 ^ l ≤ k then add (x l (k - 2 ^ l)) (x l k) else x l k) →
      let l := ((List.range v.nD).filter v.active).map fun k =>
        let q := v.fd.round v.rnd false (Fmt.fp32.decode (x n k).1)
        (k, q.1, q.2)
      (laneOf (.vscan p o)).line v =
        { lanes := l, flags := (List.range lanes).foldl (fun z k => z ||| (x n k).2) (l.foldl (fun z y => z ||| y.2.2) 0) }) ∧
    (v.fa = .i32 → (∀ k, v.A k < 2 ^ 32) →
      (laneOf (.vscan p o)).line v = { lanes := ((List.range v.nD).filter v.active).map fun k =>
        (k, (BitVec.ofInt 32 (((List.range (k + 1)).filter here).map fun j => (BitVec.ofNat 32 (v.A j)).toInt).sum).toNat, 0) })

/-- R222, R223, R256: the mask instructions use no unit that can be busy, write their mask in the next cycle, or the count
into a g register after four, and charge one event 4 (VK). Each result, once it performs, is what its register reads as, and
current. -/
def Obligations.MaskLogic : Prop :=
  (∀ (env : Env) (t : Tile) (p : Pend) (r : Nat) (v : Word) (byC : Bool), t.gen ≠ 0 →
    (r < 8 → p.eff = .mask r v → let t' := applyEff env t p
      t'.maskVal r = v ∧ t'.maskStale r = false) ∧
    (r < 32 → p.eff = .g r v byC → let t' := applyEff env t p
      t'.reg .C r = v ∧ t'.regStale .C r = false)) ∧
  ∀ (p : Pre) (o : VOps) (s : State) (pit : Pitch) (t : Tile), s.At pit t → s.cur.eng = .V → o.mask = 0 →
    let c := s.ctxAt pit 2
    let a := t.maskVal (o.a % 8)
    let b := t.maskVal (o.b % 8)
    let one := t.staleTrap = false ∨ t.maskStale (o.a % 8) = false
    let two := t.staleTrap = false ∨ (t.maskStale (o.a % 8) = false ∧ t.maskStale (o.b % 8) = false)
    let out (k : Nat) (e : Eff) := Host.Outcome.next (φ := Fault) (ρ := Refusal) (s.become pit { t with
      pend := t.pend ++ c.ends t (p.tail c ++ [.charge 4 1 1]) ++ c.at (t.tl + k) [e] })
    (two → exec (.vmand p o) s = out 1 (.mask (o.d % 8) (a &&& b)) ∧
      exec (.vmor p o) s = out 1 (.mask (o.d % 8) (a ||| b))) ∧
    (one → exec (.vmnot p o) s = out 1 (.mask (o.d % 8) (~~~a)) ∧
      exec (.vmpop p o) s = out 4 (.g (o.d % 32) (BitVec.ofNat 64 ((List.range 64).countP fun k => a.getLsbD k)) false))

/-- A row of the table of R227: its instructions, what D, A and B may be each where it is configured, and the relation of two of them
where both are. -/
structure Sys2Proof.FormatRow where
  ops : List (Pre → VOps → Instr)
  d : List Fmt
  a : List Fmt
  b : List Fmt
  da : Fmt → Fmt → Prop := fun _ _ => True
  db : Fmt → Fmt → Prop := fun _ _ => True
  ab : Fmt → Fmt → Prop := fun _ _ => True
  /-- D's descriptor needs SCALE_ON 1. -/
  scale : Bool := false

/-- The table of R227, with shifts of FUNC 0, which have a grid operand B (R237). -/
def Sys2Proof.operandFormats : List FormatRow :=
  let any : List Fmt := [.fp32, .fp16, .bf16, .f8a, .f8b, .f4, .ts8, .i8, .i32, .e8]
  let byte : List Fmt := [.fp32, .fp16, .bf16, .f8a, .f8b, .ts8, .i8, .i32, .e8]
  let values : List Fmt := [.fp32, .fp16, .bf16, .f8a, .f8b, .f4, .ts8, .i8, .i32]
  let floats : List Fmt := [.fp32, .fp16, .bf16]
  let sums : List Fmt := [.fp32, .fp16, .bf16, .i32]
  let ints : List Fmt := [.i8, .i32]
  let width (f g : Fmt) : Prop := ({ fmt := any.idxOf f } : TDesc).w = ({ fmt := any.idxOf g } : TDesc).w
  let kind (f g : Fmt) : Prop := f = .i32 ↔ g = .i32
  [{ ops := [.vadd, .vsub, .vmul, .vmin, .vmax, .vminn, .vmaxn, .vfma, .vfms], d := floats, a := floats, b := floats },
   { ops := [.vneg, .vabs], d := floats, a := floats, b := any },
   { ops := [.vdiv], d := [.fp32], a := floats, b := floats },
   { ops := [.vrcp, .vsqrt, .vrsq, .vexp2, .vlog2, .vtanh], d := [.fp32], a := floats, b := any },
   { ops := [.vcmpeq, .vcmplt, .vcmple, .vcmpun], d := any, a := sums, b := sums, ab := kind },
   { ops := [.vclass], d := any, a := floats, b := any },
   { ops := [.viadd, .visub, .vimul, .vimin, .vimax, .vshl, .vshr, .vsra], d := ints, a := any, b := any, da := (· = ·), db := (· = ·) },
   { ops := [.vand, .vor, .vxor, .vsel, .vcmpr, .vexpd], d := any, a := any, b := any, da := width, db := width },
   { ops := [.vmix], d := [.i32], a := [.i32], b := [.i32] },
   { ops := [.viota, .vbcst], d := values, a := any, b := any },
   { ops := [.vqnt], d := [.f8a, .f8b, .f4], a := floats, b := any, scale := true },
   { ops := [.vts8], d := [.ts8], a := floats, b := any, scale := true },
   { ops := [.vdqt], d := floats, a := values, b := any },
   { ops := [.vrsum, .vscan], d := sums, a := sums, b := any, da := kind },
   { ops := [.vrmax, .vrmin], d := floats, a := floats, b := any },
   { ops := [.vargmx], d := ints, a := floats, b := any },
   { ops := [.vmov, .vspl], d := any, a := any, b := any, da := width },
   { ops := [.vshf, .vrot], d := byte, a := byte, b := any, da := width },
   { ops := [.vzip, .vunz], d := byte, a := byte, b := byte, da := width, db := width },
   { ops := [.vperm], d := any, a := any, b := ints, da := width },
   { ops := [.vtrn], d := byte, a := any, b := any, da := width },
   { ops := [.vld, .vst, .vext, .vmand, .vmor, .vmnot, .vmpop], d := any, a := any, b := any },
   { ops := [.vgath], d := byte, a := [.i32], b := any }, { ops := [.vscat], d := any, a := byte, b := [.i32] }]

/-- R227, R240: formats of configured operands are allowed where the table has them: each by itself, and the two that a row relates
where both are configured. VCVT takes any format but E8, and TS8 as D with RND 0 alone. -/
def Sys2Proof.saysFormats : Prop :=
  (∀ q ∈ operandFormats, ∀ make ∈ q.ops, ∀ (p : Pre) (o : VOps) (d a b : Option Fmt) (scaleOn : Bool),
    vFormatsOk (make p o) d a b scaleOn = true ↔
      (∀ x, d = some x → x ∈ q.d ∧ (q.scale = true → scaleOn = true)) ∧ (∀ y, a = some y → y ∈ q.a) ∧ (∀ z, b = some z → z ∈ q.b) ∧
      (∀ x y, d = some x → a = some y → q.da x y) ∧ (∀ x z, d = some x → b = some z → q.db x z) ∧
      ∀ y z, a = some y → b = some z → q.ab y z) ∧
  (∀ (p : Pre) (o : VOps) (d a b : Option Fmt) (scaleOn : Bool), vFormatsOk (.vcvt p o) d a b scaleOn = true ↔
    d ≠ some .e8 ∧ a ≠ some .e8 ∧ (d = some .ts8 → o.rnd = 0)) ∧
  ∀ (i : Instr) (t : Tile), isVec i = true →
    let o := vopsOf i
    let cap := vCapture i t
    cap.dOn = (vGridD i && t.configured (fieldTile o.d)) ∧ cap.aOn = (vGridA i && t.configured (fieldTile o.a)) ∧
      cap.bOn = (vGridB i && t.configured (fieldTile o.b))

/-- What a V instruction finds stale at its issue beside the lanes that it reads: its mask, the selector of VSEL, the sources of the
mask instructions, the g register of VBCST, and the descriptors of the registers that it reads (R90, R188, R216, R220, R235, R246,
R256). -/
def Sys2Proof.staleAtIssue (i : Instr) (t : Tile) : Prop :=
  let o := vopsOf i
  (o.mask ≠ 0 ∧ t.maskStale o.mask = true) ∨
  (match i with
    | .vsel _ _ => t.maskStale (o.imm % 8) = true
    | .vmand _ _ => t.maskStale (o.a % 8) = true ∨ t.maskStale (o.b % 8) = true
    | .vmor _ _ => t.maskStale (o.a % 8) = true ∨ t.maskStale (o.b % 8) = true
    | .vmnot _ _ => t.maskStale (o.a % 8) = true
    | .vmpop _ _ => t.maskStale (o.a % 8) = true
    | .vbcst _ _ => t.regStale .V (o.a % 32) = true
    | _ => False) ∨
  (vGridA i = true ∧ t.descCur (fieldTile o.a) = false) ∨
  (vGridB i = true ∧ (∀ p u, i ≠ .vcmpr p u) ∧ t.descCur (fieldTile o.b) = false) ∨
  ((∃ p u, i = Instr.vfma p u ∨ i = .vfms p u) ∧ t.descCur (fieldTile o.d) = false)

/-- R90, R188, R216, R220, R223, R227, R235, R242, R246, R256: every V instruction that finds its unit occupied takes SCHEDULE_MISS, one
that reads a stale mask, selector, register or descriptor in trap mode takes STALE_READ, one whose operand formats R227 does not
allow takes ILLEGAL_ENCODING; with its unit free, nothing stale that is trapped, and its formats allowed, it takes no trap of these.
VQNT and VTS8 with an unconfigured D raise none but the first: of them `QuantAndTranspose` says what they do. The order busy, stale,
formats (notes/assumptions/12.md), and SCHEDULE_MISS of VQNT and VTS8 with an unconfigured D (notes/assumptions/18.md), are the
model's choices. -/
def Sys2Proof.saysVectorTraps : Prop :=
  ∀ (i : Instr) (s : State) (pit : Pitch) (t : Tile), s.At pit t → s.cur.eng = .V → isVec i = true →
    let cap := vCapture i t
    let allowed := vFormatsOk i (fmtOn cap.dOn cap.d) (fmtOn cap.aOn cap.a) (fmtOn cap.bOn cap.b) cap.d.scaleOn = true
    let busy := (vUnit i = .line ∧ t.tl < (t.engOf .V).busyA) ∨ (vUnit i = .storage ∧ t.tl < (t.engOf .V).busyB)
    let trap (code : Nat) := Host.Outcome.next (φ := Fault) (ρ := Refusal) (s.become pit (t.trap (s.ctxAt pit 2) code))
    let mute := cap.dOn = false ∧ ∃ p u, i = Instr.vqnt p u ∨ i = Instr.vts8 p u
    let stale := t.staleTrap = true ∧ staleAtIssue i t
    (busy → exec i s = trap trapMiss) ∧
    (¬ busy → ¬ mute → stale → exec i s = trap trapStale) ∧
    (¬ busy → ¬ mute → ¬ stale → ¬ allowed → exec i s = trap trapIllegal) ∧
    (¬ busy → ¬ stale → allowed → vTrap i t cap = none)

/-- R90, R225, R242, R243, R248, R250 to R253: in trap mode the storage instructions of V take STALE_READ of a stale stream at
their issue, VGATH and VSCAT also of a stale row that holds an index, or data to store, of an active lane; and the turn of a row takes
it of a stale row of A (VQNT, VTS8, VTRN), of a stale granule under an active lane (VLD), of a stale row with an active lane (VST), and
of a stale granule that VGATH reads in that turn. -/
def Sys2Proof.saysVectorStaleReads : Prop :=
  (∀ (p : Pre) (o : VOps) (s : State) (pit : Pitch) (t : Tile), s.At pit t → s.cur.eng = .V → t.staleTrap = true →
    let stops (i : Instr) : Prop := exec i s = .next (s.become pit (t.trap (s.ctxAt pit 2) trapStale))
    (∀ q ∈ [(Instr.vld p o, o.a), (.vst p o, o.d), (.vgath p o, o.b), (.vscat p o, o.d)], vTrap q.1 t (vCapture q.1 t) = none →
      t.streamStale (q.2 % 16) = true → stops q.1) ∧
    (∀ q ∈ [(Instr.vgath p o, true), (.vscat p o, false)], vTrap q.1 t (vCapture q.1 t) = none →
      let cap := vCapture q.1 t
      let data := if q.2 then (cap.d, o.d) else (cap.a, o.a)
      let index := if q.2 then (cap.a, o.a) else (cap.b, o.b)
      let lane (k : Nat) : Prop := k < lineLen data.1 data.2 ∧ laneActive o.mask cap.mask data.1.w k = true ∧
        k < lineLen index.1 index.2
      let stale (f : TDesc × Nat) (k : Nat) : Prop := t.rowCur (fieldTile f.2) (linePos f.1 f.2 k).1 = false
      (∃ k, lane k ∧ (stale index k ∨ (q.2 = false ∧ stale data k))) → stops q.1)) ∧
  ∀ (p : Pre) (o : VOps) (env : Env) (t : Tile) (e : Pend) (cap : Cap) (r : Nat), e.own.eng = .V → t.staleTrap = true →
    let c := ctxOf env e
    let stops : Prop := applyEff env t e = t.trapAny (Tile.own c) c.iss t.tl trapStale
    let row (f : Nat) : Nat := if gridWhole f then fieldTile f * 256 + 64 + r % 64 else f
    let off := cap.offs.getD r 0
    let on (d : TDesc) (f k : Nat) : Prop := k < lineLen d f ∧ laneActive o.mask cap.mask d.w k = true
    (∀ i ∈ [Instr.vqnt p o, .vts8 p o], e.eff = .job i cap r → cap.aOn = true →
      t.rowCur (fieldTile o.a) (if r < cap.d.rows then r else r - cap.d.rows) = false → stops) ∧
    (e.eff = .job (.vtrn p o) cap r → r < cap.a.rows → t.rowCur (fieldTile o.a) r = false → stops) ∧
    (e.eff = .job (.vld p o) cap r → (∃ k a, on cap.d (row o.d) k ∧ off + k * cap.d.w / 8 ≤ a ∧
      a < off + k * cap.d.w / 8 + Nat.max 1 (cap.d.w / 8) ∧ t.spmCur (a / 64) = false) → stops) ∧
    (e.eff = .job (.vst p o) cap r → (∃ k, on cap.a (row o.a) k ∧
      t.rowCur (fieldTile (row o.a)) (linePos cap.a (row o.a) k).1 = false) → stops) ∧
    (e.eff = .job (.vgath p o) cap r → r < 2 → 8 ≤ cap.d.w →
      let z := cap.d.w / 8
      let reached : List Nat := cap.offs.flatMap fun a => (List.range ((a + z - 1) / 64 + 1 - a / 64)).map fun k => a / 64 + k
      let turn (g : Nat) : Nat := if reached.find? (fun k => k % 16 == g % 16) = some g then 0 else 1
      let third : Prop := ∃ g ∈ reached, ∃ h ∈ reached, ∃ l ∈ reached,
        g % 16 = h % 16 ∧ h % 16 = l % 16 ∧ g ≠ h ∧ g ≠ l ∧ h ≠ l
      (r = 0 → ¬ third) → (∃ g ∈ reached, turn g = r ∧ t.spmCur g = false) → stops)

/-- R90, R188, R216, R220, R223, R225, R227, R235, R240, R242, R243, R246, R248, R250 to R253, R256: the traps of V: SCHEDULE_MISS, the
formats of R227, and STALE_READ at issue and in the turns of rows. The model's choices among what these say are
notes/assumptions/12.md and 18.md. -/
def Obligations.VectorTraps : Prop := Sys2Proof.saysFormats ∧ Sys2Proof.saysVectorTraps ∧ Sys2Proof.saysVectorStaleReads

/-- R223, R242, R243, R248: VQNT and VTS8 of one shape read their source twice, row by row, from the issue cycle: two cycles
a row; with an unconfigured D they read, write and raise nothing and occupy their unit for one cycle. VTRN reads one row a
cycle. Registers of other shapes are ILLEGAL_ENCODING, a scale area beyond the side file is SCRATCH_BOUNDS. That VTRN
compares the ROWS and COLS of unconfigured registers too (notes/assumptions/79.md, 18.md), that a form with no row takes one
cycle (notes/assumptions/9.md) and that shapes are judged before the side file (notes/assumptions/12.md) are the model's
choices. -/
def Sys2Proof.saysQuantIssue : Prop :=
  ∀ (p : Pre) (o : VOps) (s : State) (pit : Pitch) (t : Tile), s.At pit t → s.cur.eng = .V →
    let c := s.ctxAt pit 2
    let bad (code : Nat) := Host.Outcome.next (φ := Fault) (ρ := Refusal) (s.become pit (t.trap c code))
    let out (occ : Nat) (l : List Pend) := Host.Outcome.next (φ := Fault) (ρ := Refusal) (s.become pit { t with
      eng := t.eng.setIfInBounds 2 { t.engOf .V with busyA := t.tl + occ }
      pend := t.pend ++ c.ends t (p.tail c ++ [.charge 2 1 occ]) ++ l })
    (∀ i ∈ [Instr.vqnt p o, .vts8 p o],
      let cap := vCapture i t
      let n := cap.d.rows
      (cap.dOn = false → (t.engOf .V).busyA ≤ t.tl → exec i s = out 1 []) ∧
      (cap.dOn = true → vTrap i t cap = none →
        (cap.aOn = true → (cap.d.rows ≠ cap.a.rows ∨ cap.d.cols ≠ cap.a.cols) → exec i s = bad trapIllegal) ∧
        ((cap.aOn = true → cap.d.rows = cap.a.rows ∧ cap.d.cols = cap.a.cols) →
          (cap.d.sideOver = true → exec i s = bad trapBounds) ∧
          (cap.d.sideOver = false →
            exec i s = out (Nat.max 1 (2 * n)) (if n = 0 then [] else c.one t.tl 1 (.job i cap 0)))))) ∧
    (let i := Instr.vtrn p o
     let cap := vCapture i t
     vTrap i t cap = none →
     ((cap.d.rows ≠ cap.a.cols ∨ cap.d.cols ≠ cap.a.rows) → exec i s = bad trapIllegal) ∧
     (cap.d.rows = cap.a.cols ∧ cap.d.cols = cap.a.rows →
       exec i s = out (Nat.max 1 (Nat.max cap.a.rows cap.d.rows)) (c.one t.tl 1 (.job i cap 0))))

/-- R242, R243: cycle r of VQNT and VTS8 reads row r of its source, in the second pass row r − n. After the last cycle, five
cycles later, every block's scale stands in the side file and every row of D holds its codes. The scale of a block comes from
the first pass: 255 where it has a NaN, 127 where all is zero, else the smallest of 0 to 254 under which its largest magnitude
is at most fmax, or 254. Each code is the second pass's value divided by the scale, rounded by R65 or R57; 0 in a NaN block. -/
def Sys2Proof.saysQuantTurns : Prop :=
  ∀ (p : Pre) (o : VOps) (env : Env) (t : Tile) (e : Pend) (cap : Cap) (r : Nat), e.own.eng = .V → t.staleTrap = false →
    cap.d.illegal = false →
    ∀ i ∈ [Instr.vqnt p o, .vts8 p o], e.eff = .job i cap r →
    let c := ctxOf env e
    let d := cap.d
    let f := d.format
    let n := d.rows
    let row := if r < n then r else r - n
    let read : List Nat := if cap.aOn then (List.range cap.a.cols).map fun k => t.gridElem (fieldTile o.a) row k cap.a.w else []
    let rows := cap.rows ++ [read]
    let value (r' k : Nat) : Val := cap.a.format.decode ((rows.getD r' []).getD k 0)
    let block (r' k : Nat) : Nat × Nat :=
      let ko := if d.kaxis then (r', k) else (k, r')
      (ko.1 / 2 ^ d.scaleA, ko.2 / (32 / 2 ^ d.scaleA))
    let fmax : ℚ := match f with
      | .f8a => 448
      | .f8b => 57344
      | .f4 => 6
      | _ => 2
    (r + 1 < 2 * n → applyEff env t e =
      { t with pend := t.pend ++ c.one (t.tl + 1) 1 (.job i { cap with rows := rows } (r + 1)) }) ∧
    (2 * n ≤ r + 1 → rows.length = 2 * n → ∀ scale : Nat → Nat → Nat,
      (∀ bk bo,
        let inside (v : Val) : Prop := ∃ r' < n, ∃ k < d.cols, block r' k = (bk, bo) ∧ value r' k = v
        let fits (z : Nat) : Prop := ∀ v, inside v → ∃ x, v.num = some x ∧ |x| ≤ fmax * (2 : ℚ) ^ ((z : Int) - 127)
        (inside .nan → scale bk bo = 255) ∧
        ((∀ v, inside v → v.isZero = true) → scale bk bo = 127) ∧
        (¬ inside .nan → (∃ v, inside v ∧ v.isZero = false) →
          scale bk bo ≤ 254 ∧ (scale bk bo < 254 → fits (scale bk bo)) ∧ ∀ z < scale bk bo, ¬ fits z)) →
      let code (r' k : Nat) : Nat × Nat :=
        let z := scale (block r' k).1 (block r' k).2
        if z = 255 then (0, 0)
        else f.round (Rnd.ofCode o.rnd) (o.imm % 2 == 1) (match value (n + r') k with
          | .fin neg m x => .fin neg m (x - ((z : Int) - 127))
          | v => v)
      let flags := (List.range n).foldl (fun y r' => (List.range d.cols).foldl (fun y k => y ||| (code r' k).2) y) 0
      let scales : List MByte := (List.range d.no).flatMap fun bo => (List.range d.nk).map fun bk =>
        { addr := d.sslice * 64 + bo * d.nk + bk, val := scale bk bo }
      let codes : List Eff := (List.range n).map fun r' => .grid (fieldTile o.d) r' .vec
        ((List.range d.cols).flatMap fun k => Tile.elemBytes k d.w (code r' k).1)
      applyEff env t e = { t with
        pend := t.pend ++ c.at (t.tl + 5) ([.side scales] ++ codes ++ if flags = 0 then [] else [.vflags flags]) })

/-- R248: cycle r of VTRN reads row r of A, and after the last, five cycles later, element (c, r) of D is element (r, c) of
A. -/
def Sys2Proof.saysTransposeTurns : Prop :=
  ∀ (p : Pre) (o : VOps) (env : Env) (t : Tile) (e : Pend) (cap : Cap) (r : Nat), e.own.eng = .V → t.staleTrap = false →
    e.eff = .job (.vtrn p o) cap r →
    let c := ctxOf env e
    let n := Nat.max 1 (Nat.max cap.a.rows cap.d.rows)
    let rows := cap.rows ++ [if r < cap.a.rows then
      (List.range cap.a.cols).map fun k => t.gridElem (fieldTile o.a) r k cap.a.w else []]
    (r + 1 < n → applyEff env t e =
      { t with pend := t.pend ++ c.one (t.tl + 1) 1 (.job (.vtrn p o) { cap with rows := rows } (r + 1)) }) ∧
    (n ≤ r + 1 → applyEff env t e = { t with pend := t.pend ++ c.at (t.tl + 5) ((List.range cap.d.rows).map fun q =>
      .grid (fieldTile o.d) q .vec ((List.range cap.d.cols).flatMap fun k =>
        Tile.elemBytes k cap.d.w ((rows.getD k []).getD q 0))) })

/-- R223, R242, R243, R248: VQNT, VTS8 and VTRN at issue, in their later cycles, and what they write. -/
def Obligations.QuantAndTranspose : Prop :=
  Sys2Proof.saysQuantIssue ∧ Sys2Proof.saysQuantTurns ∧ Sys2Proof.saysTransposeTurns

/-- R85, R99, R222, R223, R250, R251: VLD and VST whose offsets all lie in the scratchpad, aligned to the element, occupy
unit S for their line or rows; row r uses the banks of its bytes and advances the stream at issue + 1 + r (VLD) or issue +
2 + r (VST); the first row's turn is issue + 1 or the issue cycle. Any other offset is SCRATCH_BOUNDS. Offsets that count
the advances of accesses issued earlier (notes/assumptions/14.md), the advance of a stream whose line is absent
(notes/assumptions/81.md) and at least one cycle (notes/assumptions/9.md) are the model's choices. -/
def Obligations.VectorStorage : Prop :=
  ∀ (p : Pre) (o : VOps) (s : State) (pit : Pitch) (t : Tile), s.At pit t → s.cur.eng = .V → t.staleTrap = false →
    ∀ q ∈ [(Instr.vld p o, true), (.vst p o, false)],
    let i := q.1
    let c := s.ctxAt pit 2
    let cap := vCapture i t
    let f := if q.2 then o.d else o.a
    let d := if q.2 then cap.d else cap.a
    let str := (if q.2 then o.a else o.d) % 16
    let fields := if gridWhole f then (List.range d.rows).map fun r => fieldTile f * 256 + 64 + r % 64 else [f]
    let n := fields.length
    let offs := Stream.offsets n (t.streamAhead str)
    let ok := ∀ x ∈ fields.zip offs, x.2 % Nat.max 1 (d.w / 8) = 0 ∧ x.2 + lineBytes d x.1 ≤ 0xC0000
    let base := t.tl + if q.2 then 1 else 2
    let occ := if gridWhole f then Nat.max 1 n else Nat.max 1 ((lineBytes d f + 127) / 128)
    let uses (r : Nat) : List BankUse := (Tile.granules (offs.getD r 0) (lineBytes d (fields.getD r 0))).map fun g =>
      ⟨base + r, g % 16, Tile.own c, c.iss⟩
    vTrap i t cap = none →
    (¬ ok → exec i s = .next (s.become pit (t.trap c trapBounds))) ∧
    (ok → exec i s = .next (s.become pit { t with
      eng := t.eng.setIfInBounds 2 { t.engOf .V with busyB := t.tl + occ }
      banks := t.banks ++ (List.range n).flatMap uses
      pend := t.pend ++ c.ends t (p.tail c ++ [.charge 2 1 occ]) ++
        ((List.range n).flatMap fun r => c.one (base + r) 2 (.advance str)) ++
        if n = 0 then [] else c.one (if q.2 then t.tl + 1 else t.tl) 1 (.job i { cap with offs := offs } 0) }))

/-- R251: the turn of a row of VLD reads its active lanes at their bank cycle and writes them three cycles later, with one
event 1 per granule; the turn of a row of VST reads its active lanes and stores them two cycles later. The next row's turn
is the next cycle. -/
def Sys2Proof.saysVectorStorageRows : Prop :=
  ∀ (p : Pre) (o : VOps) (env : Env) (t : Tile) (e : Pend) (cap : Cap) (r : Nat), e.own.eng = .V → t.staleTrap = false →
    let c := ctxOf env e
    let row (f : Nat) : Nat := if gridWhole f then fieldTile f * 256 + 64 + r % 64 else f
    let off := cap.offs.getD r 0
    let on (d : TDesc) (f : Nat) : List Nat := (List.range (lineLen d f)).filter (laneActive o.mask cap.mask d.w)
    let next (i : Instr) : List Pend := if r + 1 < cap.offs.length then c.one (t.tl + 1) 1 (.job i cap (r + 1)) else []
    (e.eff = .job (.vld p o) cap r → applyEff env t e =
      (let n := (distinctGranules ((on cap.d (row o.d)).map (lanePlace off cap.d.w))).length
       let l := (on cap.d (row o.d)).map fun k => (k, spmLane t off cap.d.w k, 0)
       { t.charge env 1 n with
         pend := t.pend ++ c.at (t.tl + 3) (laneWrites cap.d (row o.d) l) ++ next (.vld p o) })) ∧
    (e.eff = .job (.vst p o) cap r → applyEff env t e =
      (let bytes := (on cap.a (row o.a)).flatMap fun k =>
         (Tile.elemBytes k cap.a.w (t.lane cap.a (row o.a) k)).map fun b => { b with addr := off + b.addr }
       { t with
         pend := t.pend ++ (if bytes = [] then [] else c.one (t.tl + 2) 1 (.spm bytes)) ++ next (.vst p o) }))

/-- R221, R224, R225, R251: the turns of the rows of whole-tile forms. -/
def Obligations.VectorRows : Prop := Sys2Proof.saysVectorRows ∧ Sys2Proof.saysVectorStorageRows

/-- R252, R253: VGATH and VSCAT whose indexed addresses all lie in the scratchpad take every bank in the two cycles after
their issue and advance their stream in the first; the addresses of their active lanes, index times element size from the
stream's cursor, are fixed at issue. An address outside is SCRATCH_BOUNDS. The cursor of streamAhead (notes/assumptions/14.md)
and at least one cycle (notes/assumptions/9.md) are the model's choices. -/
def Sys2Proof.saysIndexedIssue : Prop :=
  ∀ (p : Pre) (o : VOps) (s : State) (pit : Pitch) (t : Tile), s.At pit t → s.cur.eng = .V → t.staleTrap = false →
    ∀ q ∈ [(Instr.vgath p o, true), (.vscat p o, false)],
    let i := q.1
    let c := s.ctxAt pit 2
    let cap := vCapture i t
    let str := (if q.2 then o.b else o.d) % 16
    let fData := if q.2 then o.d else o.a
    let dData := if q.2 then cap.d else cap.a
    let fIdx := if q.2 then o.a else o.b
    let dIdx := if q.2 then cap.a else cap.b
    let z := dData.w / 8
    let lanes := (List.range (lineLen dData fData)).filter fun k =>
      laneActive o.mask cap.mask dData.w k && decide (k < lineLen dIdx fIdx)
    let addr (k : Nat) : Int := ((t.streamAhead str).cur : Int) + toSigned 32 (t.lane dIdx fIdx k % 2 ^ 32) * z
    let ok := ∀ k ∈ lanes, 0 ≤ addr k ∧ addr k + z ≤ 0xC0000
    let occ := Nat.max 1 ((Nat.max (lineBytes dData fData) (lineBytes dIdx fIdx) + 127) / 128)
    vTrap i t cap = none →
    (¬ ok → exec i s = .next (s.become pit (t.trap c trapBounds))) ∧
    (ok → exec i s = .next (s.become pit { t with
      eng := t.eng.setIfInBounds 2 { t.engOf .V with busyB := t.tl + occ }
      banks := t.banks ++ (List.range 16).flatMap fun b =>
        [⟨t.tl + 1, b, Tile.own c, c.iss⟩, ⟨t.tl + 2, b, Tile.own c, c.iss⟩]
      pend := t.pend ++ c.ends t (p.tail c ++ [.charge 2 1 occ]) ++ c.one (t.tl + 1) 2 (.advance str) ++
        c.one (t.tl + 1) 1 (.job i { cap with
          offs := lanes.map fun k => (addr k).toNat
          rows := [lanes, if q.2 then [] else lanes.map (t.lane dData fData)] } 0) }))

/-- R67, R253: the two turns of VGATH and VSCAT. Of the granules that active lanes reach in one bank, the first in lane order
is served in the first turn and a second one in the second, each charged once; where a bank has a third, BANK_COLLISION, and
nothing moves. VGATH reads each byte in its granule's turn and writes its lanes at issue + 5; VSCAT stores each byte in its
granule's turn, a higher lane's bytes over a lower one's. -/
def Sys2Proof.saysIndexedTurns : Prop :=
  ∀ (p : Pre) (o : VOps) (env : Env) (t : Tile) (e : Pend) (cap : Cap) (r : Nat), e.own.eng = .V → t.staleTrap = false →
    r < 2 → ∀ q ∈ [(Instr.vgath p o, true), (.vscat p o, false)], e.eff = .job q.1 cap r →
    let c := ctxOf env e
    let d := if q.2 then cap.d else cap.a
    let z := d.w / 8
    let reached : List Nat := cap.offs.flatMap fun a => (List.range ((a + z - 1) / 64 + 1 - a / 64)).map fun k => a / 64 + k
    let third : Prop := ∃ g ∈ reached, ∃ h ∈ reached, ∃ l ∈ reached,
      g % 16 = h % 16 ∧ h % 16 = l % 16 ∧ g ≠ h ∧ g ≠ l ∧ h ≠ l
    let turn (g : Nat) : Nat := if reached.find? (fun k => k % 16 == g % 16) = some g then 0 else 1
    let served := (reached.dedup.filter fun g => turn g == r).length
    let part (a : Nat) : Nat := ((List.range z).map fun k =>
      if turn ((a + k) / 64) = r then (t.spmByte (a + k)).toNat * 256 ^ k else 0).sum
    let lanes := cap.rows.getD 0 []
    let held := cap.rows.getD 1 []
    let next (l : List Nat) : List Pend := c.one (t.tl + 1) 1 (.job q.1 { cap with rows := [lanes, l] } 1)
    let stored : List MByte := (cap.offs.zip held).flatMap fun x => ((List.range z).filter fun k =>
      turn ((x.1 + k) / 64) == r).map fun k => { addr := x.1 + k, val := x.2 / 256 ^ k % 256 }
    let loaded : List (Nat × Nat × Nat) := (lanes.zip (cap.offs.zip held)).map fun x => (x.1, x.2.2 + part x.2.1, 0)
    8 ≤ d.w → cap.rows = [lanes, held] →
    (r = 0 → third → applyEff env t e = t.trapAny (Tile.own c) c.iss t.tl trapBank) ∧
    (¬ third →
      (q.2 = true → applyEff env t e = { t.charge env 1 served with
        pend := t.pend ++ if r = 0 then next (cap.offs.map part) else c.at (t.tl + 3) (laneWrites d o.d loaded) }) ∧
      (q.2 = false → applyEff env t e = { (t.charge env 1 served).spmWrite stored with
        pend := t.pend ++ if r = 0 then next held else [] }))

/-- R67, R252, R253: VGATH and VSCAT at issue and in their two turns. -/
def Obligations.IndexedStorage : Prop := Sys2Proof.saysIndexedIssue ∧ Sys2Proof.saysIndexedTurns

/-- The table of R68: the formats of Ta, Tb and Tc, with Ks, m_c and n_c. -/
def Sys2Proof.arrayTable : List (Fmt × Fmt × Fmt × Nat × Nat × Nat) :=
  [(.bf16, .bf16, .fp32, 16, 8, 8), (.fp16, .fp16, .fp32, 16, 8, 8), (.f8a, .f8a, .fp32, 32, 8, 8), (.f8a, .f8b, .fp32, 32, 8, 8),
   (.f8b, .f8a, .fp32, 32, 8, 8), (.f8b, .f8b, .fp32, 32, 8, 8), (.i8, .i8, .i32, 32, 8, 8), (.f4, .f4, .fp32, 32, 16, 8),
   (.ts8, .f8a, .fp32, 32, 16, 8), (.ts8, .f8b, .fp32, 32, 16, 8), (.f8a, .ts8, .fp32, 32, 16, 8), (.f8b, .ts8, .fp32, 32, 16, 8)]

/-- R68, R90, R257, R258, R260, R262 to R267: an array instruction that finds the array occupied takes SCHEDULE_MISS; one that reads a
stale descriptor in trap mode takes STALE_READ; with an unconfigured Tc it occupies one cycle and writes nothing; with operand
formats that R68 does not pair, or that MMAS does not take, or a Ta of MMAS with KAXIS 1, it is ILLEGAL_ENCODING; where it reads a
stale row, scale or accumulator in trap mode it takes STALE_READ; otherwise it occupies the array for cyc = ⌈rows/m⌉ · ⌈cols/n⌉ ·
steps cycles, each factor at least 1, and writes its elements and flags, computed from what stands at issue, at issue + cyc + 6. Each
cycle is charged to MBF (event 5), MF8 (6) or MF4 (7) by the formats of Ta and Tb; which of them where R260 names two or none is the
model's choice (notes/assumptions/129.md). -/
def Obligations.ArrayInstructions : Prop :=
  ∀ (p : Pre) (tc ta tb tm idx : Nat) (s : State) (pit : Pitch) (t : Tile), s.At pit t → s.cur.eng = .M →
    ∀ q ∈ [(Instr.mma p tc ta tb, ArrayOp.mma), (.mmaz p tc ta tb, .mmaz), (.mmas p tc ta tb tm, .mmas tm),
      (.mmal p tc ta tb, .mmal), (.mrk1 p tc ta tb idx, .mrk1 idx)],
    let c := s.ctxAt pit 1
    let e := t.engOf .M
    let cap : Cap := { d := t.descOf tc, a := t.descOf ta, b := t.descOf tb, dOn := t.configured tc,
                       aOn := t.configured ta, bOn := t.configured tb }
    let fa := cap.a.format
    let fb := cap.b.format
    let full := cap.aOn = true ∧ cap.bOn = true
    let sparse := ∃ k, q.2 = ArrayOp.mmas k
    let m := match q.2 with
      | .mmas k => k
      | _ => tc
    let sparseBad := sparse ∧ ((cap.aOn = true ∧ cap.a.kaxis = true) ∨
      (full ∧ ¬ ((fa = .bf16 ∧ fb = .bf16) ∨ (fa = .fp16 ∧ fb = .fp16) ∨ (fa ∈ [.f8a, .f8b] ∧ fb ∈ [.f8a, .f8b]))))
    let blind := t.staleTrap = true ∧ ∃ r ∈ [tc, ta, tb, m], t.descCur r = false
    let kext (d : TDesc) : Nat := if d.kaxis then d.rows else d.cols
    let oext (d : TDesc) : Nat := if d.kaxis then d.cols else d.rows
    let inside (on : Bool) (d : TDesc) (x o : Nat) : Prop := on = true ∧ x < kext d ∧ o < oext d
    let bad (d : TDesc) (r x o : Nat) : Prop := t.rowCur r (if d.kaxis then x else o) = false ∨
      (d.scaleOn = true ∧ d.format ∈ [.f8a, .f8b, .f4, .ts8] ∧ t.sideCur (d.scaleByte x o) = false)
    let writes (r k : Nat) : Prop := r < cap.d.rows ∧ k < cap.d.cols ∧ (q.2 = .mmal → k ≤ r)
    let pair (r x y : Nat) : Prop := cap.aOn = true ∧ x < kext cap.a ∧ match q.2 with
      | .mrk1 n => x = n ∧ y = n
      | .mmas n => y = sparseK t (t.descOf n) (t.configured n) n r x
      | _ => y = x
    let stale : Prop :=
      (∃ r k x y, writes r k ∧ pair r x y ∧
        ((inside cap.aOn cap.a x r ∧ bad cap.a ta x r) ∨ (inside cap.bOn cap.b y k ∧ bad cap.b tb y k))) ∨
      (∃ r k, writes r k ∧ q.2 ≠ .mmaz ∧ pendingAcc t tc r k = none ∧ t.rowCur tc r = false) ∨
      (sparse ∧ t.configured m = true ∧ cap.aOn = true ∧
        ∃ r, r < cap.d.rows ∧ r < (t.descOf m).rows ∧ r < oext cap.a ∧ t.rowCur m r = false)
    let event := if cap.bOn = true ∧ fb = .ts8 then 7 else if cap.aOn = false then 5
      else if fa ∈ [.f4, .ts8] then 7 else if fa ∈ [.f8a, .f8b, .i8] then 6 else 5
    let shape := if cap.aOn && cap.bOn then
        (arrayTable.find? fun x => x.1 == fa && x.2.1 == fb && x.2.2.1 == cap.d.format).map fun x => x.2.2.2
      else if cap.d.format = .fp32 ∨ cap.d.format = .i32 then some (1, 8, 8) else none
    let trap (code : Nat) := Host.Outcome.next (φ := Fault) (ρ := Refusal) (s.become pit (t.trap c code))
    let out (cyc : Nat) (l : List Pend) := Host.Outcome.next (φ := Fault) (ρ := Refusal) (s.become pit { t with
      eng := t.eng.setIfInBounds 3 { e with busyA := t.tl + cyc }
      pend := t.pend ++ c.ends t (p.tail c ++ [.charge event 1 cyc]) ++ l })
    (t.tl < e.busyA → exec q.1 s = trap trapMiss) ∧
    (e.busyA ≤ t.tl → blind → exec q.1 s = trap trapStale) ∧
    (e.busyA ≤ t.tl → ¬ blind →
      (cap.dOn = false → exec q.1 s = out 1 []) ∧
      (cap.dOn = true → (shape = none ∨ sparseBad) → exec q.1 s = trap trapIllegal) ∧
      (cap.dOn = true → ¬ sparseBad → ∀ ks mc nc, shape = some (ks, mc, nc) →
        let steps := match q.2 with
          | .mrk1 _ => 1
          | _ => if cap.aOn && cap.bOn then Nat.max 1 ((cap.a.kext + ks - 1) / ks) else 1
        let cyc := Nat.max 1 ((cap.d.rows + mc - 1) / mc) * Nat.max 1 ((cap.d.cols + nc - 1) / nc) * steps
        let elem (r k : Nat) : Nat × Nat :=
          arrayElem t q.2 cap (t.descOf m) (t.configured m) ta tb tc ks steps r k
        let cols (r : Nat) : List Nat := (List.range cap.d.cols).filter (arrayWrites q.2 r)
        let flags := (List.range cap.d.rows).foldl (fun z r => (cols r).foldl (fun y k => y ||| (elem r k).2) z) 0
        (t.staleTrap = true → stale → exec q.1 s = trap trapStale) ∧
        ((t.staleTrap = false ∨ ¬ stale) → exec q.1 s = out cyc (c.at (t.tl + cyc + 6)
          (((List.range cap.d.rows).map fun r =>
            .grid tc r .array ((cols r).flatMap fun k => Tile.elemBytes k 32 (elem r k).1)) ++
            if flags = 0 then [] else [.mflags flags])))))

/-- R54, R55, R59: the sixteen codes of F4, the value of a TS8 byte as the sum of its two terms with a zero that is +0, and
the scale of an E8 byte. -/
def Sys2Proof.saysSmallFormats : Prop :=
  (∀ c < 16, (Fmt.f4.decode c).num = some ((if c < 8 then 1 else -1) * [0, 1 / 2, 1, 3 / 2, 2, 3, 4, 6].getD (c % 8) 0) ∧
    ∃ m e, Fmt.f4.decode c = .fin (decide (8 ≤ c)) m e) ∧
  (∀ b < 256,
    let term (c : Nat) : ℚ := if c = 0 then 0 else (1 / 2) ^ (c - 1)
    let sign (s : Nat) : ℚ := if s = 1 then -1 else 1
    (Fmt.ts8.decode b).num = some (sign (b / 128) * term (b / 16 % 8) + sign (b / 8 % 2) * term (b % 8)) ∧
      ((Fmt.ts8.decode b).num = some 0 → ∃ m e, Fmt.ts8.decode b = .fin false m e)) ∧
  (∀ b < 255, (e8Value b).num = some ((2 : ℚ) ^ ((b : Int) - 127))) ∧ e8Value 255 = .nan

/-- R50, R51: the value of every code of a floating format: infinities and NaNs of the all-ones exponent, the one NaN fraction
of F8A, subnormals and normal numbers, with their sign. -/
def Sys2Proof.saysFloatCodes : Prop :=
  ∀ q ∈ floatRows, ∀ c < 2 ^ (1 + q.ebits + q.fbits),
    let neg : Bool := decide (2 ^ (q.ebits + q.fbits) ≤ c)
    let e : Nat := c / 2 ^ q.fbits % 2 ^ q.ebits
    let f : Nat := c % 2 ^ q.fbits
    let top : Prop := e = 2 ^ q.ebits - 1
    let size : ℚ := if e = 0 then (2 : ℚ) ^ (1 - q.bias) * (f / 2 ^ q.fbits)
      else (2 : ℚ) ^ ((e : Int) - q.bias) * (1 + f / 2 ^ q.fbits)
    (q.inf = true → top → q.fmt.decode c = if f = 0 then .inf neg else .nan) ∧
    (q.fmt = .f8a → top → f = 7 → q.fmt.decode c = .nan) ∧
    (¬ (q.inf = true ∧ top) → ¬ (q.fmt = .f8a ∧ top ∧ f = 7) →
      ∃ m x, q.fmt.decode c = .fin neg m x ∧ (q.fmt.decode c).num = some (if neg then -size else size))

/-- R64: the multiple k of the unit u that a rounding mode chooses for a magnitude x. -/
def Sys2Proof.Chosen (md : Rnd) (neg : Bool) (x u : ℝ) (k : Nat) : Prop :=
  let down : Prop := k * u ≤ x ∧ x < k * u + u
  let up : Prop := x ≤ k * u ∧ k * u < x + u
  match md with
  | .rne => |x - k * u| ≤ u / 2 ∧ (|x - k * u| = u / 2 → k % 2 = 0)
  | .rz => down
  | .rup => if neg then down else up
  | .rdn => if neg then up else down

/-- R65: `out` is what rounding the number of magnitude x > 0 to a floating format delivers: x on the grid of the format's
precision, or of its smallest subnormal, with unbounded exponent; past the largest finite value an infinity or that value. -/
def Sys2Proof.FloatRow.Delivers (q : FloatRow) (md : Rnd) (sat neg : Bool) (x : ℝ) (out : Nat × Nat) : Prop :=
  ∀ (z : Int) (k : Nat), 1 - q.bias - q.fbits ≤ z → x < 2 ^ (z + q.fbits + 1) →
    (z = 1 - q.bias - q.fbits ∨ (2 : ℝ) ^ (z + q.fbits) ≤ x) → Chosen md neg x (2 ^ z) k →
    let y : ℝ := k * 2 ^ z
    let least : ℝ := 2 ^ (1 - q.bias)
    let is (v : ℝ) : Prop := ∃ m e, q.fmt.decode out.1 = .fin neg m e ∧ (m : ℝ) * 2 ^ e = v
    let capped : Prop := q.inf = false ∨ (q.fmt = .f8b ∧ sat = true) ∨ md = .rz ∨ (md = .rup ∧ neg = true) ∨
      (md = .rdn ∧ neg = false)
    out.1 < 2 ^ (1 + q.ebits + q.fbits) ∧
    (y ≤ q.max → is y ∧ (y = x → out.2 = 0) ∧ (y ≠ x → least ≤ y → out.2 = flagNX) ∧
      (y ≠ x → y < least → out.2 = flagUF ||| flagNX)) ∧
    (q.max < y → out.2 = flagOF ||| flagNX ∧ (capped → is q.max) ∧ (¬ capped → q.fmt.decode out.1 = .inf neg))

/-- R52, R64, R65: rounding to a floating format: of a number, a zero, an infinity and a NaN, in every mode. -/
def Sys2Proof.saysRounding : Prop :=
  ∀ q ∈ floatRows, ∀ (md : Rnd) (sat neg : Bool) (e : Int),
    (∀ m : Nat, 0 < m → q.Delivers md sat neg (m * 2 ^ e) (q.fmt.round md sat (.fin neg m e))) ∧
    (let out := q.fmt.round md sat (.fin neg 0 e)
     out.2 = 0 ∧ out.1 < 2 ^ (1 + q.ebits + q.fbits) ∧ ∃ x, q.fmt.decode out.1 = .fin neg 0 x) ∧
    (let out := q.fmt.round md sat (.inf neg)
     if q.inf = true ∧ ¬ (q.fmt = .f8b ∧ sat = true) then q.fmt.decode out.1 = .inf neg ∧ out.2 = 0
     else (q.fmt.decode out.1).num = some (if neg then -q.max else q.max) ∧ out.2 = flagOF ||| flagNX) ∧
    q.fmt.round md sat .nan = (q.nan, if q.fmt = .f4 then flagNV else 0)

/-- R65: rounding to I8 and I32: the integer that the mode chooses, NX where it differs; beyond the limits, of an infinity and
of a NaN the limit or 0, with NV. That NX does not come with that NV is the model's choice (notes/assumptions/15.md). -/
def Sys2Proof.saysIntegerRounding : Prop :=
  ∀ q ∈ [(Fmt.i8, 8), (.i32, 32)], ∀ (md : Rnd) (sat neg : Bool),
    let hi : Int := 2 ^ (q.2 - 1) - 1
    let lo : Int := -2 ^ (q.2 - 1)
    let code (z : Int) : Nat := (z % 2 ^ q.2).toNat
    (∀ (m : Nat) (e : Int) (k : Nat), Chosen md neg ((m : ℝ) * 2 ^ e) 1 k →
      let z : Int := if neg then -(k : Int) else k
      let out := q.1.round md sat (.fin neg m e)
      (hi < z → out = (code hi, flagNV)) ∧ (z < lo → out = (code lo, flagNV)) ∧
      (lo ≤ z → z ≤ hi → out.1 = code z ∧ ((k : ℝ) = m * 2 ^ e → out.2 = 0) ∧ ((k : ℝ) ≠ m * 2 ^ e → out.2 = flagNX))) ∧
    q.1.round md sat (.inf neg) = (code (if neg then lo else hi), flagNV) ∧ q.1.round md sat .nan = (0, flagNV)

/-- R56, R57: the TS8 code of a number is the lowest canonical byte of least distance; NX where its value differs, with OF past
2 and UF below 2^-6. An infinity gives ±2 with OF and NX, a NaN 0 with NV. -/
def Sys2Proof.saysTwinShiftCodes : Prop :=
  let value (b : Nat) : ℚ := ((Fmt.ts8.decode b).num).getD 0
  let term (c : Nat) : ℚ := if c = 0 then 0 else (1 / 2) ^ (c - 1)
  let canonical (b : Nat) : Prop := term (b % 8) ≤ term (b / 16 % 8)
  ∀ (md : Rnd) (sat : Bool),
    (∀ (v : Val) (x : ℚ), v.num = some x →
      let out := Fmt.ts8.round md sat v
      out.1 < 256 ∧ canonical out.1 ∧
      (∀ b < 256, canonical b → |value out.1 - x| < |value b - x| ∨ (|value out.1 - x| = |value b - x| ∧ out.1 ≤ b)) ∧
      out.2 = if value out.1 = x then 0 else if 2 < |x| then flagOF ||| flagNX
        else if |x| < 1 / 64 then flagUF ||| flagNX else flagNX) ∧
    Fmt.ts8.round md sat (.inf false) = (0x11, flagOF ||| flagNX) ∧
    Fmt.ts8.round md sat (.inf true) = (0x99, flagOF ||| flagNX) ∧ Fmt.ts8.round md sat .nan = (0, flagNV)

/-- R69, R229: exact arithmetic on values: products and sums of numbers, NV for ∞ times 0 and for ∞ − ∞, and the sign of a
zero sum. -/
def Sys2Proof.saysExactArithmetic : Prop :=
  ∀ (md : Rnd) (s t : Bool) (m n : Nat) (e f : Int) (v : Val),
    let a : Val := .fin s m e
    let b : Val := .fin t n f
    (∃ k x, Val.mul a b = (.fin (s != t) k x, 0) ∧ (k : ℚ) * 2 ^ x = (m : ℚ) * 2 ^ e * (n * 2 ^ f)) ∧
    (∃ u k x, Val.add md a b = (.fin u k x, 0) ∧ (Val.fin u k x).num = some (a.num.getD 0 + b.num.getD 0) ∧
      (k = 0 → u = if m = 0 ∧ n = 0 ∧ s = t then s else decide (md = .rdn))) ∧
    (Val.mul (.inf s) (.inf t) = (.inf (s != t), 0) ∧ Val.mul (.inf s) b = Val.mul b (.inf s) ∧
      Val.mul (.inf s) b = if n = 0 then (.nan, flagNV) else (.inf (s != t), 0)) ∧
    (Val.add md (.inf s) (.inf t) = (if s = t then (.inf s, 0) else (.nan, flagNV)) ∧
      Val.add md (.inf s) b = (.inf s, 0) ∧ Val.add md b (.inf s) = (.inf s, 0)) ∧
    Val.mul .nan v = (.nan, 0) ∧ Val.mul v .nan = (.nan, 0) ∧ Val.add md .nan v = (.nan, 0) ∧ Val.add md v .nan = (.nan, 0)

/-- R74: VDIV, VRCP, VSQRT and VRSQ of numbers deliver the exact result rounded to nearest in FP32; and the special cases of
the seven functions, with the exact powers of two of VEXP2 and VLOG2. -/
def Sys2Proof.saysFunctions : Prop :=
  let row : FloatRow := ⟨.fp32, 8, 23, 127, (2 ^ 24 - 1) * 2 ^ 104, true, 0x7FC00000⟩
  let gives (out : Nat × Nat) (v : Val) (flags : Nat) : Prop :=
    out.2 = flags ∧ match v with
      | .fin neg 0 _ => ∃ x, Fmt.fp32.decode out.1 = .fin neg 0 x
      | .fin _ _ _ => (Fmt.fp32.decode out.1).num = v.num
      | .inf neg => Fmt.fp32.decode out.1 = .inf neg
      | .nan => out.1 = 0x7FC00000
  let zero (neg : Bool) : Val := .fin neg 0 0
  ∀ (s t : Bool) (m n : Nat) (e f : Int) (v : Val),
    let a : Val := .fin s m e
    let b : Val := .fin t n f
    (0 < m → 0 < n → row.Delivers .rne false (s != t) ((m : ℝ) * 2 ^ e / (n * 2 ^ f)) (divLane a b)) ∧
    (0 < n → row.Delivers .rne false t (1 / ((n : ℝ) * 2 ^ f)) (rcpLane b)) ∧
    (0 < m → row.Delivers .rne false false (Real.sqrt ((m : ℝ) * 2 ^ e)) (sqrtLane (.fin false m e))) ∧
    (0 < m → row.Delivers .rne false false (1 / Real.sqrt ((m : ℝ) * 2 ^ e)) (rsqLane (.fin false m e))) ∧
    (0 < m → gives (divLane a (.fin t 0 f)) (.inf (s != t)) flagDZ) ∧
    (0 < n → gives (divLane (.fin s 0 e) b) (zero (s != t)) 0) ∧
    gives (divLane (.fin s 0 e) (.fin t 0 f)) .nan flagNV ∧ gives (divLane (.inf s) (.inf t)) .nan flagNV ∧
    gives (divLane a (.inf t)) (zero (s != t)) 0 ∧ gives (divLane (.inf s) b) (.inf (s != t)) 0 ∧
    gives (rcpLane (.fin s 0 e)) (.inf s) flagDZ ∧ gives (rcpLane (.inf s)) (zero s) 0 ∧
    gives (sqrtLane (.fin s 0 e)) (zero s) 0 ∧ (0 < m → gives (sqrtLane (.fin true m e)) .nan flagNV) ∧
    gives (sqrtLane (.inf true)) .nan flagNV ∧ gives (sqrtLane (.inf false)) (.inf false) 0 ∧
    gives (rsqLane (.fin s 0 e)) (.inf s) flagDZ ∧ (0 < m → gives (rsqLane (.fin true m e)) .nan flagNV) ∧
    gives (rsqLane (.inf true)) .nan flagNV ∧ gives (rsqLane (.inf false)) (zero false) 0 ∧
    gives (exp2Lane (.inf true)) (zero false) 0 ∧ gives (exp2Lane (.inf false)) (.inf false) 0 ∧
    (∀ k : Int, -149 ≤ k → k ≤ 127 → v.num = some (k : ℚ) → gives (exp2Lane v) (.fin false 1 k) 0) ∧
    gives (log2Lane (.fin s 0 e)) (.inf true) flagDZ ∧ (0 < m → gives (log2Lane (.fin true m e)) .nan flagNV) ∧
    gives (log2Lane (.inf true)) .nan flagNV ∧ gives (log2Lane (.inf false)) (.inf false) 0 ∧
    (∀ k : Int, -149 ≤ k → k ≤ 127 → v.num = some ((2 : ℚ) ^ k) →
      gives (log2Lane v) (.fin (decide (k < 0)) k.natAbs 0) 0) ∧
    gives (tanhLane (.fin s 0 e)) (zero s) 0 ∧ gives (tanhLane (.inf s)) (.fin s 1 0) 0 ∧
    gives (divLane .nan v) .nan 0 ∧ gives (divLane v .nan) .nan 0 ∧
    ∀ g ∈ [rcpLane, sqrtLane, rsqLane, exp2Lane, log2Lane, tanhLane], gives (g .nan) .nan 0

/-- R50 to R52, R54 to R57, R59, R64, R65, R69, R74, R229: what the codes of the formats mean, rounding to each, exact
arithmetic, and the functions of R74. That VEXP2, VLOG2 and VTANH are correctly rounded elsewhere is not stated. That a
saturating conversion to an integer raises NV without NX is the model's choice (notes/assumptions/15.md). -/
def Obligations.FormatValues : Prop :=
  Sys2Proof.saysSmallFormats ∧ Sys2Proof.saysFloatCodes ∧ Sys2Proof.saysRounding ∧ Sys2Proof.saysIntegerRounding ∧
    Sys2Proof.saysTwinShiftCodes ∧ Sys2Proof.saysExactArithmetic ∧ Sys2Proof.saysFunctions

/-- R71: one I8 k-step adds the products to the accumulator exactly and saturates the sum to 32 bits, with OF where it
saturates. -/
def Sys2Proof.saysIntegerStep : Prop :=
  ∀ (acc : Nat) (l : List (Int × Int)), acc < 2 ^ 32 →
    let z := toSigned 32 acc + (l.map fun q => q.1 * q.2).sum
    (2 ^ 31 ≤ z → kstepInt acc l = (2 ^ 31 - 1, flagOF)) ∧
    (z < -(2 ^ 31) → kstepInt acc l = (2 ^ 31, flagOF)) ∧
    (-(2 ^ 31) ≤ z → z < 2 ^ 31 → (kstepInt acc l).2 = 0 ∧ (kstepInt acc l).1 < 2 ^ 32 ∧
      toSigned 32 (kstepInt acc l).1 = z)

/-- R69: one floating k-step. A NaN term, or one of ∞ times 0, gives the canonical NaN, NV with the latter; infinities of both
signs NV. Finite terms are cut toward zero at 60 bits below the exponent of the largest, NX where that drops something, and
their exact sum is rounded to FP32; that step, or the infinity, is added to the accumulator with a second rounding. -/
def Sys2Proof.saysFloatStep : Prop :=
  ∀ (acc : Nat) (terms : List (Val × Val)),
    let prods := terms.map fun q => Val.mul q.1 q.2
    let vals := prods.map fun q => q.1
    let nan := 0x7FC00000
    let size (v : Val) : ℚ := |v.num.getD 0|
    let addTo (step flags : Nat) : Nat × Nat :=
      let z := Val.add .rne (Fmt.fp32.decode acc) (Fmt.fp32.decode step)
      let out := Fmt.fp32.round .rne false z.1
      (out.1, flags ||| z.2 ||| out.2)
    (.nan ∈ vals → (∃ q ∈ prods, q.2 ≠ 0) → kstepFloat acc terms = (nan, flagNV)) ∧
    (.nan ∈ vals → (∀ q ∈ prods, q.2 = 0) → kstepFloat acc terms = (nan, 0)) ∧
    (.nan ∉ vals → .inf false ∈ vals → .inf true ∈ vals → kstepFloat acc terms = (nan, flagNV)) ∧
    (.nan ∉ vals → ∀ neg, .inf neg ∈ vals → .inf (!neg) ∉ vals →
      kstepFloat acc terms = addTo (if neg then 0xFF800000 else 0x7F800000) 0) ∧
    (.nan ∉ vals → .inf false ∉ vals → .inf true ∉ vals → ∀ top : Int, (∀ v ∈ vals, size v < (2 : ℚ) ^ (top + 1)) →
      ((∃ v ∈ vals, (2 : ℚ) ^ top ≤ size v) ∨ ∀ v ∈ vals, size v = 0) →
      let unit : ℚ := 2 ^ (top - 60)
      let cut (v : Val) : Int := if v.sign then -⌊size v / unit⌋ else ⌊size v / unit⌋
      let sum : Int := (vals.map cut).sum
      let minus : Bool := !vals.isEmpty && vals.all fun v => v.sign && decide (cut v = 0)
      let nx := if vals.any fun v => decide ((cut v).natAbs * unit ≠ size v) then flagNX else 0
      let r := Fmt.fp32.round .rne false (if sum = 0 then .fin minus 0 0 else .fin (decide (sum < 0)) sum.natAbs (top - 60))
      kstepFloat acc terms = addTo r.1 (nx ||| r.2))

/-- R70, R71, R261, R264, R267: an element of an array instruction is its k-steps in rising order, from the accumulator that
stands in Tc or that an earlier array instruction still has to write; from −0, or 0 of I32, for MMAZ. Step s covers the
positions s · Ks to s · Ks + Ks − 1 and only those inside both registers; MRK1 has one position, and MMAS takes the position in
Tb that its metadata names. -/
def Sys2Proof.saysElements : Prop :=
  ∀ (t : Tile) (op : ArrayOp) (cap : Cap) (md : TDesc) (mOn : Bool) (ta tb tc ks steps row col : Nat),
    let start := if op = .mmaz then (if cap.d.format = .i32 then 0 else 0x80000000)
      else (pendingAcc t tc row col).getD (t.gridElem tc row col 32)
    let posA (k : Nat) : Nat × Nat := if cap.a.kaxis then (k, row) else (row, k)
    let posB (k : Nat) : Nat × Nat := if cap.b.kaxis then (k, col) else (col, k)
    let inA (k : Nat) : Bool := cap.aOn && decide (k < cap.a.kext) && decide (row < cap.a.oext)
    let inB (k : Nat) : Bool := cap.bOn && decide (k < cap.b.kext) && decide (col < cap.b.oext)
    let steps' (s : Nat) : List Nat := (List.range ks).map fun l => s * ks + l
    let pairs (s : Nat) : List (Nat × Nat) := match op with
      | .mrk1 k => [(k, k)]
      | .mmas tm => (steps' s).map fun k => (k, sparseK t md mOn tm row k)
      | _ => (steps' s).map fun k => (k, k)
    let terms (s : Nat) : List (Nat × Nat) := (pairs s).filter fun q => inA q.1 && inB q.2
    let codeA (k : Nat) : Nat := t.gridElem ta (posA k).1 (posA k).2 cap.a.w
    let codeB (k : Nat) : Nat := t.gridElem tb (posB k).1 (posB k).2 cap.b.w
    let one (acc s : Nat) : Nat × Nat :=
      if cap.d.format = .i32 then
        kstepInt acc ((terms s).map fun q => (toSigned 8 (codeA q.1 % 256), toSigned 8 (codeB q.2 % 256)))
      else kstepFloat acc ((terms s).map fun q => (t.elemValue cap.a (posA q.1).1 (posA q.1).2 (codeA q.1),
        t.elemValue cap.b (posB q.2).1 (posB q.2).2 (codeB q.2)))
    arrayElem t op cap md mOn ta tb tc ks steps row col =
      (List.range steps).foldl (fun a s => ((one a.1 s).1, a.2 ||| (one a.1 s).2)) (start, 0)

/-- R65, R69 to R73, R244, R245: the values of the reductions and scans, and of the k-steps of the array. -/
def Obligations.IntegerSums : Prop :=
  Sys2Proof.saysIntegerReduction ∧ Sys2Proof.saysReductions ∧ Sys2Proof.saysScans ∧ Sys2Proof.saysIntegerStep ∧
    Sys2Proof.saysFloatStep ∧ Sys2Proof.saysElements

/-- R90, R257, R269 to R273: LDT, STT, LDSC, TZRO and TCPY that find the transfer unit occupied take SCHEDULE_MISS; LDT, STT, LDSC and
TCPY that read a stale descriptor or stream in trap mode take STALE_READ. Otherwise:
TZRO and a transfer of an unconfigured register occupy it for one cycle and charge one CTL; TZRO and TCPY give their
destination a new EPOCH at the end of the issue cycle, TCPY with the source's descriptor, and its rows follow from the issue
cycle, one a cycle; TCPY onto itself only occupies. LDSC needs the scale geometry. -/
def Obligations.TransferIssue : Prop :=
  ∀ (p : Pre) (r k str rnd : Nat) (sat : Bool) (s : State) (pit : Pitch) (t : Tile), s.At pit t → s.cur.eng = .M →
    let c := s.ctxAt pit 1
    let e := t.engOf .M
    let d := t.descOf r
    let dk := t.descOf k
    let rows := if t.configured k then dk.rows else 0
    let trap (code : Nat) := Host.Outcome.next (φ := Fault) (ρ := Refusal) (s.become pit (t.trap c code))
    let out (occ : Nat) (l : List Pend) := Host.Outcome.next (φ := Fault) (ρ := Refusal) (s.become pit
      { t.charge c.env 0 1 with
        eng := t.eng.setIfInBounds 3 { e with busyB := t.tl + occ }
        pend := t.pend ++ c.ends t (p.tail c) ++ l })
    (t.tl < e.busyB →
      ∀ i ∈ [Instr.ldt p r str, .stt p r str sat rnd, .ldsc p r str, .tzro p r, .tcpy p r k], exec i s = trap trapMiss) ∧
    (e.busyB ≤ t.tl → t.staleTrap = true →
      (t.descCur r = false ∨ t.streamStale str = true →
        ∀ i ∈ [Instr.ldt p r str, .stt p r str sat rnd, .ldsc p r str], exec i s = trap trapStale) ∧
      (t.descCur k = false → exec (.tcpy p r k) s = trap trapStale)) ∧
    (e.busyB ≤ t.tl → exec (.tzro p r) s = out 1 (c.ends t [.epoch r])) ∧
    (e.busyB ≤ t.tl → (t.staleTrap = false ∨ (t.descCur r = true ∧ t.descCur k = true ∧ t.streamStale str = false)) →
      (t.configured r = false → exec (.ldt p r str) s = out 1 [] ∧ exec (.ldsc p r str) s = out 1 []) ∧
      (t.configured r = false → (∃ f, Fmt.ofCode (t.streamAhead str).fmt = some f ∧ f ≠ .e8 ∧ f ≠ .ts8) →
        exec (.stt p r str sat rnd) s = out 1 []) ∧
      (t.configured r = true → d.scaleOn = false → exec (.ldsc p r str) s = trap trapIllegal) ∧
      (r = k → exec (.tcpy p r k) s = out (Nat.max 1 rows) []) ∧
      (r ≠ k → exec (.tcpy p r k) s = out (Nat.max 1 rows)
        (c.ends t [.tdesc r (if rows = 0 then {} else dk), .epoch r] ++
          if rows = 0 then [] else c.one t.tl 1 (.job (.tcpy p r k) { d := dk } 0))))

/-- R269, R270, R271: LDT into a configured register takes the stream's format and scale geometry into the descriptor;
STT converts to the stream's format. A descriptor that R81 does not allow, a target format E8, or TS8 with another rounding
than RNE is ILLEGAL_ENCODING; a scale area beyond the side file or an offset outside the scratchpad is SCRATCH_BOUNDS, where
LDT with a bad offset occupies the unit all the same. Otherwise row q has its bank cycle at issue + 1 + q (LDT) or issue + 2 + q
(STT), and the stream advances in each. Offsets that count the advances of accesses issued earlier (notes/assumptions/14.md)
and the order descriptor, side file, scratchpad (notes/assumptions/17.md) are the model's choices. -/
def Sys2Proof.saysLoadStoreTile : Prop :=
  ∀ (p : Pre) (r str rnd : Nat) (sat : Bool) (s : State) (pit : Pitch) (t : Tile), s.At pit t → s.cur.eng = .M →
    (t.staleTrap = false ∨ (t.descCur r = true ∧ t.streamStale str = false)) → (t.engOf .M).busyB ≤ t.tl → t.configured r = true →
    let c := s.ctxAt pit 1
    let d := t.descOf r
    let st := t.streamAhead str
    let nd := { d with fmt := st.fmt, scaleOn := st.scaleOn, scaleA := st.scaleA }
    let offs := Stream.offsets d.rows st
    let f := (Fmt.ofCode st.fmt).getD .fp32
    let ok (w l : Nat) : Prop := ∀ o ∈ offs, o % Nat.max 1 (w / 8) = 0 ∧ o + l ≤ 0xC0000
    let uses (base l : Nat) : List BankUse := (List.range d.rows).flatMap fun q =>
      (Tile.granules (offs.getD q 0) l).map fun g => ⟨base + q, g % 16, Tile.own c, c.iss⟩
    let moves (base : Nat) : List Pend := (List.range d.rows).flatMap fun q => c.one (base + q) 2 (.advance str)
    let trap (code : Nat) := Host.Outcome.next (φ := Fault) (ρ := Refusal) (s.become pit (t.trap c code))
    let out (banks : List BankUse) (l : List Pend) := Host.Outcome.next (φ := Fault) (ρ := Refusal) (s.become pit
      { t.charge c.env 0 1 with
        eng := t.eng.setIfInBounds 3 { t.engOf .M with busyB := t.tl + d.rows }
        banks := t.banks ++ banks
        pend := t.pend ++ c.ends t (p.tail c) ++ l })
    let ll := (nd.cols * nd.w + 7) / 8
    let ls := (d.cols * f.width + 7) / 8
    (nd.illegal = true → exec (.ldt p r str) s = trap trapIllegal) ∧
    (nd.illegal = false → nd.sideOver = true → exec (.ldt p r str) s = trap trapBounds) ∧
    (nd.illegal = false → nd.sideOver = false → ¬ ok nd.w ll → exec (.ldt p r str) s =
      .next (s.become pit (({ t.charge c.env 0 1 with
        eng := t.eng.setIfInBounds 3 { t.engOf .M with busyB := t.tl + d.rows } } : Tile).trap c trapBounds))) ∧
    (nd.illegal = false → nd.sideOver = false → ok nd.w ll → exec (.ldt p r str) s =
      out (uses (t.tl + 1) ll) (c.ends t [.tdesc r nd, .epoch r] ++ moves (t.tl + 1) ++
        c.one (t.tl + 1) 1 (.job (.ldt p r str) { d := nd, offs := offs } 0))) ∧
    ((f = .e8 ∨ (f = .ts8 ∧ rnd ≠ 0)) → exec (.stt p r str sat rnd) s = trap trapIllegal) ∧
    (¬ (f = .e8 ∨ (f = .ts8 ∧ rnd ≠ 0)) →
      (¬ ok f.width ls → exec (.stt p r str sat rnd) s = trap trapBounds) ∧
      (ok f.width ls → exec (.stt p r str sat rnd) s = out (uses (t.tl + 2) ls) (moves (t.tl + 2) ++
        c.one t.tl 1 (.job (.stt p r str sat rnd) { d := d, b := { fmt := st.fmt }, offs := offs } 0))))

/-- R272: LDSC of a register with scale geometry reads no rows of scales, one at CUR − BASE + SCALE_BASE + bo ·
SCALE_STRIDE, each at its own bank cycle from issue + 1; an offset beyond the scratchpad or a scale area beyond the side
file is SCRATCH_BOUNDS. -/
def Sys2Proof.saysLoadScales : Prop :=
  ∀ (p : Pre) (r str : Nat) (s : State) (pit : Pitch) (t : Tile), s.At pit t → s.cur.eng = .M →
    (t.staleTrap = false ∨ (t.descCur r = true ∧ t.streamStale str = false)) →
    (t.engOf .M).busyB ≤ t.tl → t.configured r = true → (t.descOf r).scaleOn = true →
    let c := s.ctxAt pit 1
    let d := t.descOf r
    let st := t.streamOf str
    let offs := (List.range d.no).map fun bo =>
      (((st.scaleBase : Int) + st.cur - st.base + (bo : Int) * st.scaleStride) % 2 ^ 20).toNat
    let ok := d.sideOver = false ∧ ∀ o ∈ offs, o + d.nk ≤ 0xC0000
    (¬ ok → exec (.ldsc p r str) s = .next (s.become pit (t.trap c trapBounds))) ∧
    (ok → exec (.ldsc p r str) s = .next (s.become pit { t.charge c.env 0 1 with
      eng := t.eng.setIfInBounds 3 { t.engOf .M with busyB := t.tl + Nat.max 1 d.no }
      banks := t.banks ++ (List.range d.no).flatMap fun q =>
        (Tile.granules (offs.getD q 0) d.nk).map fun g => ⟨t.tl + 1 + q, g % 16, Tile.own c, c.iss⟩
      pend := t.pend ++ c.ends t (p.tail c) ++
        if d.no = 0 then [] else c.one (t.tl + 1) 1 (.job (.ldsc p r str) { d := d, offs := offs } 0) }))

/-- R269 to R272: LDT, STT and LDSC of a configured register. The model's choices among what these say are notes/assumptions/14.md
and 17.md. -/
def Obligations.LoadStoreTile : Prop := Sys2Proof.saysLoadStoreTile ∧ Sys2Proof.saysLoadScales

/-- R269 to R273: the turns of rows in the transfer unit: LDT writes a row of 128 bytes three cycles after its bank
cycle, zeros beyond its L bytes; LDSC writes a row of scales into the side file as late; TCPY writes the row that it read two
cycles before. Each row's turn is one cycle after the last. -/
def Sys2Proof.saysTransferRows : Prop :=
  ∀ (p : Pre) (r k str : Nat) (env : Env) (t : Tile) (e : Pend) (cap : Cap) (q : Nat), e.own.eng = .M →
    t.staleTrap = false →
    let c := ctxOf env e
    let off := cap.offs.getD q 0
    let l := (cap.d.cols * cap.d.w + 7) / 8
    let more (n : Nat) (i : Instr) : List Pend := if q + 1 < n then c.one (t.tl + 1) 1 (.job i cap (q + 1)) else []
    let row (f : Nat → Nat) : List MByte := (List.range 128).map fun b => { addr := b, val := f b }
    (e.eff = .job (.ldt p r str) cap q → applyEff env t e =
      { t.charge env 1 (Tile.granules off l).length with
        pend := t.pend ++ c.at (t.tl + 3)
            [.grid r q .xfer (row fun b => if b < l then (t.spmByte (off + b)).toNat else 0)] ++
          more cap.offs.length (.ldt p r str) }) ∧
    (e.eff = .job (.ldsc p r str) cap q → applyEff env t e =
      { t.charge env 1 (Tile.granules off cap.d.nk).length with
        pend := t.pend ++ c.at (t.tl + 3) [.side ((List.range cap.d.nk).map fun b =>
            { addr := cap.d.sslice * 64 + q * cap.d.nk + b, val := (t.spmByte (off + b)).toNat })] ++
          more cap.offs.length (.ldsc p r str) }) ∧
    (e.eff = .job (.tcpy p r k) cap q → applyEff env t e =
      { t with
        pend := t.pend ++ c.at (t.tl + 2) [.grid r q .xfer (row (t.gridByte k q))] ++
          more cap.d.rows (.tcpy p r k) })

/-- R90, R269 to R273, R275, R278: in trap mode the turn of a row takes STALE_READ of a stale granule among the bytes that LDT or LDSC
reads, of a stale row, or a stale scale of the row's elements, that STT reads, and of a stale row that TCPY reads; the turn of a beat
of SEND and SENDM takes it of a stale granule of the beat. -/
def Sys2Proof.saysTransferStaleRows : Prop :=
  ∀ (p : Pre) (r k str rnd q off len : Nat) (dx dy : Int) (sat : Bool) (env : Env) (t : Tile) (e : Pend) (cap : Cap),
    t.staleTrap = true →
    let c := ctxOf env e
    let stops : Prop := applyEff env t e = t.trapAny (Tile.own c) c.iss t.tl trapStale
    let spm (a n : Nat) : Prop := ∃ x, a ≤ x ∧ x < a + n ∧ t.spmCur (x / 64) = false
    let src := cap.offs.getD q 0
    let d := cap.d
    let l := (d.cols * d.w + 7) / 8
    (e.own.eng = .M →
      (e.eff = .job (.ldt p r str) cap q → spm src l → stops) ∧ (e.eff = .job (.ldsc p r str) cap q → spm src d.nk → stops) ∧
      (e.eff = .job (.stt p r str sat rnd) cap q → (t.rowCur r q = false ∨ (d.scaleOn = true ∧ d.format ∈ [Fmt.f8a, .f8b, .f4, .ts8] ∧
        ∃ x < d.cols, t.sideCur (d.scaleByte (if d.kaxis then q else x) (if d.kaxis then x else q)) = false)) → stops) ∧
      (e.eff = .job (.tcpy p r k) cap q → t.rowCur k q = false → stops)) ∧
    (e.own.eng = .N → ∀ i ∈ [Instr.send p dx dy str off len, .sendm p dx dy str off len], e.eff = .job i cap q →
      spm (cap.offs.getD 0 0 + 512 * q) (64 * Nat.min 8 (len - 8 * q)) → stops)

/-- R90, R260, R274, R275, R278: SEND and SENDM with their port free, their route inside the pitch and both byte ranges on
granules inside the scratchpads occupy the port for one cycle per eight granules, use the banks of each beat's source in its
cycle, advance their stream at the end of the issue cycle and send their first beat in it. A busy port is SCHEDULE_MISS; a stale
stream in trap mode is STALE_READ; anything else is SCRATCH_BOUNDS. The model's choice: the cursor read is that of streamAhead, the earlier groups of the cycle
counted (notes/assumptions/14.md). -/
def Sys2Proof.saysSends : Prop :=
  ∀ (p : Pre) (dx dy : Int) (str off len : Nat) (s : State) (pit : Pitch) (t : Tile), s.At pit t → s.cur.eng = .N →
    ∀ q ∈ [(Instr.send p dx dy str off len, false), (.sendm p dx dy str off len, true)],
    let c := s.ctxAt pit 2
    let st := t.streamAhead str
    let beats := (len + 7) / 8
    let inside := 0 ≤ (t.x : Int) + dx ∧ (t.x : Int) + dx < pit.img.w ∧ 0 ≤ (t.y : Int) + dy ∧ (t.y : Int) + dy < pit.img.h
    let good := inside ∧ Fits off (64 * len) 64 ∧ Fits st.cur (64 * len) 64
    let trap (code : Nat) := Host.Outcome.next (φ := Fault) (ρ := Refusal) (s.become pit (t.trap c code))
    (t.tl < (t.engOf .N).busyA → exec q.1 s = trap trapMiss) ∧
    ((t.engOf .N).busyA ≤ t.tl → t.staleTrap = true → t.streamStale str = true → exec q.1 s = trap trapStale) ∧
    ((t.engOf .N).busyA ≤ t.tl → (t.staleTrap = false ∨ t.streamStale str = false) →
      (¬ good → exec q.1 s = trap trapBounds) ∧
      (good → exec q.1 s = .next (s.become pit { t.charge c.env 0 1 with
        eng := t.eng.setIfInBounds 4 { t.engOf .N with busyA := t.tl + beats }
        banks := t.banks ++ (List.range beats).flatMap fun b =>
          (Tile.granules (st.cur + 512 * b) (64 * Nat.min 8 (len - 8 * b))).map fun g =>
            ⟨t.tl + b, g % 16, Tile.own c, c.iss⟩
        pend := t.pend ++ c.ends t (p.tail c ++ [.advance str]) ++ c.one t.tl 1 (.job q.1 { offs := [st.cur] } 0) })))

/-- R65, R68, R271: the turn of row q of an STT reads the row, converts every element's value with the instruction's rounding
and saturation, and writes the row's bytes two cycles later in its bank cycle, the upper nibble of a last byte with one F4
element zero. The flags of all rows are ORed in with the last row's bytes. -/
def Sys2Proof.saysStoredRows : Prop :=
  ∀ (p : Pre) (r str rnd q : Nat) (sat : Bool) (env : Env) (t : Tile) (e : Pend) (cap : Cap), e.own.eng = .M →
    t.staleTrap = false → e.eff = .job (.stt p r str sat rnd) cap q →
    let c := ctxOf env e
    let d := cap.d
    let f := (Fmt.ofCode cap.b.fmt).getD .fp32
    let stored (k : Nat) : Nat × Nat := f.round (Rnd.ofCode rnd) sat (t.elemValue d q k (t.gridElem r q k d.w))
    let bytes : List MByte := (((List.range d.cols).flatMap fun k => Tile.elemBytes k f.width (stored k).1) ++
      if f.width = 4 ∧ d.cols % 2 = 1 then Tile.elemBytes d.cols 4 0 else []).map
        fun b => { b with addr := cap.offs.getD q 0 + b.addr }
    let flags := (List.range d.cols).foldl (fun z k => z ||| (stored k).2) cap.flags
    applyEff env t e = { t with pend := t.pend ++ c.one (t.tl + 2) 1 (.spm bytes) ++
      if q + 1 < cap.offs.length then c.one (t.tl + 1) 1 (.job (.stt p r str sat rnd) { cap with flags := flags } (q + 1))
      else if flags = 0 then [] else c.at (t.tl + 2) [.mflags flags] }

/-- R22, R260, R275, R276, R278: the turn of beat b of a SEND or SENDM reads its granules, enters the links of its path or
tree and lands in every destination; each granule lands at R22's arrival cycle, 2 + 4 · (hops toward smaller coordinates) +
16 · (declared seams that those hops cross) local cycles later; the next beat's turn is the next cycle. -/
def Sys2Proof.saysSendBeats : Prop :=
  ∀ (p : Pre) (dx dy : Int) (str off len : Nat) (env : Env) (t : Tile) (e : Pend) (cap : Cap) (b : Nat), e.own.eng = .N →
    t.staleTrap = false → 8 * b < len → 0 ≤ (t.x : Int) + dx → 0 ≤ (t.y : Int) + dy →
    ∀ q ∈ [(Instr.send p dx dy str off len, false), (.sendm p dx dy str off len, true)], e.eff = .job q.1 cap b →
    let c := ctxOf env e
    let n := Nat.min 8 (len - 8 * b)
    let src := cap.offs.getD 0 0 + 512 * b
    let lk := beatLinks env q.2 t.x t.y (t.tl + env.off t.x t.y + 1) dx dy
    let span (d : Int) : List Int := (List.range (d.natAbs + 1)).map fun (i : Nat) => if d < 0 then -(i : Int) else (i : Int)
    let dests : List (Int × Int) := if q.2 then (span dx).flatMap fun i => (span dy).map fun j => (i, j) else [(dx, dy)]
    let crossed (l : List Nat) (x : Nat) (d : Int) : Nat := l.countP fun m => decide ((x : Int) + d < m) && decide (m ≤ x)
    let arr (d : Int × Int) : Nat := t.tl + 2 + 4 * ((-d.1).toNat + (-d.2).toNat) +
      16 * (crossed env.seamC t.x d.1 + crossed env.seamR t.y d.2)
    let cost (code k at_ : Nat) : List Pend := c.one (at_ - env.off t.x t.y) 2 (.charge code k 1)
    applyEff env t e = { t.charge env 1 n with
      out := t.out ++ (lk.1.map fun h => Sig.link h.1 h.2.1 h.2.2.1 h.2.2.2.1 (Tile.own c)) ++
        (lk.2.map fun d => Sig.link d.1 d.2.1 4 d.2.2 (Tile.own c)) ++
        dests.flatMap fun d => (List.range n).map fun k =>
          .word ((t.x : Int) + d.1).toNat ((t.y : Int) + d.2).toNat (arr d) (Tile.own c)
            (.granule (off + 512 * b + 64 * k) ((t.spmBytes (src + 64 * k) 64).map BitVec.toNat))
      pend := t.pend ++
        (lk.1.flatMap fun h => cost 8 n h.2.2.2.1 ++ if h.2.2.2.2 then cost 10 n h.2.2.2.1 else []) ++
        (lk.2.flatMap fun d => cost 1 n d.2.2) ++
        if 8 * (b + 1) < len then c.one (t.tl + 1) 1 (.job q.1 cap (b + 1)) else [] }

/-- R22, R276: the links of a beat. A path takes its hops in the row first and then in the column; hop k enters its link
2 cycles after the one before, 10 where that one crossed a declared seam, and the beat lands one cycle after its last hop.
A tree has the row path and, from each tile of it, the column path, each link once, and lands in every tile of the rectangle.
Where no seam is declared twice, a landing, counted in its destination's local cycles, is R22's arrival. -/
def Sys2Proof.saysLinks : Prop :=
  ∀ (env : Env) (x y p : Nat) (dx dy : Int), 0 ≤ (x : Int) + dx → 0 ≤ (y : Int) + dy →
    let go (a : Nat) (d : Int) (k : Nat) : Nat := if d < 0 then a - k else a + k
    let seam (l : List Nat) (a : Nat) (d : Int) (k : Nat) : Bool := l.contains (if d < 0 then a - k else a + k + 1)
    let hopsTo (l : List Nat) (a : Nat) (d : Int) (at_ k : Nat) : Nat :=
      at_ + 2 * k + 8 * (List.range k).countP fun j => seam l a d j
    let row : List (Nat × Nat × Nat × Nat × Bool) := (List.range dx.natAbs).map fun k =>
      (go x dx k, y, if dx < 0 then 1 else 0, hopsTo env.seamC x dx p k, seam env.seamC x dx k)
    let col (x' p' : Nat) : List (Nat × Nat × Nat × Nat × Bool) := (List.range dy.natAbs).map fun k =>
      (x', go y dy k, if dy < 0 then 3 else 2, hopsTo env.seamR y dy p' k, seam env.seamR y dy k)
    let turn (k : Nat) : Nat := hopsTo env.seamC x dx p k
    (let lk := beatLinks env false x y p dx dy
     lk.1 = row ++ col (go x dx dx.natAbs) (turn dx.natAbs) ∧
      lk.2 = [(go x dx dx.natAbs, go y dy dy.natAbs, hopsTo env.seamR y dy (turn dx.natAbs) dy.natAbs + 1)]) ∧
    (let lk := beatLinks env true x y p dx dy
     lk.1 = row ++ ((List.range (dx.natAbs + 1)).flatMap fun k => col (go x dx k) (turn k)) ∧
      lk.2 = (List.range (dx.natAbs + 1)).flatMap fun k => (List.range (dy.natAbs + 1)).map fun j =>
        (go x dx k, go y dy j, hopsTo env.seamR y dy (turn k) j + 1)) ∧
    (env.seamC.Nodup → env.seamR.Nodup → ∀ tl, p = tl + env.off x y + 1 → ∀ multi,
      ∀ d ∈ (beatLinks env multi x y p dx dy).2,
        d.2.2 = arrival env x y tl ((d.1 : Int) - x) ((d.2.1 : Int) - y) + env.off d.1 d.2.1)

/-- R22, R90, R269 to R276, R278: the turns of rows in the transfer unit and of beats of a SEND or SENDM, with their links, and the
stale reads that they trap. -/
def Obligations.TransferRows : Prop :=
  Sys2Proof.saysTransferRows ∧ Sys2Proof.saysStoredRows ∧ Sys2Proof.saysSendBeats ∧ Sys2Proof.saysLinks ∧
    Sys2Proof.saysTransferStaleRows

/-- R90, R260, R274, R276, R279: SENDL with its port free and its route inside the pitch occupies the port for one cycle and sends
the lanes of its source line, as they stand at issue, as one word over its links, each charged two 64 B units as it is
entered; a busy port is SCHEDULE_MISS, a route out of the pitch SCRATCH_BOUNDS, and a stale descriptor, or a stale row that holds an
element of the line, STALE_READ in trap mode. -/
def Sys2Proof.saysSendLine : Prop :=
  ∀ (p : Pre) (dx dy : Int) (dst src : Nat) (s : State) (pit : Pitch) (t : Tile), s.At pit t → s.cur.eng = .N →
    let c := s.ctxAt pit 2
    let d := t.descOf (fieldTile src)
    let inside := 0 ≤ (t.x : Int) + dx ∧ (t.x : Int) + dx < pit.img.w ∧ 0 ≤ (t.y : Int) + dy ∧ (t.y : Int) + dy < pit.img.h
    let trap (code : Nat) := Host.Outcome.next (φ := Fault) (ρ := Refusal) (s.become pit (t.trap c code))
    let lk := beatLinks c.env false t.x t.y (t.tl + c.env.off t.x t.y + 1) dx dy
    let cost (code at_ : Nat) : List Pend := c.one (at_ - c.env.off t.x t.y) 2 (.charge code 2 1)
    let stale : Prop := t.staleTrap = true ∧ (t.descCur (fieldTile src) = false ∨
      ∃ k < lineLen d src, t.rowCur (fieldTile src) (linePos d src k).1 = false)
    (t.tl < (t.engOf .N).busyA → exec (.sendl p dx dy dst src) s = trap trapMiss) ∧
    ((t.engOf .N).busyA ≤ t.tl →
      (¬ inside → exec (.sendl p dx dy dst src) s = trap trapBounds) ∧
      (inside → stale → exec (.sendl p dx dy dst src) s = trap trapStale) ∧
      (inside → ¬ stale → exec (.sendl p dx dy dst src) s = .next (s.become pit
          { t.charge c.env 0 1 with
            eng := t.eng.setIfInBounds 4 { t.engOf .N with busyA := t.tl + 1 }
            pend := t.pend ++ c.ends t (p.tail c) ++
              lk.1.flatMap fun h => cost 8 h.2.2.2.1 ++ if h.2.2.2.2 then cost 10 h.2.2.2.1 else []
            out := t.out ++ (lk.1.map fun h => Sig.link h.1 h.2.1 h.2.2.1 h.2.2.2.1 (Tile.own c)) ++
              (lk.2.map fun d => Sig.link d.1 d.2.1 4 d.2.2 (Tile.own c)) ++
              [.word ((t.x : Int) + dx).toNat ((t.y : Int) + dy).toNat
                (arrival c.env t.x t.y t.tl dx dy) (Tile.own c)
                (.line dst d.w (t.configured (fieldTile src))
                  ((List.range (lineLen d src)).map (t.lane d src)))] })))

/-- R275, R279: a landing. A granule replaces its 64 bytes and no others. A line is written by the descriptor that stands at
the landing: into a register that is not configured nothing; where both registers are configured and their widths differ,
ILLEGAL_ENCODING in the destination's N and nothing; otherwise element i into lane i, zero bits into the lanes past the
source's. -/
def Sys2Proof.saysLandings : Prop :=
  ∀ (env : Env) (t : Tile) (own : Own) (at_ iss : Nat), t.gen ≠ 0 → t.spm.wf = true → t.grid.wf = true →
    let land (w : PlaneWord) : Tile := applyEff env t ⟨at_, 0, own, iss, .land w⟩
    (∀ (off : Nat) (data : List Nat), off % 64 = 0 → off + 64 ≤ 0xC0000 → data.length = 64 → (∀ b ∈ data, b < 256) →
      ∀ a < 0xC0000, ((land (.granule off data)).spmByte a).toNat =
        if off ≤ a ∧ a < off + 64 then data.getD (a - off) 0 else (t.spmByte a).toNat) ∧
    (∀ (dst w : Nat) (on : Bool) (codes : List Nat),
      let r := fieldTile dst
      let d := t.descOf r
      (t.configured r = false → land (.line dst w on codes) = t) ∧
      (t.configured r = true → on = true → d.w ≠ w → land (.line dst w on codes) =
        t.record { tau := t.tl, eng := .N, code := trapIllegal, info := own.off, off := own.off, word := own.off }) ∧
      (t.configured r = true → r < 16 → 1 ≤ at' 1 t.epoch r → d.illegal = false → (on = true → d.w = w) → (∀ v ∈ codes, v < 2 ^ d.w) →
        let t' := land (.line dst w on codes)
        (∀ k < lineLen d dst, t'.lane d dst k = codes.getD k 0) ∧ t'.spm = t.spm ∧ t'.side = t.side ∧
          t'.desc = t.desc ∧ ∀ k, k ≠ r → ∀ row b, row < 64 → b < 128 → t'.gridByte k row b = t.gridByte k row b))

/-- R90, R260, R274 to R279: SEND, SENDM and SENDL, and landings. The cursor that SEND and SENDM read (notes/assumptions/14.md) is the
model's choice. -/
def Obligations.Sends : Prop := Sys2Proof.saysSends ∧ Sys2Proof.saysSendLine ∧ Sys2Proof.saysLandings

/-- R43, R83, R88, R90, R187, R192, R220: a register or mask result, in its cycle, is what every later read of that register
in its file gives; every other register of the file reads as before, and no other store of the tile changes. -/
def Sys2Proof.saysRegisterResults : Prop :=
  ∀ (env : Env) (t : Tile) (own : Own) (at_ iss r : Nat) (v : Word) (byC : Bool), t.gen ≠ 0 →
    let p (e : Eff) : Pend := ⟨at_, 0, own, iss, e⟩
    let same (t' : Tile) : Prop := t'.s = t.s ∧ t'.desc = t.desc ∧ t'.epoch = t.epoch ∧ t'.spm = t.spm ∧
      t'.spmTag = t.spmTag ∧ t'.grid = t.grid ∧ t'.gridTag = t.gridTag ∧ t'.side = t.side ∧ t'.sideTag = t.sideTag ∧
      t'.sem = t.sem ∧ t'.ring = t.ring ∧ t'.tok = t.tok ∧ t'.vflags = t.vflags ∧ t'.mflags = t.mflags ∧
      t'.trapInfo = t.trapInfo ∧ t'.traps = t.traps ∧ t'.eng = t.eng ∧ t'.gen = t.gen
    (r < 32 →
      let t' := applyEff env t (p (.g r v byC))
      (∀ k, t'.reg .C k = if k = r then v else t.reg .C k) ∧ t'.xr = t.xr ∧ t'.m = t.m ∧ same t') ∧
    (r < 16 →
      let t' := applyEff env t (p (.x r v))
      (∀ k, t'.reg .X k = if k = r then v else t.reg .X k) ∧ t'.g = t.g ∧ t'.m = t.m ∧ same t') ∧
    (r < 8 →
      let t' := applyEff env t (p (.mask r v))
      (∀ k, t'.maskVal k = if k = r then v else t.maskVal k) ∧ t'.g = t.g ∧ t'.xr = t.xr ∧ same t')

/-- A byte after masked writes of a list, in its order, to its address. -/
def Sys2Proof.writtenByte (old : Nat) (l : List MByte) (k : Nat) : Nat :=
  (l.filter fun b => b.addr == k).foldl (fun z b => (z &&& (255 - b.mask)) ||| (b.val &&& b.mask)) old

/-- R90, R91, R99, R204, R215, R225: the memory effects, in their cycle. A C store leaves its 2^sz bytes at its address and
charges one event 1; a C load reads what stands there and gives it to its register at issue + 8, or STALE_READ of a stale
granule in trap mode. Rows of a send, a transfer or a line, scratchpad bytes and side-file bytes take the bits written over
what a read gave, every other byte reads as before; a cancelled row write stores nothing. -/
def Sys2Proof.saysStoresLand : Prop :=
  ∀ (env : Env) (t : Tile) (own : Own) (at_ iss : Nat) (p : Pre) (r ga sz a row : Nat) (off : Int) (v : Word) (sx : Bool)
    (src : GridSrc) (l : List MByte), t.gen ≠ 0 → t.spm.wf = true → t.grid.wf = true → t.side.wf = true → sz < 4 →
    (∀ b ∈ l, b.mask < 256) →
    let pnd (e : Eff) : Pend := ⟨at_, 0, own, iss, e⟩
    let c := ctxOf env (pnd (.goto .C none 0))
    let rest (t' : Tile) : Prop := t'.g = t.g ∧ t'.xr = t.xr ∧ t'.m = t.m ∧ t'.s = t.s ∧ t'.desc = t.desc ∧
      t'.epoch = t.epoch ∧ t'.sem = t.sem ∧ t'.ring = t.ring ∧ t'.tok = t.tok ∧ t'.vflags = t.vflags ∧
      t'.mflags = t.mflags ∧ t'.trapInfo = t.trapInfo ∧ t'.traps = t.traps ∧ t'.eng = t.eng ∧ t'.gen = t.gen ∧ t'.pend = t.pend
    let sameSpm (t' : Tile) : Prop := t'.spm = t.spm ∧ t'.spmTag = t.spmTag
    let sameGrid (t' : Tile) : Prop := t'.grid = t.grid ∧ t'.gridTag = t.gridTag
    let sameSide (t' : Tile) : Prop := t'.side = t.side ∧ t'.sideTag = t.sideTag
    (a % 2 ^ sz = 0 → a + 2 ^ sz ≤ 0xC0000 →
      let t' := applyEff env t (pnd (.access (.st p r ga sz off) a v))
      (∀ k, (t'.spmByte k).toNat =
        if a ≤ k ∧ k < a + 2 ^ sz then v.toNat / 256 ^ (k - a) % 256 else (t.spmByte k).toNat) ∧
      rest t' ∧ sameGrid t' ∧ sameSide t' ∧ t'.acc = (t.charge env 1 1).acc) ∧
    (let n := leNat (t.spmBytes a (2 ^ sz))
     let z : Int := if sx = true ∧ 2 ^ (8 * 2 ^ sz - 1) ≤ n then (n : Int) - 2 ^ (8 * 2 ^ sz) else n
     let t' := applyEff env t (pnd (.access (.ld p r ga sz sx off) a v))
     (t.staleTrap = false ∨ t.spmCur (a / 64) = true →
       t' = { t.charge env 1 1 with pend := t.pend ++ c.at (iss + 8) [.g r (BitVec.ofInt 64 z) true] }) ∧
     (t.staleTrap = true → t.spmCur (a / 64) = false →
       t' = (t.charge env 1 1).trapAny (Tile.own c) iss t.tl trapStale)) ∧
    (let t' := applyEff env t (pnd (.spm l))
     (∀ k, (t'.spmByte k).toNat = writtenByte (t.spmByte k).toNat l k) ∧ rest t' ∧ sameGrid t' ∧ sameSide t') ∧
    ((∀ b ∈ l, b.addr < 4096) → let t' := applyEff env t (pnd (.side l))
     (∀ k, t'.sideByte k = writtenByte (t.sideByte k) l k) ∧ rest t' ∧ sameSpm t' ∧ sameGrid t') ∧
    (let t' := applyEff env t (pnd (.grid r row src l))
     (src ≠ .plane → t.cancelled r iss own.gid = true → t' = t) ∧
     ((src = .plane ∨ t.cancelled r iss own.gid = false) → r < 16 → row < 64 → t.descCur r = true →
       1 ≤ at' 1 t.epoch r → (∀ b ∈ l, b.addr < 128) →
       (∀ r' < 16, ∀ row' < 64, ∀ k < 128, t'.gridByte r' row' k =
         if r' = r ∧ row' = row then writtenByte (t.gridByte r' row' k) l k else t.gridByte r' row' k) ∧
       rest t' ∧ sameSpm t' ∧ sameSide t'))

/-- R43, R83, R88, R90, R91, R99, R187, R192, R204, R215, R220, R225: what results and memory effects leave. -/
def Obligations.ResultsLand : Prop := Sys2Proof.saysRegisterResults ∧ Sys2Proof.saysStoresLand

/-- R16, R95, R215, R269, R309: at the end of a cycle a token put or taken counts one up or down in its queue alone; an
EPOCH increment makes every row of its register stale, and one that would pass 4,095 leaves EPOCH 1 and every row tag 0; a
descriptor written reads back, current; flags are ORed in. -/
def Sys2Proof.saysEndsOfCycle : Prop :=
  ∀ (env : Env) (t : Tile) (own : Own) (at_ iss r : Nat) (d : TDesc) (e : Engine) (b : Bool), t.gen ≠ 0 → r < 16 →
    let p (f : Eff) : Pend := ⟨at_, 2, own, iss, f⟩
    let into := 2 * e.idx + if b then 0 else 1
    (∀ k, at' 0 (applyEff env t (p (.tokTake e b))).tok k =
      if k = into then at' 0 t.tok k - 1 else at' 0 t.tok k) ∧
    (∀ k, at' 0 (applyEff env t (p (.tokPut e b))).tok k =
      if k = (if b then 2 * e.prev.idx + 1 else 2 * e.next.idx) then at' 0 t.tok k + 1 else at' 0 t.tok k) ∧
    (let t' := applyEff env t (p (.tdesc r d))
     t'.descOf r = d ∧ (∀ k, k ≠ r → t'.descOf k = t.descOf k) ∧ t'.epoch = t.epoch) ∧
    ((∀ row < 64, t.gridTag.read (r * 64 + row) ≤ at' 1 t.epoch r) → 1 ≤ at' 1 t.epoch r → at' 1 t.epoch r < 4095 →
      ∀ row < 64, (applyEff env t (p (.epoch r))).rowCur r row = false) ∧
    (4095 ≤ at' 1 t.epoch r → let t' := applyEff env t (p (.epoch r))
     at' 1 t'.epoch r = 1 ∧ ∀ row < 64, t'.gridTag.read (r * 64 + row) = 0 ∧ t'.rowCur r row = false) ∧
    ((applyEff env t (p (.vflags r))).vflags = (t.vflags ||| r) % 32 ∧
      (applyEff env t (p (.mflags r))).mflags = (t.mflags ||| r) % 32)

/-- R84 to R87, R90, R210, R211, R213, R214: at the end of a cycle, the stream registers. An access advances its stream, which is in
use from then on: in LOOP mode by STRIDE0, in SHAPE mode by one index with its carries; a stale stream reads as zero still. That an
access through a stale stream marks it in use too is the model's choice (notes/assumptions/78.md). SCFG writes the fields of
one word, word 0 with CUR = BASE and every index 0, SRST zeros, and both leave the register current; LDEL writes one delta of
one engine. No other stream and no other delta changes. -/
def Sys2Proof.saysStreamEnds : Prop :=
  ∀ (env : Env) (t : Tile) (own : Own) (at_ iss x w : Nat) (v : Word) (e : Engine) (l : Nat) (d : Int), t.gen ≠ 0 → x < 16 →
    l < 4 →
    let p (f : Eff) : Pend := ⟨at_, 2, own, iss, f⟩
    let st := t.streamOf x
    let others (t' : Tile) : Prop := (∀ k, k ≠ x → at' {} t'.s k = at' {} t.s k) ∧ t'.gen = t.gen ∧ t'.eng = t.eng ∧
      t'.desc = t.desc ∧ t'.g = t.g ∧ t'.spm = t.spm ∧ t'.grid = t.grid ∧ t'.tok = t.tok ∧ t'.sem = t.sem
    let carry (k : Nat) : Bool := (List.range k).all fun j => decide (at' 0 st.extent j ≤ at' 0 st.idx j)
    let next (k : Nat) : Nat := if carry k = false then at' 0 st.idx k
      else if at' 0 st.idx k < at' 0 st.extent k then at' 0 st.idx k + 1 else 0
    let wrap (z : Int) : Nat := (z % 2 ^ 20).toNat
    (let t' := applyEff env t (p (.advance x))
     let u := t'.streamOf x
     others t' ∧ (at' {} t'.s x).inUse = true ∧ t'.streamStale x = t.streamStale x ∧
     (t.streamStale x = true → u = {}) ∧
     (t.streamStale x = false →
       u = { st with inUse := true, idx := u.idx, cur := u.cur } ∧
       (st.mode = 0 → u.idx = st.idx ∧ u.cur = wrap ((st.cur : Int) + at' 0 st.stride 0)) ∧
       (st.mode ≠ 0 → (∀ k < 5, at' 0 u.idx k = next k) ∧ u.cur = wrap ((st.base : Int) + next 0 * at' 0 st.stride 0 +
         next 1 * at' 0 st.stride 1 + next 2 * at' 0 st.stride 2 + next 3 * at' 0 st.stride 3 + next 4 * at' 0 st.stride 4)))) ∧
    (let t' := applyEff env t (p (.scfg x w v))
     let u := t'.streamOf x
     let u0 : Stream := { st with tag := t.gen, inUse := w != 0 && (at' {} t.s x).inUse }
     others t' ∧ t'.streamStale x = false ∧
     (w = 0 → u = { u0 with
       base := wfld v 0 20, fmt := wfld v 20 4, mode := wfld v 24 2, scaleA := wfld v 26 3, scaleOn := wfld v 29 1 == 1
       scaleBase := wfld v 32 20, cur := wfld v 0 20, idx := #v[0, 0, 0, 0, 0] }) ∧
     (w = 1 → u = { u0 with scaleStride := wsfld v 0 21 }) ∧
     (w = 2 → u = { u0 with stride := u.stride } ∧ ∀ k < 5, at' 0 u.stride k =
       if k < 3 then wsfld v (21 * k) 21 else at' 0 st.stride k) ∧
     (w = 3 → u = { u0 with stride := u.stride } ∧ ∀ k < 5, at' 0 u.stride k =
       if k < 3 then at' 0 st.stride k else wsfld v (21 * (k - 3)) 21) ∧
     (w = 4 → u = { u0 with extent := u.extent } ∧ ∀ k < 5, at' 0 u.extent k = wfld v (12 * k) 12) ∧
     (w = 5 → u = u0)) ∧
    (let t' := applyEff env t (p (.srst x))
     others t' ∧ t'.streamStale x = false ∧ t'.streamOf x = { tag := t.gen }) ∧
    (let t' := applyEff env t (p (.ldel e.idx l x d))
     t' = { t with eng := t'.eng } ∧ (∀ f, f ≠ e → t'.engOf f = t.engOf f) ∧
     t'.engOf e = { t.engOf e with delta := (t'.engOf e).delta } ∧ ∀ k, at' 0 (t'.engOf e).delta k =
       if k = 16 * l + x then d else at' 0 (t.engOf e).delta k)

/-- R66, R89, R94, R97, R104, R171, R309: SETC writes, ORs or clears VFLAGS, MFLAGS and STALE_MODE and no other register.
GENCLR raises GEN by one, keeps it at 1 after a hard clear, makes whatever carried a tag up to GEN stale, and puts every
semaphore and ring into its reset state; PITCH_GEN, STALE_ARRIVALS, loops, deltas, tokens and control registers stay. -/
def Sys2Proof.saysControlEnds : Prop :=
  ∀ (env : Env) (t : Tile) (own : Own) (at_ iss r row n sub : Nat) (v : Word), t.vflags < 32 → t.mflags < 32 →
    let p (f : Eff) : Pend := ⟨at_, 2, own, iss, f⟩
    let change (old : Nat) : Nat := match sub with
      | 0 => v.toNat
      | 1 => old ||| v.toNat
      | _ => old &&& (2 ^ 64 - 1 - v.toNat)
    (sub < 3 → applyEff env t (p (.csr n sub v)) =
      if n = 0x00A then { t with vflags := change t.vflags % 32 }
      else if n = 0x00B then { t with mflags := change t.mflags % 32 }
      else if n = 0x004 then { t with staleTrap := decide (change (if t.staleTrap then 1 else 0) % 2 = 1) }
      else t) ∧
    (let t' := applyEff env t (p .genclr)
     (t'.gen = if t.cleared then t.gen else t.gen + 1) ∧ t'.cleared = false ∧
     (∀ k < 64, at' {} t'.sem k = {}) ∧ (∀ k < 16, at' {} t'.ring k = {}) ∧
     t'.pitchGen = t.pitchGen ∧ t'.staleArrivals = t.staleArrivals ∧ t'.eng = t.eng ∧ t'.tok = t.tok ∧
     t'.vflags = t.vflags ∧ t'.mflags = t.mflags ∧ t'.staleTrap = t.staleTrap ∧ t'.trapInfo = t.trapInfo ∧
     ((∀ e, (t.regOf e r).tag ≤ t.gen) → ∀ e, t'.regStale e r = true) ∧
     ((at' {} t.m r).tag ≤ t.gen → t'.maskStale r = true) ∧
     ((at' {} t.s r).tag ≤ t.gen → t'.streamStale r = true) ∧
     (at' 0 t.descTag r ≤ t.gen → t'.descCur r = false ∧ t'.rowCur r row = false) ∧
     (t.spmTag.read r ≤ t.gen → t'.spmCur r = false) ∧ (t.sideTag.read (r / 64) ≤ t.gen → t'.sideCur r = false))

/-- R16, R84 to R87, R90, R94, R95, R97, R210 to R215, R269, R309: what takes effect at the end of a cycle. That an access through
a stale stream marks it in use is the model's choice (notes/assumptions/78.md). -/
def Obligations.CycleEndEffects : Prop := Sys2Proof.saysEndsOfCycle ∧ Sys2Proof.saysStreamEnds ∧ Sys2Proof.saysControlEnds

/-- R103, R105 to R107, R109, R448: the operations on one semaphore: what each leaves and answers, and what it refuses, with
the DATA of the refusal as a 64-bit number. -/
def Sys2Proof.saysSemaphore : Prop :=
  ∀ (z : Sem) (n m : Nat) (d : Int) (arrive : Bool),
    (m < n → (Sem.config n m arrive).2 = .trap trapCeiling n) ∧
    (n ≤ m → Sem.config n m arrive = ({ count := n, ceiling := m, arrive := arrive }, .done none)) ∧
    (z.err = true → (z.take n).2 = .trap trapMemory 0 ∧ z.phaseWait n = .trap trapMemory 0) ∧
    (z.err = false →
      (z.ceiling < n → (z.take n).2 = .trap trapCeiling n) ∧
      (n ≤ z.ceiling → z.count < n → (z.take n).2 = .wait) ∧
      (n ≤ z.ceiling → n ≤ z.count → z.take n = ({ z with count := z.count - n }, .done none)) ∧
      z.phaseWait n = if z.phase = n % 256 then .wait else .done none) ∧
    (z.count + n ≤ z.ceiling → z.post n = ({ z with count := z.count + n }, .done none)) ∧
    (z.ceiling < z.count + n → z.post n = (z, .trap trapCeiling ((z.count + n) % 2 ^ 64))) ∧
    (0 ≤ z.count + d → z.count + d ≤ z.ceiling →
      z.fadd d = ({ z with count := (z.count + d).toNat }, .done (some (BitVec.ofNat 64 z.count)))) ∧
    ((z.count + d < 0 ∨ (z.ceiling : Int) < z.count + d) →
      z.fadd d = (z, .trap trapCeiling ((z.count + d) % 2 ^ 64).toNat)) ∧
    (z.count = n → m ≤ z.ceiling → z.cas n m = ({ z with count := m }, .done (some (BitVec.ofNat 64 z.count)))) ∧
    (z.count = n → z.ceiling < m → z.cas n m = (z, .trap trapCeiling m)) ∧
    (z.count ≠ n → z.cas n m = (z, .done (some (BitVec.ofNat 64 z.count)))) ∧
    (z.expValid = false → 2 ^ 32 ≤ n → z.exp n = (z, .trap trapCeiling (n % 2 ^ 64))) ∧
    (z.expValid = true → 2 ^ 32 ≤ z.expect + n → z.exp n = (z, .trap trapCeiling ((z.expect + n) % 2 ^ 64))) ∧
    (z.expValid = false → n < 2 ^ 32 → z.exp n = ({ z with expect := n, expValid := true }, .done none)) ∧
    (z.expValid = true → z.expect + n < 2 ^ 32 → z.exp n = ({ z with expect := z.expect + n }, .done none)) ∧
    (z.complete = if z.arrive = true ∧ z.expValid = true ∧ z.expect ≤ z.count then
      { z with phase := (z.phase + 1) % 256, count := z.count - z.expect, expect := 0, expValid := false } else z)

/-- R110 to R113, R303: the operations on one ring. RCFG checks its base, size and slots, and configures the ring and its two
semaphores. A claim takes 1 of its semaphore and answers the slot; RFIL and RREL post 1; each keeps its index and its claimed
count. On a ring with no slot all but RCFG are SCRATCH_BOUNDS. That a claimed count is kept modulo 512 (notes/assumptions/101.md),
and that RSTAT too is SCRATCH_BOUNDS on a ring with SLOTS 0 (notes/assumptions/6.md), are the model's choices. -/
def Sys2Proof.saysRing : Prop :=
  ∀ (z : SyncState) (k : Nat) (v : Word) (producer : Bool) (w : Nat), k < 16 →
    let base := wfld v 0 20
    let size := wfld v 20 13
    let slots := wfld v 37 9
    let free := wfld v 46 6
    let filled := wfld v 52 6
    let bad := base % 64 ≠ 0 ∨ 0xC0000 < base + slots * size * 64 ∨ slots = 0 ∨ 256 < slots ∨ size = 0 ∨ 4096 < size ∨
      free = filled
    let g := z.r k
    let from' := if producer then g.freeSem else g.filledSem
    let into := if producer then g.filledSem else g.freeSem
    let only (y : SyncState) (q : Nat) : Prop := (∀ j, j ≠ q → y.s j = z.s j) ∧ ∀ j, j ≠ k → y.r j = z.r j
    (bad → z.ringConfig k v = (z, .trap trapBounds 0)) ∧
    (¬ bad → let o := z.ringConfig k v
      o.2 = .done none ∧ o.1.s free = { count := slots, ceiling := slots } ∧ o.1.s filled = { ceiling := slots } ∧
      (∀ j, j ≠ free → j ≠ filled → o.1.s j = z.s j) ∧ (∀ j, j ≠ k → o.1.r j = z.r j) ∧
      o.1.r k = { base := base, slotSize := size, slots := slots, freeSem := free, filledSem := filled }) ∧
    (g.slots = 0 → z.claim k producer = (z, .trap trapBounds 0) ∧ z.give k producer = (z, .trap trapBounds 0) ∧
      z.apply (.ringRead k w) = (z, .trap trapBounds 0)) ∧
    (g.slots ≠ 0 → g.freeSem < 64 → g.filledSem < 64 →
      (∀ c d, ((z.s from').take 1).2 = .trap c d → z.claim k producer = (z, .trap c d)) ∧
      (((z.s from').take 1).2 = .wait → z.claim k producer = (z, .wait)) ∧
      (((z.s from').take 1).2 = .done none → let o := z.claim k producer
        let index := if producer then g.tail else g.head
        o.2 = .done (some (BitVec.ofNat 64 (g.base + index * g.slotSize * 64))) ∧ o.1.s from' = ((z.s from').take 1).1 ∧
        only o.1 from' ∧ o.1.r k = if producer then
            { g with tail := (g.tail + 1) % g.slots, claimedP := (g.claimedP + 1) % 512 }
          else { g with head := (g.head + 1) % g.slots, claimedC := (g.claimedC + 1) % 512 }) ∧
      (∀ c d, ((z.s into).post 1).2 = .trap c d → z.give k producer = (z, .trap c d)) ∧
      (((z.s into).post 1).2 = .done none → let o := z.give k producer
        o.2 = .done none ∧ o.1.s into = ((z.s into).post 1).1 ∧ only o.1 into ∧
        o.1.r k = if producer then { g with claimedP := g.claimedP - 1 } else { g with claimedC := g.claimedC - 1 }) ∧
      z.apply (.ringRead k w) = (z, .done (some (BitVec.ofNat 64 (if w = 0 then
          g.base + g.slotSize * 2 ^ 20 + g.slots * 2 ^ 37 + g.freeSem * 2 ^ 46 + g.filledSem * 2 ^ 52
        else g.head + g.tail * 2 ^ 8 + g.claimedP * 2 ^ 18 + g.claimedC * 2 ^ 27)))))

/-- R108, R297: the operations of a cycle apply in the steps of R108, reads before all; within a step those of C, of the tile's
own X, of other tiles' X in ascending (y, x), of copies, each kind in its order; the completion check lies before the SEXPs.
R107: where the cycle leaves an ARRIVE semaphore above its ceiling, X takes SEM_CEILING with the count as DATA. R37, R108:
where an operation of C fails, the cycle runs as if C's were absent. -/
def Sys2Proof.saysSemaphoreCycle : Prop :=
  let stepOf (o : SemDo) : Nat := match o with
    | .read _ _ | .ringRead _ _ => 0
    | .config _ _ _ _ | .ringConfig _ _ => 1
    | .take _ _ | .phaseWait _ _ | .claim _ _ => 2
    | .exp _ _ => 5
    | _ => 3
  let turns (l : List SemOp) (n : Nat) : List SemOp :=
    let by' (src : SemSrc) : List SemOp := l.filter fun o => stepOf o.op == n && o.src == src
    by' .c ++ by' .x ++ ((List.range 64).flatMap fun y => (List.range 64).flatMap fun x => by' (.remote y x)) ++ by' .copy
  (∀ (z : SyncState) (l : List SemOp), (∀ o ∈ l, ∀ y x, o.src = .remote y x → y < 64 ∧ x < 64) →
    let a := applyOps z (turns l 0 ++ turns l 1 ++ turns l 2 ++ turns l 3)
    let b := applyOps { a.1 with sem := a.1.sem.map Sem.complete } (turns l 5)
    resolveOps z l = (b.1, a.2 ++ b.2)) ∧
  ∀ (env : Env) (t : Tile),
    let whole := resolveOps ⟨t.sem, t.ring⟩ t.semOps
    let fails := ∃ q ∈ whole.2, q.1.src = .c ∧ (q.2 = .wait ∨ ∃ c d, q.2 = .trap c d)
    let rest := resolveOps ⟨t.sem, t.ring⟩ (t.semOps.filter fun o => o.src != .c)
    let t' := semCycle env t
    (¬ fails → t'.sem = whole.1.sem ∧ t'.ring = whole.1.ring) ∧
    (fails → t'.sem = rest.1.sem ∧ t'.ring = rest.1.ring ∧ (t'.engOf .C).halted = true) ∧ t'.semOps = [] ∧
    ∀ k < 64, (at' {} t'.sem k).arrive = true → (at' {} t'.sem k).ceiling < (at' {} t'.sem k).count →
      (t'.engOf .X).halted = true ∧ ∃ q ∈ t'.traps, q.tau = t.tl ∧ q.eng = .X ∧ q.code = trapCeiling ∧
        q.data = (at' {} t'.sem k).count

/-- R103, R105 to R113, R297, R303, R448: semaphores and rings, one operation and one cycle. Claimed counts modulo 512
(notes/assumptions/101.md) and RSTAT of a ring with SLOTS 0 (notes/assumptions/6.md) are the model's choices. -/
def Obligations.SemaphoreOps : Prop := Sys2Proof.saysSemaphore ∧ Sys2Proof.saysRing ∧ Sys2Proof.saysSemaphoreCycle

/-- R106, R108: a cycle of operations keeps the COUNT of every semaphore that is not an ARRIVE semaphore at most its
CEILING, whatever the operations and their sources. -/
def Obligations.CountsStayUnderCeilings : Prop :=
  ∀ (z : SyncState) (l : List SemOp), (∀ k, (z.s k).arrive = false → (z.s k).count ≤ (z.s k).ceiling) →
    ∀ k, ((resolveOps z l).1.s k).arrive = false → ((resolveOps z l).1.s k).count ≤ ((resolveOps z l).1.s k).ceiling

/-- R376, R377: MB_LOCK takes a free lock for an ID other than 0 and 0xFFFF, the owner's MB_UNLOCK frees it, and so does
2 s with BUSY 0 after the last accepted write; PF function level reset frees it and clears the arguments. Anything else leaves
the lock as it is. -/
def Sys2Proof.saysMailboxLock : Prop :=
  ∀ (v : Nat) (s : State),
    let id := v % 2 ^ 16
    let lock (n : Nat) := Host.Outcome.next (φ := Fault) (ρ := Refusal)
      { s with mb := { s.mb with owner := n, last := s.tick } }
    (s.mb.owner = 0 → id ≠ 0 → id ≠ 0xFFFF → exec (.mbLock v) s = lock id) ∧
    ((s.mb.owner ≠ 0 ∨ id = 0 ∨ id = 0xFFFF) → exec (.mbLock v) s = .next s) ∧
    (s.mb.owner ≠ 0 → id = s.mb.owner → exec (.mbUnlock v) s = lock 0) ∧
    ((s.mb.owner = 0 ∨ id ≠ s.mb.owner) → exec (.mbUnlock v) s = .next s) ∧
    (s.mb.owner ≠ 0 → s.mb.busy = false → s.mb.last + 4000000000 ≤ s.tick →
      exec .mbLockTimeout s = .next { s with mb := { s.mb with owner := 0 } }) ∧
    ((s.mb.owner = 0 ∨ s.mb.busy = true ∨ s.tick < s.mb.last + 4000000000) → exec .mbLockTimeout s = .next s) ∧
    exec .pfFlr s = .next { s with mb := { s.mb with owner := 0, args := Vector.replicate 32 0 } }

/-- R5, R379, R393 to R397, R402, R429, R436, R442: registers that hold what their fields admit: PKG while no slice
exists, the receipt ring's enable, interval and head, the mailbox arguments, and of a slice the fault queue, page-table,
shootdown and debug registers and the bases of a chain that is not enabled. -/
def Sys2Proof.saysRegisterWrites : Prop :=
  ∀ (v n k : Nat) (s : State),
    let out (t : State) := Host.Outcome.next (φ := Fault) (ρ := Refusal) t
    let bits (lo w : Nat) : Nat := v / 2 ^ lo % 2 ^ w
    let reg (off : Nat) (f : Slice → Slice) : Prop :=
      exec (.registerWrite (n + 1) 0 off v) s = out (s.onSlice n f)
    let base (c : Chain) : Chain := if c.enable then c else { c with base := bits 6 46 * 64 }
    let records (c : Chain) : Chain := if c.enable then c else { c with recBase := bits 6 46 * 64 }
    (exec (.pkgWrite v) s = out (if s.slices = [] then { s with dev := { s.dev with pkg := bits 0 14 } } else s)) ∧
    (exec (.rcCfgEnable v) s = out { s with rc := { s.rc with
      log2n := bits 0 5, enable := v.testBit 8 && decide (10 ≤ bits 0 5 ∧ bits 0 5 ≤ 20) } }) ∧
    (exec (.rcIntWrite v) s =
      out (if 100 ≤ bits 0 14 ∧ bits 0 14 ≤ 10000 then { s with rc := { s.rc with interval := bits 0 14 } } else s)) ∧
    (exec (.rcHeadWrite v) s = out { s with rc := { s.rc with head := bits 0 32 } }) ∧
    (k < 32 → exec (.registerWrite 0 0 (0x200 + 8 * k) v) s =
      out { s with mb := { s.mb with args := s.mb.args.setIfInBounds k (bits 0 64) } }) ∧
    (exec (.registerWrite 0 0 0x400 v) s =
      out (if s.rc.enable then s else { s with rc := { s.rc with base := bits 8 44 * 256 } })) ∧
    reg 0x400 (fun sl => { sl with fqBase := bits 0 64 }) ∧
    reg 0x408 (fun sl => { sl with fqEnable := v.testBit 8, fqLog2n := bits 0 4 }) ∧
    reg 0x418 (fun sl => { sl with fqHead := bits 0 32 }) ∧ reg 0x500 (fun sl => { sl with ptOff := bits 3 61 * 8 }) ∧
    reg 0x510 (fun sl => { sl with sdVa := bits 12 52 * 4096 }) ∧
    reg 0x520 (fun sl => { sl with sdDone := sl.sdDone && !v.testBit 1 }) ∧
    reg 0x608 (fun sl => { sl with dbgAddr := bits 0 64 }) ∧
    (k < 8 → reg (0x100 + 64 * k) (fun sl => sl.setChain k (base (sl.chain k))) ∧
      reg (0x108 + 64 * k) (fun sl => sl.setChain k (records (sl.chain k))))

/-- R375, R404, R420: an access to a BAR that is not of 8 aligned bytes, or of a function that does not answer, reads 0 and writes
nothing: a VF without its slice, one that is not enabled yet, one of a protected slice whose TDISP interface is not in RUN, and one of
a protected slice through MCTP; and, before the device has booted, any. -/
def Sys2Proof.saysRegisterAccess : Prop :=
  ∀ (s : State) (at_ fn bar off size v : Nat) (mctp : Bool), s.agenda = [] →
    let mute := size ≠ 8 ∨ off % 8 ≠ 0 ∨ s.dev.booted = false ∨ (fn ≠ 0 ∧ ∀ sl, s.slice? (fn - 1) = some sl →
      sl.vf = false ∨ (sl.prot = true ∧ sl.tdisp ≠ .run) ∨ (sl.prot = true ∧ mctp = true))
    let due (i : Input) : Prop := s.inputs.find? (fun q => decide (q.1 ≤ s.tick)) = some (at_, i)
    mute →
    (due (.write fn bar off size v mctp) →
      step s = .next { s with inputs := s.inputs.erase (at_, .write fn bar off size v mctp) }) ∧
    (due (.read fn bar off size mctp) → ∃ n, step s = .next { s with
      inputs := s.inputs.erase (at_, .read fn bar off size mctp), readData := 0, fresh := n })

/-- R5, R375 to R377, R379, R393 to R397, R402, R404, R420, R429, R436, R442: the mailbox lock, the registers that hold a value, and
the accesses that reach no register. -/
def Obligations.DeviceRegisters : Prop :=
  Sys2Proof.saysMailboxLock ∧ Sys2Proof.saysRegisterWrites ∧ Sys2Proof.saysRegisterAccess

/-- A command of `r` is accepted (R377, R418): the device has booted, `r` holds the lock, BUSY is 0, and in recovery the
command is FW_STAGE, code 8. -/
def Sys2Proof.Accepted (s : State) (r code : Nat) : Prop :=
  s.dev.booted = true ∧ r ≠ 0 ∧ r = s.mb.owner ∧ s.mb.busy = false ∧ (s.dev.recovery = false ∨ code = 8)

/-- Argument word `k`. -/
def Sys2Proof.argument (s : State) (k : Nat) : Nat := at' 0 s.mb.args k

/-- BUSY is set, with the code, the RESULT and response that the command will report (R376), the slice that it names and the
time of its acceptance. -/
def Sys2Proof.running (s : State) (code result : Nat) (resp : Option Nat) : Host.Outcome State Fault Refusal :=
  .next { s with mb := { s.mb with
    code := code, busy := true, last := s.tick, next := result, nextResp := resp
    target := argument s 0 % 2 ^ 6, started := s.tick } }

/-- The squares of mask `a` that are not in mask `b`. -/
def Sys2Proof.squaresBut (a b : Nat) : Nat :=
  (List.range 36).foldl (fun z k => if bit a k && !bit b k then z + 2 ^ k else z) 0

/-- R376 to R378, R418: a command that is not accepted changes nothing; an unassigned code is accepted and ends with
BAD_CMD, a slice that does not exist with BAD_ARG, and so does FW_STAGE of an image beyond 32 MiB or of another ACTION.
BAD_ARG for a slice that does not exist (notes/assumptions/53.md), and that a command in recovery or without the lock is
ignored (notes/assumptions/60.md, 61.md), are the model's choices. -/
def Sys2Proof.saysCommandsTurnedAway : Prop :=
  ∀ (r code : Nat) (s : State),
    let id := argument s 0 % 2 ^ 6
    let slice := [(Instr.sliceDestroy r, 2), (.sliceResize r, 3), (.sliceParams r, 4), (.debugGrant r, 5), (.purseSet r, 6),
      (.attest r, 7)]
    let others := [(Instr.sliceCreate r, 1), (.fwStageBoot r, 8), (.fwStageFlash r, 8), (.mbBadCmd r code, code)]
    (∀ q ∈ slice ++ others, ¬ Accepted s r q.2 → exec q.1 s = .next s) ∧
    (∀ q ∈ slice, Accepted s r q.2 → s.slice? id = none → exec q.1 s = running s q.2 2 none) ∧
    (Accepted s r code → exec (.mbBadCmd r code) s = running s code 1 none) ∧
    (Accepted s r 8 → (32 * 2 ^ 20 < argument s 1 ∨ 2 ≤ argument s 2) →
      exec (.fwStageBoot r) s = running s 8 2 none ∧ exec (.fwStageFlash r) s = running s 8 2 none)

/-- R378, R397, R420, R432 to R434: SLICE_PARAMS, DEBUG_GRANT and PURSE_SET of a slice: each word in its range takes
effect, a word of all ones keeps the present value, and a word out of range ends with BAD_ARG; the grant of a protected
slice without ADBG is REFUSED. PURSE_SET clamps L to −B and B and reports it in µJ; a word B of 0 gives 1,000 · P,
a word R of 0 gives B/8. That a locked or running slice's words stay, with REFUSED where they would change
(notes/assumptions/55.md), and how L is rounded (notes/assumptions/84.md), are the model's choices. -/
def Sys2Proof.saysSliceSettings : Prop :=
  ∀ (r : Nat) (s : State) (sl : Slice), s.slice? (argument s 0 % 2 ^ 6) = some sl →
    let a := argument s
    let keep (k : Nat) : Prop := a k = 2 ^ 32 - 1
    let at_ (k old : Nat) : Nat := if a k = 2 ^ 32 - 1 then old else a k
    let okQ := keep 1 ∨ (1 ≤ a 1 ∧ a 1 ≤ 1000)
    let okP := keep 2 ∨ (a 2 % 4 = 0 ∧ a 2 ≤ 96)
    let okG := keep 3 ∨ a 3 ≤ 10000
    let okH := keep 4 ∨ a 4 ≤ 192
    let frozen := sl.tdisp = .locked ∨ sl.tdisp = .run
    (Accepted s r 4 →
      let new : Slice := { sl with
        quantumMs := at_ 1 sl.quantumMs, pinKib := at_ 2 sl.pinKib, graceUs := at_ 3 sl.graceUs
        hamperMib := at_ 4 sl.hamperMib }
      (okQ ∧ okP ∧ okG ∧ okH → ¬ (frozen ∧ new ≠ sl) → exec (.sliceParams r) s = running (s.putSlice new) 4 0 none) ∧
      (okQ ∧ okP ∧ okG ∧ okH → frozen → new ≠ sl → exec (.sliceParams r) s = running s 4 3 none) ∧
      (¬ (okQ ∧ okP ∧ okG ∧ okH) → exec (.sliceParams r) s = running s 4 2 none)) ∧
    (Accepted s r 5 →
      let on := (a 1).testBit 0
      ((on = true ∧ sl.prot = true ∧ sl.adbg = false) → exec (.debugGrant r) s = running s 5 3 none) ∧
      (¬ (on = true ∧ sl.prot = true ∧ sl.adbg = false) →
        exec (.debugGrant r) s = running (s.putSlice { sl with dbgGrant := on }) 5 0 none)) ∧
    (Accepted s r 6 →
      let p := if a 1 = 2 ^ 64 - 1 then sl.purseP else a 1
      let b := if a 2 = 0 then p * 1000 else if a 2 = 2 ^ 64 - 1 then sl.purseB else a 2
      let rr := if a 3 = 0 then b / 8 else if a 3 = 2 ^ 64 - 1 then sl.purseR else a 3
      let action := a 4 % 4
      let w := purseUnits (toSigned 64 (a 5 % 2 ^ 64))
      let l := max (-(purseUnits b)) (min (purseUnits b) (if action = 1 then w else if action = 2 then sl.level + w
        else sl.level))
      let bad := 2 ^ 6 ≤ a 0 ∨ p = 0 ∨ b = 0 ∨ 2 ^ 47 ≤ b ∨ b < rr ∨ action = 3
      let moved := p ≠ sl.purseP ∨ b ≠ sl.purseB ∨ rr ≠ sl.purseR
      (bad → exec (.purseSet r) s = running s 6 2 none) ∧
      (¬ bad → frozen → moved → exec (.purseSet r) s = running s 6 3 none) ∧
      (¬ bad → ¬ (frozen ∧ moved) → ∃ t, exec (.purseSet r) s = running t 6 0 (some (ofSigned 64 (purseMicro l))) ∧
        t.slice? sl.id = some { sl with purseP := p, purseB := b, purseR := rr, level := l,
                                        exhausted := sl.exhausted || decide (l ≤ 0) } ∧
        t.mb = s.mb ∧ t.rc = s.rc ∧ t.dev = s.dev ∧ t.pitches = s.pitches ∧ t.launches = s.launches ∧ t.host = s.host ∧
        t.hbm = s.hbm ∧ t.tick = s.tick))

/-- R376 to R378, R397, R418, R420, R432 to R434: which commands act, and the settings of a slice. -/
def Obligations.SliceSettings : Prop := Sys2Proof.saysCommandsTurnedAway ∧ Sys2Proof.saysSliceSettings

/-- R378, R392, R401 to R406, R418, R444: SLICE_CREATE of well-formed words makes the slice where nothing of it is taken,
or is REFUSED; SLICE_DESTROY stops the slice's chains and ends its launches; SLICE_RESIZE of a slice adds squares at once,
names those that leave and asks the pitches there to freeze, or is REFUSED; ATTEST writes the token where it fits; FW_STAGE
of a good image boots it while no slice exists, from memory or through the flash. The model's choices are the starting step
(notes/assumptions/54.md), REFUSED for a tensor table beyond the capacity of its channels (53.md), PROT and the locked interface
at a resize (55.md), effects at acceptance (58.md), chains that are disabled (59.md) and the words 0 to 19 that are judged
(62.md). -/
def Sys2Proof.saysSliceCommands : Prop :=
  ∀ (r : Nat) (s : State),
    let a := argument s
    let id := a 0 % 2 ^ 6
    (Accepted s r 1 →
      let formed := s.argsOk = true ∧ s.tableArgsOk = true
      let free := s.slice? id = none ∧ s.freeFor id (a 1) s.argPorts s.argChans = true ∧ a 1 ≠ 0 ∧ s.argChans ≠ [] ∧
        s.capsBut id + a 10 % 2 ^ 32 ≤ 3400 ∧ s.slices.foldl (fun z v => z + v.ptSize) 0 + a 15 ≤ 256 * 2 ^ 20 ∧
        hbmTotal (s.hostTensors (a 16) (a 17)) ≤ s.argChans.length * 2 ^ 31 ∧ s.stepFails (List.range 10) = false
      (¬ formed → exec (.sliceCreate r) s = running s 1 2 none) ∧
      (formed → ∀ k, free → s.startStep (a 10 / 2 ^ 32 % 16) = some k →
        exec (.sliceCreate r) s = running
          ({ s with fresh := s.fresh + 1, slices := s.slices ++ [s.newSlice k] }.wakeSquares (a 1)) 1 0 none) ∧
      (formed → (¬ free ∨ s.startStep (a 10 / 2 ^ 32 % 16) = none) → exec (.sliceCreate r) s = running s 1 3 none)) ∧
    (∀ sl, s.slice? id = some sl →
      (Accepted s r 2 → exec (.sliceDestroy r) s = running
        ((s.putSlice { sl with chains := sl.chains.map fun c => { c with enable := false } }).endAll id .ended true) 2 0 none) ∧
      (Accepted s r 3 →
        let formed := s.argsOk = true ∧ s.argChans = sl.chans
        let gone := squaresBut sl.squares (a 1)
        let must := s.onSquares id gone
        let ok := s.freeFor id (a 1) s.argPorts sl.chans = true ∧ a 1 ≠ 0 ∧ s.capsBut id + a 10 % 2 ^ 32 ≤ 3400 ∧
          s.replaceAll { sl with squares := a 1, leaving := 0 } (must.filterMap fun p => s.launch? p.launch)
            (s.occupied id fun p => !must.any fun m => m.id == p.id) = true ∧
          (sl.newStep.elim sl.step Prod.fst ≤ a 10 / 2 ^ 32 % 16 ∨ ∃ j ≤ a 10 / 2 ^ 32 % 16, s.validStep j = true) ∧
          (sl.tdisp = .unlocked ∨ sl.tdisp = .error) ∧ s.stepFails [0, 1, 2, 4] = false
        (¬ formed → exec (.sliceResize r) s = running s 3 2 none) ∧
        (formed → ¬ ok → exec (.sliceResize r) s = running s 3 3 none) ∧
        (formed → ok → exec (.sliceResize r) s = running (((s.putSlice { sl with
            squares := sl.squares ||| a 1, leaving := gone, ports := s.argPorts, prot := (a 0).testBit 8
            adbg := (a 0).testBit 9, cap := a 10 % 2 ^ 32, maxStep := a 10 / 2 ^ 32 % 16
            newStep := s.lowered sl (a 10 / 2 ^ 32 % 16)
            lowered := if sl.newStep.elim sl.step Prod.fst ≤ a 10 / 2 ^ 32 % 16 then sl.lowered else s.tick }).wakeSquares
              (squaresBut (a 1) sl.squares)).later (must.map fun p => .ev (.freezeRequestPost p.id .leave))) 3 0 none)) ∧
      (Accepted s r 7 →
        let tok := s.token sl ((List.range 4).flatMap fun k => leBytes 8 (a (1 + k)))
        (a 6 < tok.length → exec (.attest r) s = running s 7 2 none) ∧
        (tok.length ≤ a 6 → exec (.attest r) s =
          running { s with host := s.host.writeAll (a 5) tok } 7 0 (some tok.length)))) ∧
    (Accepted s r 8 → a 1 ≤ 32 * 2 ^ 20 → a 2 < 2 →
      let f := s.host.readAll (a 0) (a 1)
      ((fwGood f = false ∨ s.slices ≠ []) →
        exec (.fwStageBoot r) s = running s 8 3 none ∧ exec (.fwStageFlash r) s = running s 8 3 none) ∧
      (fwGood f = true → s.slices = [] → exec (.fwStageBoot r) s = .next (s.bootImage f) ∧
        exec (.fwStageFlash r) s = .next { s with dev := { s.dev with flash := some f } }.bootFlash))

/-- R141, R361, R376, R404 to R406: a command completes when the launches of a slice under destruction have ended and owe no
record, or no pitch is left on the squares that leave: its RESULT and response stand, BUSY is 0, the PF's vector 0 is signalled; a new slice's
function answers, a destroyed slice is gone, and a resized one has only its new squares, with no code pinned on the others.
Until then nothing changes. The slice is the one that the command named when it was accepted, whatever the argument words hold
since. That a new slice's function answers from the completion on is the model's choice (notes/assumptions/107.md). -/
def Sys2Proof.saysCommandCompletes : Prop :=
  ∀ s : State,
    let id := s.mb.target
    let ok := s.mb.next = 0
    let leaving := (s.slice? id).elim 0 Slice.leaving
    let waits := ok ∧ ((s.mb.code = 2 ∧ ∃ l ∈ s.launches, l.slice = id ∧ (l.done = false ∨ l.owed ≠ none)) ∨
      (s.mb.code = 3 ∧ ∃ sl, s.slice? id = some sl ∧ s.onSquares id sl.leaving ≠ []))
    let out (t : State) := Host.Outcome.next (φ := Fault) (ρ := Refusal) { t with
      mb := { t.mb with
        busy := false, result := s.mb.next, last := s.tick
        resp := match s.mb.nextResp with
          | some v => t.mb.resp.setIfInBounds 0 v
          | none => t.mb.resp }
      msi := t.msi ++ [(0, 0)] }
    ((s.mb.busy = false ∨ waits) → exec .mbCommandComplete s = .next s) ∧
    (s.mb.busy = true → ¬ waits →
      (ok → s.mb.code = 2 → exec .mbCommandComplete s = out (s.dropSlice id)) ∧
      (ok → s.mb.code = 1 → exec .mbCommandComplete s = out (s.onSlice id fun v => { v with vf := true })) ∧
      (ok → s.mb.code = 3 → exec .mbCommandComplete s = out (State.onSlice
        { s with pins := s.pins.filter fun q => !(tilesOfSquares leaving).contains q.1 } id fun v =>
          { v with squares := squaresBut v.squares v.leaving, leaving := 0 })) ∧
      ((¬ ok ∨ (s.mb.code ≠ 1 ∧ s.mb.code ≠ 2 ∧ s.mb.code ≠ 3)) → exec .mbCommandComplete s = out s)) ∧
    ∀ v ∈ (s.dropSlice id).slices, v.id ≠ id

/-- R403, R405, R407: under a new MAXSTEP a slice keeps its step where that is allowed, and is to go to the highest valid step
at or below it otherwise. -/
def Sys2Proof.saysLoweredStep : Prop :=
  ∀ (s : State) (sl : Slice) (top : Nat),
    let next := sl.newStep.elim sl.step Prod.fst
    (next ≤ top → s.lowered sl top = sl.newStep) ∧
    (top < next → ∀ k at_, s.lowered sl top = some (k, at_) →
      k ≤ top ∧ s.validStep k = true ∧ ∀ j ≤ top, s.validStep j = true → j ≤ k) ∧
    (top < next → (∃ j ≤ top, s.validStep j = true) → s.lowered sl top ≠ none)

/-- R376, R378, R392, R401 to R407, R418, R444: the commands that make, resize and end slices, attest and stage firmware,
and how a command completes. The model's choices among what these say are notes/assumptions/53.md, 54.md, 55.md, 58.md, 59.md, 62.md
and 107.md. -/
def Obligations.SliceCommands : Prop :=
  Sys2Proof.saysSliceCommands ∧ Sys2Proof.saysCommandCompletes ∧ Sys2Proof.saysLoweredStep

/-- R375, R379 to R384: the registers of a chain and what the device reads of it. A TAIL that runs back or beyond the ring
is ignored; ENABLE from 0 to 1 takes LOG2N and LOC and sets DONE and the read position to TAIL, with LOG2N of 4 or more; a
descriptor is read when the chain and the order of placement allow, a bad one ends with status 4, DESCRIPTOR; CH_CANCEL ends a
launch that the device has read. That COND is judged of unused dependence words too (notes/assumptions/45.md), that a ring that
cannot be translated reads as zeros (46.md), and that descriptor i + 1 is read once launch i is placed or done (92.md), are the
model's choices. Which register writes come this far is in `DeviceRegisters`. -/
def Obligations.ChainEvents : Prop :=
  ∀ (n k v : Nat) (s : State) (sl : Slice), s.slice? n = some sl →
    let c := sl.chain k
    let out (t : State) := Host.Outcome.next (φ := Fault) (ρ := Refusal) t
    let put (d : Chain) : State := s.putSlice (sl.setChain k d)
    let size := v % 2 ^ 4
    let loc := v.testBit 7
    let back := 2 ^ 31 < sub32 (v % 2 ^ 32) c.tail ∨ 2 ^ c.log2n < sub32 (v % 2 ^ 32) c.done
    (back → exec (.chTailWrite n k v) s = out s) ∧
    (¬ back → exec (.chTailWrite n k v) s =
      out ((put { c with tail := v % 2 ^ 32 }).later [.ev (.descriptorRead n k)])) ∧
    (c.enable = true → exec (.chainEnable n k v) s = out s ∧
      exec (.chainDisable n k v) s = out (put { c with enable := false })) ∧
    (c.enable = false →
      (size < 4 → exec (.chainEnable n k v) s = out (put { c with log2n := size, loc := loc })) ∧
      (4 ≤ size → exec (.chainEnable n k v) s = out (put { c with
        log2n := size, loc := loc, enable := true, done := c.tail, read := c.tail, recs := [] })) ∧
      exec (.chainDisable n k v) s = out (put { c with log2n := size, loc := loc })) ∧
    ((sl.active = false ∨ s.mayRead n k c = false) → exec (.descriptorRead n k) s = out s) ∧
    (sl.active = true → s.mayRead n k c = true →
      let bytes := s.ringRead sl c.loc (c.base + 64 * (c.read % 2 ^ c.log2n)) 64
      let l : Launch := { id := s.fresh, slice := n, chain := k, index := c.read, since := s.tick
                          desc := Vector.ofFn fun (w : Fin 8) => leNat ((bytes.drop (8 * w.val)).take 8) }
      let s1 := { s with fresh := s.fresh + 1, launches := s.launches ++ [l] }.putSlice
        (sl.setChain k { c with read := (c.read + 1) % 2 ^ 32 })
      exec (.descriptorRead n k) s = out (if l.descOk sl = false then s1.endLaunch l { status := 4 }
        else if l.depsHold sl = true then s1.later [.ev (.launchReady l.id)] else s1)) ∧
    (let read := s.launches.find? fun l => l.slice == n && l.chain == k && l.index == v % 2 ^ 32 && !l.done
     (read = none → exec (.chCancel n k v) s = out s) ∧
     ∀ l, read = some l →
       (l.placed = true → exec (.chCancel n k v) s =
         out ((s.putLaunch { l with ending := true }).later [.ev (.freezeRequestPost l.id .ended)])) ∧
       (l.placed = false → l.hamper = none → exec (.chCancel n k v) s = out (s.endLaunch l { status := 3 })) ∧
       (∀ h, l.placed = false → l.hamper = some h → exec (.chCancel n k v) s = out (s.faultImage { l with ready := false } h
         { status := 3, stale := h.staleSum, energy := h.energyUj })))

/-- R326 to R328, R355, R373, R382, R383: a launch whose dependences hold is loaded once: a checked image makes it ready;
a load that fails, a failing check, or an image that the descriptor does not match ends it with its LOAD record; a translation made
for it is kept and charged to the house in every one of these. A launch that is ready, placed or done, or whose
dependences do not hold, stays as it is. -/
def Obligations.LaunchReadiness : Prop :=
  ∀ (s : State) (l : Launch) (sl : Slice), s.launch? l.id = some l → s.slice? l.slice = some sl →
    let out (t : State) := Host.Outcome.next (φ := Fault) (ρ := Refusal) t
    let goes := l.ready = false ∧ l.placed = false ∧ l.done = false ∧ sl.active = true ∧ l.depsHold sl = true
    let w0 := at' 0 l.desc 0
    let f := s.zfo sl l
    let load := loadZfo s.translations f s.dev.measure (w0 % 2 ^ 6) (w0 / 2 ^ 6 % 2 ^ 6) (w0 / 2 ^ 24 % 2 ^ 8)
      (w0.testBit 15) (s.argWords l)
    let image (i : Image) : List Byte := (((directory f)[i.dir]?).map fun e => e.bytes f).getD []
    let kept (i : Image) : State :=
      if i.block = true ∧ ∀ t ∈ s.translations, ¬ (t.image = image i ∧ t.edition = 1 ∧ t.measure = s.dev.measure) then
        { s with
          translations := translate (image i) s.dev.measure :: s.translations
          rc := { s.rc with translated := s.rc.translated + 1 } }
      else s
    (¬ goes → exec (.launchReady l.id) s = out s) ∧
    (goes →
      (∀ code, load = .failed code → exec (.launchReady l.id) s = out (s.endLaunch l { status := 2, code := code })) ∧
      (∀ i, load = .mismatch i → exec (.launchReady l.id) s = out ((kept i).endLaunch l { status := 2, code := 6 })) ∧
      (∀ i x, load = .check i x → exec (.launchReady l.id) s = out ((kept i).endLaunch l
        { status := 2, code := 5, check := x.code, cycle := x.cycle, party1 := partyWord i x.tile x.eng x.off
          party2 := match x.party with
            | some (k, e, off) => partyWord i k e off
            | none => 0 })) ∧
      ∀ i, load = .loaded i → ∃ t, exec (.launchReady l.id) s = out t ∧
        ((kept i).putLaunch { l with img := some i, ready := true, since := s.tick }).Scheduled t)

/-- R38, R40, R129, R393: XCTL of a tile whose X has stopped on a translation fault: RESUME lets X go on, FATAL registers
the TRANSLATION trap with the fault's address and the group of its copy at the tile's present local cycle, halts X and ends the stop; a tile that has
not stopped stays as it is. The same in a frozen pitch: there FATAL ends the launch with its fault record; that XCTL acts on
the stopped X of a hamper is the model's choice (notes/assumptions/65.md). The report of a
stop goes into the slice's fault queue once, while it has room, and signals vector 1. -/
def Obligations.TranslationFaults : Prop :=
  ∀ (n v pid k : Nat) (s : State),
    let out (t : State) := Host.Outcome.next (φ := Fault) (ρ := Refusal) t
    let go (t : Tile) : Tile := { t with xs := { t.xs with stopped := false, told := false } }
    let trapped (t : Tile) : Tile := { go t with
      traps := t.traps ++ [{ tau := t.tl, eng := .X, code := trapTranslation, wr := t.xs.faultWr, info := t.xs.faultVa
                             data := t.xs.faultVa, off := t.xs.faultOff, word := t.xs.faultOff }]
      trapInfo := trapInfoWord trapTranslation .X t.xs.faultWr t.xs.faultVa
      eng := t.eng.setIfInBounds 1 { t.engOf .X with halted := true } }
    (∀ p j, s.stoppedX n v = some (p, j) →
      exec (.xctlResume n v) s = out (s.onTile p.id j go) ∧ exec (.xctlFatal n v) s = out (s.onTile p.id j trapped)) ∧
    (∀ l p j, s.stoppedX n v = none → s.stoppedHamper n v = some (l, p, j) →
      exec (.xctlResume n v) s = out (s.putLaunch { l with hamper := some (p.onTile j go) }) ∧
      exec (.xctlFatal n v) s = out ((s.onSlice n fun w => { w with faults := w.faults + 1 }).faultImage
        { l with ready := false } (p.onTile j trapped) (p.onTile j trapped).faultRec)) ∧
    (s.stoppedX n v = none → s.stoppedHamper n v = none →
      exec (.xctlResume n v) s = out s ∧ exec (.xctlFatal n v) s = out s) ∧
    ∀ sl t l, s.slice? n = some sl → s.tile? pid k = some t → s.launch? pid = some l →
      let room := t.xs.stopped = true ∧ t.xs.told = false ∧ sl.active = true ∧ sl.fqEnable = true ∧ 4 ≤ sl.fqLog2n ∧ sl.fqLog2n ≤ 12 ∧
        (sl.fqTail + 2 ^ 32 - sl.fqHead) % 2 ^ 32 < 2 ^ sl.fqLog2n
      let w0 := (if t.xs.faultWr then 2 ^ 47 else 0) + t.y * 2 ^ 41 + t.x * 2 ^ 35 + l.chain * 2 ^ 32 + l.index
      let entry := leBytes 8 w0 ++ leBytes 8 t.xs.faultVa ++ List.replicate 16 0
      let host := s.host.writeAll (sl.fqBase + 32 * (sl.fqTail % 2 ^ sl.fqLog2n)) entry
      let told (t : Tile) : Tile := { t with xs := { t.xs with told := true } }
      (¬ room → exec (.faultQueueWrite n pid k) s = out s) ∧
      (room → exec (.faultQueueWrite n pid k) s = out ((({ s with host := host }.onTile pid k told).putSlice
        { sl with fqTail := (sl.fqTail + 1) % 2 ^ 32 }).signal (n + 1) 1))

/-- R394, R395: a page-table write replaces eight bytes and keeps the first old value until a shootdown; a shootdown of 12
to 52 bits drops the entries of its range, waits for the requests that they translated, and then signals vector 2; a tensor
entry's words are staged, and word 3 commits them, or sets TT_STAT[0] where the slice's HBM cannot hold the table. A function
out of RUN signals nothing. Keeping the first old leaf and dropping old leaves at GO (notes/assumptions/64.md), and staged words
that stay after a refused commit (notes/assumptions/63.md), are the model's choices. -/
def Obligations.TableRegisters : Prop :=
  ∀ (n v h w : Nat) (s : State) (sl : Slice), s.slice? n = some sl →
    let out (t : State) := Host.Outcome.next (φ := Fault) (ρ := Refusal) t
    let bits := v % 2 ^ 6
    let hit (e : TlbEnt) : Bool :=
      e.slice == n && !e.dead && decide (e.va < sl.sdVa + 2 ^ bits) && decide (sl.sdVa < e.va + e.size)
    let opens (id : Nat) : Bool := s.copies.any fun c => c.reqs.any fun r => r.tlb.contains id
    let word (k : Nat) : Word := if k = 3 then BitVec.ofNat 64 (entryMask 3 v)
      else match sl.staged.find? fun q => q.1 == h && q.2.1 == k with
        | some q => BitVec.ofNat 64 (entryMask k q.2.2)
        | none => at' 0 (tensorOf sl.tensors h) k
    let entry : Vector Word 4 := #v[word 0, word 1, word 2, word 3]
    let others := sl.tensors.filter fun q => q.1 != h
    let table := if entry = Vector.replicate 4 0 then others else (h, entry) :: others
    let fills := sl.fills.filter fun f => f.handle != h
    (sl.ptSize < sl.ptOff + 8 → exec (.ptDataWrite n v) s = out s) ∧
    (sl.ptOff + 8 ≤ sl.ptSize → exec (.ptDataWrite n v) s = out (s.putSlice { sl with
      pt := sl.pt.writeAll sl.ptOff (leBytes 8 v)
      ptOld := if ∃ q ∈ sl.ptOld, q.1 = sl.ptOff then sl.ptOld
        else (sl.ptOff, leNat (sl.pt.readAll sl.ptOff 8)) :: sl.ptOld })) ∧
    ((sl.sdBusy = true ∨ bits < 12 ∨ 52 < bits) → exec (.shootdownGo n v) s = out s) ∧
    (sl.sdBusy = false → 12 ≤ bits → bits ≤ 52 → exec (.shootdownGo n v) s = out (State.putSlice { s with
        tlb := (s.tlb.filter fun e => !hit e || opens e.id).map fun e => if hit e then { e with dead := true } else e }
      { sl with sdBusy := true, sdSize := bits, ptOld := []
                sdWait := (s.tlb.filter fun e => hit e && opens e.id).map fun e => e.id })) ∧
    ((sl.sdBusy = false ∨ ∃ id ∈ sl.sdWait, opens id = true) → exec (.shootdownDone n) s = out s) ∧
    (sl.sdBusy = true → (∀ id ∈ sl.sdWait, opens id = false) →
      let after := State.putSlice { s with tlb := s.tlb.filter fun e => !(e.slice == n && e.dead) }
        { sl with sdBusy := false, sdDone := true, sdWait := [] }
      exec (.shootdownDone n) s = out (if sl.active = true then after.signal (n + 1) 2 else after)) ∧
    exec (.tensorEntryStage n h w v) s = out (s.onSlice n fun q => { q with
      staged := (h, w, v) :: q.staged.filter fun z => !(z.1 == h && z.2.1 == w) }) ∧
    (sl.capacity < hbmTotal table → exec (.tensorEntryCommit n h v) s =
      out (s.putSlice { sl with ttStat := sl.ttStat ||| 1 })) ∧
    (hbmTotal table ≤ sl.capacity → exec (.tensorEntryCommit n h v) s = out (s.putSlice { sl with
      tensors := table, staged := sl.staged.filter fun q => q.1 != h
      fills := if entWver entry = 0 then fills else { handle := h, all := true } :: fills }))

/-- R98, R106, R375, R396, R397, R420: the host sets or posts to a slice semaphore, a refused post only sets TT_STAT[1]; a
DBG_CTL write starts an access unless one runs or its kind is 3, and keeps its fields alone; it ends at once, with zeros, where
the slice may not debug or names no launch; LOCK_INTERFACE, RUN and ERROR move a protected slice's interface on, ERROR ends its
launches. Debug writes of KIND 2 that are ignored (notes/assumptions/56.md) and NOT_CURRENT after a write
(notes/assumptions/108.md) are the model's choices. -/
def Obligations.SliceRegisters : Prop :=
  ∀ (n k v : Nat) (s : State) (sl : Slice), s.slice? n = some sl →
    let out (t : State) := Host.Outcome.next (φ := Fault) (ρ := Refusal) t
    let old := sl.sem k
    let fields := v / 2 ^ 48 % 2 ^ 16 * 2 ^ 48 + v / 2 ^ 42 % 2 ^ 3 * 2 ^ 42 + v % 2 ^ 32
    let start (q : Slice) : Slice :=
      if q.dbgBusy = true ∨ v / 2 ^ 60 % 4 = 3 then q else { q with dbgCtl := fields, dbgBusy := true }
    let write := sl.dbgCtl / 2 ^ 62 % 4 = 2
    let kind := sl.dbgCtl / 2 ^ 60 % 4
    let x := sl.dbgCtl / 2 ^ 48 % 64
    let y := sl.dbgCtl / 2 ^ 54 % 64
    let may := sl.dbgGrant && (!sl.prot || sl.adbg)
    let finish (z : State) (data : List Byte) (cur : Bool) : State := z.onSlice n fun q =>
      { q with dbgBusy := false, dbgData := if write then q.dbgData else data, dbgNot := !cur }
    let zeros : List Byte := List.replicate 64 0
    let named := s.launches.find? fun l => l.slice == n && l.chain == sl.dbgCtl / 2 ^ 42 % 8 && l.index == sl.dbgCtl % 2 ^ 32
    exec (.sliceSemSet n k v) s = out ((s.putSlice (sl.setSem k
      { count := v % 2 ^ 32, ceiling := v / 2 ^ 32 % 2 ^ 32, arrive := old.arrive })).wake n) ∧
    (old.count + v % 2 ^ 32 ≤ old.ceiling → exec (.sliceSemHostPost n k v) s =
      out ((s.putSlice (sl.setSem k { old with count := old.count + v % 2 ^ 32 })).wake n)) ∧
    (old.ceiling < old.count + v % 2 ^ 32 → exec (.sliceSemHostPost n k v) s =
      out (s.putSlice { sl with ttStat := sl.ttStat ||| 2 })) ∧
    exec (.debugRead n v) s = out (s.onSlice n start) ∧ exec (.debugWrite n v) s = out (s.onSlice n start) ∧
    (sl.dbgBusy = false → exec (.debugAccessDone n) s = out s) ∧
    (sl.dbgBusy = true → (may = false ∨ named = none) → exec (.debugAccessDone n) s = out (finish s zeros false)) ∧
    (∀ l, sl.dbgBusy = true → may = true → named = some l →
      (kind = 2 → l.hamper = none → exec (.debugAccessDone n) s = out (finish s zeros false)) ∧
      (∀ h, kind = 2 → l.hamper = some h → write → exec (.debugAccessDone n) s = out (finish s [] false)) ∧
      (∀ h, kind = 2 → l.hamper = some h → ¬ write → exec (.debugAccessDone n) s = out (finish s
        (fit 64 (((if l.kind = 2 then l.plain else s.hamperPlain l h).drop (sl.dbgAddr / 64 * 64)).take 64)) true)) ∧
      (kind ≠ 2 → s.pitch? l.id = none → exec (.debugAccessDone n) s = out (finish s zeros false)) ∧
      ∀ p, kind ≠ 2 → s.pitch? l.id = some p →
        ((p.img.w ≤ x ∨ p.tiles[y * p.img.w + x]? = none) → exec (.debugAccessDone n) s = out (finish s zeros false)) ∧
        ∀ t, x < p.img.w → p.tiles[y * p.img.w + x]? = some t →
          let wait := t.clearing ≠ none ∨ (kind = 0 ∧ sl.dbgAddr / 64 % 16 ∈ t.banksNow)
          let got := t.debugGet kind sl.dbgAddr
          (wait → exec (.debugAccessDone n) s = out s) ∧
          (¬ wait → write → exec (.debugAccessDone n) s =
            out (finish (s.onTile p.id (y * p.img.w + x) fun t => t.debugPut kind sl.dbgAddr sl.dbgData) [] got.2)) ∧
          (¬ wait → ¬ write → exec (.debugAccessDone n) s = out (finish s got.1 got.2))) ∧
    exec (.tdispLockInterface n) s = out (s.onSlice n fun q =>
      if q.prot = true ∧ q.tdisp = .unlocked then { q with tdisp := .locked } else q) ∧
    (sl.prot = true → sl.tdisp = .locked →
      exec (.tdispRun n) s = out (((s.putSlice { sl with tdisp := .run }).wake n).schedule n)) ∧
    ((sl.prot = false ∨ sl.tdisp ≠ .locked) → exec (.tdispRun n) s = out s) ∧
    (sl.tdisp = .run → exec (.tdispError n) s = out ((s.putSlice { sl with tdisp := .error }).endAll n .tdisp false)) ∧
    (sl.tdisp ≠ .run → exec (.tdispError n) s = out s)

/-- R399, R402, R413, R417 to R419, R424, R436, R443: BOOT keeps the time, the inputs, host memory, HBM and the non-volatile
store, and nothing else. A good image runs: the boot epoch is one more, the census gives the holes and counts the fused ones,
the seams are retrained, the identities follow from the image and receipts start; an image that fails leaves recovery. A
power cut leaves the device off until it boots. Marks of the seams that a reset keeps are the model's choice
(notes/assumptions/67.md). -/
def Sys2Proof.saysBootAndPower : Prop :=
  ∀ s : State,
    let f := s.dev.flash.getD Config.flashImage
    let kept (t : State) : Prop := t = { (State.reset) with
      agenda := [], tick := s.tick, fresh := s.fresh, inputs := s.inputs, host := s.host, hbm := s.hbm, dev := t.dev, rc := t.rc }
    let store (d : Dev) : Prop := d.retired = s.dev.retired ∧ d.sweeps = s.dev.sweeps ∧ d.flash = s.dev.flash ∧
      d.nvDigest = s.dev.nvDigest ∧ d.nvEpoch = s.dev.nvEpoch ∧ d.nvIndex = s.dev.nvIndex ∧ d.pkg = 0 ∧ d.staged = none ∧
      d.repairing = [] ∧ d.laneErrs = []
    let cert := Config.certBody (Config.slhPublic true (expand (hmac Config.uds (sha256 f)) (ascii "EOL-ALIAS")))
    let e := (s.dev.epoch + 1) % 2 ^ 32
    (∃ t, exec .boot s = .next t ∧ kept t ∧ store t.dev ∧ t.dev.powered = true ∧ t.dev.booted = true ∧
      (fwGood f = false → t.dev.recovery = true ∧ t.dev.epoch = s.dev.epoch ∧ t.dev.seams = s.dev.seams ∧ t.rc = {} ∧
        t.dev.fused = Config.fusedHoles.length ∧ ∀ k, k ∈ t.dev.holes ↔ k ∈ Config.fusedHoles ∨ k ∈ s.dev.retired) ∧
      (fwGood f = true → t.dev.recovery = false ∧ t.dev.epoch = e ∧ t.dev.svn = Config.fwSvn f % 2 ^ 32 ∧
        t.dev.fwver = Config.fwVersion f % 2 ^ 32 ∧ t.dev.measure = sha256 f ∧ t.dev.cdi = hmac Config.uds (sha256 f) ∧
        t.dev.aliasCert = cert ++ Config.slhSign true (expand Config.uds (ascii "EOL-DEVICEID")) cert ∧
        t.dev.fused = ((List.range 2304).filter fun k => decide (k ∈ Config.fusedHoles) || Config.censusHole e k).length ∧
        (∀ k < 2304, k ∈ t.dev.holes ↔ k ∈ Config.fusedHoles ∨ Config.censusHole e k = true ∨ k ∈ s.dev.retired) ∧
        (∀ b < 4, at' 0 t.dev.seams b =
          if 2 ≤ at' 0 s.dev.seams b ∧ Config.trains e b = true then 0 else at' 0 s.dev.seams b) ∧
        t.rc = { start := s.tick, prevDigest := s.dev.nvDigest, prevEpoch := s.dev.nvEpoch, prevIndex := s.dev.nvIndex })) ∧
    ∃ t, exec .powerCut s = .next t ∧ kept t ∧ store t.dev ∧ t.dev.powered = false ∧ t.dev.booted = false ∧
      t.dev.epoch = s.dev.epoch ∧ t.dev.seams = s.dev.seams ∧ t.rc = {}

/-- R96, R399, R400: a corrected error counts, and the sixteenth in 24 hours retires the tile; an uncorrectable one retires
it at once, and in a live item registers MEMORY_ERROR there first. A retired tile is a hole, and a pitch on it is asked to
freeze. That MEMORY_ERROR names C of the tile is the model's choice (notes/assumptions/66.md). -/
def Sys2Proof.saysTileRetirement : Prop :=
  ∀ (k : Nat) (live : Bool) (s : State),
    let out (t : State) := Host.Outcome.next (φ := Fault) (ρ := Refusal) t
    let old := s.physOf k
    let errs := s.tick :: old.errs.filter fun n => decide (s.tick < n + 24 * 3600 * 1000 * 2000000)
    let s1 := s.putPhys k { old with errs := errs }
    let retired (z : State) : State := if k ∈ z.dev.retired then z else
      { z with
        dev := { z.dev with retired := k :: z.dev.retired, holes := if k ∈ z.dev.holes then z.dev.holes else k :: z.dev.holes }
        agenda := z.agenda ++ (z.pitches.filter fun p => p.physAll.contains k).map fun p => .ev (.freezeRequestPost p.id .retire) }
    (errs.length < 16 → exec (.sramCorrectedError k) s = out s1) ∧
    (16 ≤ errs.length → exec (.sramCorrectedError k) s = out (retired s1)) ∧
    ((live = false ∨ s.atPhys k = none) → exec (.sramUncorrectableError k live) s = out (retired s)) ∧
    ∀ p j, live = true → s.atPhys k = some (p, j) →
      let t := p.tiles.getD j {}
      exec (.sramUncorrectableError k live) s =
        out (retired (s.putPitch (p.trapIn j t.tl trapMemory (t.engOf .C).pc)))

/-- R96, R399, R400, R402, R413, R417 to R419, R424, R436, R443: boot, loss of power and retired tiles. -/
def Obligations.BootAndErrors : Prop := Sys2Proof.saysBootAndPower ∧ Sys2Proof.saysTileRetirement

/-- R402, R407, R409: the power-cap controller decides, for every slice, a lower valid step where its power is above its cap
or a square is at 100 °C, a higher one only under all the conditions of R409, effective at the first 100 µs boundary at
least 200 µs on; a change that is pending and goes at least as low stands; a step that is due changes the clock after a stop of at
most 20 µs. Nothing else changes. -/
def Obligations.ClockSteps : Prop :=
  ∀ s : State,
    let ms := s.tick / 2000000
    let due := (s.tick + 600000 - 1) / 200000 * 200000
    let power (sl : Slice) : Nat := (squaresOf sl.squares).foldl (fun z q => z + Config.sqPower q ms) 0
    let hot (sl : Slice) : Bool := (squaresOf sl.squares).any fun q => decide (100 ≤ Config.sqTemp q ms)
    let stays (sl : Slice) : Bool := hot sl || (sl.hot && (squaresOf sl.squares).any fun q => decide (95 ≤ Config.sqTemp q ms))
    let scaled (p k : Nat) : Nat := p * stepMhz k * Config.stepMv k ^ 2
    let aim (sl : Slice) (k : Nat) : Option (Nat × Nat) := match sl.newStep with
      | some (j, at_) => if j ≤ k then some (j, at_) else some (k, due)
      | none => some (k, due)
    ∃ (f g : Slice → Slice) (stop : Nat), exec .powerCapTick s = .next { s with slices := s.slices.map f } ∧
      exec .stepChange s = .next { s with fresh := s.fresh + 1, slices := s.slices.map g } ∧ stop ≤ 40000 ∧
      ∀ sl,
        ((1000 * sl.cap < power sl ∨ hot sl = true) → ∀ k, s.stepBelow sl.step = some k →
          f sl = { sl with hot := stays sl, newStep := aim sl k, lowered := s.tick }) ∧
        ((1000 * sl.cap < power sl ∨ hot sl = true) → s.stepBelow sl.step = none → f sl = { sl with hot := stays sl }) ∧
        (power sl ≤ 1000 * sl.cap → hot sl = false → ∀ k, s.stepAbove sl.step = some k →
          let up := k ≤ sl.maxStep ∧ (sl.lowered = 0 ∨ sl.lowered + 8000000 ≤ s.tick) ∧ stays sl = false ∧
            100 * scaled (power sl) k ≤ 95 * scaled (1000 * sl.cap) sl.step
          (up → f sl = { sl with hot := stays sl, newStep := aim sl k }) ∧
          (¬ up → f sl = { sl with hot := stays sl })) ∧
        (power sl ≤ 1000 * sl.cap → hot sl = false → s.stepAbove sl.step = none → f sl = { sl with hot := stays sl }) ∧
        (∀ k n, sl.newStep = some (k, n) → n ≤ s.tick →
          g sl = { sl with step := k, newStep := none, clockStop := s.tick + stop }) ∧
        ((∀ k n, sl.newStep = some (k, n) → s.tick < n) → g sl = sl)

/-- R427, R430 to R433: charges reach the till: the slice's energies grow by what its tiles held, its level falls by the
sum, and the tiles hold nothing more. A debit that leaves the level at 0 or below makes the slice exhausted, and when it becomes so
every running pitch of the slice is asked to freeze. In every half nanosecond the level rises by P mW times that, up to B. A shared cost is divided exactly, each share rounded down and the rest to the idle
account; a millisecond accounts for every slice and for the house: the energy of squares and the refresh of channels that no
slice owns, and what slices are billed of the base dies'; a slice whose level has reached R is no longer exhausted. What of
the base dies' energy no field explains is the house's by the model's choice (notes/assumptions/109.md). -/
def Sys2Proof.saysTillAccounting : Prop :=
  ∀ s : State,
    (∀ p sl, s.pitch? p.id = some p → s.slice? p.slice = some sl →
      let held (m : Nat) : Nat := p.tiles.foldl (fun z t => z + at' 0 t.unsent m) 0
      let j : Int := ((List.range 7).foldl (fun z m => z + held m) 0 : Nat)
      let b := purseUnits sl.purseB
      ∃ t v q, exec (.chargeArrival p.id) s = .next t ∧ t.slice? p.slice = some v ∧ t.pitch? p.id = some q ∧
        (∀ m < 7, at' 0 v.energy m = at' 0 sl.energy m + held m) ∧ (∀ m, 7 ≤ m → at' 0 v.energy m = at' 0 sl.energy m) ∧
        v.level = max (-b) (min b (sl.level - j * 5 ^ 12)) ∧
        (v.exhausted = true ↔ sl.exhausted = true ∨ (0 < j ∧ v.level ≤ 0)) ∧
        t.agenda = s.agenda ++ (if sl.exhausted = false ∧ v.exhausted = true then
          (t.pitches.filter fun r => r.slice == p.slice).map fun r => .ev (.freezeRequestPost r.id .purse) else []) ∧
        q = { p with tiles := p.tiles.map fun t => { t with unsent := Vector.replicate 7 0 } } ∧
        t.rc = { s.rc with billed := s.rc.billed + (held 4 + held 5 + held 6) } ∧
        t.mb = s.mb ∧ t.dev = s.dev ∧ t.host = s.host ∧ t.hbm = s.hbm ∧ t.launches = s.launches ∧
        t.copies = s.copies) ∧
    (s.agenda = [] → (∀ q ∈ s.inputs, s.tick < q.1) → s.dev.booted = true → ∃ t, step s = .next t ∧
      ∀ n sl, s.slice? n = some sl → ∃ v, t.slice? n = some v ∧ v.purseP = sl.purseP ∧ v.purseB = sl.purseB ∧
        v.exhausted = sl.exhausted ∧ v.level = min (purseUnits sl.purseB) (sl.level + sl.purseP * 2 ^ 35)) ∧
    (∀ z : Int, purseUnits z = z * (2 ^ 42 * 5 ^ 6) ∧ purseMicro z = z / (2 ^ 42 * 5 ^ 6)) ∧
    (∀ (cost : Int) (w : List (Nat × Nat)) (den : Nat),
      ((splitCost cost w den).map fun q => q.2).sum = cost ∧
      ∀ q ∈ w, 0 < den → (q.1, cost * q.2 / den) ∈ splitCost cost w den) ∧
    (∃ t, exec .tillMsAccounting s = .next t ∧ t.slices = s.flushAll.slices.map (fun v => v.account s.dev.epoch s.tick) ∧
      t.rc = s.flushAll.houseMs (s.tick / 2000000) ∧ t.mb = s.mb ∧ t.dev = s.dev ∧ t.host = s.host ∧ t.hbm = s.hbm ∧ t.launches = s.launches ∧
      t.copies = s.copies) ∧
    (∀ ms,
      let owned (q : Nat) : Prop := ∃ v ∈ s.slices, v.squares.testBit q = true
      let taken (n : Nat) : Prop := ∃ v ∈ s.slices, n ∈ v.chans
      let rc := s.houseMs ms
      ((∀ q < 36, owned q) → rc.unowned = s.rc.unowned) ∧
      (∀ q < 36, ¬ owned q → (∀ p < 36, p ≠ q → owned p) → rc.unowned = s.rc.unowned + Config.sqEnergy q ms) ∧
      ((∀ n < 384, taken n) → rc.idleChans = s.rc.idleChans) ∧
      (∀ n < 384, ¬ taken n → (∀ p < 384, p ≠ n → taken p) →
        rc.idleChans = s.rc.idleChans + Config.refreshes n ms * Config.calEntry s.dev.epoch 1 n 3 15)) ∧
    ∃ t, exec .purseResumeThreshold s = .next t ∧ State.Scheduled { s with slices := s.slices.map fun v =>
      if (v.exhausted = true ∧ purseUnits v.purseR ≤ v.level) then { v with exhausted := false } else v } t

/-- R436 to R443: the end of an interval leaves one batch: the interval record, a receipt of every slice that existed in it in
SLICE_ID order, the house record and the signature, and its record's digest is in the non-volatile store; at most 16 are
held, the oldest is lost. A batch leaves for the ring when it has room. -/
def Sys2Proof.saysReceiptDelivery : Prop :=
  ∀ s : State,
    (let z := s.flushAll
     let all := sortOn (fun (q : Nat × List Byte) => q.1) (s.rc.finals ++ z.slices.map fun v => (v.id, z.receipt v false))
     let receipts := all.map fun q => q.2
     let leaves := receipts ++ [z.houseRecord receipts]
     let record := z.intervalRecord leaves
     let batch := record ++ leaves.flatten ++ fit 17152 (fit 17088 (Config.slhSign false z.receiptSeed record))
     let held := s.rc.held ++ [batch]
     ∃ t, exec .receiptIntervalEnd s = .next t ∧
       t.rc = { s.rc with
         held := if 16 < held.length then held.tail else held
         lost := if 16 < held.length then (s.rc.lost + 1) % 2 ^ 32 else s.rc.lost
         finals := [], translated := 0, billed := 0, unowned := 0, idleChans := 0, sweeps := 0, clears := 0
         index := s.rc.index + 1, start := s.tick, running := s.rc.interval
         prevDigest := sha256 record, prevEpoch := s.dev.epoch, prevIndex := s.rc.index } ∧
       t.slices = z.slices.map (fun v => { v with
         prev := sha256 (z.receipt v false), first := false, energy0 := v.energy, cycOwned := 0, cycActive := 0
         hbm := Vector.replicate 5 0, flits := 0, freezes := 0, preempt := 0, faults := 0 }) ∧
       t.dev = { s.dev with nvDigest := sha256 record, nvEpoch := s.dev.epoch, nvIndex := s.rc.index } ∧
       t.mb = s.mb ∧ t.host = s.host ∧ t.hbm = s.hbm ∧ t.launches = s.launches ∧ t.copies = s.copies) ∧
    (s.rc.held = [] → exec .receiptBatchRelease s = .next s) ∧
    ∀ b rest, s.rc.held = b :: rest →
      let n := b.length / 256
      let size := 2 ^ s.rc.log2n
      let room := s.rc.enable = true ∧ sub32 s.rc.tail s.rc.head + n ≤ size
      (¬ room → exec .receiptBatchRelease s = .next s) ∧
      (room → exec .receiptBatchRelease s = .next { s with
        host := (List.range n).foldl (fun (h : Mem) i =>
          h.writeAll (s.rc.base + 256 * ((s.rc.tail + i) % size)) ((b.drop (256 * i)).take 256)) s.host
        rc := { s.rc with held := rest, tail := (s.rc.tail + n) % 2 ^ 32 } })

/-- R427, R430 to R433, R436 to R443: the till, purses and receipts. -/
def Obligations.TillAndReceipts : Prop := Sys2Proof.saysTillAccounting ∧ Sys2Proof.saysReceiptDelivery

/-- R3, R414 to R416: a flit of 256 bytes at a port that is up: one whose tag is not that of AES-256-GCM under its slot's key,
salt and counter is answered with a negative acknowledgement of its SEQ; one out of order or of TYPE 6 to 255 is dropped. The
expected one advances SEQ and its slot's counter: a key marker retires the slot, an acknowledgement frees the oldest flits of
the replay buffer, and what another package sends to this one is delivered. Under which counters a flit out of order is
judged, and how many flits an acknowledgement frees, are the model's choices (notes/assumptions/69.md). -/
def Sys2Proof.saysFlitReceive : Prop :=
  ∀ (n : Nat) (flit : List Nat) (s : State),
    let out (t : State) := Host.Outcome.next (φ := Fault) (ρ := Refusal) t
    let v := s.port n
    let bytes : List Byte := flit.map fun b => BitVec.ofNat 8 b
    let h := leNat (bytes.take 8)
    let ty := h / 2 ^ 56 % 2 ^ 8
    let slot := h / 2 ^ 55 % 2
    let seq := h % 2 ^ 32
    let k := slotAt v.rx slot
    let tag (m : Nat) : List Byte :=
      gcmTag (leBytes 32 k.key) (leBytes 4 k.salt ++ leBytes 8 m) (bytes.take 8) ((bytes.drop 8).take 232)
    let opens := k.valid = true ∧ ∃ m ∈ v.counters slot seq, bytes.drop 240 = tag m
    let text := gcmText (leBytes 32 k.key) (leBytes 4 k.salt ++ leBytes 8 k.counter) ((bytes.drop 8).take 232)
    let got : Port := { v with
      expect := (v.expect + 1) % 2 ^ 32, rx := v.rx.setIfInBounds slot { k with counter := k.counter + 1 } }
    let inbox : List (Nat × List Byte) := if h / 2 ^ 34 % 2 ^ 14 = s.dev.pkg then v.inbox ++ [(ty, text)] else v.inbox
    let does (u : Port) : Prop := exec (.fabricFlitReceive n flit) s = out (s.putPort n u)
    (v.expect < 2 ^ 32 → seq = v.expect → v.counters slot seq = [k.counter]) ∧
    ((v.down = true ∨ flit.length ≠ 256) → exec (.fabricFlitReceive n flit) s = out s) ∧
    (v.down = false → flit.length = 256 →
      (¬ opens → does { v with nacks := v.nacks ++ [seq] }) ∧
      (opens → (seq ≠ v.expect ∨ 5 < ty) → exec (.fabricFlitReceive n flit) s = out s) ∧
      (opens → seq = v.expect →
        (ty < 2 → does { got with inbox := inbox }) ∧
        (ty = 2 → ∃ a, does { got with inbox := inbox, replay := v.replay.drop a }) ∧
        (ty = 3 → does
          { got with rxSlot := 1 - slot, rx := got.rx.setIfInBounds slot { slotAt got.rx slot with valid := false } }) ∧
        ((ty = 4 ∨ ty = 5) → does got)))

/-- R3, R414, R415: a new flit is 256 bytes: the header, the payload encrypted under the live slot's key, salt and counter, and
the tag of both; SEQ and the counter go on by one. The payload is the model's free value (notes/assumptions/69.md). No slot
encrypts at a counter of 2^40 or above. -/
def Sys2Proof.saysFlitSend : Prop :=
  ∀ (v : Port) (ty dpkg : Nat),
    let k := slotAt v.tx v.txSlot
    let iv := leBytes 4 k.salt ++ leBytes 8 k.counter
    let header := leBytes 8 (ty * 2 ^ 56 + v.txSlot * 2 ^ 55 + dpkg * 2 ^ 34 + v.seq)
    (∃ payload : List Byte, payload.length = 232 ∧
      let text := gcmText (leBytes 32 k.key) iv payload
      v.emit ty dpkg = { v with
        tx := v.tx.setIfInBounds v.txSlot { k with counter := k.counter + 1 }
        seq := (v.seq + 1) % 2 ^ 32, flits := v.flits + 1
        replay := (v.replay.filter fun f => f.seq != v.seq) ++
          [{ seq := v.seq, ty := ty, dpkg := dpkg, slot := v.txSlot, counter := k.counter
             wire := header ++ text ++ gcmTag (leBytes 32 k.key) iv header text }] }) ∧
    ((∀ i < 2, (slotAt v.tx i).counter < 2 ^ 40) → ∀ f ∈ (v.send ty dpkg).replay, f ∈ v.replay ∨ f.counter < 2 ^ 40)

/-- R416: a negative acknowledgement sends the named flit and all later ones again, unchanged, while fewer than eight resends
of it have failed; after the eighth the link retrains, or the port is down and its copies lose their data. One
that names no flit of the replay buffer changes nothing. -/
def Sys2Proof.saysNackReceive : Prop :=
  ∀ (n seq : Nat) (s : State),
    let out (t : State) := Host.Outcome.next (φ := Fault) (ρ := Refusal) t
    let v := s.port n
    ((∀ f ∈ v.replay, f.seq ≠ seq) → exec (.fabricNackReceive n seq) s = out s) ∧
    ∀ f, v.replay.find? (fun g => g.seq == seq) = some f →
      let again := (v.replay.dropWhile fun g => g.seq != seq).map fun g =>
        if g.seq = seq then { g with fails := g.fails + 1 } else g
      (f.fails < 8 → exec (.fabricNackReceive n seq) s =
        out (s.putPort n { v with replay := again, flits := v.flits + again.length })) ∧
      (8 ≤ f.fails → Config.retrains n s.tick = true → exec (.fabricNackReceive n seq) s =
        out (s.putPort n { v with replay := again.map (fun g => { g with fails := 0 }), flits := v.flits + again.length })) ∧
      (8 ≤ f.fails → Config.retrains n s.tick = false → exec (.fabricNackReceive n seq) s =
        out ((s.putPort n { v with down := true, replay := again }).loseCopies fun c _ => s.usesPort n c))

/-- R415: in each direction a new key is installed in the idle slot, once its live counter has reached 2^39, and an installed key that
waits is not replaced; a direction without a live key takes it up at once. The transmitter goes over to an installed key by a marker
flit under the old slot, which takes no more flits: at 2^40 − 1 it must. That one installation serves every direction that is due,
and that the transmitter may go over earlier, at a free time, are the model's choices (notes/assumptions/69.md). -/
def Sys2Proof.saysKeyRotation : Prop :=
  ∀ (n key salt : Nat) (s : State),
    let out (t : State) := Host.Outcome.next (φ := Fault) (ρ := Refusal) t
    let v := s.port n
    let live := slotAt v.tx v.txSlot
    let other := slotAt v.tx (1 - v.txSlot)
    let hears := slotAt v.rx v.rxSlot
    let sends : Prop := live.valid = false ∨ (2 ^ 39 ≤ live.counter ∧ other.valid = false)
    let takes : Prop := hears.valid = false ∨ (2 ^ 39 ≤ hears.counter ∧ (slotAt v.rx (1 - v.rxSlot)).valid = false)
    let new : KeySlot := { key := key, salt := salt, counter := 0, valid := true }
    let tx := if sends then v.tx.setIfInBounds (1 - v.txSlot) new else v.tx
    let rx := if takes then v.rx.setIfInBounds (1 - v.rxSlot) new else v.rx
    let both : Port := { v with
      tx := tx, txSlot := if live.valid then v.txSlot else 1 - v.txSlot
      rx := rx, rxSlot := if hears.valid then v.rxSlot else 1 - v.rxSlot }
    let ready := v.down = false ∧ live.valid = true ∧ other.valid = true
    (¬ sends → ¬ takes → exec (.fabricKeyRotation n key salt) s = out s) ∧
    (¬ sends → takes → exec (.fabricKeyRotation n key salt) s = out (s.putPort n both)) ∧
    (sends → v.queue = [] → exec (.fabricKeyRotation n key salt) s = out (s.putPort n both)) ∧
    (sends → ∃ u, exec (.fabricKeyRotation n key salt) s = out (s.putPort n u) ∧ u.rx = both.rx ∧ u.rxSlot = both.rxSlot ∧
      u.expect = v.expect ∧ u.nacks = v.nacks ∧ u.down = v.down ∧ u.inbox = v.inbox) ∧
    (v.settled = v ∨ (ready ∧ v.settled = v.switch)) ∧
    (ready → 2 ^ 40 - 1 ≤ live.counter → v.settled = v.switch) ∧
    (v.txSlot < 2 → (v.switch).txSlot = 1 - v.txSlot ∧ slotAt (v.switch).tx v.txSlot =
        { live with counter := live.counter + 1, valid := false } ∧ slotAt (v.switch).tx (1 - v.txSlot) = other ∧
      ∃ w, (v.switch).replay = (v.replay.filter fun f => f.seq != v.seq) ++
        [{ seq := v.seq, ty := 3, dpkg := 0, slot := v.txSlot, counter := live.counter, wire := w }])

/-- R3, R414 to R416: the flits, negative acknowledgements and key rotations of a fabric port. -/
def Obligations.FabricLinks : Prop :=
  Sys2Proof.saysFlitReceive ∧ Sys2Proof.saysFlitSend ∧ Sys2Proof.saysNackReceive ∧ Sys2Proof.saysKeyRotation

/-- R410 to R413, R421, R422: a lane threshold asks the pitches across the boundary to freeze, and its repair waits for them:
then each lane goes to its spare, or the boundary is derated. A crossing that is down is remembered, and with all 24 down the
boundary has failed and requests that cannot cross are lost. A lost word of the stream plane registers SEAM in the cycle it
should land. A sweep chunk of a released channel is wiped, but for lines of keys in use. That a SEAM_FAULT names N of the
destination (notes/assumptions/66.md), which requests a failed boundary cuts off (68.md), that a swept line reads as zeros
(2.md), and that a chunk is charged at the nominal step 3 (109.md) are the model's choices. -/
def Obligations.SeamsAndSweep : Prop :=
  ∀ (b c pid k at_ : Nat) (plane : Bool) (s : State),
    let out (t : State) := Host.Outcome.next (φ := Fault) (ρ := Refusal) t
    let spans (p : Pitch) : Bool := (p.img.spans p.physAll).any fun q => q.1 == b
    let mine := s.dev.repairing.filter fun q => q.1 == b
    let waits := ∃ p ∈ s.pitches, spans p = true ∧ FreezeWhy.seam b ∈ p.reqs
    let lane (d : Dev) (key : Nat) : Dev :=
      if key ∈ d.spares then { d with seams := d.seams.setIfInBounds b (max 2 (at' 0 d.seams b)) }
      else { d with spares := key :: d.spares, seams := d.seams.setIfInBounds b (max 1 (at' 0 d.seams b)) }
    let d := mine.foldl (fun z q => lane z q.2) s.dev
    let down := if 24 * b + c ∈ s.dev.crossDown then s.dev.crossDown else (24 * b + c) :: s.dev.crossDown
    let lost (e : Pend) : Bool := e.at_ == at_ && match e.eff with
      | .land _ => true
      | _ => false
    let all := ∀ j < 24, 24 * b + j ∈ down
    let cut : State := { s with dev := { s.dev with crossDown := down, seams := s.dev.seams.setIfInBounds b 3 } }
    exec (.seamLaneThreshold b plane c) s = out { s with
      dev := { s.dev with repairing := (b, (if plane then 96 else 0) + 24 * b + c) :: s.dev.repairing }
      agenda := s.agenda ++ (((s.pitches.filter spans).map fun p => Slot.ev (.freezeRequestPost p.id (.seam b))) ++
        [.ev (.seamServiceRepair b)]) } ∧
    ((waits ∨ mine = []) → exec (.seamServiceRepair b) s = out s) ∧
    (¬ waits → mine ≠ [] → ∃ t, exec (.seamServiceRepair b) s = out t ∧
      State.Scheduled { s with dev := { d with repairing := s.dev.repairing.filter fun q => q.1 != b } } t) ∧
    (¬ all → exec (.copyPlaneCrossingDown b c) s = out { s with dev := { s.dev with crossDown := down } }) ∧
    (all → exec (.copyPlaneCrossingDown b c) s = out ((cut.loseCopies cut.cutOff).loseParts b)) ∧
    exec (.seamFault pid k at_) s = out (s.onTile pid k fun t =>
      let pc := (t.engOf .N).pc
      match t.pend.find? lost with
      | none => t
      | some e => { t with
        pend := t.pend.erase e
        traps := t.traps ++ [{ tau := at_, eng := .N, code := trapSeam, info := pc, off := pc, word := pc }]
        trapInfo := trapInfoWord trapSeam .N false pc }) ∧
    (s.dev.sweeps.find? (fun q => q.1 == c && decide (q.2 < 32)) = none → exec (.sweepChunkDone c) s = out s) ∧
    ∀ n, s.dev.sweeps.find? (fun q => q.1 == c && decide (q.2 < 32)) = some (c, n) →
      let lo := c * 2 ^ 25 + n * 2 ^ 20
      exec (.sweepChunkDone c) s = out { s with
        fresh := s.fresh + 1
        hbm := s.hbm.map fun l => if lo ≤ l.at_ ∧ l.at_ < lo + 2 ^ 20 ∧ (∀ v ∈ s.slices, v.key ≠ l.key) then
          { l with key := s.fresh, tweak := 0, data := List.replicate 64 0 } else l
        rc := { s.rc with sweeps := s.rc.sweeps + 2 ^ 20 * Config.calEntry s.dev.epoch 1 c 3 13 }
        dev := { s.dev with sweeps := s.dev.sweeps.map fun q => if q.1 = c then (q.1, q.2 + 1) else q } }

/-- R25 to R27, R32, R44, R97: a live tile looks at the waits of the groups that issue F cycles later; the release of a hold
fixes the least q that covers every failed lookahead's clearing, where the origin's arrival at the stop cycle is that of the
first tile that stands there less its off; a rendezvous that every tile has reached sets each TIME_LOCAL to A, ends the holds
and starts tile i after the wait and off(i), and a freeze that is registered stops every tile at A; a hard clear ends with
GEN 1. What a re-anchor moves with TIME_LOCAL (notes/assumptions/20.md), and that X stops for a SAFE only while every look so
far met the conditions (52.md), are the model's choices. -/
def Sys2Proof.saysPitchClocks : Prop :=
  ∀ (s : State) (p : Pitch) (k stop : Nat), s.pitch? p.id = some p →
    let out (t : State) := Host.Outcome.next (φ := Fault) (ρ := Refusal) t
    let f := p.img.lead
    (∀ t, s.tile? p.id k = some t →
      let env := s.envOf p k
      let t1 := lookFor env env.holdLead t
      let safe := p.wantsSafe = true ∧ safeAhead env t = true
      let met := p.postedP ≤ t.tl ∧ s.tick ≤ p.postedAt + ((s.slice? p.slice).elim 0 fun sl => sl.graceUs * 2000) ∧
        t.xs.slots = 0 ∧ t.xs.copies = [] ∧ t.xs.asks = []
      (t.live = false → exec (.lookahead p.id k) s = out s) ∧
      (t.live = true → ¬ safe → exec (.lookahead p.id k) s = out (s.putPitch (p.onTile k fun _ => t1))) ∧
      (t.live = true → safe → ∃ ok, (ok = true ↔ met) ∧ exec (.lookahead p.id k) s =
        out (s.putPitch ((p.onTile k fun _ => t1).addSafe (t.tl + f) ok))) ∧
      ∀ l ∈ t1.looks, l ∈ t.looks ∨ l.at_ = t.tl + f) ∧
    (exec (.holdRelease p.id stop) s = out (s.putPitch { p with holds := p.holds.map fun h =>
        if h.stop = stop ∧ h.q = none then { h with q := p.holdQ stop } else h })) ∧
    (∀ q, p.holdQ stop = some q →
      let base := ((p.tiles.find? fun t => t.mode == .run && t.tl == stop).map fun t => t.reach - p.off t).getD 0
      let late (c : Nat × Option Nat) (w : Nat) : Nat := w + f - (base + c.1)
      1 ≤ q ∧ (∀ c ∈ p.failed stop, ∃ w, c.2 = some w ∧ late c w ≤ q) ∧
        (q = 1 ∨ ∃ c ∈ p.failed stop, ∃ w, c.2 = some w ∧ late c w = q)) ∧
    (p.rdvReady = false → exec (.rendezvousResume p.id) s = out s) ∧
    (p.rdvReady = true →
      let jumped (t : Tile) : Tile := { Pitch.jump p.anchor t with mode := .anchor (p.anchorWait + p.off t) }
      let q := s.firstLooks { p with
        tiles := p.tiles.map jumped, links := p.links.map (p.jumpLink p.anchor), holds := [] }
      (q.freezePoint = none → exec (.rendezvousResume p.id) s = out (s.putPitch q)) ∧
      (q.freezePoint ≠ none → exec (.rendezvousResume p.id) s = out (s.putPitch { q with
        tiles := q.tiles.map fun t => { t with mode := .frozen } }))) ∧
    exec (.hardClearDone p.id k) s = out (s.onTile p.id k fun t =>
      if ∃ n, t.clearing = some n ∧ n ≤ 1 then { t with clearing := none, cleared := true, gen := 1, maxGen := max t.maxGen 1 }
      else t)

/-- R41, R42, R46, R47, R385, R386, R435: a freeze request is registered at the origin's present cycle, or waits for a SAFE
point where the image has one and the grace window is not 0; the window's expiry registers it. A pitch that already freezes
only notes the reason. A move asks so once in a quantum; the end of a quantum lets others displace the pitch. That the window
expires in the tick in which its microseconds have passed (notes/assumptions/83.md), and that the end of a quantum without
contenders freezes nothing (71.md), are the model's choices. -/
def Sys2Proof.saysFreezeRequests : Prop :=
  ∀ (s : State) (p : Pitch) (sl : Slice) (l : Launch) (why : FreezeWhy), s.pitch? p.id = some p →
    s.slice? p.slice = some sl → s.launch? p.id = some l → l.id = p.id →
    let out (t : State) := Host.Outcome.next (φ := Fault) (ρ := Refusal) t
    let posted (w : FreezeWhy) : Pitch := if p.reqs ≠ [] then { p with reqs := p.reqs ++ [w] }
      else { p with
        reqs := [w], postedP := p.origin.tl, postedAt := s.tick
        tauR := if p.img.safeGap ≠ 0 ∧ sl.graceUs ≠ 0 then p.tauR else some p.origin.tl }
    let waits := p.reqs ≠ [] ∧ p.tauR = none ∧ p.safeAt = none
    exec (.freezeRequestPost p.id why) s = out (s.putPitch (posted why)) ∧
    exec (.graceWindowExpiry p.id) s = out (s.putPitch (if waits then { p with tauR := some p.origin.tl } else p)) ∧
    exec (.pitchMove p.id) s = out (if p.moved = true then s else s.putPitch { posted .move with moved := true }) ∧
    ∃ t, exec (.quantumEnd p.id) s = out t ∧ ((s.putPitch { p with fullQuantum := true, moved := false }).onLaunch p.launch
      fun m => { m with moved := false }).Scheduled t

/-- R25 to R27, R32, R41, R42, R46, R47, R97, R385, R386, R435: lookaheads, holds, rendezvous, hard clears and freeze
requests. -/
def Obligations.PitchClocksAndFreezes : Prop := Sys2Proof.saysPitchClocks ∧ Sys2Proof.saysFreezeRequests

/-- R37, R43, R44, R48, R93, R141, R383, R384, R387, R411, R435: a freeze takes effect once every tile has stopped and X has drained: the
pitch is gone; its launch ends with its fault image where a trap is registered in the pitch or the launch was to end, and is
otherwise ready, its state in a hamper. A pitch that has finished is gone, and its launch done. What the tiles' meters hold is
billed first. The record of a launch goes to its ring, with vector 0, and waits while a copy of the launch that stayed behind
still writes a HOST tensor. R411 and R435 say of service and purse freezes that a trap before the freeze point makes the end a fault
record; that it does so whatever asked for the freeze, and which traps count, are the model's choices (notes/assumptions/39.md). Which
of the freeze's work has drained rests on 41.md, and that a slice that may issue no request gets no record on 104.md. -/
def Obligations.PitchEnds : Prop :=
  ∀ (s : State) (p : Pitch) (l : Launch), s.pitch? p.id = some p → s.launch? p.launch = some l →
    let out (t : State) := Host.Outcome.next (φ := Fault) (ρ := Refusal) t
    let stopped := p.allStopped = true ∧ s.drainedFor p = true
    let done := p.finished = true
    (¬ stopped → exec (.freeze p.id) s = out s) ∧
    (∀ sl, s.slice? p.slice = some sl → stopped → ∃ t m, exec (.freeze p.id) s = out t ∧ t.pitch? p.id = none ∧
      t.launch? p.launch = some m ∧ m.placed = false ∧ m.hamper ≠ none ∧ m.serial = sl.serial + 1 ∧
      ((p.trapped = true ∨ l.ending = true) → m.done = true ∧ m.ready = false ∧ m.kind = 2) ∧
      (p.trapped = false → l.ending = false → m.done = l.done ∧ m.ready = true ∧ m.since = s.tick ∧
        m.kind = if p.safeAt = none then 0 else 1) ∧
      t.mb = s.mb ∧ t.rc = (s.flush p.id).rc ∧ t.dev = s.dev) ∧
    (¬ done → exec (.pitchComplete p.id) s = out s) ∧
    (done → ∃ t m, exec (.pitchComplete p.id) s = out t ∧ t.pitch? p.id = none ∧ t.launch? p.launch = some m ∧
      m.done = true ∧ m.placed = false ∧ t.mb = s.mb ∧ t.rc = (s.flush p.id).rc ∧ t.dev = s.dev) ∧
    (∀ n, ∃ j, (s.flush n).rc = { s.rc with billed := s.rc.billed + j }) ∧
    (∀ r, s.hostWrites l = true → s.endLaunch l r =
      s.putLaunch { l with done := true, ready := false, placed := false, wrapping := false, owed := some r }) ∧
    ∀ sl r, s.hostWrites l = false → s.slice? l.slice = some sl → sl.active = true → (sl.chain l.chain).loc = false →
      let c := sl.chain l.chain
      let w0 := at' 0 l.desc 0
      (s.endLaunch l r).host = s.host.writeAll (c.recBase + 64 * (l.index % 2 ^ c.log2n))
          (leBytes 8 r.energy ++ leBytes 8 r.party1 ++ leBytes 8 r.party2 ++ leBytes 8 r.cycle ++ leBytes 8 r.data ++
            leBytes 8 (r.more * 2 ^ 32 + r.stale) ++
            leBytes 8 (w0 / 2 ^ 32 % 2 ^ 32 * 2 ^ 32 + r.status * 2 ^ 24 + r.code * 2 ^ 16 + r.check * 2 ^ 8) ++
            leBytes 8 ((l.index + 1) % 2 ^ 32 * 2 ^ 32)) ∧
        (s.endLaunch l r).msi = s.msi ++ [(l.slice + 1, 0)]

/-- R19, R20, R45, R93, R96, R161, R361, R382, R387, R388: a launch that may go to a place is placed there under a generation
above every one that its tiles have used, or waits for the hard clears of a wrap; each tile starts with its coordinates, class
and arguments, after its offset, and in block code with its arguments in its live slots. A hamper is restored the same way,
with the copies and messages that its freeze kept; where its tag fails the launch ends with MEMORY_ERROR, and
where its code is gone with a LOAD record, and what was kept is dropped. What the tag covers and how it is formed is the
model's reading (notes/assumptions/42.md, 48.md). -/
def Obligations.PitchPlacement : Prop :=
  ∀ (s : State) (l : Launch), s.launch? l.id = some l →
    let out (t : State) := Host.Outcome.next (φ := Fault) (ρ := Refusal) t
    let limit := if l.strict then 2048 else 4095
    let back := { l with wrapping := false }
    (s.chosen l = none → exec (.pitchPlacement l.id) s = out s ∧ exec (.pitchResume l.id) s = out s) ∧
    (∀ sl i q ks, s.chosen l = some (sl, i, q, ks) →
      let s0 := s.evict sl l q
      let g := s0.nextGen ks
      let p0 := newPitch l i q g s.tick
      let start (k : Nat) : Tile :=
        launchTile i g k (p0.off { x := k % i.w, y := k / i.w }) (s0.physOf (ks.getD k 0)) (s0.argWords l)
      (l.hamper = none → limit < g → exec (.pitchPlacement l.id) s = out (s0.putLaunch { l with wrapping := true })) ∧
      let done (h : Option Pitch) : Launch := { l with placed := true, wrapping := false, hamper := h, area := [] }
      (l.hamper = none → g ≤ limit → ∃ t, exec (.pitchPlacement l.id) s = out t ∧ (State.putLaunch { s0 with
        pitches := s0.pitches ++ [s0.firstLooks { p0 with tiles := (List.range (i.w * i.h)).map start }]
        fresh := s0.fresh + 8 * (s0.argWords l).length } (done none)).Scheduled t) ∧
      ∀ h, l.hamper = some h →
        let bad := if l.coolBox then none else s.hamperBad l h
        let same := h.ox = q.ox ∧ h.oy = q.oy ∧ h.orient = q.o
        let s2 := if same then s0 else s0.unpin l.id
        (∀ k, bad = some k → exec (.pitchResume l.id) s =
          out (((s.unpin l.id).onSlice l.slice fun v => { v with faults := v.faults + 1 }).endLaunch { l with hamper := none }
            { status := 1, code := trapMemory, party1 := partyWord i k .C 0, stale := h.staleSum, energy := h.energyUj }
            |>.dropQueue l.id)) ∧
        (bad = none → s2.reloadOk sl l i ks = false → exec (.pitchResume l.id) s =
          out ((s2.unpin l.id).endLaunch { l with hamper := none }
            { status := 2, code := 1, stale := h.staleSum, energy := h.energyUj } |>.dropQueue l.id)) ∧
        (bad = none → s2.reloadOk sl l i ks = true → limit < g →
          exec (.pitchResume l.id) s = out (s2.putLaunch { l with wrapping := true })) ∧
        (bad = none → s2.reloadOk sl l i ks = true → g ≤ limit → ∃ t, exec (.pitchResume l.id) s = out t ∧
          (State.putLaunch { s2 with
            pitches := s2.pitches ++ [s2.firstLooks { p0 with
              cEnded := h.cEnded, links := h.links
              tiles := h.tiles.mapIdx fun k t =>
                (resumeTile t g (p0.off t) (s2.physOf (ks.getD k 0))).keepCopies fun c => (s2.copy? c).isSome }]
            copies := s2.copies.map fun c => if c.pitch = l.id ∧ c.left = [] then { c with pgen := g } else c
            msgs := s2.msgs.map fun m => if m.pitch = l.id then { m with pgen := g } else m }
            (done none)).Scheduled t)) ∧
    (l.wrapping = false → exec (.generationWrapClear l.id) s = out s) ∧
    (l.wrapping = true →
      (s.chosen back = none → exec (.generationWrapClear l.id) s = out (s.putLaunch back)) ∧
      ∀ sl i q ks, s.chosen back = some (sl, i, q, ks) →
        (s.copiesTo ks = true → exec (.generationWrapClear l.id) s = out s) ∧
        (s.copiesTo ks = false → exec (.generationWrapClear l.id) s = out (((s.clearTiles ks).putLaunch back).later
          [.ev (if l.hamper ≠ none then .pitchResume l.id else .pitchPlacement l.id)]))) ∧
    ∀ (i : Image) (g k lag : Nat) (ph : Phys) (args : List Word), 0 < g → args.length ≤ 48 →
      let t := launchTile i g k lag ph args
      t.gen = g ∧ t.pitchGen = g ∧ t.x = k % i.w ∧ t.y = k / i.w ∧ t.cls = i.classOf.getD k 0 ∧ t.mode = .pulse lag ∧
        t.staleTrap = i.stale ∧ (i.block = false → t.blk = none) ∧
        (i.block = true → ∃ b, t.blk = some b ∧ b.op = 0 ∧ ∀ r < 256, at' 0 b.live r = args.getD r 0) ∧ (∀ r < 32, t.reg .C r = args.getD r 0) ∧ (∀ r < 16, t.reg .X r = args.getD (32 + r) 0)

/-- A copy and the tile that issued it, in place. -/
structure Sys2Proof.CopyAt (s : State) (c : CopyRec) (p : Pitch) (t : Tile) : Prop where
  copy : s.copy? c.id = some c
  pitch : s.pitch? c.pitch = some p
  tile : p.tiles[c.tile]? = some t

/-- R92, R130, R375, R412: the slow path takes up the next request of a copy that stayed behind a freeze, whether its pitch
stands or not, while the slice may issue it: padding at the end takes no request. One that a failed boundary cuts off is lost.
That the slow path dispatches such requests (notes/assumptions/38.md) and which a failed boundary cuts off (68.md) are the
model's choices. -/
def Sys2Proof.saysLeftDispatch : Prop :=
  ∀ (s : State) (c : CopyRec) (sl : Slice), s.copy? c.id = some c → s.slice? c.slice = some sl → c.left ≠ [] →
    let out (z : State) := Host.Outcome.next (φ := Fault) (ρ := Refusal) z
    let ofHost := CopyRec.locOf c.src = some 1 ∨ CopyRec.locOf c.dst = some 1
    let remote := CopyRec.locOf c.src = some 2 ∨ CopyRec.locOf c.dst = some 2
    let may := c.next < c.total ∧ (ofHost → sl.active = true)
    let run := c.nextRun
    (¬ may → exec (.copyRequestDispatch c.id) s = out s) ∧
    (may → ∃ u d, exec (.copyRequestDispatch c.id) s = out u ∧ u.copy? c.id = some d ∧ u.host = s.host ∧ u.hbm = s.hbm ∧
      (¬ remote → u.pitches = s.pitches) ∧ (c.total ≤ run.1 → d.next = c.total ∧ d.reqs = c.reqs) ∧
      (run.1 < c.total → d.next = c.after run.1 ∧
        ((∃ r, d.reqs = c.reqs ++ [r] ∧ r.k0 = run.1 ∧ r.k1 = run.2 ∧ r.tlb = [] ∧ r.pgen = c.pgen) ∨
          (d.lost = true ∧ d.slow = true ∧ ∃ b < 4, at' 0 s.dev.seams b = 3))))

/-- R92, R126 to R129, R137, R284, R375, R392, R412: X dispatches the next request of the copy at its head when nothing stops
it, a slot is free and the slice may issue it: padding at the end takes no request, a page without its permission is a
translation fault, a page that no entry translates starts a walk, and otherwise the request takes a slot and its bytes are
dispatched, or are lost where a failed boundary cuts it off. A walk fills the tile's and the die's TLB, or is a translation
fault. That a request goes in each cycle after the issue's (notes/assumptions/22.md), that pad bytes need no request (23.md),
that a TLB entry stays (34.md), which old leaf a walk may use (64.md), and which requests a failed boundary cuts off (68.md)
are the model's choices. -/
def Sys2Proof.saysDispatch : Prop :=
  ∀ (s : State) (c : CopyRec) (p : Pitch) (t : Tile) (sl : Slice), CopyAt s c p t → s.slice? c.slice = some sl →
    let out (z : State) := Host.Outcome.next (φ := Fault) (ρ := Refusal) z
    let x := t.xs
    let ofHost := CopyRec.locOf c.src = some 1 ∨ CopyRec.locOf c.dst = some 1
    let goes := c.left = [] ∧ x.copying = some c.id ∧ x.stopped = false ∧ c.walk = none ∧ p.xStop t = false ∧
      (t.engOf .X).halted = false ∧ t.clearing = none ∧ x.slots < Config.slotLimit ∧ (ofHost → sl.active = true) ∧
      ∀ k ∈ x.fence, k ∈ x.copies → k = c.id
    let run := c.nextRun
    let after := c.after run.1
    let home := p.physOf t.x t.y
    let miss := s.firstMiss c.slice home (c.needs run.1 run.2)
    let faulted (va : Nat) (wr : Bool) : State := s.onTile c.pitch c.tile fun t => t.xFault va wr c.off sl.fqOn
    let cut := ∃ b < 4, at' 0 s.dev.seams b = 3
    (c.left = [] → ¬ goes → exec (.copyRequestDispatch c.id) s = out s) ∧
    (goes → c.total ≤ run.1 → ∃ u d v, exec (.copyRequestDispatch c.id) s = out u ∧ u.copy? c.id = some d ∧
      d.next = c.total ∧ d.reqs = c.reqs ∧ u.tile? c.pitch c.tile = some v ∧ v.xs = { x with copying := none } ∧
      u.host = s.host ∧ u.hbm = s.hbm) ∧
    (goes → run.1 < c.total →
      (∀ va wr, miss = some (va, wr, true) → exec (.copyRequestDispatch c.id) s = out (faulted va wr)) ∧
      (∀ va wr, miss = some (va, wr, false) →
        exec (.copyRequestDispatch c.id) s = out (s.putCopy { c with walk := some (va, wr) })) ∧
      (miss = none → ∃ u d v, exec (.copyRequestDispatch c.id) s = out u ∧ u.copy? c.id = some d ∧ d.next = after ∧
        u.tile? c.pitch c.tile = some v ∧ u.host = s.host ∧ u.hbm = s.hbm ∧
        ∃ n, v.xs = { x with
          slots := n, copying := if c.total ≤ after then none else x.copying, lastSent := decide (c.total ≤ after) } ∧
        ((n = x.slots + 1 ∧ ∃ r, d.reqs = c.reqs ++ [r] ∧ r.k0 = run.1 ∧ r.k1 = run.2 ∧ r.pgen = p.gen) ∨
          (cut ∧ n ≤ x.slots + 1 ∧ d.lost = true ∧ d.slow = true)))) ∧
    (c.walk = none → exec (.translationWalkDone c.id) s = out s) ∧
    ∀ va wr, c.walk = some (va, wr) →
      let found := sl.walk va (Config.fires (s.fresh + 1) s.tick)
      (found = none → exec (.translationWalkDone c.id) s = out ((s.putCopy { c with walk := none }).onTile c.pitch c.tile
        fun t => t.xFault va wr c.off sl.fqOn)) ∧
      ∀ lf, found = some lf →
        let e : TlbEnt := { id := s.fresh, slice := c.slice, home := home, va := va / lf.size * lf.size, size := lf.size
                            base := lf.base, rd := lf.rd, wr := lf.wr }
        exec (.translationWalkDone c.id) s = out { s.putCopy { c with walk := none } with
          fresh := s.fresh + 2, tlb := s.tlb ++ [e, { e with id := s.fresh + 1, home := 2304 + dieOf home }] }

/-- R92, R126 to R130, R137, R284, R375, R392, R412: the dispatch of copies' requests, and translation walks. -/
def Obligations.CopyDispatch : Prop := Sys2Proof.saysLeftDispatch ∧ Sys2Proof.saysDispatch

/-- R130, R285: a request of a copy from a scratchpad that stayed behind a freeze reads the bytes kept with it, whether its pitch
stands or not. That such bytes are kept is the model's choice (notes/assumptions/38.md). -/
def Sys2Proof.saysLeftReads : Prop :=
  ∀ (s : State) (c : CopyRec) (n : Nat) (r : Req) (ts : List Nat) (off : Nat), s.copy? c.id = some c → c.left ≠ [] →
    c.src = .spm ts off → c.reqs.find? (fun q => q.id == n && (q.phase == .fetch || q.phase == .slow)) = some r →
    let read := (c.ks r).map fun k => c.kept.getD k 0
    let reqs (ph : ReqPhase) : List Req := c.reqs.map fun q => if q.id = n then { q with phase := ph } else q
    (c.toTensor = true → exec (.copySourceRead c.id n) s = .next (s.putCopy { c with reqs := reqs (.carry read) })) ∧
    (c.toTensor = false → ∃ u d, exec (.copySourceRead c.id n) s = .next u ∧ u.copy? c.id = some d ∧ d.reqs = reqs .landing ∧
      u.host = s.host ∧ u.hbm = s.hbm ∧ u.pitches = s.pitches)

/-- R90 to R92, R116, R117, R130, R133, R134, R285, R286: a request reads its source at a free bank, or its tensor; a 16-byte
part lands at a free bank and counts for an ARRIVE semaphore, and one of another generation is discarded and counted; a tensor
write performs after every earlier request that shares a byte with it, and frees its slot; with all of it performed the copy
posts, or reports its loss. A request of which a source line is lost writes nothing of that line, and one that writes a line
that is lost writes nothing; a refusal by another package is TENSOR_BOUNDS. That a part lands whole (notes/assumptions/21.md),
which tile pays (24.md), that a line performs in one step (103.md), that a HOST read waits and a HOST write is dropped while the
slice may issue no request (115.md), and which errors of a written line are reported (117.md) are the model's choices. -/
def Sys2Proof.saysCopyProgress : Prop :=
  ∀ (s : State) (c : CopyRec) (p : Pitch) (t : Tile) (n : Nat), CopyAt s c p t →
    let out (z : State) := Host.Outcome.next (φ := Fault) (ρ := Refusal) z
    let keep (l : List Req) : List Req := l.filter fun q => q.id != n
    let slot (z : State) : State := if c.left = [] then
      z.onTile c.pitch c.tile fun t => { t with xs := { t.xs with slots := t.xs.slots - 1 } } else z
    let may (sd : Side) := CopyRec.locOf sd = some 1 → ∃ sl, s.slice? c.slice = some sl ∧ sl.active = true
    let open_ := c.reqs.find? fun r => r.id == n && (r.phase == .fetch || r.phase == .slow)
    (open_ = none → exec (.copySourceRead c.id n) s = out s) ∧
    (∀ r, open_ = some r →
      let carry (b : List Nat) : CopyRec :=
        { c with reqs := c.reqs.map fun q => if q.id = n then { q with phase := .carry b } else q }
      (∀ ts off, c.src = .spm ts off → c.left = [] →
        let waits := t.clearing ≠ none ∨ ∃ k ∈ c.ks r, (off + k) / 64 % 16 ∈ t.banksNow
        let stale := t.staleTrap = true ∧ ∃ k ∈ c.ks r, t.spmCur ((off + k) / 64) = false
        (waits → exec (.copySourceRead c.id n) s = out s) ∧
        (¬ waits → stale → exec (.copySourceRead c.id n) s =
          out ((s.dropCopy c.id).onTile c.pitch c.tile fun t => t.xTrap c.off trapStale c.off 0 false)) ∧
        (¬ waits → ¬ stale → c.toTensor = true → ∃ u d, exec (.copySourceRead c.id n) s = out u ∧ u.copy? c.id = some d ∧
          d = carry ((c.ks r).map fun k => (t.spmByte (off + k)).toNat) ∧ u.host = s.host ∧ u.hbm = s.hbm) ∧
        (¬ waits → ¬ stale → c.toTensor = false → ∃ u d, exec (.copySourceRead c.id n) s = out u ∧ u.copy? c.id = some d ∧
          d.reqs = c.reqs.map (fun q => if q.id = n then { q with phase := .landing } else q) ∧ u.host = s.host ∧
          u.hbm = s.hbm)) ∧
      ((∀ ts off, c.src ≠ .spm ts off) → ¬ may c.src → exec (.copySourceRead c.id n) s = out s) ∧
      ((∀ ts off, c.src ≠ .spm ts off) → may c.src → c.toTensor = true → exec (.copySourceRead c.id n) s =
        out ((s.readTensor c r).1.putCopy (carry (s.readTensor c r).2))) ∧
      (c.toTensor = false → (∀ ts off, c.src ≠ .spm ts off) → may c.src → ∃ u d, exec (.copySourceRead c.id n) s = out u ∧
        u.copy? c.id = some d ∧
        d.reqs = (c.reqs.map fun q => if q.id = n then { q with phase := .landing } else q))) ∧
    (∀ r bytes, c.reqs.find? (fun r => r.id == n) = some r → r.phase = .carry bytes →
      let earlier := ∃ q ∈ c.reqs, q.k0 < r.k0 ∧ c.shares q r = true
      (earlier → exec (.tensorWritePerform c.id n) s = out s) ∧
      (¬ earlier → may c.dst →
        exec (.tensorWritePerform c.id n) s = out (slot ((s.writeTensor c r bytes).putCopy { c with reqs := keep c.reqs }))) ∧
      (¬ earlier → ¬ may c.dst → exec (.tensorWritePerform c.id n) s = out (slot (s.putCopy { c with reqs := keep c.reqs })))) ∧
    (c.complete = false → exec (.copyComplete c.id) s = out s) ∧
    (c.complete = true → exec (.copyComplete c.id) s = out ((s.postCopy c).putCopy { c with done := true })) ∧
    (let part (r : Req) := ∃ i < 64, ∀ k ∈ c.ks r, ∀ a, c.dstByte k = some a → a % 64 ≠ i
     let reads := ∃ r ∈ c.reqs, r.id = n ∧ ((CopyRec.locOf c.src = some 0 ∧ r.phase = .fetch) ∨
       (CopyRec.locOf c.dst = some 0 ∧ (∃ bytes, r.phase = .carry bytes) ∧ part r))
     (¬ reads → exec (.hbmUncorrectableRead c.id n) s = out s) ∧
     (reads → exec (.hbmUncorrectableRead c.id n) s = out (s.putCopy { c with
       slow := true
       reqs := c.reqs.map fun r => if r.phase = .fetch then { r with phase := .slow }
         else if r.id = n then { r with retry := true } else r }))) ∧
    (∀ (line : Nat) (q : Instr × (Req → Prop)),
      q ∈ [(Instr.slowPathLossReport c.id ⟨n, line⟩, fun r => r.phase = .slow ∨
            (r.phase = .fetch ∧ CopyRec.locOf c.src = some 2) ∨
            ((∃ bytes, r.phase = .carry bytes) ∧ (CopyRec.locOf c.dst = some 2 ∨ r.retry = true))),
        (.pcieCompletionError c.id ⟨n, line⟩, fun r => (r.phase = .fetch ∨ r.phase = .slow) ∧ CopyRec.locOf c.src = some 1)] →
      ((∀ r ∈ c.reqs, r.id = n → ¬ q.2 r) → exec q.1 s = out s) ∧
      ∀ r ∈ c.reqs, r.id = n → (∀ o ∈ c.reqs, o.id = n → o = r) → q.2 r →
        let here := (c.ks r).filterMap fun k => (c.srcByte k).map fun a => a / 64
        let gone := out (slot (s.putCopy { c with slow := true, lost := true, reqs := keep c.reqs }))
        (∀ bytes, r.phase = .carry bytes → exec q.1 s =
          if (c.dstByte r.k0).map (fun a => a / 64) = some line then gone else out s) ∧
        ((∀ bytes, r.phase ≠ .carry bytes) →
          (line ∉ here → exec q.1 s = out s) ∧
          (line ∈ here → (∃ o ∈ here, o ≠ line) → exec q.1 s = out (s.putCopy { c with
            slow := true, lost := true
            reqs := c.reqs.map fun z => if z.id = n then { z with bad := line :: z.bad } else z })) ∧
          (line ∈ here → (∀ o ∈ here, o = line) →
            (c.toTensor = true → exec q.1 s = gone) ∧
            (c.toTensor = false → ∃ u d, exec q.1 s = out u ∧ u.copy? c.id = some d ∧ d.lost = true ∧ d.slow = true ∧
              u.host = s.host ∧ u.hbm = s.hbm)))) ∧
    exec (.remoteFailureReport c.id) s = out ((s.dropCopy c.id).onTile c.pitch c.tile fun t =>
      let v := t.xTrap c.off trapTensor c.off 0 false
      { v with xs := { v.xs with
        copies := v.xs.copies.filter fun k => k != c.id
        slots := v.xs.slots - c.reqs.length
        copying := if v.xs.copying = some c.id then none else v.xs.copying } }) ∧
    ∀ part, c.parts.find? (fun q => q.id == n && q.stage != 0) = some part →
      let left := { c with parts := c.parts.filter fun r => r.id != n }
      (s.atPhys part.phys = none → exec (.copyPartArrival c.id n) s = out (s.settle left)) ∧
      ∀ q k u, s.atPhys part.phys = some (q, k) → q.tiles[k]? = some u →
        (u.pitchGen ≠ part.pgen → exec (.copyPartArrival c.id n) s = out ((s.settle left).onTile q.id k fun t =>
          { t with staleArrivals := min 0xFFFFFFFF (t.staleArrivals + 1) })) ∧
        (u.pitchGen = part.pgen → (u.clearing ≠ none ∨ part.lo / 64 % 16 ∈ u.banksNow) →
          exec (.copyPartArrival c.id n) s = out s) ∧
        (u.pitchGen = part.pgen → u.clearing = none → part.lo / 64 % 16 ∉ u.banksNow → s.pitch? q.id = some q →
          ∃ z v, exec (.copyPartArrival c.id n) s = out z ∧ z.tile? q.id k = some v ∧
            v.spm = (u.spmWrite (part.bytes.map fun b => { addr := b.1, val := b.2 })).spm ∧
            ∃ more, v.semOps = u.semOps ++ ((c.posts.filter fun a => a.arr && a.tile == part.tile).map fun a =>
              { src := .copy, gid := 0, iid := 0, op := .arrive a.sem part.bytes.length, msg := c.id }) ++ more ∧
            ((∀ p o, c.instr ≠ .cbc p o) → more = []) ∧
            ∀ e ∈ more, ∃ a ∈ c.posts, ∃ o, a.tile = part.tile ∧ c.postOf a = some o ∧
              e = { src := .copy, gid := 0, iid := 0, op := o, msg := c.id })

/-- R90 to R92, R116, R117, R120, R130, R133, R134, R285, R286, R375: reads, landings, writes, completion and losses of a copy, of one
that stayed behind a freeze too. -/
def Obligations.CopyProgress : Prop := Sys2Proof.saysLeftReads ∧ Sys2Proof.saysCopyProgress

/-- R92, R105, R139, R140, R292, R293, R296 to R299, R303: a message acts at its tile in the cycle it arrives, or is tried in
every cycle when it waits, and one of another generation is discarded and counted; at the slice semaphores it acts, or waits;
its reply frees the slot and writes x[d], with the pitch address for a remote claim, or registers the refusal's trap. A take or
phase wait of a tile that has stopped for a freeze takes nothing. A post
of a bound package applies once, any other is refused, its acknowledgement frees the slot or registers SEM_CEILING. When X goes
on past such a wait (notes/assumptions/7.md), which tile pays a reply (24.md), and what a fabric post carries (70.md) are the
model's choices. -/
def Obligations.Messages : Prop :=
  ∀ (s : State) (m : Msg) (p : Pitch) (sl : Slice) (ss amt : Nat) (refused : Option Nat), s.msg? m.id = some m →
    s.pitch? m.pitch = some p → s.slice? p.slice = some sl →
    let out (z : State) := Host.Outcome.next (φ := Fault) (ρ := Refusal) z
    let asker := p.tiles.getD m.tile {}
    let stops := waitsAt m.op = true ∧ (p.allStopped = true ∨ asker.mode = .frozen)
    (∀ k t, m.dest = .tile k → m.phase = .going → p.tiles[k]? = some t →
      (t.clearing ≠ none → exec (.remoteSyncArrival m.id) s = out s) ∧
      (t.clearing = none → t.pitchGen ≠ m.pgen → exec (.remoteSyncArrival m.id) s = out ((s.onTile m.pitch k fun t =>
        { t with staleArrivals := min 0xFFFFFFFF (t.staleArrivals + 1) }).dropMsg m.id)) ∧
      (t.clearing = none → t.pitchGen = m.pgen →
        exec (.remoteSyncArrival m.id) s = out (if waitsAt m.op = true then s.putMsg { m with phase := .trying }
          else (s.putMsg { m with phase := .trying }).onTile m.pitch k fun t => { t with semOps := t.semOps ++
            [{ src := .remote asker.y asker.x, gid := 0, iid := 0, op := m.op, msg := m.id }] }))) ∧
    (∀ k, (m.dest = .slice k ∨ ∃ pkg dst, m.dest = .fabric pkg dst k) → m.phase ≠ .back →
      (stops → exec (.sliceSemOp m.id) s = out (s.putMsg { m with phase := .trying })) ∧
      (∀ z, sliceApply (sl.sem k) m.op = (z, .wait) → exec (.sliceSemOp m.id) s = out (s.putMsg { m with phase := .trying })) ∧
      (∀ z v, ¬ stops → sliceApply (sl.sem k) m.op = (z, .done v) → exec (.sliceSemOp m.id) s =
        out (((s.putSlice (sl.setSem k z)).putMsg { m with phase := .back, val := v }).wake p.slice)) ∧
      (∀ z code data, ¬ stops → sliceApply (sl.sem k) m.op = (z, .trap code data) → exec (.sliceSemOp m.id) s =
        out (s.putMsg { m with phase := .back, trap := some (code, data) }))) ∧
    (m.phase ≠ .back → exec (.remoteSyncReply m.id) s = out s) ∧
    (∀ t, m.phase = .back → p.tiles[m.tile]? = some t → ∃ z v, exec (.remoteSyncReply m.id) s = out z ∧
      z.msg? m.id = none ∧ z.tile? m.pitch m.tile = some v ∧ v.xs.slots = t.xs.slots - 1 ∧
      v.xs.asks = (t.xs.asks.filter fun k => k != m.id) ∧
      (∀ code data, m.trap = some (code, data) → ∃ r, v.traps = t.traps ++ [r] ∧ r.tau = t.tl ∧ r.eng = .X ∧ r.code = code ∧
        r.data = data ∧ r.off = m.off ∧ (v.engOf .X).halted = true) ∧
      (∀ d w, m.trap = none → m.rd = some d → d < 16 → t.gen ≠ 0 →
        m.val = some w → v.reg .X d = (match m.op, m.dest with
          | .claim _ _, .tile k => w + BitVec.ofNat 64 (k / p.img.w * 2 ^ 26 + k % p.img.w * 2 ^ 20)
          | _, _ => w))) ∧
    (∀ (q : Slice) (r : PostRoute), s.slice? r.slice = some q →
      let old := q.sem ss
      let bound := (r.pkg, r.src) ∈ q.bind
      (bound → old.count + amt ≤ old.ceiling → exec (.fabricPostDelivery r ss amt) s =
        out ((s.putSlice (q.setSem ss { old with count := old.count + amt })).wake r.slice)) ∧
      ((¬ bound ∨ old.ceiling < old.count + amt) → exec (.fabricPostDelivery r ss amt) s = out s)) ∧
    ∀ pkg dst k, m.dest = .fabric pkg dst k →
      exec (.fabricPostAck m.id refused) s = out ((s.onTile m.pitch m.tile fun t =>
        let v := { t with xs := { t.xs with slots := t.xs.slots - 1, asks := t.xs.asks.filter fun k => k != m.id } }
        match refused with
        | none => v
        | some d => v.xTrap m.off trapCeiling m.off d false).dropMsg m.id)
end

