-- ==== Sys2Proof/Laws/Tile.lean ====
section
/-! SUPPORT. What each update of a tile leaves in each field. -/

namespace Sys2Proof.Machine

@[simp] theorem Tile.stage_x (t : Tile) (c : Ctx) (k ph : Nat) (e : Eff) : (t.stage c k ph e).x = t.x :=
  (fun (z0 : List Pend) => (rfl : ({ t with pend := z0 } : Tile).x = t.x)) _
@[simp] theorem Tile.stage_y (t : Tile) (c : Ctx) (k ph : Nat) (e : Eff) : (t.stage c k ph e).y = t.y :=
  (fun (z0 : List Pend) => (rfl : ({ t with pend := z0 } : Tile).y = t.y)) _
@[simp] theorem Tile.stage_cls (t : Tile) (c : Ctx) (k ph : Nat) (e : Eff) : (t.stage c k ph e).cls = t.cls :=
  (fun (z0 : List Pend) => (rfl : ({ t with pend := z0 } : Tile).cls = t.cls)) _
@[simp] theorem Tile.stage_spm (t : Tile) (c : Ctx) (k ph : Nat) (e : Eff) : (t.stage c k ph e).spm = t.spm :=
  (fun (z0 : List Pend) => (rfl : ({ t with pend := z0 } : Tile).spm = t.spm)) _
@[simp] theorem Tile.stage_spmTag (t : Tile) (c : Ctx) (k ph : Nat) (e : Eff) : (t.stage c k ph e).spmTag = t.spmTag :=
  (fun (z0 : List Pend) => (rfl : ({ t with pend := z0 } : Tile).spmTag = t.spmTag)) _
@[simp] theorem Tile.stage_grid (t : Tile) (c : Ctx) (k ph : Nat) (e : Eff) : (t.stage c k ph e).grid = t.grid :=
  (fun (z0 : List Pend) => (rfl : ({ t with pend := z0 } : Tile).grid = t.grid)) _
@[simp] theorem Tile.stage_gridTag (t : Tile) (c : Ctx) (k ph : Nat) (e : Eff) : (t.stage c k ph e).gridTag = t.gridTag :=
  (fun (z0 : List Pend) => (rfl : ({ t with pend := z0 } : Tile).gridTag = t.gridTag)) _
@[simp] theorem Tile.stage_side (t : Tile) (c : Ctx) (k ph : Nat) (e : Eff) : (t.stage c k ph e).side = t.side :=
  (fun (z0 : List Pend) => (rfl : ({ t with pend := z0 } : Tile).side = t.side)) _
@[simp] theorem Tile.stage_sideTag (t : Tile) (c : Ctx) (k ph : Nat) (e : Eff) : (t.stage c k ph e).sideTag = t.sideTag :=
  (fun (z0 : List Pend) => (rfl : ({ t with pend := z0 } : Tile).sideTag = t.sideTag)) _
@[simp] theorem Tile.stage_desc (t : Tile) (c : Ctx) (k ph : Nat) (e : Eff) : (t.stage c k ph e).desc = t.desc :=
  (fun (z0 : List Pend) => (rfl : ({ t with pend := z0 } : Tile).desc = t.desc)) _
@[simp] theorem Tile.stage_descTag (t : Tile) (c : Ctx) (k ph : Nat) (e : Eff) : (t.stage c k ph e).descTag = t.descTag :=
  (fun (z0 : List Pend) => (rfl : ({ t with pend := z0 } : Tile).descTag = t.descTag)) _
@[simp] theorem Tile.stage_epoch (t : Tile) (c : Ctx) (k ph : Nat) (e : Eff) : (t.stage c k ph e).epoch = t.epoch :=
  (fun (z0 : List Pend) => (rfl : ({ t with pend := z0 } : Tile).epoch = t.epoch)) _
@[simp] theorem Tile.stage_cutAt (t : Tile) (c : Ctx) (k ph : Nat) (e : Eff) : (t.stage c k ph e).cutAt = t.cutAt :=
  (fun (z0 : List Pend) => (rfl : ({ t with pend := z0 } : Tile).cutAt = t.cutAt)) _
@[simp] theorem Tile.stage_cutBy (t : Tile) (c : Ctx) (k ph : Nat) (e : Eff) : (t.stage c k ph e).cutBy = t.cutBy :=
  (fun (z0 : List Pend) => (rfl : ({ t with pend := z0 } : Tile).cutBy = t.cutBy)) _
@[simp] theorem Tile.stage_g (t : Tile) (c : Ctx) (k ph : Nat) (e : Eff) : (t.stage c k ph e).g = t.g :=
  (fun (z0 : List Pend) => (rfl : ({ t with pend := z0 } : Tile).g = t.g)) _
@[simp] theorem Tile.stage_xr (t : Tile) (c : Ctx) (k ph : Nat) (e : Eff) : (t.stage c k ph e).xr = t.xr :=
  (fun (z0 : List Pend) => (rfl : ({ t with pend := z0 } : Tile).xr = t.xr)) _
@[simp] theorem Tile.stage_m (t : Tile) (c : Ctx) (k ph : Nat) (e : Eff) : (t.stage c k ph e).m = t.m :=
  (fun (z0 : List Pend) => (rfl : ({ t with pend := z0 } : Tile).m = t.m)) _
@[simp] theorem Tile.stage_s (t : Tile) (c : Ctx) (k ph : Nat) (e : Eff) : (t.stage c k ph e).s = t.s :=
  (fun (z0 : List Pend) => (rfl : ({ t with pend := z0 } : Tile).s = t.s)) _
@[simp] theorem Tile.stage_gen (t : Tile) (c : Ctx) (k ph : Nat) (e : Eff) : (t.stage c k ph e).gen = t.gen :=
  (fun (z0 : List Pend) => (rfl : ({ t with pend := z0 } : Tile).gen = t.gen)) _
@[simp] theorem Tile.stage_pitchGen (t : Tile) (c : Ctx) (k ph : Nat) (e : Eff) : (t.stage c k ph e).pitchGen = t.pitchGen :=
  (fun (z0 : List Pend) => (rfl : ({ t with pend := z0 } : Tile).pitchGen = t.pitchGen)) _
@[simp] theorem Tile.stage_maxGen (t : Tile) (c : Ctx) (k ph : Nat) (e : Eff) : (t.stage c k ph e).maxGen = t.maxGen :=
  (fun (z0 : List Pend) => (rfl : ({ t with pend := z0 } : Tile).maxGen = t.maxGen)) _
@[simp] theorem Tile.stage_staleTrap (t : Tile) (c : Ctx) (k ph : Nat) (e : Eff) : (t.stage c k ph e).staleTrap = t.staleTrap :=
  (fun (z0 : List Pend) => (rfl : ({ t with pend := z0 } : Tile).staleTrap = t.staleTrap)) _
@[simp] theorem Tile.stage_staleArrivals (t : Tile) (c : Ctx) (k ph : Nat) (e : Eff) : (t.stage c k ph e).staleArrivals = t.staleArrivals :=
  (fun (z0 : List Pend) => (rfl : ({ t with pend := z0 } : Tile).staleArrivals = t.staleArrivals)) _
@[simp] theorem Tile.stage_vflags (t : Tile) (c : Ctx) (k ph : Nat) (e : Eff) : (t.stage c k ph e).vflags = t.vflags :=
  (fun (z0 : List Pend) => (rfl : ({ t with pend := z0 } : Tile).vflags = t.vflags)) _
@[simp] theorem Tile.stage_mflags (t : Tile) (c : Ctx) (k ph : Nat) (e : Eff) : (t.stage c k ph e).mflags = t.mflags :=
  (fun (z0 : List Pend) => (rfl : ({ t with pend := z0 } : Tile).mflags = t.mflags)) _
@[simp] theorem Tile.stage_trapInfo (t : Tile) (c : Ctx) (k ph : Nat) (e : Eff) : (t.stage c k ph e).trapInfo = t.trapInfo :=
  (fun (z0 : List Pend) => (rfl : ({ t with pend := z0 } : Tile).trapInfo = t.trapInfo)) _
@[simp] theorem Tile.stage_tok (t : Tile) (c : Ctx) (k ph : Nat) (e : Eff) : (t.stage c k ph e).tok = t.tok :=
  (fun (z0 : List Pend) => (rfl : ({ t with pend := z0 } : Tile).tok = t.tok)) _
@[simp] theorem Tile.stage_sem (t : Tile) (c : Ctx) (k ph : Nat) (e : Eff) : (t.stage c k ph e).sem = t.sem :=
  (fun (z0 : List Pend) => (rfl : ({ t with pend := z0 } : Tile).sem = t.sem)) _
@[simp] theorem Tile.stage_ring (t : Tile) (c : Ctx) (k ph : Nat) (e : Eff) : (t.stage c k ph e).ring = t.ring :=
  (fun (z0 : List Pend) => (rfl : ({ t with pend := z0 } : Tile).ring = t.ring)) _
@[simp] theorem Tile.stage_eng (t : Tile) (c : Ctx) (k ph : Nat) (e : Eff) : (t.stage c k ph e).eng = t.eng :=
  (fun (z0 : List Pend) => (rfl : ({ t with pend := z0 } : Tile).eng = t.eng)) _
@[simp] theorem Tile.stage_xs (t : Tile) (c : Ctx) (k ph : Nat) (e : Eff) : (t.stage c k ph e).xs = t.xs :=
  (fun (z0 : List Pend) => (rfl : ({ t with pend := z0 } : Tile).xs = t.xs)) _
@[simp] theorem Tile.stage_tl (t : Tile) (c : Ctx) (k ph : Nat) (e : Eff) : (t.stage c k ph e).tl = t.tl :=
  (fun (z0 : List Pend) => (rfl : ({ t with pend := z0 } : Tile).tl = t.tl)) _
@[simp] theorem Tile.stage_mode (t : Tile) (c : Ctx) (k ph : Nat) (e : Eff) : (t.stage c k ph e).mode = t.mode :=
  (fun (z0 : List Pend) => (rfl : ({ t with pend := z0 } : Tile).mode = t.mode)) _
@[simp] theorem Tile.stage_rdvOff (t : Tile) (c : Ctx) (k ph : Nat) (e : Eff) : (t.stage c k ph e).rdvOff = t.rdvOff :=
  (fun (z0 : List Pend) => (rfl : ({ t with pend := z0 } : Tile).rdvOff = t.rdvOff)) _
@[simp] theorem Tile.stage_live (t : Tile) (c : Ctx) (k ph : Nat) (e : Eff) : (t.stage c k ph e).live = t.live :=
  (fun (z0 : List Pend) => (rfl : ({ t with pend := z0 } : Tile).live = t.live)) _
@[simp] theorem Tile.stage_reach (t : Tile) (c : Ctx) (k ph : Nat) (e : Eff) : (t.stage c k ph e).reach = t.reach :=
  (fun (z0 : List Pend) => (rfl : ({ t with pend := z0 } : Tile).reach = t.reach)) _
@[simp] theorem Tile.stage_gseq (t : Tile) (c : Ctx) (k ph : Nat) (e : Eff) : (t.stage c k ph e).gseq = t.gseq :=
  (fun (z0 : List Pend) => (rfl : ({ t with pend := z0 } : Tile).gseq = t.gseq)) _
@[simp] theorem Tile.stage_banks (t : Tile) (c : Ctx) (k ph : Nat) (e : Eff) : (t.stage c k ph e).banks = t.banks :=
  (fun (z0 : List Pend) => (rfl : ({ t with pend := z0 } : Tile).banks = t.banks)) _
@[simp] theorem Tile.stage_banksNow (t : Tile) (c : Ctx) (k ph : Nat) (e : Eff) : (t.stage c k ph e).banksNow = t.banksNow :=
  (fun (z0 : List Pend) => (rfl : ({ t with pend := z0 } : Tile).banksNow = t.banksNow)) _
@[simp] theorem Tile.stage_looks (t : Tile) (c : Ctx) (k ph : Nat) (e : Eff) : (t.stage c k ph e).looks = t.looks :=
  (fun (z0 : List Pend) => (rfl : ({ t with pend := z0 } : Tile).looks = t.looks)) _
@[simp] theorem Tile.stage_semOps (t : Tile) (c : Ctx) (k ph : Nat) (e : Eff) : (t.stage c k ph e).semOps = t.semOps :=
  (fun (z0 : List Pend) => (rfl : ({ t with pend := z0 } : Tile).semOps = t.semOps)) _
@[simp] theorem Tile.stage_traps (t : Tile) (c : Ctx) (k ph : Nat) (e : Eff) : (t.stage c k ph e).traps = t.traps :=
  (fun (z0 : List Pend) => (rfl : ({ t with pend := z0 } : Tile).traps = t.traps)) _
@[simp] theorem Tile.stage_clearing (t : Tile) (c : Ctx) (k ph : Nat) (e : Eff) : (t.stage c k ph e).clearing = t.clearing :=
  (fun (z0 : List Pend) => (rfl : ({ t with pend := z0 } : Tile).clearing = t.clearing)) _
@[simp] theorem Tile.stage_blk (t : Tile) (c : Ctx) (k ph : Nat) (e : Eff) : (t.stage c k ph e).blk = t.blk :=
  (fun (z0 : List Pend) => (rfl : ({ t with pend := z0 } : Tile).blk = t.blk)) _
@[simp] theorem Tile.stage_rdvEng (t : Tile) (c : Ctx) (k ph : Nat) (e : Eff) : (t.stage c k ph e).rdvEng = t.rdvEng :=
  (fun (z0 : List Pend) => (rfl : ({ t with pend := z0 } : Tile).rdvEng = t.rdvEng)) _
@[simp] theorem Tile.stage_cleared (t : Tile) (c : Ctx) (k ph : Nat) (e : Eff) : (t.stage c k ph e).cleared = t.cleared :=
  (fun (z0 : List Pend) => (rfl : ({ t with pend := z0 } : Tile).cleared = t.cleared)) _
@[simp] theorem Tile.stage_out (t : Tile) (c : Ctx) (k ph : Nat) (e : Eff) : (t.stage c k ph e).out = t.out :=
  (fun (z0 : List Pend) => (rfl : ({ t with pend := z0 } : Tile).out = t.out)) _
@[simp] theorem Tile.stage_acc (t : Tile) (c : Ctx) (k ph : Nat) (e : Eff) : (t.stage c k ph e).acc = t.acc :=
  (fun (z0 : List Pend) => (rfl : ({ t with pend := z0 } : Tile).acc = t.acc)) _
@[simp] theorem Tile.stage_cycActive (t : Tile) (c : Ctx) (k ph : Nat) (e : Eff) : (t.stage c k ph e).cycActive = t.cycActive :=
  (fun (z0 : List Pend) => (rfl : ({ t with pend := z0 } : Tile).cycActive = t.cycActive)) _
@[simp] theorem Tile.stage_cycOwned (t : Tile) (c : Ctx) (k ph : Nat) (e : Eff) : (t.stage c k ph e).cycOwned = t.cycOwned :=
  (fun (z0 : List Pend) => (rfl : ({ t with pend := z0 } : Tile).cycOwned = t.cycOwned)) _
@[simp] theorem Tile.stage_unsent (t : Tile) (c : Ctx) (k ph : Nat) (e : Eff) : (t.stage c k ph e).unsent = t.unsent :=
  (fun (z0 : List Pend) => (rfl : ({ t with pend := z0 } : Tile).unsent = t.unsent)) _
@[simp] theorem Tile.stage_issued (t : Tile) (c : Ctx) (k ph : Nat) (e : Eff) : (t.stage c k ph e).issued = t.issued :=
  (fun (z0 : List Pend) => (rfl : ({ t with pend := z0 } : Tile).issued = t.issued)) _
@[simp] theorem Tile.stage_worked (t : Tile) (c : Ctx) (k ph : Nat) (e : Eff) : (t.stage c k ph e).worked = t.worked :=
  (fun (z0 : List Pend) => (rfl : ({ t with pend := z0 } : Tile).worked = t.worked)) _

@[simp] theorem Tile.record_x (t : Tile) (r : TrapRec) : (t.record r).x = t.x :=
  (fun (z0 : List TrapRec) (z1 : Word) => (rfl : ({ t with traps := z0, trapInfo := z1 } : Tile).x = t.x)) _ _
@[simp] theorem Tile.record_y (t : Tile) (r : TrapRec) : (t.record r).y = t.y :=
  (fun (z0 : List TrapRec) (z1 : Word) => (rfl : ({ t with traps := z0, trapInfo := z1 } : Tile).y = t.y)) _ _
@[simp] theorem Tile.record_cls (t : Tile) (r : TrapRec) : (t.record r).cls = t.cls :=
  (fun (z0 : List TrapRec) (z1 : Word) => (rfl : ({ t with traps := z0, trapInfo := z1 } : Tile).cls = t.cls)) _ _
@[simp] theorem Tile.record_spm (t : Tile) (r : TrapRec) : (t.record r).spm = t.spm :=
  (fun (z0 : List TrapRec) (z1 : Word) => (rfl : ({ t with traps := z0, trapInfo := z1 } : Tile).spm = t.spm)) _ _
@[simp] theorem Tile.record_spmTag (t : Tile) (r : TrapRec) : (t.record r).spmTag = t.spmTag :=
  (fun (z0 : List TrapRec) (z1 : Word) => (rfl : ({ t with traps := z0, trapInfo := z1 } : Tile).spmTag = t.spmTag)) _ _
@[simp] theorem Tile.record_grid (t : Tile) (r : TrapRec) : (t.record r).grid = t.grid :=
  (fun (z0 : List TrapRec) (z1 : Word) => (rfl : ({ t with traps := z0, trapInfo := z1 } : Tile).grid = t.grid)) _ _
@[simp] theorem Tile.record_gridTag (t : Tile) (r : TrapRec) : (t.record r).gridTag = t.gridTag :=
  (fun (z0 : List TrapRec) (z1 : Word) => (rfl : ({ t with traps := z0, trapInfo := z1 } : Tile).gridTag = t.gridTag)) _ _
@[simp] theorem Tile.record_side (t : Tile) (r : TrapRec) : (t.record r).side = t.side :=
  (fun (z0 : List TrapRec) (z1 : Word) => (rfl : ({ t with traps := z0, trapInfo := z1 } : Tile).side = t.side)) _ _
@[simp] theorem Tile.record_sideTag (t : Tile) (r : TrapRec) : (t.record r).sideTag = t.sideTag :=
  (fun (z0 : List TrapRec) (z1 : Word) => (rfl : ({ t with traps := z0, trapInfo := z1 } : Tile).sideTag = t.sideTag)) _ _
@[simp] theorem Tile.record_desc (t : Tile) (r : TrapRec) : (t.record r).desc = t.desc :=
  (fun (z0 : List TrapRec) (z1 : Word) => (rfl : ({ t with traps := z0, trapInfo := z1 } : Tile).desc = t.desc)) _ _
@[simp] theorem Tile.record_descTag (t : Tile) (r : TrapRec) : (t.record r).descTag = t.descTag :=
  (fun (z0 : List TrapRec) (z1 : Word) => (rfl : ({ t with traps := z0, trapInfo := z1 } : Tile).descTag = t.descTag)) _ _
@[simp] theorem Tile.record_epoch (t : Tile) (r : TrapRec) : (t.record r).epoch = t.epoch :=
  (fun (z0 : List TrapRec) (z1 : Word) => (rfl : ({ t with traps := z0, trapInfo := z1 } : Tile).epoch = t.epoch)) _ _
@[simp] theorem Tile.record_cutAt (t : Tile) (r : TrapRec) : (t.record r).cutAt = t.cutAt :=
  (fun (z0 : List TrapRec) (z1 : Word) => (rfl : ({ t with traps := z0, trapInfo := z1 } : Tile).cutAt = t.cutAt)) _ _
@[simp] theorem Tile.record_cutBy (t : Tile) (r : TrapRec) : (t.record r).cutBy = t.cutBy :=
  (fun (z0 : List TrapRec) (z1 : Word) => (rfl : ({ t with traps := z0, trapInfo := z1 } : Tile).cutBy = t.cutBy)) _ _
@[simp] theorem Tile.record_g (t : Tile) (r : TrapRec) : (t.record r).g = t.g :=
  (fun (z0 : List TrapRec) (z1 : Word) => (rfl : ({ t with traps := z0, trapInfo := z1 } : Tile).g = t.g)) _ _
@[simp] theorem Tile.record_xr (t : Tile) (r : TrapRec) : (t.record r).xr = t.xr :=
  (fun (z0 : List TrapRec) (z1 : Word) => (rfl : ({ t with traps := z0, trapInfo := z1 } : Tile).xr = t.xr)) _ _
@[simp] theorem Tile.record_m (t : Tile) (r : TrapRec) : (t.record r).m = t.m :=
  (fun (z0 : List TrapRec) (z1 : Word) => (rfl : ({ t with traps := z0, trapInfo := z1 } : Tile).m = t.m)) _ _
@[simp] theorem Tile.record_s (t : Tile) (r : TrapRec) : (t.record r).s = t.s :=
  (fun (z0 : List TrapRec) (z1 : Word) => (rfl : ({ t with traps := z0, trapInfo := z1 } : Tile).s = t.s)) _ _
@[simp] theorem Tile.record_gen (t : Tile) (r : TrapRec) : (t.record r).gen = t.gen :=
  (fun (z0 : List TrapRec) (z1 : Word) => (rfl : ({ t with traps := z0, trapInfo := z1 } : Tile).gen = t.gen)) _ _
@[simp] theorem Tile.record_pitchGen (t : Tile) (r : TrapRec) : (t.record r).pitchGen = t.pitchGen :=
  (fun (z0 : List TrapRec) (z1 : Word) => (rfl : ({ t with traps := z0, trapInfo := z1 } : Tile).pitchGen = t.pitchGen)) _ _
@[simp] theorem Tile.record_maxGen (t : Tile) (r : TrapRec) : (t.record r).maxGen = t.maxGen :=
  (fun (z0 : List TrapRec) (z1 : Word) => (rfl : ({ t with traps := z0, trapInfo := z1 } : Tile).maxGen = t.maxGen)) _ _
@[simp] theorem Tile.record_staleTrap (t : Tile) (r : TrapRec) : (t.record r).staleTrap = t.staleTrap :=
  (fun (z0 : List TrapRec) (z1 : Word) => (rfl : ({ t with traps := z0, trapInfo := z1 } : Tile).staleTrap = t.staleTrap)) _ _
@[simp] theorem Tile.record_staleArrivals (t : Tile) (r : TrapRec) : (t.record r).staleArrivals = t.staleArrivals :=
  (fun (z0 : List TrapRec) (z1 : Word) => (rfl : ({ t with traps := z0, trapInfo := z1 } : Tile).staleArrivals = t.staleArrivals)) _ _
@[simp] theorem Tile.record_vflags (t : Tile) (r : TrapRec) : (t.record r).vflags = t.vflags :=
  (fun (z0 : List TrapRec) (z1 : Word) => (rfl : ({ t with traps := z0, trapInfo := z1 } : Tile).vflags = t.vflags)) _ _
@[simp] theorem Tile.record_mflags (t : Tile) (r : TrapRec) : (t.record r).mflags = t.mflags :=
  (fun (z0 : List TrapRec) (z1 : Word) => (rfl : ({ t with traps := z0, trapInfo := z1 } : Tile).mflags = t.mflags)) _ _
@[simp] theorem Tile.record_tok (t : Tile) (r : TrapRec) : (t.record r).tok = t.tok :=
  (fun (z0 : List TrapRec) (z1 : Word) => (rfl : ({ t with traps := z0, trapInfo := z1 } : Tile).tok = t.tok)) _ _
@[simp] theorem Tile.record_sem (t : Tile) (r : TrapRec) : (t.record r).sem = t.sem :=
  (fun (z0 : List TrapRec) (z1 : Word) => (rfl : ({ t with traps := z0, trapInfo := z1 } : Tile).sem = t.sem)) _ _
@[simp] theorem Tile.record_ring (t : Tile) (r : TrapRec) : (t.record r).ring = t.ring :=
  (fun (z0 : List TrapRec) (z1 : Word) => (rfl : ({ t with traps := z0, trapInfo := z1 } : Tile).ring = t.ring)) _ _
@[simp] theorem Tile.record_eng (t : Tile) (r : TrapRec) : (t.record r).eng = t.eng :=
  (fun (z0 : List TrapRec) (z1 : Word) => (rfl : ({ t with traps := z0, trapInfo := z1 } : Tile).eng = t.eng)) _ _
@[simp] theorem Tile.record_xs (t : Tile) (r : TrapRec) : (t.record r).xs = t.xs :=
  (fun (z0 : List TrapRec) (z1 : Word) => (rfl : ({ t with traps := z0, trapInfo := z1 } : Tile).xs = t.xs)) _ _
@[simp] theorem Tile.record_tl (t : Tile) (r : TrapRec) : (t.record r).tl = t.tl :=
  (fun (z0 : List TrapRec) (z1 : Word) => (rfl : ({ t with traps := z0, trapInfo := z1 } : Tile).tl = t.tl)) _ _
@[simp] theorem Tile.record_mode (t : Tile) (r : TrapRec) : (t.record r).mode = t.mode :=
  (fun (z0 : List TrapRec) (z1 : Word) => (rfl : ({ t with traps := z0, trapInfo := z1 } : Tile).mode = t.mode)) _ _
@[simp] theorem Tile.record_rdvOff (t : Tile) (r : TrapRec) : (t.record r).rdvOff = t.rdvOff :=
  (fun (z0 : List TrapRec) (z1 : Word) => (rfl : ({ t with traps := z0, trapInfo := z1 } : Tile).rdvOff = t.rdvOff)) _ _
@[simp] theorem Tile.record_live (t : Tile) (r : TrapRec) : (t.record r).live = t.live :=
  (fun (z0 : List TrapRec) (z1 : Word) => (rfl : ({ t with traps := z0, trapInfo := z1 } : Tile).live = t.live)) _ _
@[simp] theorem Tile.record_reach (t : Tile) (r : TrapRec) : (t.record r).reach = t.reach :=
  (fun (z0 : List TrapRec) (z1 : Word) => (rfl : ({ t with traps := z0, trapInfo := z1 } : Tile).reach = t.reach)) _ _
@[simp] theorem Tile.record_gseq (t : Tile) (r : TrapRec) : (t.record r).gseq = t.gseq :=
  (fun (z0 : List TrapRec) (z1 : Word) => (rfl : ({ t with traps := z0, trapInfo := z1 } : Tile).gseq = t.gseq)) _ _
@[simp] theorem Tile.record_pend (t : Tile) (r : TrapRec) : (t.record r).pend = t.pend :=
  (fun (z0 : List TrapRec) (z1 : Word) => (rfl : ({ t with traps := z0, trapInfo := z1 } : Tile).pend = t.pend)) _ _
@[simp] theorem Tile.record_banks (t : Tile) (r : TrapRec) : (t.record r).banks = t.banks :=
  (fun (z0 : List TrapRec) (z1 : Word) => (rfl : ({ t with traps := z0, trapInfo := z1 } : Tile).banks = t.banks)) _ _
@[simp] theorem Tile.record_banksNow (t : Tile) (r : TrapRec) : (t.record r).banksNow = t.banksNow :=
  (fun (z0 : List TrapRec) (z1 : Word) => (rfl : ({ t with traps := z0, trapInfo := z1 } : Tile).banksNow = t.banksNow)) _ _
@[simp] theorem Tile.record_looks (t : Tile) (r : TrapRec) : (t.record r).looks = t.looks :=
  (fun (z0 : List TrapRec) (z1 : Word) => (rfl : ({ t with traps := z0, trapInfo := z1 } : Tile).looks = t.looks)) _ _
@[simp] theorem Tile.record_semOps (t : Tile) (r : TrapRec) : (t.record r).semOps = t.semOps :=
  (fun (z0 : List TrapRec) (z1 : Word) => (rfl : ({ t with traps := z0, trapInfo := z1 } : Tile).semOps = t.semOps)) _ _
@[simp] theorem Tile.record_clearing (t : Tile) (r : TrapRec) : (t.record r).clearing = t.clearing :=
  (fun (z0 : List TrapRec) (z1 : Word) => (rfl : ({ t with traps := z0, trapInfo := z1 } : Tile).clearing = t.clearing)) _ _
@[simp] theorem Tile.record_blk (t : Tile) (r : TrapRec) : (t.record r).blk = t.blk :=
  (fun (z0 : List TrapRec) (z1 : Word) => (rfl : ({ t with traps := z0, trapInfo := z1 } : Tile).blk = t.blk)) _ _
@[simp] theorem Tile.record_rdvEng (t : Tile) (r : TrapRec) : (t.record r).rdvEng = t.rdvEng :=
  (fun (z0 : List TrapRec) (z1 : Word) => (rfl : ({ t with traps := z0, trapInfo := z1 } : Tile).rdvEng = t.rdvEng)) _ _
@[simp] theorem Tile.record_cleared (t : Tile) (r : TrapRec) : (t.record r).cleared = t.cleared :=
  (fun (z0 : List TrapRec) (z1 : Word) => (rfl : ({ t with traps := z0, trapInfo := z1 } : Tile).cleared = t.cleared)) _ _
@[simp] theorem Tile.record_out (t : Tile) (r : TrapRec) : (t.record r).out = t.out :=
  (fun (z0 : List TrapRec) (z1 : Word) => (rfl : ({ t with traps := z0, trapInfo := z1 } : Tile).out = t.out)) _ _
@[simp] theorem Tile.record_acc (t : Tile) (r : TrapRec) : (t.record r).acc = t.acc :=
  (fun (z0 : List TrapRec) (z1 : Word) => (rfl : ({ t with traps := z0, trapInfo := z1 } : Tile).acc = t.acc)) _ _
@[simp] theorem Tile.record_cycActive (t : Tile) (r : TrapRec) : (t.record r).cycActive = t.cycActive :=
  (fun (z0 : List TrapRec) (z1 : Word) => (rfl : ({ t with traps := z0, trapInfo := z1 } : Tile).cycActive = t.cycActive)) _ _
@[simp] theorem Tile.record_cycOwned (t : Tile) (r : TrapRec) : (t.record r).cycOwned = t.cycOwned :=
  (fun (z0 : List TrapRec) (z1 : Word) => (rfl : ({ t with traps := z0, trapInfo := z1 } : Tile).cycOwned = t.cycOwned)) _ _
@[simp] theorem Tile.record_unsent (t : Tile) (r : TrapRec) : (t.record r).unsent = t.unsent :=
  (fun (z0 : List TrapRec) (z1 : Word) => (rfl : ({ t with traps := z0, trapInfo := z1 } : Tile).unsent = t.unsent)) _ _
@[simp] theorem Tile.record_issued (t : Tile) (r : TrapRec) : (t.record r).issued = t.issued :=
  (fun (z0 : List TrapRec) (z1 : Word) => (rfl : ({ t with traps := z0, trapInfo := z1 } : Tile).issued = t.issued)) _ _
@[simp] theorem Tile.record_worked (t : Tile) (r : TrapRec) : (t.record r).worked = t.worked :=
  (fun (z0 : List TrapRec) (z1 : Word) => (rfl : ({ t with traps := z0, trapInfo := z1 } : Tile).worked = t.worked)) _ _

@[simp] theorem Tile.setEng_x (t : Tile) (e : Engine) (v : EngState) : (t.setEng e v).x = t.x :=
  (fun (z0 : Vector EngState 5) => (rfl : ({ t with eng := z0 } : Tile).x = t.x)) _
@[simp] theorem Tile.setEng_y (t : Tile) (e : Engine) (v : EngState) : (t.setEng e v).y = t.y :=
  (fun (z0 : Vector EngState 5) => (rfl : ({ t with eng := z0 } : Tile).y = t.y)) _
@[simp] theorem Tile.setEng_cls (t : Tile) (e : Engine) (v : EngState) : (t.setEng e v).cls = t.cls :=
  (fun (z0 : Vector EngState 5) => (rfl : ({ t with eng := z0 } : Tile).cls = t.cls)) _
@[simp] theorem Tile.setEng_spm (t : Tile) (e : Engine) (v : EngState) : (t.setEng e v).spm = t.spm :=
  (fun (z0 : Vector EngState 5) => (rfl : ({ t with eng := z0 } : Tile).spm = t.spm)) _
@[simp] theorem Tile.setEng_spmTag (t : Tile) (e : Engine) (v : EngState) : (t.setEng e v).spmTag = t.spmTag :=
  (fun (z0 : Vector EngState 5) => (rfl : ({ t with eng := z0 } : Tile).spmTag = t.spmTag)) _
@[simp] theorem Tile.setEng_grid (t : Tile) (e : Engine) (v : EngState) : (t.setEng e v).grid = t.grid :=
  (fun (z0 : Vector EngState 5) => (rfl : ({ t with eng := z0 } : Tile).grid = t.grid)) _
@[simp] theorem Tile.setEng_gridTag (t : Tile) (e : Engine) (v : EngState) : (t.setEng e v).gridTag = t.gridTag :=
  (fun (z0 : Vector EngState 5) => (rfl : ({ t with eng := z0 } : Tile).gridTag = t.gridTag)) _
@[simp] theorem Tile.setEng_side (t : Tile) (e : Engine) (v : EngState) : (t.setEng e v).side = t.side :=
  (fun (z0 : Vector EngState 5) => (rfl : ({ t with eng := z0 } : Tile).side = t.side)) _
@[simp] theorem Tile.setEng_sideTag (t : Tile) (e : Engine) (v : EngState) : (t.setEng e v).sideTag = t.sideTag :=
  (fun (z0 : Vector EngState 5) => (rfl : ({ t with eng := z0 } : Tile).sideTag = t.sideTag)) _
@[simp] theorem Tile.setEng_desc (t : Tile) (e : Engine) (v : EngState) : (t.setEng e v).desc = t.desc :=
  (fun (z0 : Vector EngState 5) => (rfl : ({ t with eng := z0 } : Tile).desc = t.desc)) _
@[simp] theorem Tile.setEng_descTag (t : Tile) (e : Engine) (v : EngState) : (t.setEng e v).descTag = t.descTag :=
  (fun (z0 : Vector EngState 5) => (rfl : ({ t with eng := z0 } : Tile).descTag = t.descTag)) _
@[simp] theorem Tile.setEng_epoch (t : Tile) (e : Engine) (v : EngState) : (t.setEng e v).epoch = t.epoch :=
  (fun (z0 : Vector EngState 5) => (rfl : ({ t with eng := z0 } : Tile).epoch = t.epoch)) _
@[simp] theorem Tile.setEng_cutAt (t : Tile) (e : Engine) (v : EngState) : (t.setEng e v).cutAt = t.cutAt :=
  (fun (z0 : Vector EngState 5) => (rfl : ({ t with eng := z0 } : Tile).cutAt = t.cutAt)) _
@[simp] theorem Tile.setEng_cutBy (t : Tile) (e : Engine) (v : EngState) : (t.setEng e v).cutBy = t.cutBy :=
  (fun (z0 : Vector EngState 5) => (rfl : ({ t with eng := z0 } : Tile).cutBy = t.cutBy)) _
@[simp] theorem Tile.setEng_g (t : Tile) (e : Engine) (v : EngState) : (t.setEng e v).g = t.g :=
  (fun (z0 : Vector EngState 5) => (rfl : ({ t with eng := z0 } : Tile).g = t.g)) _
@[simp] theorem Tile.setEng_xr (t : Tile) (e : Engine) (v : EngState) : (t.setEng e v).xr = t.xr :=
  (fun (z0 : Vector EngState 5) => (rfl : ({ t with eng := z0 } : Tile).xr = t.xr)) _
@[simp] theorem Tile.setEng_m (t : Tile) (e : Engine) (v : EngState) : (t.setEng e v).m = t.m :=
  (fun (z0 : Vector EngState 5) => (rfl : ({ t with eng := z0 } : Tile).m = t.m)) _
@[simp] theorem Tile.setEng_s (t : Tile) (e : Engine) (v : EngState) : (t.setEng e v).s = t.s :=
  (fun (z0 : Vector EngState 5) => (rfl : ({ t with eng := z0 } : Tile).s = t.s)) _
@[simp] theorem Tile.setEng_gen (t : Tile) (e : Engine) (v : EngState) : (t.setEng e v).gen = t.gen :=
  (fun (z0 : Vector EngState 5) => (rfl : ({ t with eng := z0 } : Tile).gen = t.gen)) _
@[simp] theorem Tile.setEng_pitchGen (t : Tile) (e : Engine) (v : EngState) : (t.setEng e v).pitchGen = t.pitchGen :=
  (fun (z0 : Vector EngState 5) => (rfl : ({ t with eng := z0 } : Tile).pitchGen = t.pitchGen)) _
@[simp] theorem Tile.setEng_maxGen (t : Tile) (e : Engine) (v : EngState) : (t.setEng e v).maxGen = t.maxGen :=
  (fun (z0 : Vector EngState 5) => (rfl : ({ t with eng := z0 } : Tile).maxGen = t.maxGen)) _
@[simp] theorem Tile.setEng_staleTrap (t : Tile) (e : Engine) (v : EngState) : (t.setEng e v).staleTrap = t.staleTrap :=
  (fun (z0 : Vector EngState 5) => (rfl : ({ t with eng := z0 } : Tile).staleTrap = t.staleTrap)) _
@[simp] theorem Tile.setEng_staleArrivals (t : Tile) (e : Engine) (v : EngState) : (t.setEng e v).staleArrivals = t.staleArrivals :=
  (fun (z0 : Vector EngState 5) => (rfl : ({ t with eng := z0 } : Tile).staleArrivals = t.staleArrivals)) _
@[simp] theorem Tile.setEng_vflags (t : Tile) (e : Engine) (v : EngState) : (t.setEng e v).vflags = t.vflags :=
  (fun (z0 : Vector EngState 5) => (rfl : ({ t with eng := z0 } : Tile).vflags = t.vflags)) _
@[simp] theorem Tile.setEng_mflags (t : Tile) (e : Engine) (v : EngState) : (t.setEng e v).mflags = t.mflags :=
  (fun (z0 : Vector EngState 5) => (rfl : ({ t with eng := z0 } : Tile).mflags = t.mflags)) _
@[simp] theorem Tile.setEng_trapInfo (t : Tile) (e : Engine) (v : EngState) : (t.setEng e v).trapInfo = t.trapInfo :=
  (fun (z0 : Vector EngState 5) => (rfl : ({ t with eng := z0 } : Tile).trapInfo = t.trapInfo)) _
@[simp] theorem Tile.setEng_tok (t : Tile) (e : Engine) (v : EngState) : (t.setEng e v).tok = t.tok :=
  (fun (z0 : Vector EngState 5) => (rfl : ({ t with eng := z0 } : Tile).tok = t.tok)) _
@[simp] theorem Tile.setEng_sem (t : Tile) (e : Engine) (v : EngState) : (t.setEng e v).sem = t.sem :=
  (fun (z0 : Vector EngState 5) => (rfl : ({ t with eng := z0 } : Tile).sem = t.sem)) _
@[simp] theorem Tile.setEng_ring (t : Tile) (e : Engine) (v : EngState) : (t.setEng e v).ring = t.ring :=
  (fun (z0 : Vector EngState 5) => (rfl : ({ t with eng := z0 } : Tile).ring = t.ring)) _
@[simp] theorem Tile.setEng_xs (t : Tile) (e : Engine) (v : EngState) : (t.setEng e v).xs = t.xs :=
  (fun (z0 : Vector EngState 5) => (rfl : ({ t with eng := z0 } : Tile).xs = t.xs)) _
@[simp] theorem Tile.setEng_tl (t : Tile) (e : Engine) (v : EngState) : (t.setEng e v).tl = t.tl :=
  (fun (z0 : Vector EngState 5) => (rfl : ({ t with eng := z0 } : Tile).tl = t.tl)) _
@[simp] theorem Tile.setEng_mode (t : Tile) (e : Engine) (v : EngState) : (t.setEng e v).mode = t.mode :=
  (fun (z0 : Vector EngState 5) => (rfl : ({ t with eng := z0 } : Tile).mode = t.mode)) _
@[simp] theorem Tile.setEng_rdvOff (t : Tile) (e : Engine) (v : EngState) : (t.setEng e v).rdvOff = t.rdvOff :=
  (fun (z0 : Vector EngState 5) => (rfl : ({ t with eng := z0 } : Tile).rdvOff = t.rdvOff)) _
@[simp] theorem Tile.setEng_live (t : Tile) (e : Engine) (v : EngState) : (t.setEng e v).live = t.live :=
  (fun (z0 : Vector EngState 5) => (rfl : ({ t with eng := z0 } : Tile).live = t.live)) _
@[simp] theorem Tile.setEng_reach (t : Tile) (e : Engine) (v : EngState) : (t.setEng e v).reach = t.reach :=
  (fun (z0 : Vector EngState 5) => (rfl : ({ t with eng := z0 } : Tile).reach = t.reach)) _
@[simp] theorem Tile.setEng_gseq (t : Tile) (e : Engine) (v : EngState) : (t.setEng e v).gseq = t.gseq :=
  (fun (z0 : Vector EngState 5) => (rfl : ({ t with eng := z0 } : Tile).gseq = t.gseq)) _
@[simp] theorem Tile.setEng_pend (t : Tile) (e : Engine) (v : EngState) : (t.setEng e v).pend = t.pend :=
  (fun (z0 : Vector EngState 5) => (rfl : ({ t with eng := z0 } : Tile).pend = t.pend)) _
@[simp] theorem Tile.setEng_banks (t : Tile) (e : Engine) (v : EngState) : (t.setEng e v).banks = t.banks :=
  (fun (z0 : Vector EngState 5) => (rfl : ({ t with eng := z0 } : Tile).banks = t.banks)) _
@[simp] theorem Tile.setEng_banksNow (t : Tile) (e : Engine) (v : EngState) : (t.setEng e v).banksNow = t.banksNow :=
  (fun (z0 : Vector EngState 5) => (rfl : ({ t with eng := z0 } : Tile).banksNow = t.banksNow)) _
@[simp] theorem Tile.setEng_looks (t : Tile) (e : Engine) (v : EngState) : (t.setEng e v).looks = t.looks :=
  (fun (z0 : Vector EngState 5) => (rfl : ({ t with eng := z0 } : Tile).looks = t.looks)) _
@[simp] theorem Tile.setEng_semOps (t : Tile) (e : Engine) (v : EngState) : (t.setEng e v).semOps = t.semOps :=
  (fun (z0 : Vector EngState 5) => (rfl : ({ t with eng := z0 } : Tile).semOps = t.semOps)) _
@[simp] theorem Tile.setEng_traps (t : Tile) (e : Engine) (v : EngState) : (t.setEng e v).traps = t.traps :=
  (fun (z0 : Vector EngState 5) => (rfl : ({ t with eng := z0 } : Tile).traps = t.traps)) _
@[simp] theorem Tile.setEng_clearing (t : Tile) (e : Engine) (v : EngState) : (t.setEng e v).clearing = t.clearing :=
  (fun (z0 : Vector EngState 5) => (rfl : ({ t with eng := z0 } : Tile).clearing = t.clearing)) _
@[simp] theorem Tile.setEng_blk (t : Tile) (e : Engine) (v : EngState) : (t.setEng e v).blk = t.blk :=
  (fun (z0 : Vector EngState 5) => (rfl : ({ t with eng := z0 } : Tile).blk = t.blk)) _
@[simp] theorem Tile.setEng_rdvEng (t : Tile) (e : Engine) (v : EngState) : (t.setEng e v).rdvEng = t.rdvEng :=
  (fun (z0 : Vector EngState 5) => (rfl : ({ t with eng := z0 } : Tile).rdvEng = t.rdvEng)) _
@[simp] theorem Tile.setEng_cleared (t : Tile) (e : Engine) (v : EngState) : (t.setEng e v).cleared = t.cleared :=
  (fun (z0 : Vector EngState 5) => (rfl : ({ t with eng := z0 } : Tile).cleared = t.cleared)) _
@[simp] theorem Tile.setEng_out (t : Tile) (e : Engine) (v : EngState) : (t.setEng e v).out = t.out :=
  (fun (z0 : Vector EngState 5) => (rfl : ({ t with eng := z0 } : Tile).out = t.out)) _
@[simp] theorem Tile.setEng_acc (t : Tile) (e : Engine) (v : EngState) : (t.setEng e v).acc = t.acc :=
  (fun (z0 : Vector EngState 5) => (rfl : ({ t with eng := z0 } : Tile).acc = t.acc)) _
@[simp] theorem Tile.setEng_cycActive (t : Tile) (e : Engine) (v : EngState) : (t.setEng e v).cycActive = t.cycActive :=
  (fun (z0 : Vector EngState 5) => (rfl : ({ t with eng := z0 } : Tile).cycActive = t.cycActive)) _
@[simp] theorem Tile.setEng_cycOwned (t : Tile) (e : Engine) (v : EngState) : (t.setEng e v).cycOwned = t.cycOwned :=
  (fun (z0 : Vector EngState 5) => (rfl : ({ t with eng := z0 } : Tile).cycOwned = t.cycOwned)) _
@[simp] theorem Tile.setEng_unsent (t : Tile) (e : Engine) (v : EngState) : (t.setEng e v).unsent = t.unsent :=
  (fun (z0 : Vector EngState 5) => (rfl : ({ t with eng := z0 } : Tile).unsent = t.unsent)) _
@[simp] theorem Tile.setEng_issued (t : Tile) (e : Engine) (v : EngState) : (t.setEng e v).issued = t.issued :=
  (fun (z0 : Vector EngState 5) => (rfl : ({ t with eng := z0 } : Tile).issued = t.issued)) _
@[simp] theorem Tile.setEng_worked (t : Tile) (e : Engine) (v : EngState) : (t.setEng e v).worked = t.worked :=
  (fun (z0 : Vector EngState 5) => (rfl : ({ t with eng := z0 } : Tile).worked = t.worked)) _

@[simp] theorem Tile.charge_x (t : Tile) (env : Env) (code n : Nat) : (t.charge env code n).x = t.x :=
  (fun (z0 : Vector Nat 7) (z1 : Vector Nat 7) (z2 : Bool) => (rfl : ({ t with acc := z0, unsent := z1, worked := z2 } : Tile).x = t.x)) _ _ _
@[simp] theorem Tile.charge_y (t : Tile) (env : Env) (code n : Nat) : (t.charge env code n).y = t.y :=
  (fun (z0 : Vector Nat 7) (z1 : Vector Nat 7) (z2 : Bool) => (rfl : ({ t with acc := z0, unsent := z1, worked := z2 } : Tile).y = t.y)) _ _ _
@[simp] theorem Tile.charge_cls (t : Tile) (env : Env) (code n : Nat) : (t.charge env code n).cls = t.cls :=
  (fun (z0 : Vector Nat 7) (z1 : Vector Nat 7) (z2 : Bool) => (rfl : ({ t with acc := z0, unsent := z1, worked := z2 } : Tile).cls = t.cls)) _ _ _
@[simp] theorem Tile.charge_spm (t : Tile) (env : Env) (code n : Nat) : (t.charge env code n).spm = t.spm :=
  (fun (z0 : Vector Nat 7) (z1 : Vector Nat 7) (z2 : Bool) => (rfl : ({ t with acc := z0, unsent := z1, worked := z2 } : Tile).spm = t.spm)) _ _ _
@[simp] theorem Tile.charge_spmTag (t : Tile) (env : Env) (code n : Nat) : (t.charge env code n).spmTag = t.spmTag :=
  (fun (z0 : Vector Nat 7) (z1 : Vector Nat 7) (z2 : Bool) => (rfl : ({ t with acc := z0, unsent := z1, worked := z2 } : Tile).spmTag = t.spmTag)) _ _ _
@[simp] theorem Tile.charge_grid (t : Tile) (env : Env) (code n : Nat) : (t.charge env code n).grid = t.grid :=
  (fun (z0 : Vector Nat 7) (z1 : Vector Nat 7) (z2 : Bool) => (rfl : ({ t with acc := z0, unsent := z1, worked := z2 } : Tile).grid = t.grid)) _ _ _
@[simp] theorem Tile.charge_gridTag (t : Tile) (env : Env) (code n : Nat) : (t.charge env code n).gridTag = t.gridTag :=
  (fun (z0 : Vector Nat 7) (z1 : Vector Nat 7) (z2 : Bool) => (rfl : ({ t with acc := z0, unsent := z1, worked := z2 } : Tile).gridTag = t.gridTag)) _ _ _
@[simp] theorem Tile.charge_side (t : Tile) (env : Env) (code n : Nat) : (t.charge env code n).side = t.side :=
  (fun (z0 : Vector Nat 7) (z1 : Vector Nat 7) (z2 : Bool) => (rfl : ({ t with acc := z0, unsent := z1, worked := z2 } : Tile).side = t.side)) _ _ _
@[simp] theorem Tile.charge_sideTag (t : Tile) (env : Env) (code n : Nat) : (t.charge env code n).sideTag = t.sideTag :=
  (fun (z0 : Vector Nat 7) (z1 : Vector Nat 7) (z2 : Bool) => (rfl : ({ t with acc := z0, unsent := z1, worked := z2 } : Tile).sideTag = t.sideTag)) _ _ _
@[simp] theorem Tile.charge_desc (t : Tile) (env : Env) (code n : Nat) : (t.charge env code n).desc = t.desc :=
  (fun (z0 : Vector Nat 7) (z1 : Vector Nat 7) (z2 : Bool) => (rfl : ({ t with acc := z0, unsent := z1, worked := z2 } : Tile).desc = t.desc)) _ _ _
@[simp] theorem Tile.charge_descTag (t : Tile) (env : Env) (code n : Nat) : (t.charge env code n).descTag = t.descTag :=
  (fun (z0 : Vector Nat 7) (z1 : Vector Nat 7) (z2 : Bool) => (rfl : ({ t with acc := z0, unsent := z1, worked := z2 } : Tile).descTag = t.descTag)) _ _ _
@[simp] theorem Tile.charge_epoch (t : Tile) (env : Env) (code n : Nat) : (t.charge env code n).epoch = t.epoch :=
  (fun (z0 : Vector Nat 7) (z1 : Vector Nat 7) (z2 : Bool) => (rfl : ({ t with acc := z0, unsent := z1, worked := z2 } : Tile).epoch = t.epoch)) _ _ _
@[simp] theorem Tile.charge_cutAt (t : Tile) (env : Env) (code n : Nat) : (t.charge env code n).cutAt = t.cutAt :=
  (fun (z0 : Vector Nat 7) (z1 : Vector Nat 7) (z2 : Bool) => (rfl : ({ t with acc := z0, unsent := z1, worked := z2 } : Tile).cutAt = t.cutAt)) _ _ _
@[simp] theorem Tile.charge_cutBy (t : Tile) (env : Env) (code n : Nat) : (t.charge env code n).cutBy = t.cutBy :=
  (fun (z0 : Vector Nat 7) (z1 : Vector Nat 7) (z2 : Bool) => (rfl : ({ t with acc := z0, unsent := z1, worked := z2 } : Tile).cutBy = t.cutBy)) _ _ _
@[simp] theorem Tile.charge_g (t : Tile) (env : Env) (code n : Nat) : (t.charge env code n).g = t.g :=
  (fun (z0 : Vector Nat 7) (z1 : Vector Nat 7) (z2 : Bool) => (rfl : ({ t with acc := z0, unsent := z1, worked := z2 } : Tile).g = t.g)) _ _ _
@[simp] theorem Tile.charge_xr (t : Tile) (env : Env) (code n : Nat) : (t.charge env code n).xr = t.xr :=
  (fun (z0 : Vector Nat 7) (z1 : Vector Nat 7) (z2 : Bool) => (rfl : ({ t with acc := z0, unsent := z1, worked := z2 } : Tile).xr = t.xr)) _ _ _
@[simp] theorem Tile.charge_m (t : Tile) (env : Env) (code n : Nat) : (t.charge env code n).m = t.m :=
  (fun (z0 : Vector Nat 7) (z1 : Vector Nat 7) (z2 : Bool) => (rfl : ({ t with acc := z0, unsent := z1, worked := z2 } : Tile).m = t.m)) _ _ _
@[simp] theorem Tile.charge_s (t : Tile) (env : Env) (code n : Nat) : (t.charge env code n).s = t.s :=
  (fun (z0 : Vector Nat 7) (z1 : Vector Nat 7) (z2 : Bool) => (rfl : ({ t with acc := z0, unsent := z1, worked := z2 } : Tile).s = t.s)) _ _ _
@[simp] theorem Tile.charge_gen (t : Tile) (env : Env) (code n : Nat) : (t.charge env code n).gen = t.gen :=
  (fun (z0 : Vector Nat 7) (z1 : Vector Nat 7) (z2 : Bool) => (rfl : ({ t with acc := z0, unsent := z1, worked := z2 } : Tile).gen = t.gen)) _ _ _
@[simp] theorem Tile.charge_pitchGen (t : Tile) (env : Env) (code n : Nat) : (t.charge env code n).pitchGen = t.pitchGen :=
  (fun (z0 : Vector Nat 7) (z1 : Vector Nat 7) (z2 : Bool) => (rfl : ({ t with acc := z0, unsent := z1, worked := z2 } : Tile).pitchGen = t.pitchGen)) _ _ _
@[simp] theorem Tile.charge_maxGen (t : Tile) (env : Env) (code n : Nat) : (t.charge env code n).maxGen = t.maxGen :=
  (fun (z0 : Vector Nat 7) (z1 : Vector Nat 7) (z2 : Bool) => (rfl : ({ t with acc := z0, unsent := z1, worked := z2 } : Tile).maxGen = t.maxGen)) _ _ _
@[simp] theorem Tile.charge_staleTrap (t : Tile) (env : Env) (code n : Nat) : (t.charge env code n).staleTrap = t.staleTrap :=
  (fun (z0 : Vector Nat 7) (z1 : Vector Nat 7) (z2 : Bool) => (rfl : ({ t with acc := z0, unsent := z1, worked := z2 } : Tile).staleTrap = t.staleTrap)) _ _ _
@[simp] theorem Tile.charge_staleArrivals (t : Tile) (env : Env) (code n : Nat) : (t.charge env code n).staleArrivals = t.staleArrivals :=
  (fun (z0 : Vector Nat 7) (z1 : Vector Nat 7) (z2 : Bool) => (rfl : ({ t with acc := z0, unsent := z1, worked := z2 } : Tile).staleArrivals = t.staleArrivals)) _ _ _
@[simp] theorem Tile.charge_vflags (t : Tile) (env : Env) (code n : Nat) : (t.charge env code n).vflags = t.vflags :=
  (fun (z0 : Vector Nat 7) (z1 : Vector Nat 7) (z2 : Bool) => (rfl : ({ t with acc := z0, unsent := z1, worked := z2 } : Tile).vflags = t.vflags)) _ _ _
@[simp] theorem Tile.charge_mflags (t : Tile) (env : Env) (code n : Nat) : (t.charge env code n).mflags = t.mflags :=
  (fun (z0 : Vector Nat 7) (z1 : Vector Nat 7) (z2 : Bool) => (rfl : ({ t with acc := z0, unsent := z1, worked := z2 } : Tile).mflags = t.mflags)) _ _ _
@[simp] theorem Tile.charge_trapInfo (t : Tile) (env : Env) (code n : Nat) : (t.charge env code n).trapInfo = t.trapInfo :=
  (fun (z0 : Vector Nat 7) (z1 : Vector Nat 7) (z2 : Bool) => (rfl : ({ t with acc := z0, unsent := z1, worked := z2 } : Tile).trapInfo = t.trapInfo)) _ _ _
@[simp] theorem Tile.charge_tok (t : Tile) (env : Env) (code n : Nat) : (t.charge env code n).tok = t.tok :=
  (fun (z0 : Vector Nat 7) (z1 : Vector Nat 7) (z2 : Bool) => (rfl : ({ t with acc := z0, unsent := z1, worked := z2 } : Tile).tok = t.tok)) _ _ _
@[simp] theorem Tile.charge_sem (t : Tile) (env : Env) (code n : Nat) : (t.charge env code n).sem = t.sem :=
  (fun (z0 : Vector Nat 7) (z1 : Vector Nat 7) (z2 : Bool) => (rfl : ({ t with acc := z0, unsent := z1, worked := z2 } : Tile).sem = t.sem)) _ _ _
@[simp] theorem Tile.charge_ring (t : Tile) (env : Env) (code n : Nat) : (t.charge env code n).ring = t.ring :=
  (fun (z0 : Vector Nat 7) (z1 : Vector Nat 7) (z2 : Bool) => (rfl : ({ t with acc := z0, unsent := z1, worked := z2 } : Tile).ring = t.ring)) _ _ _
@[simp] theorem Tile.charge_eng (t : Tile) (env : Env) (code n : Nat) : (t.charge env code n).eng = t.eng :=
  (fun (z0 : Vector Nat 7) (z1 : Vector Nat 7) (z2 : Bool) => (rfl : ({ t with acc := z0, unsent := z1, worked := z2 } : Tile).eng = t.eng)) _ _ _
@[simp] theorem Tile.charge_xs (t : Tile) (env : Env) (code n : Nat) : (t.charge env code n).xs = t.xs :=
  (fun (z0 : Vector Nat 7) (z1 : Vector Nat 7) (z2 : Bool) => (rfl : ({ t with acc := z0, unsent := z1, worked := z2 } : Tile).xs = t.xs)) _ _ _
@[simp] theorem Tile.charge_tl (t : Tile) (env : Env) (code n : Nat) : (t.charge env code n).tl = t.tl :=
  (fun (z0 : Vector Nat 7) (z1 : Vector Nat 7) (z2 : Bool) => (rfl : ({ t with acc := z0, unsent := z1, worked := z2 } : Tile).tl = t.tl)) _ _ _
@[simp] theorem Tile.charge_mode (t : Tile) (env : Env) (code n : Nat) : (t.charge env code n).mode = t.mode :=
  (fun (z0 : Vector Nat 7) (z1 : Vector Nat 7) (z2 : Bool) => (rfl : ({ t with acc := z0, unsent := z1, worked := z2 } : Tile).mode = t.mode)) _ _ _
@[simp] theorem Tile.charge_rdvOff (t : Tile) (env : Env) (code n : Nat) : (t.charge env code n).rdvOff = t.rdvOff :=
  (fun (z0 : Vector Nat 7) (z1 : Vector Nat 7) (z2 : Bool) => (rfl : ({ t with acc := z0, unsent := z1, worked := z2 } : Tile).rdvOff = t.rdvOff)) _ _ _
@[simp] theorem Tile.charge_live (t : Tile) (env : Env) (code n : Nat) : (t.charge env code n).live = t.live :=
  (fun (z0 : Vector Nat 7) (z1 : Vector Nat 7) (z2 : Bool) => (rfl : ({ t with acc := z0, unsent := z1, worked := z2 } : Tile).live = t.live)) _ _ _
@[simp] theorem Tile.charge_reach (t : Tile) (env : Env) (code n : Nat) : (t.charge env code n).reach = t.reach :=
  (fun (z0 : Vector Nat 7) (z1 : Vector Nat 7) (z2 : Bool) => (rfl : ({ t with acc := z0, unsent := z1, worked := z2 } : Tile).reach = t.reach)) _ _ _
@[simp] theorem Tile.charge_gseq (t : Tile) (env : Env) (code n : Nat) : (t.charge env code n).gseq = t.gseq :=
  (fun (z0 : Vector Nat 7) (z1 : Vector Nat 7) (z2 : Bool) => (rfl : ({ t with acc := z0, unsent := z1, worked := z2 } : Tile).gseq = t.gseq)) _ _ _
@[simp] theorem Tile.charge_pend (t : Tile) (env : Env) (code n : Nat) : (t.charge env code n).pend = t.pend :=
  (fun (z0 : Vector Nat 7) (z1 : Vector Nat 7) (z2 : Bool) => (rfl : ({ t with acc := z0, unsent := z1, worked := z2 } : Tile).pend = t.pend)) _ _ _
@[simp] theorem Tile.charge_banks (t : Tile) (env : Env) (code n : Nat) : (t.charge env code n).banks = t.banks :=
  (fun (z0 : Vector Nat 7) (z1 : Vector Nat 7) (z2 : Bool) => (rfl : ({ t with acc := z0, unsent := z1, worked := z2 } : Tile).banks = t.banks)) _ _ _
@[simp] theorem Tile.charge_banksNow (t : Tile) (env : Env) (code n : Nat) : (t.charge env code n).banksNow = t.banksNow :=
  (fun (z0 : Vector Nat 7) (z1 : Vector Nat 7) (z2 : Bool) => (rfl : ({ t with acc := z0, unsent := z1, worked := z2 } : Tile).banksNow = t.banksNow)) _ _ _
@[simp] theorem Tile.charge_looks (t : Tile) (env : Env) (code n : Nat) : (t.charge env code n).looks = t.looks :=
  (fun (z0 : Vector Nat 7) (z1 : Vector Nat 7) (z2 : Bool) => (rfl : ({ t with acc := z0, unsent := z1, worked := z2 } : Tile).looks = t.looks)) _ _ _
@[simp] theorem Tile.charge_semOps (t : Tile) (env : Env) (code n : Nat) : (t.charge env code n).semOps = t.semOps :=
  (fun (z0 : Vector Nat 7) (z1 : Vector Nat 7) (z2 : Bool) => (rfl : ({ t with acc := z0, unsent := z1, worked := z2 } : Tile).semOps = t.semOps)) _ _ _
@[simp] theorem Tile.charge_traps (t : Tile) (env : Env) (code n : Nat) : (t.charge env code n).traps = t.traps :=
  (fun (z0 : Vector Nat 7) (z1 : Vector Nat 7) (z2 : Bool) => (rfl : ({ t with acc := z0, unsent := z1, worked := z2 } : Tile).traps = t.traps)) _ _ _
@[simp] theorem Tile.charge_clearing (t : Tile) (env : Env) (code n : Nat) : (t.charge env code n).clearing = t.clearing :=
  (fun (z0 : Vector Nat 7) (z1 : Vector Nat 7) (z2 : Bool) => (rfl : ({ t with acc := z0, unsent := z1, worked := z2 } : Tile).clearing = t.clearing)) _ _ _
@[simp] theorem Tile.charge_blk (t : Tile) (env : Env) (code n : Nat) : (t.charge env code n).blk = t.blk :=
  (fun (z0 : Vector Nat 7) (z1 : Vector Nat 7) (z2 : Bool) => (rfl : ({ t with acc := z0, unsent := z1, worked := z2 } : Tile).blk = t.blk)) _ _ _
@[simp] theorem Tile.charge_rdvEng (t : Tile) (env : Env) (code n : Nat) : (t.charge env code n).rdvEng = t.rdvEng :=
  (fun (z0 : Vector Nat 7) (z1 : Vector Nat 7) (z2 : Bool) => (rfl : ({ t with acc := z0, unsent := z1, worked := z2 } : Tile).rdvEng = t.rdvEng)) _ _ _
@[simp] theorem Tile.charge_cleared (t : Tile) (env : Env) (code n : Nat) : (t.charge env code n).cleared = t.cleared :=
  (fun (z0 : Vector Nat 7) (z1 : Vector Nat 7) (z2 : Bool) => (rfl : ({ t with acc := z0, unsent := z1, worked := z2 } : Tile).cleared = t.cleared)) _ _ _
@[simp] theorem Tile.charge_out (t : Tile) (env : Env) (code n : Nat) : (t.charge env code n).out = t.out :=
  (fun (z0 : Vector Nat 7) (z1 : Vector Nat 7) (z2 : Bool) => (rfl : ({ t with acc := z0, unsent := z1, worked := z2 } : Tile).out = t.out)) _ _ _
@[simp] theorem Tile.charge_cycActive (t : Tile) (env : Env) (code n : Nat) : (t.charge env code n).cycActive = t.cycActive :=
  (fun (z0 : Vector Nat 7) (z1 : Vector Nat 7) (z2 : Bool) => (rfl : ({ t with acc := z0, unsent := z1, worked := z2 } : Tile).cycActive = t.cycActive)) _ _ _
@[simp] theorem Tile.charge_cycOwned (t : Tile) (env : Env) (code n : Nat) : (t.charge env code n).cycOwned = t.cycOwned :=
  (fun (z0 : Vector Nat 7) (z1 : Vector Nat 7) (z2 : Bool) => (rfl : ({ t with acc := z0, unsent := z1, worked := z2 } : Tile).cycOwned = t.cycOwned)) _ _ _
@[simp] theorem Tile.charge_issued (t : Tile) (env : Env) (code n : Nat) : (t.charge env code n).issued = t.issued :=
  (fun (z0 : Vector Nat 7) (z1 : Vector Nat 7) (z2 : Bool) => (rfl : ({ t with acc := z0, unsent := z1, worked := z2 } : Tile).issued = t.issued)) _ _ _

@[simp] theorem Tile.setG_x (t : Tile) (r : Nat) (v : Word) : (t.setG r v).x = t.x :=
  (fun (z0 : Vector Reg 32) => (rfl : ({ t with g := z0 } : Tile).x = t.x)) _
@[simp] theorem Tile.setG_y (t : Tile) (r : Nat) (v : Word) : (t.setG r v).y = t.y :=
  (fun (z0 : Vector Reg 32) => (rfl : ({ t with g := z0 } : Tile).y = t.y)) _
@[simp] theorem Tile.setG_cls (t : Tile) (r : Nat) (v : Word) : (t.setG r v).cls = t.cls :=
  (fun (z0 : Vector Reg 32) => (rfl : ({ t with g := z0 } : Tile).cls = t.cls)) _
@[simp] theorem Tile.setG_spm (t : Tile) (r : Nat) (v : Word) : (t.setG r v).spm = t.spm :=
  (fun (z0 : Vector Reg 32) => (rfl : ({ t with g := z0 } : Tile).spm = t.spm)) _
@[simp] theorem Tile.setG_spmTag (t : Tile) (r : Nat) (v : Word) : (t.setG r v).spmTag = t.spmTag :=
  (fun (z0 : Vector Reg 32) => (rfl : ({ t with g := z0 } : Tile).spmTag = t.spmTag)) _
@[simp] theorem Tile.setG_grid (t : Tile) (r : Nat) (v : Word) : (t.setG r v).grid = t.grid :=
  (fun (z0 : Vector Reg 32) => (rfl : ({ t with g := z0 } : Tile).grid = t.grid)) _
@[simp] theorem Tile.setG_gridTag (t : Tile) (r : Nat) (v : Word) : (t.setG r v).gridTag = t.gridTag :=
  (fun (z0 : Vector Reg 32) => (rfl : ({ t with g := z0 } : Tile).gridTag = t.gridTag)) _
@[simp] theorem Tile.setG_side (t : Tile) (r : Nat) (v : Word) : (t.setG r v).side = t.side :=
  (fun (z0 : Vector Reg 32) => (rfl : ({ t with g := z0 } : Tile).side = t.side)) _
@[simp] theorem Tile.setG_sideTag (t : Tile) (r : Nat) (v : Word) : (t.setG r v).sideTag = t.sideTag :=
  (fun (z0 : Vector Reg 32) => (rfl : ({ t with g := z0 } : Tile).sideTag = t.sideTag)) _
@[simp] theorem Tile.setG_desc (t : Tile) (r : Nat) (v : Word) : (t.setG r v).desc = t.desc :=
  (fun (z0 : Vector Reg 32) => (rfl : ({ t with g := z0 } : Tile).desc = t.desc)) _
@[simp] theorem Tile.setG_descTag (t : Tile) (r : Nat) (v : Word) : (t.setG r v).descTag = t.descTag :=
  (fun (z0 : Vector Reg 32) => (rfl : ({ t with g := z0 } : Tile).descTag = t.descTag)) _
@[simp] theorem Tile.setG_epoch (t : Tile) (r : Nat) (v : Word) : (t.setG r v).epoch = t.epoch :=
  (fun (z0 : Vector Reg 32) => (rfl : ({ t with g := z0 } : Tile).epoch = t.epoch)) _
@[simp] theorem Tile.setG_cutAt (t : Tile) (r : Nat) (v : Word) : (t.setG r v).cutAt = t.cutAt :=
  (fun (z0 : Vector Reg 32) => (rfl : ({ t with g := z0 } : Tile).cutAt = t.cutAt)) _
@[simp] theorem Tile.setG_cutBy (t : Tile) (r : Nat) (v : Word) : (t.setG r v).cutBy = t.cutBy :=
  (fun (z0 : Vector Reg 32) => (rfl : ({ t with g := z0 } : Tile).cutBy = t.cutBy)) _
@[simp] theorem Tile.setG_xr (t : Tile) (r : Nat) (v : Word) : (t.setG r v).xr = t.xr :=
  (fun (z0 : Vector Reg 32) => (rfl : ({ t with g := z0 } : Tile).xr = t.xr)) _
@[simp] theorem Tile.setG_m (t : Tile) (r : Nat) (v : Word) : (t.setG r v).m = t.m :=
  (fun (z0 : Vector Reg 32) => (rfl : ({ t with g := z0 } : Tile).m = t.m)) _
@[simp] theorem Tile.setG_s (t : Tile) (r : Nat) (v : Word) : (t.setG r v).s = t.s :=
  (fun (z0 : Vector Reg 32) => (rfl : ({ t with g := z0 } : Tile).s = t.s)) _
@[simp] theorem Tile.setG_gen (t : Tile) (r : Nat) (v : Word) : (t.setG r v).gen = t.gen :=
  (fun (z0 : Vector Reg 32) => (rfl : ({ t with g := z0 } : Tile).gen = t.gen)) _
@[simp] theorem Tile.setG_pitchGen (t : Tile) (r : Nat) (v : Word) : (t.setG r v).pitchGen = t.pitchGen :=
  (fun (z0 : Vector Reg 32) => (rfl : ({ t with g := z0 } : Tile).pitchGen = t.pitchGen)) _
@[simp] theorem Tile.setG_maxGen (t : Tile) (r : Nat) (v : Word) : (t.setG r v).maxGen = t.maxGen :=
  (fun (z0 : Vector Reg 32) => (rfl : ({ t with g := z0 } : Tile).maxGen = t.maxGen)) _
@[simp] theorem Tile.setG_staleTrap (t : Tile) (r : Nat) (v : Word) : (t.setG r v).staleTrap = t.staleTrap :=
  (fun (z0 : Vector Reg 32) => (rfl : ({ t with g := z0 } : Tile).staleTrap = t.staleTrap)) _
@[simp] theorem Tile.setG_staleArrivals (t : Tile) (r : Nat) (v : Word) : (t.setG r v).staleArrivals = t.staleArrivals :=
  (fun (z0 : Vector Reg 32) => (rfl : ({ t with g := z0 } : Tile).staleArrivals = t.staleArrivals)) _
@[simp] theorem Tile.setG_vflags (t : Tile) (r : Nat) (v : Word) : (t.setG r v).vflags = t.vflags :=
  (fun (z0 : Vector Reg 32) => (rfl : ({ t with g := z0 } : Tile).vflags = t.vflags)) _
@[simp] theorem Tile.setG_mflags (t : Tile) (r : Nat) (v : Word) : (t.setG r v).mflags = t.mflags :=
  (fun (z0 : Vector Reg 32) => (rfl : ({ t with g := z0 } : Tile).mflags = t.mflags)) _
@[simp] theorem Tile.setG_trapInfo (t : Tile) (r : Nat) (v : Word) : (t.setG r v).trapInfo = t.trapInfo :=
  (fun (z0 : Vector Reg 32) => (rfl : ({ t with g := z0 } : Tile).trapInfo = t.trapInfo)) _
@[simp] theorem Tile.setG_tok (t : Tile) (r : Nat) (v : Word) : (t.setG r v).tok = t.tok :=
  (fun (z0 : Vector Reg 32) => (rfl : ({ t with g := z0 } : Tile).tok = t.tok)) _
@[simp] theorem Tile.setG_sem (t : Tile) (r : Nat) (v : Word) : (t.setG r v).sem = t.sem :=
  (fun (z0 : Vector Reg 32) => (rfl : ({ t with g := z0 } : Tile).sem = t.sem)) _
@[simp] theorem Tile.setG_ring (t : Tile) (r : Nat) (v : Word) : (t.setG r v).ring = t.ring :=
  (fun (z0 : Vector Reg 32) => (rfl : ({ t with g := z0 } : Tile).ring = t.ring)) _
@[simp] theorem Tile.setG_eng (t : Tile) (r : Nat) (v : Word) : (t.setG r v).eng = t.eng :=
  (fun (z0 : Vector Reg 32) => (rfl : ({ t with g := z0 } : Tile).eng = t.eng)) _
@[simp] theorem Tile.setG_xs (t : Tile) (r : Nat) (v : Word) : (t.setG r v).xs = t.xs :=
  (fun (z0 : Vector Reg 32) => (rfl : ({ t with g := z0 } : Tile).xs = t.xs)) _
@[simp] theorem Tile.setG_tl (t : Tile) (r : Nat) (v : Word) : (t.setG r v).tl = t.tl :=
  (fun (z0 : Vector Reg 32) => (rfl : ({ t with g := z0 } : Tile).tl = t.tl)) _
@[simp] theorem Tile.setG_mode (t : Tile) (r : Nat) (v : Word) : (t.setG r v).mode = t.mode :=
  (fun (z0 : Vector Reg 32) => (rfl : ({ t with g := z0 } : Tile).mode = t.mode)) _
@[simp] theorem Tile.setG_rdvOff (t : Tile) (r : Nat) (v : Word) : (t.setG r v).rdvOff = t.rdvOff :=
  (fun (z0 : Vector Reg 32) => (rfl : ({ t with g := z0 } : Tile).rdvOff = t.rdvOff)) _
@[simp] theorem Tile.setG_live (t : Tile) (r : Nat) (v : Word) : (t.setG r v).live = t.live :=
  (fun (z0 : Vector Reg 32) => (rfl : ({ t with g := z0 } : Tile).live = t.live)) _
@[simp] theorem Tile.setG_reach (t : Tile) (r : Nat) (v : Word) : (t.setG r v).reach = t.reach :=
  (fun (z0 : Vector Reg 32) => (rfl : ({ t with g := z0 } : Tile).reach = t.reach)) _
@[simp] theorem Tile.setG_gseq (t : Tile) (r : Nat) (v : Word) : (t.setG r v).gseq = t.gseq :=
  (fun (z0 : Vector Reg 32) => (rfl : ({ t with g := z0 } : Tile).gseq = t.gseq)) _
@[simp] theorem Tile.setG_pend (t : Tile) (r : Nat) (v : Word) : (t.setG r v).pend = t.pend :=
  (fun (z0 : Vector Reg 32) => (rfl : ({ t with g := z0 } : Tile).pend = t.pend)) _
@[simp] theorem Tile.setG_banks (t : Tile) (r : Nat) (v : Word) : (t.setG r v).banks = t.banks :=
  (fun (z0 : Vector Reg 32) => (rfl : ({ t with g := z0 } : Tile).banks = t.banks)) _
@[simp] theorem Tile.setG_banksNow (t : Tile) (r : Nat) (v : Word) : (t.setG r v).banksNow = t.banksNow :=
  (fun (z0 : Vector Reg 32) => (rfl : ({ t with g := z0 } : Tile).banksNow = t.banksNow)) _
@[simp] theorem Tile.setG_looks (t : Tile) (r : Nat) (v : Word) : (t.setG r v).looks = t.looks :=
  (fun (z0 : Vector Reg 32) => (rfl : ({ t with g := z0 } : Tile).looks = t.looks)) _
@[simp] theorem Tile.setG_semOps (t : Tile) (r : Nat) (v : Word) : (t.setG r v).semOps = t.semOps :=
  (fun (z0 : Vector Reg 32) => (rfl : ({ t with g := z0 } : Tile).semOps = t.semOps)) _
@[simp] theorem Tile.setG_traps (t : Tile) (r : Nat) (v : Word) : (t.setG r v).traps = t.traps :=
  (fun (z0 : Vector Reg 32) => (rfl : ({ t with g := z0 } : Tile).traps = t.traps)) _
@[simp] theorem Tile.setG_clearing (t : Tile) (r : Nat) (v : Word) : (t.setG r v).clearing = t.clearing :=
  (fun (z0 : Vector Reg 32) => (rfl : ({ t with g := z0 } : Tile).clearing = t.clearing)) _
@[simp] theorem Tile.setG_blk (t : Tile) (r : Nat) (v : Word) : (t.setG r v).blk = t.blk :=
  (fun (z0 : Vector Reg 32) => (rfl : ({ t with g := z0 } : Tile).blk = t.blk)) _
@[simp] theorem Tile.setG_rdvEng (t : Tile) (r : Nat) (v : Word) : (t.setG r v).rdvEng = t.rdvEng :=
  (fun (z0 : Vector Reg 32) => (rfl : ({ t with g := z0 } : Tile).rdvEng = t.rdvEng)) _
@[simp] theorem Tile.setG_cleared (t : Tile) (r : Nat) (v : Word) : (t.setG r v).cleared = t.cleared :=
  (fun (z0 : Vector Reg 32) => (rfl : ({ t with g := z0 } : Tile).cleared = t.cleared)) _
@[simp] theorem Tile.setG_out (t : Tile) (r : Nat) (v : Word) : (t.setG r v).out = t.out :=
  (fun (z0 : Vector Reg 32) => (rfl : ({ t with g := z0 } : Tile).out = t.out)) _
@[simp] theorem Tile.setG_acc (t : Tile) (r : Nat) (v : Word) : (t.setG r v).acc = t.acc :=
  (fun (z0 : Vector Reg 32) => (rfl : ({ t with g := z0 } : Tile).acc = t.acc)) _
@[simp] theorem Tile.setG_cycActive (t : Tile) (r : Nat) (v : Word) : (t.setG r v).cycActive = t.cycActive :=
  (fun (z0 : Vector Reg 32) => (rfl : ({ t with g := z0 } : Tile).cycActive = t.cycActive)) _
@[simp] theorem Tile.setG_cycOwned (t : Tile) (r : Nat) (v : Word) : (t.setG r v).cycOwned = t.cycOwned :=
  (fun (z0 : Vector Reg 32) => (rfl : ({ t with g := z0 } : Tile).cycOwned = t.cycOwned)) _
@[simp] theorem Tile.setG_unsent (t : Tile) (r : Nat) (v : Word) : (t.setG r v).unsent = t.unsent :=
  (fun (z0 : Vector Reg 32) => (rfl : ({ t with g := z0 } : Tile).unsent = t.unsent)) _
@[simp] theorem Tile.setG_issued (t : Tile) (r : Nat) (v : Word) : (t.setG r v).issued = t.issued :=
  (fun (z0 : Vector Reg 32) => (rfl : ({ t with g := z0 } : Tile).issued = t.issued)) _
@[simp] theorem Tile.setG_worked (t : Tile) (r : Nat) (v : Word) : (t.setG r v).worked = t.worked :=
  (fun (z0 : Vector Reg 32) => (rfl : ({ t with g := z0 } : Tile).worked = t.worked)) _

@[simp] theorem Tile.setX_x (t : Tile) (r : Nat) (v : Word) : (t.setX r v).x = t.x :=
  (fun (z0 : Vector Reg 16) => (rfl : ({ t with xr := z0 } : Tile).x = t.x)) _
@[simp] theorem Tile.setX_y (t : Tile) (r : Nat) (v : Word) : (t.setX r v).y = t.y :=
  (fun (z0 : Vector Reg 16) => (rfl : ({ t with xr := z0 } : Tile).y = t.y)) _
@[simp] theorem Tile.setX_cls (t : Tile) (r : Nat) (v : Word) : (t.setX r v).cls = t.cls :=
  (fun (z0 : Vector Reg 16) => (rfl : ({ t with xr := z0 } : Tile).cls = t.cls)) _
@[simp] theorem Tile.setX_spm (t : Tile) (r : Nat) (v : Word) : (t.setX r v).spm = t.spm :=
  (fun (z0 : Vector Reg 16) => (rfl : ({ t with xr := z0 } : Tile).spm = t.spm)) _
@[simp] theorem Tile.setX_spmTag (t : Tile) (r : Nat) (v : Word) : (t.setX r v).spmTag = t.spmTag :=
  (fun (z0 : Vector Reg 16) => (rfl : ({ t with xr := z0 } : Tile).spmTag = t.spmTag)) _
@[simp] theorem Tile.setX_grid (t : Tile) (r : Nat) (v : Word) : (t.setX r v).grid = t.grid :=
  (fun (z0 : Vector Reg 16) => (rfl : ({ t with xr := z0 } : Tile).grid = t.grid)) _
@[simp] theorem Tile.setX_gridTag (t : Tile) (r : Nat) (v : Word) : (t.setX r v).gridTag = t.gridTag :=
  (fun (z0 : Vector Reg 16) => (rfl : ({ t with xr := z0 } : Tile).gridTag = t.gridTag)) _
@[simp] theorem Tile.setX_side (t : Tile) (r : Nat) (v : Word) : (t.setX r v).side = t.side :=
  (fun (z0 : Vector Reg 16) => (rfl : ({ t with xr := z0 } : Tile).side = t.side)) _
@[simp] theorem Tile.setX_sideTag (t : Tile) (r : Nat) (v : Word) : (t.setX r v).sideTag = t.sideTag :=
  (fun (z0 : Vector Reg 16) => (rfl : ({ t with xr := z0 } : Tile).sideTag = t.sideTag)) _
@[simp] theorem Tile.setX_desc (t : Tile) (r : Nat) (v : Word) : (t.setX r v).desc = t.desc :=
  (fun (z0 : Vector Reg 16) => (rfl : ({ t with xr := z0 } : Tile).desc = t.desc)) _
@[simp] theorem Tile.setX_descTag (t : Tile) (r : Nat) (v : Word) : (t.setX r v).descTag = t.descTag :=
  (fun (z0 : Vector Reg 16) => (rfl : ({ t with xr := z0 } : Tile).descTag = t.descTag)) _
@[simp] theorem Tile.setX_epoch (t : Tile) (r : Nat) (v : Word) : (t.setX r v).epoch = t.epoch :=
  (fun (z0 : Vector Reg 16) => (rfl : ({ t with xr := z0 } : Tile).epoch = t.epoch)) _
@[simp] theorem Tile.setX_cutAt (t : Tile) (r : Nat) (v : Word) : (t.setX r v).cutAt = t.cutAt :=
  (fun (z0 : Vector Reg 16) => (rfl : ({ t with xr := z0 } : Tile).cutAt = t.cutAt)) _
@[simp] theorem Tile.setX_cutBy (t : Tile) (r : Nat) (v : Word) : (t.setX r v).cutBy = t.cutBy :=
  (fun (z0 : Vector Reg 16) => (rfl : ({ t with xr := z0 } : Tile).cutBy = t.cutBy)) _
@[simp] theorem Tile.setX_g (t : Tile) (r : Nat) (v : Word) : (t.setX r v).g = t.g :=
  (fun (z0 : Vector Reg 16) => (rfl : ({ t with xr := z0 } : Tile).g = t.g)) _
@[simp] theorem Tile.setX_m (t : Tile) (r : Nat) (v : Word) : (t.setX r v).m = t.m :=
  (fun (z0 : Vector Reg 16) => (rfl : ({ t with xr := z0 } : Tile).m = t.m)) _
@[simp] theorem Tile.setX_s (t : Tile) (r : Nat) (v : Word) : (t.setX r v).s = t.s :=
  (fun (z0 : Vector Reg 16) => (rfl : ({ t with xr := z0 } : Tile).s = t.s)) _
@[simp] theorem Tile.setX_gen (t : Tile) (r : Nat) (v : Word) : (t.setX r v).gen = t.gen :=
  (fun (z0 : Vector Reg 16) => (rfl : ({ t with xr := z0 } : Tile).gen = t.gen)) _
@[simp] theorem Tile.setX_pitchGen (t : Tile) (r : Nat) (v : Word) : (t.setX r v).pitchGen = t.pitchGen :=
  (fun (z0 : Vector Reg 16) => (rfl : ({ t with xr := z0 } : Tile).pitchGen = t.pitchGen)) _
@[simp] theorem Tile.setX_maxGen (t : Tile) (r : Nat) (v : Word) : (t.setX r v).maxGen = t.maxGen :=
  (fun (z0 : Vector Reg 16) => (rfl : ({ t with xr := z0 } : Tile).maxGen = t.maxGen)) _
@[simp] theorem Tile.setX_staleTrap (t : Tile) (r : Nat) (v : Word) : (t.setX r v).staleTrap = t.staleTrap :=
  (fun (z0 : Vector Reg 16) => (rfl : ({ t with xr := z0 } : Tile).staleTrap = t.staleTrap)) _
@[simp] theorem Tile.setX_staleArrivals (t : Tile) (r : Nat) (v : Word) : (t.setX r v).staleArrivals = t.staleArrivals :=
  (fun (z0 : Vector Reg 16) => (rfl : ({ t with xr := z0 } : Tile).staleArrivals = t.staleArrivals)) _
@[simp] theorem Tile.setX_vflags (t : Tile) (r : Nat) (v : Word) : (t.setX r v).vflags = t.vflags :=
  (fun (z0 : Vector Reg 16) => (rfl : ({ t with xr := z0 } : Tile).vflags = t.vflags)) _
@[simp] theorem Tile.setX_mflags (t : Tile) (r : Nat) (v : Word) : (t.setX r v).mflags = t.mflags :=
  (fun (z0 : Vector Reg 16) => (rfl : ({ t with xr := z0 } : Tile).mflags = t.mflags)) _
@[simp] theorem Tile.setX_trapInfo (t : Tile) (r : Nat) (v : Word) : (t.setX r v).trapInfo = t.trapInfo :=
  (fun (z0 : Vector Reg 16) => (rfl : ({ t with xr := z0 } : Tile).trapInfo = t.trapInfo)) _
@[simp] theorem Tile.setX_tok (t : Tile) (r : Nat) (v : Word) : (t.setX r v).tok = t.tok :=
  (fun (z0 : Vector Reg 16) => (rfl : ({ t with xr := z0 } : Tile).tok = t.tok)) _
@[simp] theorem Tile.setX_sem (t : Tile) (r : Nat) (v : Word) : (t.setX r v).sem = t.sem :=
  (fun (z0 : Vector Reg 16) => (rfl : ({ t with xr := z0 } : Tile).sem = t.sem)) _
@[simp] theorem Tile.setX_ring (t : Tile) (r : Nat) (v : Word) : (t.setX r v).ring = t.ring :=
  (fun (z0 : Vector Reg 16) => (rfl : ({ t with xr := z0 } : Tile).ring = t.ring)) _
@[simp] theorem Tile.setX_eng (t : Tile) (r : Nat) (v : Word) : (t.setX r v).eng = t.eng :=
  (fun (z0 : Vector Reg 16) => (rfl : ({ t with xr := z0 } : Tile).eng = t.eng)) _
@[simp] theorem Tile.setX_xs (t : Tile) (r : Nat) (v : Word) : (t.setX r v).xs = t.xs :=
  (fun (z0 : Vector Reg 16) => (rfl : ({ t with xr := z0 } : Tile).xs = t.xs)) _
@[simp] theorem Tile.setX_tl (t : Tile) (r : Nat) (v : Word) : (t.setX r v).tl = t.tl :=
  (fun (z0 : Vector Reg 16) => (rfl : ({ t with xr := z0 } : Tile).tl = t.tl)) _
@[simp] theorem Tile.setX_mode (t : Tile) (r : Nat) (v : Word) : (t.setX r v).mode = t.mode :=
  (fun (z0 : Vector Reg 16) => (rfl : ({ t with xr := z0 } : Tile).mode = t.mode)) _
@[simp] theorem Tile.setX_rdvOff (t : Tile) (r : Nat) (v : Word) : (t.setX r v).rdvOff = t.rdvOff :=
  (fun (z0 : Vector Reg 16) => (rfl : ({ t with xr := z0 } : Tile).rdvOff = t.rdvOff)) _
@[simp] theorem Tile.setX_live (t : Tile) (r : Nat) (v : Word) : (t.setX r v).live = t.live :=
  (fun (z0 : Vector Reg 16) => (rfl : ({ t with xr := z0 } : Tile).live = t.live)) _
@[simp] theorem Tile.setX_reach (t : Tile) (r : Nat) (v : Word) : (t.setX r v).reach = t.reach :=
  (fun (z0 : Vector Reg 16) => (rfl : ({ t with xr := z0 } : Tile).reach = t.reach)) _
@[simp] theorem Tile.setX_gseq (t : Tile) (r : Nat) (v : Word) : (t.setX r v).gseq = t.gseq :=
  (fun (z0 : Vector Reg 16) => (rfl : ({ t with xr := z0 } : Tile).gseq = t.gseq)) _
@[simp] theorem Tile.setX_pend (t : Tile) (r : Nat) (v : Word) : (t.setX r v).pend = t.pend :=
  (fun (z0 : Vector Reg 16) => (rfl : ({ t with xr := z0 } : Tile).pend = t.pend)) _
@[simp] theorem Tile.setX_banks (t : Tile) (r : Nat) (v : Word) : (t.setX r v).banks = t.banks :=
  (fun (z0 : Vector Reg 16) => (rfl : ({ t with xr := z0 } : Tile).banks = t.banks)) _
@[simp] theorem Tile.setX_banksNow (t : Tile) (r : Nat) (v : Word) : (t.setX r v).banksNow = t.banksNow :=
  (fun (z0 : Vector Reg 16) => (rfl : ({ t with xr := z0 } : Tile).banksNow = t.banksNow)) _
@[simp] theorem Tile.setX_looks (t : Tile) (r : Nat) (v : Word) : (t.setX r v).looks = t.looks :=
  (fun (z0 : Vector Reg 16) => (rfl : ({ t with xr := z0 } : Tile).looks = t.looks)) _
@[simp] theorem Tile.setX_semOps (t : Tile) (r : Nat) (v : Word) : (t.setX r v).semOps = t.semOps :=
  (fun (z0 : Vector Reg 16) => (rfl : ({ t with xr := z0 } : Tile).semOps = t.semOps)) _
@[simp] theorem Tile.setX_traps (t : Tile) (r : Nat) (v : Word) : (t.setX r v).traps = t.traps :=
  (fun (z0 : Vector Reg 16) => (rfl : ({ t with xr := z0 } : Tile).traps = t.traps)) _
@[simp] theorem Tile.setX_clearing (t : Tile) (r : Nat) (v : Word) : (t.setX r v).clearing = t.clearing :=
  (fun (z0 : Vector Reg 16) => (rfl : ({ t with xr := z0 } : Tile).clearing = t.clearing)) _
@[simp] theorem Tile.setX_blk (t : Tile) (r : Nat) (v : Word) : (t.setX r v).blk = t.blk :=
  (fun (z0 : Vector Reg 16) => (rfl : ({ t with xr := z0 } : Tile).blk = t.blk)) _
@[simp] theorem Tile.setX_rdvEng (t : Tile) (r : Nat) (v : Word) : (t.setX r v).rdvEng = t.rdvEng :=
  (fun (z0 : Vector Reg 16) => (rfl : ({ t with xr := z0 } : Tile).rdvEng = t.rdvEng)) _
@[simp] theorem Tile.setX_cleared (t : Tile) (r : Nat) (v : Word) : (t.setX r v).cleared = t.cleared :=
  (fun (z0 : Vector Reg 16) => (rfl : ({ t with xr := z0 } : Tile).cleared = t.cleared)) _
@[simp] theorem Tile.setX_out (t : Tile) (r : Nat) (v : Word) : (t.setX r v).out = t.out :=
  (fun (z0 : Vector Reg 16) => (rfl : ({ t with xr := z0 } : Tile).out = t.out)) _
@[simp] theorem Tile.setX_acc (t : Tile) (r : Nat) (v : Word) : (t.setX r v).acc = t.acc :=
  (fun (z0 : Vector Reg 16) => (rfl : ({ t with xr := z0 } : Tile).acc = t.acc)) _
@[simp] theorem Tile.setX_cycActive (t : Tile) (r : Nat) (v : Word) : (t.setX r v).cycActive = t.cycActive :=
  (fun (z0 : Vector Reg 16) => (rfl : ({ t with xr := z0 } : Tile).cycActive = t.cycActive)) _
@[simp] theorem Tile.setX_cycOwned (t : Tile) (r : Nat) (v : Word) : (t.setX r v).cycOwned = t.cycOwned :=
  (fun (z0 : Vector Reg 16) => (rfl : ({ t with xr := z0 } : Tile).cycOwned = t.cycOwned)) _
@[simp] theorem Tile.setX_unsent (t : Tile) (r : Nat) (v : Word) : (t.setX r v).unsent = t.unsent :=
  (fun (z0 : Vector Reg 16) => (rfl : ({ t with xr := z0 } : Tile).unsent = t.unsent)) _
@[simp] theorem Tile.setX_issued (t : Tile) (r : Nat) (v : Word) : (t.setX r v).issued = t.issued :=
  (fun (z0 : Vector Reg 16) => (rfl : ({ t with xr := z0 } : Tile).issued = t.issued)) _
@[simp] theorem Tile.setX_worked (t : Tile) (r : Nat) (v : Word) : (t.setX r v).worked = t.worked :=
  (fun (z0 : Vector Reg 16) => (rfl : ({ t with xr := z0 } : Tile).worked = t.worked)) _

@[simp] theorem Tile.setMask_x (t : Tile) (r : Nat) (v : Word) : (t.setMask r v).x = t.x :=
  (fun (z0 : Vector Reg 8) => (rfl : ({ t with m := z0 } : Tile).x = t.x)) _
@[simp] theorem Tile.setMask_y (t : Tile) (r : Nat) (v : Word) : (t.setMask r v).y = t.y :=
  (fun (z0 : Vector Reg 8) => (rfl : ({ t with m := z0 } : Tile).y = t.y)) _
@[simp] theorem Tile.setMask_cls (t : Tile) (r : Nat) (v : Word) : (t.setMask r v).cls = t.cls :=
  (fun (z0 : Vector Reg 8) => (rfl : ({ t with m := z0 } : Tile).cls = t.cls)) _
@[simp] theorem Tile.setMask_spm (t : Tile) (r : Nat) (v : Word) : (t.setMask r v).spm = t.spm :=
  (fun (z0 : Vector Reg 8) => (rfl : ({ t with m := z0 } : Tile).spm = t.spm)) _
@[simp] theorem Tile.setMask_spmTag (t : Tile) (r : Nat) (v : Word) : (t.setMask r v).spmTag = t.spmTag :=
  (fun (z0 : Vector Reg 8) => (rfl : ({ t with m := z0 } : Tile).spmTag = t.spmTag)) _
@[simp] theorem Tile.setMask_grid (t : Tile) (r : Nat) (v : Word) : (t.setMask r v).grid = t.grid :=
  (fun (z0 : Vector Reg 8) => (rfl : ({ t with m := z0 } : Tile).grid = t.grid)) _
@[simp] theorem Tile.setMask_gridTag (t : Tile) (r : Nat) (v : Word) : (t.setMask r v).gridTag = t.gridTag :=
  (fun (z0 : Vector Reg 8) => (rfl : ({ t with m := z0 } : Tile).gridTag = t.gridTag)) _
@[simp] theorem Tile.setMask_side (t : Tile) (r : Nat) (v : Word) : (t.setMask r v).side = t.side :=
  (fun (z0 : Vector Reg 8) => (rfl : ({ t with m := z0 } : Tile).side = t.side)) _
@[simp] theorem Tile.setMask_sideTag (t : Tile) (r : Nat) (v : Word) : (t.setMask r v).sideTag = t.sideTag :=
  (fun (z0 : Vector Reg 8) => (rfl : ({ t with m := z0 } : Tile).sideTag = t.sideTag)) _
@[simp] theorem Tile.setMask_desc (t : Tile) (r : Nat) (v : Word) : (t.setMask r v).desc = t.desc :=
  (fun (z0 : Vector Reg 8) => (rfl : ({ t with m := z0 } : Tile).desc = t.desc)) _
@[simp] theorem Tile.setMask_descTag (t : Tile) (r : Nat) (v : Word) : (t.setMask r v).descTag = t.descTag :=
  (fun (z0 : Vector Reg 8) => (rfl : ({ t with m := z0 } : Tile).descTag = t.descTag)) _
@[simp] theorem Tile.setMask_epoch (t : Tile) (r : Nat) (v : Word) : (t.setMask r v).epoch = t.epoch :=
  (fun (z0 : Vector Reg 8) => (rfl : ({ t with m := z0 } : Tile).epoch = t.epoch)) _
@[simp] theorem Tile.setMask_cutAt (t : Tile) (r : Nat) (v : Word) : (t.setMask r v).cutAt = t.cutAt :=
  (fun (z0 : Vector Reg 8) => (rfl : ({ t with m := z0 } : Tile).cutAt = t.cutAt)) _
@[simp] theorem Tile.setMask_cutBy (t : Tile) (r : Nat) (v : Word) : (t.setMask r v).cutBy = t.cutBy :=
  (fun (z0 : Vector Reg 8) => (rfl : ({ t with m := z0 } : Tile).cutBy = t.cutBy)) _
@[simp] theorem Tile.setMask_g (t : Tile) (r : Nat) (v : Word) : (t.setMask r v).g = t.g :=
  (fun (z0 : Vector Reg 8) => (rfl : ({ t with m := z0 } : Tile).g = t.g)) _
@[simp] theorem Tile.setMask_xr (t : Tile) (r : Nat) (v : Word) : (t.setMask r v).xr = t.xr :=
  (fun (z0 : Vector Reg 8) => (rfl : ({ t with m := z0 } : Tile).xr = t.xr)) _
@[simp] theorem Tile.setMask_s (t : Tile) (r : Nat) (v : Word) : (t.setMask r v).s = t.s :=
  (fun (z0 : Vector Reg 8) => (rfl : ({ t with m := z0 } : Tile).s = t.s)) _
@[simp] theorem Tile.setMask_gen (t : Tile) (r : Nat) (v : Word) : (t.setMask r v).gen = t.gen :=
  (fun (z0 : Vector Reg 8) => (rfl : ({ t with m := z0 } : Tile).gen = t.gen)) _
@[simp] theorem Tile.setMask_pitchGen (t : Tile) (r : Nat) (v : Word) : (t.setMask r v).pitchGen = t.pitchGen :=
  (fun (z0 : Vector Reg 8) => (rfl : ({ t with m := z0 } : Tile).pitchGen = t.pitchGen)) _
@[simp] theorem Tile.setMask_maxGen (t : Tile) (r : Nat) (v : Word) : (t.setMask r v).maxGen = t.maxGen :=
  (fun (z0 : Vector Reg 8) => (rfl : ({ t with m := z0 } : Tile).maxGen = t.maxGen)) _
@[simp] theorem Tile.setMask_staleTrap (t : Tile) (r : Nat) (v : Word) : (t.setMask r v).staleTrap = t.staleTrap :=
  (fun (z0 : Vector Reg 8) => (rfl : ({ t with m := z0 } : Tile).staleTrap = t.staleTrap)) _
@[simp] theorem Tile.setMask_staleArrivals (t : Tile) (r : Nat) (v : Word) : (t.setMask r v).staleArrivals = t.staleArrivals :=
  (fun (z0 : Vector Reg 8) => (rfl : ({ t with m := z0 } : Tile).staleArrivals = t.staleArrivals)) _
@[simp] theorem Tile.setMask_vflags (t : Tile) (r : Nat) (v : Word) : (t.setMask r v).vflags = t.vflags :=
  (fun (z0 : Vector Reg 8) => (rfl : ({ t with m := z0 } : Tile).vflags = t.vflags)) _
@[simp] theorem Tile.setMask_mflags (t : Tile) (r : Nat) (v : Word) : (t.setMask r v).mflags = t.mflags :=
  (fun (z0 : Vector Reg 8) => (rfl : ({ t with m := z0 } : Tile).mflags = t.mflags)) _
@[simp] theorem Tile.setMask_trapInfo (t : Tile) (r : Nat) (v : Word) : (t.setMask r v).trapInfo = t.trapInfo :=
  (fun (z0 : Vector Reg 8) => (rfl : ({ t with m := z0 } : Tile).trapInfo = t.trapInfo)) _
@[simp] theorem Tile.setMask_tok (t : Tile) (r : Nat) (v : Word) : (t.setMask r v).tok = t.tok :=
  (fun (z0 : Vector Reg 8) => (rfl : ({ t with m := z0 } : Tile).tok = t.tok)) _
@[simp] theorem Tile.setMask_sem (t : Tile) (r : Nat) (v : Word) : (t.setMask r v).sem = t.sem :=
  (fun (z0 : Vector Reg 8) => (rfl : ({ t with m := z0 } : Tile).sem = t.sem)) _
@[simp] theorem Tile.setMask_ring (t : Tile) (r : Nat) (v : Word) : (t.setMask r v).ring = t.ring :=
  (fun (z0 : Vector Reg 8) => (rfl : ({ t with m := z0 } : Tile).ring = t.ring)) _
@[simp] theorem Tile.setMask_eng (t : Tile) (r : Nat) (v : Word) : (t.setMask r v).eng = t.eng :=
  (fun (z0 : Vector Reg 8) => (rfl : ({ t with m := z0 } : Tile).eng = t.eng)) _
@[simp] theorem Tile.setMask_xs (t : Tile) (r : Nat) (v : Word) : (t.setMask r v).xs = t.xs :=
  (fun (z0 : Vector Reg 8) => (rfl : ({ t with m := z0 } : Tile).xs = t.xs)) _
@[simp] theorem Tile.setMask_tl (t : Tile) (r : Nat) (v : Word) : (t.setMask r v).tl = t.tl :=
  (fun (z0 : Vector Reg 8) => (rfl : ({ t with m := z0 } : Tile).tl = t.tl)) _
@[simp] theorem Tile.setMask_mode (t : Tile) (r : Nat) (v : Word) : (t.setMask r v).mode = t.mode :=
  (fun (z0 : Vector Reg 8) => (rfl : ({ t with m := z0 } : Tile).mode = t.mode)) _
@[simp] theorem Tile.setMask_rdvOff (t : Tile) (r : Nat) (v : Word) : (t.setMask r v).rdvOff = t.rdvOff :=
  (fun (z0 : Vector Reg 8) => (rfl : ({ t with m := z0 } : Tile).rdvOff = t.rdvOff)) _
@[simp] theorem Tile.setMask_live (t : Tile) (r : Nat) (v : Word) : (t.setMask r v).live = t.live :=
  (fun (z0 : Vector Reg 8) => (rfl : ({ t with m := z0 } : Tile).live = t.live)) _
@[simp] theorem Tile.setMask_reach (t : Tile) (r : Nat) (v : Word) : (t.setMask r v).reach = t.reach :=
  (fun (z0 : Vector Reg 8) => (rfl : ({ t with m := z0 } : Tile).reach = t.reach)) _
@[simp] theorem Tile.setMask_gseq (t : Tile) (r : Nat) (v : Word) : (t.setMask r v).gseq = t.gseq :=
  (fun (z0 : Vector Reg 8) => (rfl : ({ t with m := z0 } : Tile).gseq = t.gseq)) _
@[simp] theorem Tile.setMask_pend (t : Tile) (r : Nat) (v : Word) : (t.setMask r v).pend = t.pend :=
  (fun (z0 : Vector Reg 8) => (rfl : ({ t with m := z0 } : Tile).pend = t.pend)) _
@[simp] theorem Tile.setMask_banks (t : Tile) (r : Nat) (v : Word) : (t.setMask r v).banks = t.banks :=
  (fun (z0 : Vector Reg 8) => (rfl : ({ t with m := z0 } : Tile).banks = t.banks)) _
@[simp] theorem Tile.setMask_banksNow (t : Tile) (r : Nat) (v : Word) : (t.setMask r v).banksNow = t.banksNow :=
  (fun (z0 : Vector Reg 8) => (rfl : ({ t with m := z0 } : Tile).banksNow = t.banksNow)) _
@[simp] theorem Tile.setMask_looks (t : Tile) (r : Nat) (v : Word) : (t.setMask r v).looks = t.looks :=
  (fun (z0 : Vector Reg 8) => (rfl : ({ t with m := z0 } : Tile).looks = t.looks)) _
@[simp] theorem Tile.setMask_semOps (t : Tile) (r : Nat) (v : Word) : (t.setMask r v).semOps = t.semOps :=
  (fun (z0 : Vector Reg 8) => (rfl : ({ t with m := z0 } : Tile).semOps = t.semOps)) _
@[simp] theorem Tile.setMask_traps (t : Tile) (r : Nat) (v : Word) : (t.setMask r v).traps = t.traps :=
  (fun (z0 : Vector Reg 8) => (rfl : ({ t with m := z0 } : Tile).traps = t.traps)) _
@[simp] theorem Tile.setMask_clearing (t : Tile) (r : Nat) (v : Word) : (t.setMask r v).clearing = t.clearing :=
  (fun (z0 : Vector Reg 8) => (rfl : ({ t with m := z0 } : Tile).clearing = t.clearing)) _
@[simp] theorem Tile.setMask_blk (t : Tile) (r : Nat) (v : Word) : (t.setMask r v).blk = t.blk :=
  (fun (z0 : Vector Reg 8) => (rfl : ({ t with m := z0 } : Tile).blk = t.blk)) _
@[simp] theorem Tile.setMask_rdvEng (t : Tile) (r : Nat) (v : Word) : (t.setMask r v).rdvEng = t.rdvEng :=
  (fun (z0 : Vector Reg 8) => (rfl : ({ t with m := z0 } : Tile).rdvEng = t.rdvEng)) _
@[simp] theorem Tile.setMask_cleared (t : Tile) (r : Nat) (v : Word) : (t.setMask r v).cleared = t.cleared :=
  (fun (z0 : Vector Reg 8) => (rfl : ({ t with m := z0 } : Tile).cleared = t.cleared)) _
@[simp] theorem Tile.setMask_out (t : Tile) (r : Nat) (v : Word) : (t.setMask r v).out = t.out :=
  (fun (z0 : Vector Reg 8) => (rfl : ({ t with m := z0 } : Tile).out = t.out)) _
@[simp] theorem Tile.setMask_acc (t : Tile) (r : Nat) (v : Word) : (t.setMask r v).acc = t.acc :=
  (fun (z0 : Vector Reg 8) => (rfl : ({ t with m := z0 } : Tile).acc = t.acc)) _
@[simp] theorem Tile.setMask_cycActive (t : Tile) (r : Nat) (v : Word) : (t.setMask r v).cycActive = t.cycActive :=
  (fun (z0 : Vector Reg 8) => (rfl : ({ t with m := z0 } : Tile).cycActive = t.cycActive)) _
@[simp] theorem Tile.setMask_cycOwned (t : Tile) (r : Nat) (v : Word) : (t.setMask r v).cycOwned = t.cycOwned :=
  (fun (z0 : Vector Reg 8) => (rfl : ({ t with m := z0 } : Tile).cycOwned = t.cycOwned)) _
@[simp] theorem Tile.setMask_unsent (t : Tile) (r : Nat) (v : Word) : (t.setMask r v).unsent = t.unsent :=
  (fun (z0 : Vector Reg 8) => (rfl : ({ t with m := z0 } : Tile).unsent = t.unsent)) _
@[simp] theorem Tile.setMask_issued (t : Tile) (r : Nat) (v : Word) : (t.setMask r v).issued = t.issued :=
  (fun (z0 : Vector Reg 8) => (rfl : ({ t with m := z0 } : Tile).issued = t.issued)) _
@[simp] theorem Tile.setMask_worked (t : Tile) (r : Nat) (v : Word) : (t.setMask r v).worked = t.worked :=
  (fun (z0 : Vector Reg 8) => (rfl : ({ t with m := z0 } : Tile).worked = t.worked)) _

@[simp] theorem Tile.setStream_x (t : Tile) (k : Nat) (v : Stream) : (t.setStream k v).x = t.x :=
  (fun (z0 : Vector Stream 16) => (rfl : ({ t with s := z0 } : Tile).x = t.x)) _
@[simp] theorem Tile.setStream_y (t : Tile) (k : Nat) (v : Stream) : (t.setStream k v).y = t.y :=
  (fun (z0 : Vector Stream 16) => (rfl : ({ t with s := z0 } : Tile).y = t.y)) _
@[simp] theorem Tile.setStream_cls (t : Tile) (k : Nat) (v : Stream) : (t.setStream k v).cls = t.cls :=
  (fun (z0 : Vector Stream 16) => (rfl : ({ t with s := z0 } : Tile).cls = t.cls)) _
@[simp] theorem Tile.setStream_spm (t : Tile) (k : Nat) (v : Stream) : (t.setStream k v).spm = t.spm :=
  (fun (z0 : Vector Stream 16) => (rfl : ({ t with s := z0 } : Tile).spm = t.spm)) _
@[simp] theorem Tile.setStream_spmTag (t : Tile) (k : Nat) (v : Stream) : (t.setStream k v).spmTag = t.spmTag :=
  (fun (z0 : Vector Stream 16) => (rfl : ({ t with s := z0 } : Tile).spmTag = t.spmTag)) _
@[simp] theorem Tile.setStream_grid (t : Tile) (k : Nat) (v : Stream) : (t.setStream k v).grid = t.grid :=
  (fun (z0 : Vector Stream 16) => (rfl : ({ t with s := z0 } : Tile).grid = t.grid)) _
@[simp] theorem Tile.setStream_gridTag (t : Tile) (k : Nat) (v : Stream) : (t.setStream k v).gridTag = t.gridTag :=
  (fun (z0 : Vector Stream 16) => (rfl : ({ t with s := z0 } : Tile).gridTag = t.gridTag)) _
@[simp] theorem Tile.setStream_side (t : Tile) (k : Nat) (v : Stream) : (t.setStream k v).side = t.side :=
  (fun (z0 : Vector Stream 16) => (rfl : ({ t with s := z0 } : Tile).side = t.side)) _
@[simp] theorem Tile.setStream_sideTag (t : Tile) (k : Nat) (v : Stream) : (t.setStream k v).sideTag = t.sideTag :=
  (fun (z0 : Vector Stream 16) => (rfl : ({ t with s := z0 } : Tile).sideTag = t.sideTag)) _
@[simp] theorem Tile.setStream_desc (t : Tile) (k : Nat) (v : Stream) : (t.setStream k v).desc = t.desc :=
  (fun (z0 : Vector Stream 16) => (rfl : ({ t with s := z0 } : Tile).desc = t.desc)) _
@[simp] theorem Tile.setStream_descTag (t : Tile) (k : Nat) (v : Stream) : (t.setStream k v).descTag = t.descTag :=
  (fun (z0 : Vector Stream 16) => (rfl : ({ t with s := z0 } : Tile).descTag = t.descTag)) _
@[simp] theorem Tile.setStream_epoch (t : Tile) (k : Nat) (v : Stream) : (t.setStream k v).epoch = t.epoch :=
  (fun (z0 : Vector Stream 16) => (rfl : ({ t with s := z0 } : Tile).epoch = t.epoch)) _
@[simp] theorem Tile.setStream_cutAt (t : Tile) (k : Nat) (v : Stream) : (t.setStream k v).cutAt = t.cutAt :=
  (fun (z0 : Vector Stream 16) => (rfl : ({ t with s := z0 } : Tile).cutAt = t.cutAt)) _
@[simp] theorem Tile.setStream_cutBy (t : Tile) (k : Nat) (v : Stream) : (t.setStream k v).cutBy = t.cutBy :=
  (fun (z0 : Vector Stream 16) => (rfl : ({ t with s := z0 } : Tile).cutBy = t.cutBy)) _
@[simp] theorem Tile.setStream_g (t : Tile) (k : Nat) (v : Stream) : (t.setStream k v).g = t.g :=
  (fun (z0 : Vector Stream 16) => (rfl : ({ t with s := z0 } : Tile).g = t.g)) _
@[simp] theorem Tile.setStream_xr (t : Tile) (k : Nat) (v : Stream) : (t.setStream k v).xr = t.xr :=
  (fun (z0 : Vector Stream 16) => (rfl : ({ t with s := z0 } : Tile).xr = t.xr)) _
@[simp] theorem Tile.setStream_m (t : Tile) (k : Nat) (v : Stream) : (t.setStream k v).m = t.m :=
  (fun (z0 : Vector Stream 16) => (rfl : ({ t with s := z0 } : Tile).m = t.m)) _
@[simp] theorem Tile.setStream_gen (t : Tile) (k : Nat) (v : Stream) : (t.setStream k v).gen = t.gen :=
  (fun (z0 : Vector Stream 16) => (rfl : ({ t with s := z0 } : Tile).gen = t.gen)) _
@[simp] theorem Tile.setStream_pitchGen (t : Tile) (k : Nat) (v : Stream) : (t.setStream k v).pitchGen = t.pitchGen :=
  (fun (z0 : Vector Stream 16) => (rfl : ({ t with s := z0 } : Tile).pitchGen = t.pitchGen)) _
@[simp] theorem Tile.setStream_maxGen (t : Tile) (k : Nat) (v : Stream) : (t.setStream k v).maxGen = t.maxGen :=
  (fun (z0 : Vector Stream 16) => (rfl : ({ t with s := z0 } : Tile).maxGen = t.maxGen)) _
@[simp] theorem Tile.setStream_staleTrap (t : Tile) (k : Nat) (v : Stream) : (t.setStream k v).staleTrap = t.staleTrap :=
  (fun (z0 : Vector Stream 16) => (rfl : ({ t with s := z0 } : Tile).staleTrap = t.staleTrap)) _
@[simp] theorem Tile.setStream_staleArrivals (t : Tile) (k : Nat) (v : Stream) : (t.setStream k v).staleArrivals = t.staleArrivals :=
  (fun (z0 : Vector Stream 16) => (rfl : ({ t with s := z0 } : Tile).staleArrivals = t.staleArrivals)) _
@[simp] theorem Tile.setStream_vflags (t : Tile) (k : Nat) (v : Stream) : (t.setStream k v).vflags = t.vflags :=
  (fun (z0 : Vector Stream 16) => (rfl : ({ t with s := z0 } : Tile).vflags = t.vflags)) _
@[simp] theorem Tile.setStream_mflags (t : Tile) (k : Nat) (v : Stream) : (t.setStream k v).mflags = t.mflags :=
  (fun (z0 : Vector Stream 16) => (rfl : ({ t with s := z0 } : Tile).mflags = t.mflags)) _
@[simp] theorem Tile.setStream_trapInfo (t : Tile) (k : Nat) (v : Stream) : (t.setStream k v).trapInfo = t.trapInfo :=
  (fun (z0 : Vector Stream 16) => (rfl : ({ t with s := z0 } : Tile).trapInfo = t.trapInfo)) _
@[simp] theorem Tile.setStream_tok (t : Tile) (k : Nat) (v : Stream) : (t.setStream k v).tok = t.tok :=
  (fun (z0 : Vector Stream 16) => (rfl : ({ t with s := z0 } : Tile).tok = t.tok)) _
@[simp] theorem Tile.setStream_sem (t : Tile) (k : Nat) (v : Stream) : (t.setStream k v).sem = t.sem :=
  (fun (z0 : Vector Stream 16) => (rfl : ({ t with s := z0 } : Tile).sem = t.sem)) _
@[simp] theorem Tile.setStream_ring (t : Tile) (k : Nat) (v : Stream) : (t.setStream k v).ring = t.ring :=
  (fun (z0 : Vector Stream 16) => (rfl : ({ t with s := z0 } : Tile).ring = t.ring)) _
@[simp] theorem Tile.setStream_eng (t : Tile) (k : Nat) (v : Stream) : (t.setStream k v).eng = t.eng :=
  (fun (z0 : Vector Stream 16) => (rfl : ({ t with s := z0 } : Tile).eng = t.eng)) _
@[simp] theorem Tile.setStream_xs (t : Tile) (k : Nat) (v : Stream) : (t.setStream k v).xs = t.xs :=
  (fun (z0 : Vector Stream 16) => (rfl : ({ t with s := z0 } : Tile).xs = t.xs)) _
@[simp] theorem Tile.setStream_tl (t : Tile) (k : Nat) (v : Stream) : (t.setStream k v).tl = t.tl :=
  (fun (z0 : Vector Stream 16) => (rfl : ({ t with s := z0 } : Tile).tl = t.tl)) _
@[simp] theorem Tile.setStream_mode (t : Tile) (k : Nat) (v : Stream) : (t.setStream k v).mode = t.mode :=
  (fun (z0 : Vector Stream 16) => (rfl : ({ t with s := z0 } : Tile).mode = t.mode)) _
@[simp] theorem Tile.setStream_rdvOff (t : Tile) (k : Nat) (v : Stream) : (t.setStream k v).rdvOff = t.rdvOff :=
  (fun (z0 : Vector Stream 16) => (rfl : ({ t with s := z0 } : Tile).rdvOff = t.rdvOff)) _
@[simp] theorem Tile.setStream_live (t : Tile) (k : Nat) (v : Stream) : (t.setStream k v).live = t.live :=
  (fun (z0 : Vector Stream 16) => (rfl : ({ t with s := z0 } : Tile).live = t.live)) _
@[simp] theorem Tile.setStream_reach (t : Tile) (k : Nat) (v : Stream) : (t.setStream k v).reach = t.reach :=
  (fun (z0 : Vector Stream 16) => (rfl : ({ t with s := z0 } : Tile).reach = t.reach)) _
@[simp] theorem Tile.setStream_gseq (t : Tile) (k : Nat) (v : Stream) : (t.setStream k v).gseq = t.gseq :=
  (fun (z0 : Vector Stream 16) => (rfl : ({ t with s := z0 } : Tile).gseq = t.gseq)) _
@[simp] theorem Tile.setStream_pend (t : Tile) (k : Nat) (v : Stream) : (t.setStream k v).pend = t.pend :=
  (fun (z0 : Vector Stream 16) => (rfl : ({ t with s := z0 } : Tile).pend = t.pend)) _
@[simp] theorem Tile.setStream_banks (t : Tile) (k : Nat) (v : Stream) : (t.setStream k v).banks = t.banks :=
  (fun (z0 : Vector Stream 16) => (rfl : ({ t with s := z0 } : Tile).banks = t.banks)) _
@[simp] theorem Tile.setStream_banksNow (t : Tile) (k : Nat) (v : Stream) : (t.setStream k v).banksNow = t.banksNow :=
  (fun (z0 : Vector Stream 16) => (rfl : ({ t with s := z0 } : Tile).banksNow = t.banksNow)) _
@[simp] theorem Tile.setStream_looks (t : Tile) (k : Nat) (v : Stream) : (t.setStream k v).looks = t.looks :=
  (fun (z0 : Vector Stream 16) => (rfl : ({ t with s := z0 } : Tile).looks = t.looks)) _
@[simp] theorem Tile.setStream_semOps (t : Tile) (k : Nat) (v : Stream) : (t.setStream k v).semOps = t.semOps :=
  (fun (z0 : Vector Stream 16) => (rfl : ({ t with s := z0 } : Tile).semOps = t.semOps)) _
@[simp] theorem Tile.setStream_traps (t : Tile) (k : Nat) (v : Stream) : (t.setStream k v).traps = t.traps :=
  (fun (z0 : Vector Stream 16) => (rfl : ({ t with s := z0 } : Tile).traps = t.traps)) _
@[simp] theorem Tile.setStream_clearing (t : Tile) (k : Nat) (v : Stream) : (t.setStream k v).clearing = t.clearing :=
  (fun (z0 : Vector Stream 16) => (rfl : ({ t with s := z0 } : Tile).clearing = t.clearing)) _
@[simp] theorem Tile.setStream_blk (t : Tile) (k : Nat) (v : Stream) : (t.setStream k v).blk = t.blk :=
  (fun (z0 : Vector Stream 16) => (rfl : ({ t with s := z0 } : Tile).blk = t.blk)) _
@[simp] theorem Tile.setStream_rdvEng (t : Tile) (k : Nat) (v : Stream) : (t.setStream k v).rdvEng = t.rdvEng :=
  (fun (z0 : Vector Stream 16) => (rfl : ({ t with s := z0 } : Tile).rdvEng = t.rdvEng)) _
@[simp] theorem Tile.setStream_cleared (t : Tile) (k : Nat) (v : Stream) : (t.setStream k v).cleared = t.cleared :=
  (fun (z0 : Vector Stream 16) => (rfl : ({ t with s := z0 } : Tile).cleared = t.cleared)) _
@[simp] theorem Tile.setStream_out (t : Tile) (k : Nat) (v : Stream) : (t.setStream k v).out = t.out :=
  (fun (z0 : Vector Stream 16) => (rfl : ({ t with s := z0 } : Tile).out = t.out)) _
@[simp] theorem Tile.setStream_acc (t : Tile) (k : Nat) (v : Stream) : (t.setStream k v).acc = t.acc :=
  (fun (z0 : Vector Stream 16) => (rfl : ({ t with s := z0 } : Tile).acc = t.acc)) _
@[simp] theorem Tile.setStream_cycActive (t : Tile) (k : Nat) (v : Stream) : (t.setStream k v).cycActive = t.cycActive :=
  (fun (z0 : Vector Stream 16) => (rfl : ({ t with s := z0 } : Tile).cycActive = t.cycActive)) _
@[simp] theorem Tile.setStream_cycOwned (t : Tile) (k : Nat) (v : Stream) : (t.setStream k v).cycOwned = t.cycOwned :=
  (fun (z0 : Vector Stream 16) => (rfl : ({ t with s := z0 } : Tile).cycOwned = t.cycOwned)) _
@[simp] theorem Tile.setStream_unsent (t : Tile) (k : Nat) (v : Stream) : (t.setStream k v).unsent = t.unsent :=
  (fun (z0 : Vector Stream 16) => (rfl : ({ t with s := z0 } : Tile).unsent = t.unsent)) _
@[simp] theorem Tile.setStream_issued (t : Tile) (k : Nat) (v : Stream) : (t.setStream k v).issued = t.issued :=
  (fun (z0 : Vector Stream 16) => (rfl : ({ t with s := z0 } : Tile).issued = t.issued)) _
@[simp] theorem Tile.setStream_worked (t : Tile) (k : Nat) (v : Stream) : (t.setStream k v).worked = t.worked :=
  (fun (z0 : Vector Stream 16) => (rfl : ({ t with s := z0 } : Tile).worked = t.worked)) _

@[simp] theorem Tile.useBank_x (t : Tile) (c : Ctx) (k b : Nat) : (t.useBank c k b).x = t.x :=
  (fun (z0 : List BankUse) => (rfl : ({ t with banks := z0 } : Tile).x = t.x)) _
@[simp] theorem Tile.useBank_y (t : Tile) (c : Ctx) (k b : Nat) : (t.useBank c k b).y = t.y :=
  (fun (z0 : List BankUse) => (rfl : ({ t with banks := z0 } : Tile).y = t.y)) _
@[simp] theorem Tile.useBank_cls (t : Tile) (c : Ctx) (k b : Nat) : (t.useBank c k b).cls = t.cls :=
  (fun (z0 : List BankUse) => (rfl : ({ t with banks := z0 } : Tile).cls = t.cls)) _
@[simp] theorem Tile.useBank_spm (t : Tile) (c : Ctx) (k b : Nat) : (t.useBank c k b).spm = t.spm :=
  (fun (z0 : List BankUse) => (rfl : ({ t with banks := z0 } : Tile).spm = t.spm)) _
@[simp] theorem Tile.useBank_spmTag (t : Tile) (c : Ctx) (k b : Nat) : (t.useBank c k b).spmTag = t.spmTag :=
  (fun (z0 : List BankUse) => (rfl : ({ t with banks := z0 } : Tile).spmTag = t.spmTag)) _
@[simp] theorem Tile.useBank_grid (t : Tile) (c : Ctx) (k b : Nat) : (t.useBank c k b).grid = t.grid :=
  (fun (z0 : List BankUse) => (rfl : ({ t with banks := z0 } : Tile).grid = t.grid)) _
@[simp] theorem Tile.useBank_gridTag (t : Tile) (c : Ctx) (k b : Nat) : (t.useBank c k b).gridTag = t.gridTag :=
  (fun (z0 : List BankUse) => (rfl : ({ t with banks := z0 } : Tile).gridTag = t.gridTag)) _
@[simp] theorem Tile.useBank_side (t : Tile) (c : Ctx) (k b : Nat) : (t.useBank c k b).side = t.side :=
  (fun (z0 : List BankUse) => (rfl : ({ t with banks := z0 } : Tile).side = t.side)) _
@[simp] theorem Tile.useBank_sideTag (t : Tile) (c : Ctx) (k b : Nat) : (t.useBank c k b).sideTag = t.sideTag :=
  (fun (z0 : List BankUse) => (rfl : ({ t with banks := z0 } : Tile).sideTag = t.sideTag)) _
@[simp] theorem Tile.useBank_desc (t : Tile) (c : Ctx) (k b : Nat) : (t.useBank c k b).desc = t.desc :=
  (fun (z0 : List BankUse) => (rfl : ({ t with banks := z0 } : Tile).desc = t.desc)) _
@[simp] theorem Tile.useBank_descTag (t : Tile) (c : Ctx) (k b : Nat) : (t.useBank c k b).descTag = t.descTag :=
  (fun (z0 : List BankUse) => (rfl : ({ t with banks := z0 } : Tile).descTag = t.descTag)) _
@[simp] theorem Tile.useBank_epoch (t : Tile) (c : Ctx) (k b : Nat) : (t.useBank c k b).epoch = t.epoch :=
  (fun (z0 : List BankUse) => (rfl : ({ t with banks := z0 } : Tile).epoch = t.epoch)) _
@[simp] theorem Tile.useBank_cutAt (t : Tile) (c : Ctx) (k b : Nat) : (t.useBank c k b).cutAt = t.cutAt :=
  (fun (z0 : List BankUse) => (rfl : ({ t with banks := z0 } : Tile).cutAt = t.cutAt)) _
@[simp] theorem Tile.useBank_cutBy (t : Tile) (c : Ctx) (k b : Nat) : (t.useBank c k b).cutBy = t.cutBy :=
  (fun (z0 : List BankUse) => (rfl : ({ t with banks := z0 } : Tile).cutBy = t.cutBy)) _
@[simp] theorem Tile.useBank_g (t : Tile) (c : Ctx) (k b : Nat) : (t.useBank c k b).g = t.g :=
  (fun (z0 : List BankUse) => (rfl : ({ t with banks := z0 } : Tile).g = t.g)) _
@[simp] theorem Tile.useBank_xr (t : Tile) (c : Ctx) (k b : Nat) : (t.useBank c k b).xr = t.xr :=
  (fun (z0 : List BankUse) => (rfl : ({ t with banks := z0 } : Tile).xr = t.xr)) _
@[simp] theorem Tile.useBank_m (t : Tile) (c : Ctx) (k b : Nat) : (t.useBank c k b).m = t.m :=
  (fun (z0 : List BankUse) => (rfl : ({ t with banks := z0 } : Tile).m = t.m)) _
@[simp] theorem Tile.useBank_s (t : Tile) (c : Ctx) (k b : Nat) : (t.useBank c k b).s = t.s :=
  (fun (z0 : List BankUse) => (rfl : ({ t with banks := z0 } : Tile).s = t.s)) _
@[simp] theorem Tile.useBank_gen (t : Tile) (c : Ctx) (k b : Nat) : (t.useBank c k b).gen = t.gen :=
  (fun (z0 : List BankUse) => (rfl : ({ t with banks := z0 } : Tile).gen = t.gen)) _
@[simp] theorem Tile.useBank_pitchGen (t : Tile) (c : Ctx) (k b : Nat) : (t.useBank c k b).pitchGen = t.pitchGen :=
  (fun (z0 : List BankUse) => (rfl : ({ t with banks := z0 } : Tile).pitchGen = t.pitchGen)) _
@[simp] theorem Tile.useBank_maxGen (t : Tile) (c : Ctx) (k b : Nat) : (t.useBank c k b).maxGen = t.maxGen :=
  (fun (z0 : List BankUse) => (rfl : ({ t with banks := z0 } : Tile).maxGen = t.maxGen)) _
@[simp] theorem Tile.useBank_staleTrap (t : Tile) (c : Ctx) (k b : Nat) : (t.useBank c k b).staleTrap = t.staleTrap :=
  (fun (z0 : List BankUse) => (rfl : ({ t with banks := z0 } : Tile).staleTrap = t.staleTrap)) _
@[simp] theorem Tile.useBank_staleArrivals (t : Tile) (c : Ctx) (k b : Nat) : (t.useBank c k b).staleArrivals = t.staleArrivals :=
  (fun (z0 : List BankUse) => (rfl : ({ t with banks := z0 } : Tile).staleArrivals = t.staleArrivals)) _
@[simp] theorem Tile.useBank_vflags (t : Tile) (c : Ctx) (k b : Nat) : (t.useBank c k b).vflags = t.vflags :=
  (fun (z0 : List BankUse) => (rfl : ({ t with banks := z0 } : Tile).vflags = t.vflags)) _
@[simp] theorem Tile.useBank_mflags (t : Tile) (c : Ctx) (k b : Nat) : (t.useBank c k b).mflags = t.mflags :=
  (fun (z0 : List BankUse) => (rfl : ({ t with banks := z0 } : Tile).mflags = t.mflags)) _
@[simp] theorem Tile.useBank_trapInfo (t : Tile) (c : Ctx) (k b : Nat) : (t.useBank c k b).trapInfo = t.trapInfo :=
  (fun (z0 : List BankUse) => (rfl : ({ t with banks := z0 } : Tile).trapInfo = t.trapInfo)) _
@[simp] theorem Tile.useBank_tok (t : Tile) (c : Ctx) (k b : Nat) : (t.useBank c k b).tok = t.tok :=
  (fun (z0 : List BankUse) => (rfl : ({ t with banks := z0 } : Tile).tok = t.tok)) _
@[simp] theorem Tile.useBank_sem (t : Tile) (c : Ctx) (k b : Nat) : (t.useBank c k b).sem = t.sem :=
  (fun (z0 : List BankUse) => (rfl : ({ t with banks := z0 } : Tile).sem = t.sem)) _
@[simp] theorem Tile.useBank_ring (t : Tile) (c : Ctx) (k b : Nat) : (t.useBank c k b).ring = t.ring :=
  (fun (z0 : List BankUse) => (rfl : ({ t with banks := z0 } : Tile).ring = t.ring)) _
@[simp] theorem Tile.useBank_eng (t : Tile) (c : Ctx) (k b : Nat) : (t.useBank c k b).eng = t.eng :=
  (fun (z0 : List BankUse) => (rfl : ({ t with banks := z0 } : Tile).eng = t.eng)) _
@[simp] theorem Tile.useBank_xs (t : Tile) (c : Ctx) (k b : Nat) : (t.useBank c k b).xs = t.xs :=
  (fun (z0 : List BankUse) => (rfl : ({ t with banks := z0 } : Tile).xs = t.xs)) _
@[simp] theorem Tile.useBank_tl (t : Tile) (c : Ctx) (k b : Nat) : (t.useBank c k b).tl = t.tl :=
  (fun (z0 : List BankUse) => (rfl : ({ t with banks := z0 } : Tile).tl = t.tl)) _
@[simp] theorem Tile.useBank_mode (t : Tile) (c : Ctx) (k b : Nat) : (t.useBank c k b).mode = t.mode :=
  (fun (z0 : List BankUse) => (rfl : ({ t with banks := z0 } : Tile).mode = t.mode)) _
@[simp] theorem Tile.useBank_rdvOff (t : Tile) (c : Ctx) (k b : Nat) : (t.useBank c k b).rdvOff = t.rdvOff :=
  (fun (z0 : List BankUse) => (rfl : ({ t with banks := z0 } : Tile).rdvOff = t.rdvOff)) _
@[simp] theorem Tile.useBank_live (t : Tile) (c : Ctx) (k b : Nat) : (t.useBank c k b).live = t.live :=
  (fun (z0 : List BankUse) => (rfl : ({ t with banks := z0 } : Tile).live = t.live)) _
@[simp] theorem Tile.useBank_reach (t : Tile) (c : Ctx) (k b : Nat) : (t.useBank c k b).reach = t.reach :=
  (fun (z0 : List BankUse) => (rfl : ({ t with banks := z0 } : Tile).reach = t.reach)) _
@[simp] theorem Tile.useBank_gseq (t : Tile) (c : Ctx) (k b : Nat) : (t.useBank c k b).gseq = t.gseq :=
  (fun (z0 : List BankUse) => (rfl : ({ t with banks := z0 } : Tile).gseq = t.gseq)) _
@[simp] theorem Tile.useBank_pend (t : Tile) (c : Ctx) (k b : Nat) : (t.useBank c k b).pend = t.pend :=
  (fun (z0 : List BankUse) => (rfl : ({ t with banks := z0 } : Tile).pend = t.pend)) _
@[simp] theorem Tile.useBank_banksNow (t : Tile) (c : Ctx) (k b : Nat) : (t.useBank c k b).banksNow = t.banksNow :=
  (fun (z0 : List BankUse) => (rfl : ({ t with banks := z0 } : Tile).banksNow = t.banksNow)) _
@[simp] theorem Tile.useBank_looks (t : Tile) (c : Ctx) (k b : Nat) : (t.useBank c k b).looks = t.looks :=
  (fun (z0 : List BankUse) => (rfl : ({ t with banks := z0 } : Tile).looks = t.looks)) _
@[simp] theorem Tile.useBank_semOps (t : Tile) (c : Ctx) (k b : Nat) : (t.useBank c k b).semOps = t.semOps :=
  (fun (z0 : List BankUse) => (rfl : ({ t with banks := z0 } : Tile).semOps = t.semOps)) _
@[simp] theorem Tile.useBank_traps (t : Tile) (c : Ctx) (k b : Nat) : (t.useBank c k b).traps = t.traps :=
  (fun (z0 : List BankUse) => (rfl : ({ t with banks := z0 } : Tile).traps = t.traps)) _
@[simp] theorem Tile.useBank_clearing (t : Tile) (c : Ctx) (k b : Nat) : (t.useBank c k b).clearing = t.clearing :=
  (fun (z0 : List BankUse) => (rfl : ({ t with banks := z0 } : Tile).clearing = t.clearing)) _
@[simp] theorem Tile.useBank_blk (t : Tile) (c : Ctx) (k b : Nat) : (t.useBank c k b).blk = t.blk :=
  (fun (z0 : List BankUse) => (rfl : ({ t with banks := z0 } : Tile).blk = t.blk)) _
@[simp] theorem Tile.useBank_rdvEng (t : Tile) (c : Ctx) (k b : Nat) : (t.useBank c k b).rdvEng = t.rdvEng :=
  (fun (z0 : List BankUse) => (rfl : ({ t with banks := z0 } : Tile).rdvEng = t.rdvEng)) _
@[simp] theorem Tile.useBank_cleared (t : Tile) (c : Ctx) (k b : Nat) : (t.useBank c k b).cleared = t.cleared :=
  (fun (z0 : List BankUse) => (rfl : ({ t with banks := z0 } : Tile).cleared = t.cleared)) _
@[simp] theorem Tile.useBank_out (t : Tile) (c : Ctx) (k b : Nat) : (t.useBank c k b).out = t.out :=
  (fun (z0 : List BankUse) => (rfl : ({ t with banks := z0 } : Tile).out = t.out)) _
@[simp] theorem Tile.useBank_acc (t : Tile) (c : Ctx) (k b : Nat) : (t.useBank c k b).acc = t.acc :=
  (fun (z0 : List BankUse) => (rfl : ({ t with banks := z0 } : Tile).acc = t.acc)) _
@[simp] theorem Tile.useBank_cycActive (t : Tile) (c : Ctx) (k b : Nat) : (t.useBank c k b).cycActive = t.cycActive :=
  (fun (z0 : List BankUse) => (rfl : ({ t with banks := z0 } : Tile).cycActive = t.cycActive)) _
@[simp] theorem Tile.useBank_cycOwned (t : Tile) (c : Ctx) (k b : Nat) : (t.useBank c k b).cycOwned = t.cycOwned :=
  (fun (z0 : List BankUse) => (rfl : ({ t with banks := z0 } : Tile).cycOwned = t.cycOwned)) _
@[simp] theorem Tile.useBank_unsent (t : Tile) (c : Ctx) (k b : Nat) : (t.useBank c k b).unsent = t.unsent :=
  (fun (z0 : List BankUse) => (rfl : ({ t with banks := z0 } : Tile).unsent = t.unsent)) _
@[simp] theorem Tile.useBank_issued (t : Tile) (c : Ctx) (k b : Nat) : (t.useBank c k b).issued = t.issued :=
  (fun (z0 : List BankUse) => (rfl : ({ t with banks := z0 } : Tile).issued = t.issued)) _
@[simp] theorem Tile.useBank_worked (t : Tile) (c : Ctx) (k b : Nat) : (t.useBank c k b).worked = t.worked :=
  (fun (z0 : List BankUse) => (rfl : ({ t with banks := z0 } : Tile).worked = t.worked)) _

@[simp] theorem Tile.spmWrite_x (t : Tile) (l : List MByte) : (t.spmWrite l).x = t.x :=
  (fun (z0 : Mem) (z1 : Tab) => (rfl : ({ t with spm := z0, spmTag := z1 } : Tile).x = t.x)) _ _
@[simp] theorem Tile.spmWrite_y (t : Tile) (l : List MByte) : (t.spmWrite l).y = t.y :=
  (fun (z0 : Mem) (z1 : Tab) => (rfl : ({ t with spm := z0, spmTag := z1 } : Tile).y = t.y)) _ _
@[simp] theorem Tile.spmWrite_cls (t : Tile) (l : List MByte) : (t.spmWrite l).cls = t.cls :=
  (fun (z0 : Mem) (z1 : Tab) => (rfl : ({ t with spm := z0, spmTag := z1 } : Tile).cls = t.cls)) _ _
@[simp] theorem Tile.spmWrite_grid (t : Tile) (l : List MByte) : (t.spmWrite l).grid = t.grid :=
  (fun (z0 : Mem) (z1 : Tab) => (rfl : ({ t with spm := z0, spmTag := z1 } : Tile).grid = t.grid)) _ _
@[simp] theorem Tile.spmWrite_gridTag (t : Tile) (l : List MByte) : (t.spmWrite l).gridTag = t.gridTag :=
  (fun (z0 : Mem) (z1 : Tab) => (rfl : ({ t with spm := z0, spmTag := z1 } : Tile).gridTag = t.gridTag)) _ _
@[simp] theorem Tile.spmWrite_side (t : Tile) (l : List MByte) : (t.spmWrite l).side = t.side :=
  (fun (z0 : Mem) (z1 : Tab) => (rfl : ({ t with spm := z0, spmTag := z1 } : Tile).side = t.side)) _ _
@[simp] theorem Tile.spmWrite_sideTag (t : Tile) (l : List MByte) : (t.spmWrite l).sideTag = t.sideTag :=
  (fun (z0 : Mem) (z1 : Tab) => (rfl : ({ t with spm := z0, spmTag := z1 } : Tile).sideTag = t.sideTag)) _ _
@[simp] theorem Tile.spmWrite_desc (t : Tile) (l : List MByte) : (t.spmWrite l).desc = t.desc :=
  (fun (z0 : Mem) (z1 : Tab) => (rfl : ({ t with spm := z0, spmTag := z1 } : Tile).desc = t.desc)) _ _
@[simp] theorem Tile.spmWrite_descTag (t : Tile) (l : List MByte) : (t.spmWrite l).descTag = t.descTag :=
  (fun (z0 : Mem) (z1 : Tab) => (rfl : ({ t with spm := z0, spmTag := z1 } : Tile).descTag = t.descTag)) _ _
@[simp] theorem Tile.spmWrite_epoch (t : Tile) (l : List MByte) : (t.spmWrite l).epoch = t.epoch :=
  (fun (z0 : Mem) (z1 : Tab) => (rfl : ({ t with spm := z0, spmTag := z1 } : Tile).epoch = t.epoch)) _ _
@[simp] theorem Tile.spmWrite_cutAt (t : Tile) (l : List MByte) : (t.spmWrite l).cutAt = t.cutAt :=
  (fun (z0 : Mem) (z1 : Tab) => (rfl : ({ t with spm := z0, spmTag := z1 } : Tile).cutAt = t.cutAt)) _ _
@[simp] theorem Tile.spmWrite_cutBy (t : Tile) (l : List MByte) : (t.spmWrite l).cutBy = t.cutBy :=
  (fun (z0 : Mem) (z1 : Tab) => (rfl : ({ t with spm := z0, spmTag := z1 } : Tile).cutBy = t.cutBy)) _ _
@[simp] theorem Tile.spmWrite_g (t : Tile) (l : List MByte) : (t.spmWrite l).g = t.g :=
  (fun (z0 : Mem) (z1 : Tab) => (rfl : ({ t with spm := z0, spmTag := z1 } : Tile).g = t.g)) _ _
@[simp] theorem Tile.spmWrite_xr (t : Tile) (l : List MByte) : (t.spmWrite l).xr = t.xr :=
  (fun (z0 : Mem) (z1 : Tab) => (rfl : ({ t with spm := z0, spmTag := z1 } : Tile).xr = t.xr)) _ _
@[simp] theorem Tile.spmWrite_m (t : Tile) (l : List MByte) : (t.spmWrite l).m = t.m :=
  (fun (z0 : Mem) (z1 : Tab) => (rfl : ({ t with spm := z0, spmTag := z1 } : Tile).m = t.m)) _ _
@[simp] theorem Tile.spmWrite_s (t : Tile) (l : List MByte) : (t.spmWrite l).s = t.s :=
  (fun (z0 : Mem) (z1 : Tab) => (rfl : ({ t with spm := z0, spmTag := z1 } : Tile).s = t.s)) _ _
@[simp] theorem Tile.spmWrite_gen (t : Tile) (l : List MByte) : (t.spmWrite l).gen = t.gen :=
  (fun (z0 : Mem) (z1 : Tab) => (rfl : ({ t with spm := z0, spmTag := z1 } : Tile).gen = t.gen)) _ _
@[simp] theorem Tile.spmWrite_pitchGen (t : Tile) (l : List MByte) : (t.spmWrite l).pitchGen = t.pitchGen :=
  (fun (z0 : Mem) (z1 : Tab) => (rfl : ({ t with spm := z0, spmTag := z1 } : Tile).pitchGen = t.pitchGen)) _ _
@[simp] theorem Tile.spmWrite_maxGen (t : Tile) (l : List MByte) : (t.spmWrite l).maxGen = t.maxGen :=
  (fun (z0 : Mem) (z1 : Tab) => (rfl : ({ t with spm := z0, spmTag := z1 } : Tile).maxGen = t.maxGen)) _ _
@[simp] theorem Tile.spmWrite_staleTrap (t : Tile) (l : List MByte) : (t.spmWrite l).staleTrap = t.staleTrap :=
  (fun (z0 : Mem) (z1 : Tab) => (rfl : ({ t with spm := z0, spmTag := z1 } : Tile).staleTrap = t.staleTrap)) _ _
@[simp] theorem Tile.spmWrite_staleArrivals (t : Tile) (l : List MByte) : (t.spmWrite l).staleArrivals = t.staleArrivals :=
  (fun (z0 : Mem) (z1 : Tab) => (rfl : ({ t with spm := z0, spmTag := z1 } : Tile).staleArrivals = t.staleArrivals)) _ _
@[simp] theorem Tile.spmWrite_vflags (t : Tile) (l : List MByte) : (t.spmWrite l).vflags = t.vflags :=
  (fun (z0 : Mem) (z1 : Tab) => (rfl : ({ t with spm := z0, spmTag := z1 } : Tile).vflags = t.vflags)) _ _
@[simp] theorem Tile.spmWrite_mflags (t : Tile) (l : List MByte) : (t.spmWrite l).mflags = t.mflags :=
  (fun (z0 : Mem) (z1 : Tab) => (rfl : ({ t with spm := z0, spmTag := z1 } : Tile).mflags = t.mflags)) _ _
@[simp] theorem Tile.spmWrite_trapInfo (t : Tile) (l : List MByte) : (t.spmWrite l).trapInfo = t.trapInfo :=
  (fun (z0 : Mem) (z1 : Tab) => (rfl : ({ t with spm := z0, spmTag := z1 } : Tile).trapInfo = t.trapInfo)) _ _
@[simp] theorem Tile.spmWrite_tok (t : Tile) (l : List MByte) : (t.spmWrite l).tok = t.tok :=
  (fun (z0 : Mem) (z1 : Tab) => (rfl : ({ t with spm := z0, spmTag := z1 } : Tile).tok = t.tok)) _ _
@[simp] theorem Tile.spmWrite_sem (t : Tile) (l : List MByte) : (t.spmWrite l).sem = t.sem :=
  (fun (z0 : Mem) (z1 : Tab) => (rfl : ({ t with spm := z0, spmTag := z1 } : Tile).sem = t.sem)) _ _
@[simp] theorem Tile.spmWrite_ring (t : Tile) (l : List MByte) : (t.spmWrite l).ring = t.ring :=
  (fun (z0 : Mem) (z1 : Tab) => (rfl : ({ t with spm := z0, spmTag := z1 } : Tile).ring = t.ring)) _ _
@[simp] theorem Tile.spmWrite_eng (t : Tile) (l : List MByte) : (t.spmWrite l).eng = t.eng :=
  (fun (z0 : Mem) (z1 : Tab) => (rfl : ({ t with spm := z0, spmTag := z1 } : Tile).eng = t.eng)) _ _
@[simp] theorem Tile.spmWrite_xs (t : Tile) (l : List MByte) : (t.spmWrite l).xs = t.xs :=
  (fun (z0 : Mem) (z1 : Tab) => (rfl : ({ t with spm := z0, spmTag := z1 } : Tile).xs = t.xs)) _ _
@[simp] theorem Tile.spmWrite_tl (t : Tile) (l : List MByte) : (t.spmWrite l).tl = t.tl :=
  (fun (z0 : Mem) (z1 : Tab) => (rfl : ({ t with spm := z0, spmTag := z1 } : Tile).tl = t.tl)) _ _
@[simp] theorem Tile.spmWrite_mode (t : Tile) (l : List MByte) : (t.spmWrite l).mode = t.mode :=
  (fun (z0 : Mem) (z1 : Tab) => (rfl : ({ t with spm := z0, spmTag := z1 } : Tile).mode = t.mode)) _ _
@[simp] theorem Tile.spmWrite_rdvOff (t : Tile) (l : List MByte) : (t.spmWrite l).rdvOff = t.rdvOff :=
  (fun (z0 : Mem) (z1 : Tab) => (rfl : ({ t with spm := z0, spmTag := z1 } : Tile).rdvOff = t.rdvOff)) _ _
@[simp] theorem Tile.spmWrite_live (t : Tile) (l : List MByte) : (t.spmWrite l).live = t.live :=
  (fun (z0 : Mem) (z1 : Tab) => (rfl : ({ t with spm := z0, spmTag := z1 } : Tile).live = t.live)) _ _
@[simp] theorem Tile.spmWrite_reach (t : Tile) (l : List MByte) : (t.spmWrite l).reach = t.reach :=
  (fun (z0 : Mem) (z1 : Tab) => (rfl : ({ t with spm := z0, spmTag := z1 } : Tile).reach = t.reach)) _ _
@[simp] theorem Tile.spmWrite_gseq (t : Tile) (l : List MByte) : (t.spmWrite l).gseq = t.gseq :=
  (fun (z0 : Mem) (z1 : Tab) => (rfl : ({ t with spm := z0, spmTag := z1 } : Tile).gseq = t.gseq)) _ _
@[simp] theorem Tile.spmWrite_pend (t : Tile) (l : List MByte) : (t.spmWrite l).pend = t.pend :=
  (fun (z0 : Mem) (z1 : Tab) => (rfl : ({ t with spm := z0, spmTag := z1 } : Tile).pend = t.pend)) _ _
@[simp] theorem Tile.spmWrite_banks (t : Tile) (l : List MByte) : (t.spmWrite l).banks = t.banks :=
  (fun (z0 : Mem) (z1 : Tab) => (rfl : ({ t with spm := z0, spmTag := z1 } : Tile).banks = t.banks)) _ _
@[simp] theorem Tile.spmWrite_banksNow (t : Tile) (l : List MByte) : (t.spmWrite l).banksNow = t.banksNow :=
  (fun (z0 : Mem) (z1 : Tab) => (rfl : ({ t with spm := z0, spmTag := z1 } : Tile).banksNow = t.banksNow)) _ _
@[simp] theorem Tile.spmWrite_looks (t : Tile) (l : List MByte) : (t.spmWrite l).looks = t.looks :=
  (fun (z0 : Mem) (z1 : Tab) => (rfl : ({ t with spm := z0, spmTag := z1 } : Tile).looks = t.looks)) _ _
@[simp] theorem Tile.spmWrite_semOps (t : Tile) (l : List MByte) : (t.spmWrite l).semOps = t.semOps :=
  (fun (z0 : Mem) (z1 : Tab) => (rfl : ({ t with spm := z0, spmTag := z1 } : Tile).semOps = t.semOps)) _ _
@[simp] theorem Tile.spmWrite_traps (t : Tile) (l : List MByte) : (t.spmWrite l).traps = t.traps :=
  (fun (z0 : Mem) (z1 : Tab) => (rfl : ({ t with spm := z0, spmTag := z1 } : Tile).traps = t.traps)) _ _
@[simp] theorem Tile.spmWrite_clearing (t : Tile) (l : List MByte) : (t.spmWrite l).clearing = t.clearing :=
  (fun (z0 : Mem) (z1 : Tab) => (rfl : ({ t with spm := z0, spmTag := z1 } : Tile).clearing = t.clearing)) _ _
@[simp] theorem Tile.spmWrite_blk (t : Tile) (l : List MByte) : (t.spmWrite l).blk = t.blk :=
  (fun (z0 : Mem) (z1 : Tab) => (rfl : ({ t with spm := z0, spmTag := z1 } : Tile).blk = t.blk)) _ _
@[simp] theorem Tile.spmWrite_rdvEng (t : Tile) (l : List MByte) : (t.spmWrite l).rdvEng = t.rdvEng :=
  (fun (z0 : Mem) (z1 : Tab) => (rfl : ({ t with spm := z0, spmTag := z1 } : Tile).rdvEng = t.rdvEng)) _ _
@[simp] theorem Tile.spmWrite_cleared (t : Tile) (l : List MByte) : (t.spmWrite l).cleared = t.cleared :=
  (fun (z0 : Mem) (z1 : Tab) => (rfl : ({ t with spm := z0, spmTag := z1 } : Tile).cleared = t.cleared)) _ _
@[simp] theorem Tile.spmWrite_out (t : Tile) (l : List MByte) : (t.spmWrite l).out = t.out :=
  (fun (z0 : Mem) (z1 : Tab) => (rfl : ({ t with spm := z0, spmTag := z1 } : Tile).out = t.out)) _ _
@[simp] theorem Tile.spmWrite_acc (t : Tile) (l : List MByte) : (t.spmWrite l).acc = t.acc :=
  (fun (z0 : Mem) (z1 : Tab) => (rfl : ({ t with spm := z0, spmTag := z1 } : Tile).acc = t.acc)) _ _
@[simp] theorem Tile.spmWrite_cycActive (t : Tile) (l : List MByte) : (t.spmWrite l).cycActive = t.cycActive :=
  (fun (z0 : Mem) (z1 : Tab) => (rfl : ({ t with spm := z0, spmTag := z1 } : Tile).cycActive = t.cycActive)) _ _
@[simp] theorem Tile.spmWrite_cycOwned (t : Tile) (l : List MByte) : (t.spmWrite l).cycOwned = t.cycOwned :=
  (fun (z0 : Mem) (z1 : Tab) => (rfl : ({ t with spm := z0, spmTag := z1 } : Tile).cycOwned = t.cycOwned)) _ _
@[simp] theorem Tile.spmWrite_unsent (t : Tile) (l : List MByte) : (t.spmWrite l).unsent = t.unsent :=
  (fun (z0 : Mem) (z1 : Tab) => (rfl : ({ t with spm := z0, spmTag := z1 } : Tile).unsent = t.unsent)) _ _
@[simp] theorem Tile.spmWrite_issued (t : Tile) (l : List MByte) : (t.spmWrite l).issued = t.issued :=
  (fun (z0 : Mem) (z1 : Tab) => (rfl : ({ t with spm := z0, spmTag := z1 } : Tile).issued = t.issued)) _ _
@[simp] theorem Tile.spmWrite_worked (t : Tile) (l : List MByte) : (t.spmWrite l).worked = t.worked :=
  (fun (z0 : Mem) (z1 : Tab) => (rfl : ({ t with spm := z0, spmTag := z1 } : Tile).worked = t.worked)) _ _

@[simp] theorem Tile.sideWrite_x (t : Tile) (l : List MByte) : (t.sideWrite l).x = t.x :=
  (fun (z0 : Mem) (z1 : Tab) => (rfl : ({ t with side := z0, sideTag := z1 } : Tile).x = t.x)) _ _
@[simp] theorem Tile.sideWrite_y (t : Tile) (l : List MByte) : (t.sideWrite l).y = t.y :=
  (fun (z0 : Mem) (z1 : Tab) => (rfl : ({ t with side := z0, sideTag := z1 } : Tile).y = t.y)) _ _
@[simp] theorem Tile.sideWrite_cls (t : Tile) (l : List MByte) : (t.sideWrite l).cls = t.cls :=
  (fun (z0 : Mem) (z1 : Tab) => (rfl : ({ t with side := z0, sideTag := z1 } : Tile).cls = t.cls)) _ _
@[simp] theorem Tile.sideWrite_spm (t : Tile) (l : List MByte) : (t.sideWrite l).spm = t.spm :=
  (fun (z0 : Mem) (z1 : Tab) => (rfl : ({ t with side := z0, sideTag := z1 } : Tile).spm = t.spm)) _ _
@[simp] theorem Tile.sideWrite_spmTag (t : Tile) (l : List MByte) : (t.sideWrite l).spmTag = t.spmTag :=
  (fun (z0 : Mem) (z1 : Tab) => (rfl : ({ t with side := z0, sideTag := z1 } : Tile).spmTag = t.spmTag)) _ _
@[simp] theorem Tile.sideWrite_grid (t : Tile) (l : List MByte) : (t.sideWrite l).grid = t.grid :=
  (fun (z0 : Mem) (z1 : Tab) => (rfl : ({ t with side := z0, sideTag := z1 } : Tile).grid = t.grid)) _ _
@[simp] theorem Tile.sideWrite_gridTag (t : Tile) (l : List MByte) : (t.sideWrite l).gridTag = t.gridTag :=
  (fun (z0 : Mem) (z1 : Tab) => (rfl : ({ t with side := z0, sideTag := z1 } : Tile).gridTag = t.gridTag)) _ _
@[simp] theorem Tile.sideWrite_desc (t : Tile) (l : List MByte) : (t.sideWrite l).desc = t.desc :=
  (fun (z0 : Mem) (z1 : Tab) => (rfl : ({ t with side := z0, sideTag := z1 } : Tile).desc = t.desc)) _ _
@[simp] theorem Tile.sideWrite_descTag (t : Tile) (l : List MByte) : (t.sideWrite l).descTag = t.descTag :=
  (fun (z0 : Mem) (z1 : Tab) => (rfl : ({ t with side := z0, sideTag := z1 } : Tile).descTag = t.descTag)) _ _
@[simp] theorem Tile.sideWrite_epoch (t : Tile) (l : List MByte) : (t.sideWrite l).epoch = t.epoch :=
  (fun (z0 : Mem) (z1 : Tab) => (rfl : ({ t with side := z0, sideTag := z1 } : Tile).epoch = t.epoch)) _ _
@[simp] theorem Tile.sideWrite_cutAt (t : Tile) (l : List MByte) : (t.sideWrite l).cutAt = t.cutAt :=
  (fun (z0 : Mem) (z1 : Tab) => (rfl : ({ t with side := z0, sideTag := z1 } : Tile).cutAt = t.cutAt)) _ _
@[simp] theorem Tile.sideWrite_cutBy (t : Tile) (l : List MByte) : (t.sideWrite l).cutBy = t.cutBy :=
  (fun (z0 : Mem) (z1 : Tab) => (rfl : ({ t with side := z0, sideTag := z1 } : Tile).cutBy = t.cutBy)) _ _
@[simp] theorem Tile.sideWrite_g (t : Tile) (l : List MByte) : (t.sideWrite l).g = t.g :=
  (fun (z0 : Mem) (z1 : Tab) => (rfl : ({ t with side := z0, sideTag := z1 } : Tile).g = t.g)) _ _
@[simp] theorem Tile.sideWrite_xr (t : Tile) (l : List MByte) : (t.sideWrite l).xr = t.xr :=
  (fun (z0 : Mem) (z1 : Tab) => (rfl : ({ t with side := z0, sideTag := z1 } : Tile).xr = t.xr)) _ _
@[simp] theorem Tile.sideWrite_m (t : Tile) (l : List MByte) : (t.sideWrite l).m = t.m :=
  (fun (z0 : Mem) (z1 : Tab) => (rfl : ({ t with side := z0, sideTag := z1 } : Tile).m = t.m)) _ _
@[simp] theorem Tile.sideWrite_s (t : Tile) (l : List MByte) : (t.sideWrite l).s = t.s :=
  (fun (z0 : Mem) (z1 : Tab) => (rfl : ({ t with side := z0, sideTag := z1 } : Tile).s = t.s)) _ _
@[simp] theorem Tile.sideWrite_gen (t : Tile) (l : List MByte) : (t.sideWrite l).gen = t.gen :=
  (fun (z0 : Mem) (z1 : Tab) => (rfl : ({ t with side := z0, sideTag := z1 } : Tile).gen = t.gen)) _ _
@[simp] theorem Tile.sideWrite_pitchGen (t : Tile) (l : List MByte) : (t.sideWrite l).pitchGen = t.pitchGen :=
  (fun (z0 : Mem) (z1 : Tab) => (rfl : ({ t with side := z0, sideTag := z1 } : Tile).pitchGen = t.pitchGen)) _ _
@[simp] theorem Tile.sideWrite_maxGen (t : Tile) (l : List MByte) : (t.sideWrite l).maxGen = t.maxGen :=
  (fun (z0 : Mem) (z1 : Tab) => (rfl : ({ t with side := z0, sideTag := z1 } : Tile).maxGen = t.maxGen)) _ _
@[simp] theorem Tile.sideWrite_staleTrap (t : Tile) (l : List MByte) : (t.sideWrite l).staleTrap = t.staleTrap :=
  (fun (z0 : Mem) (z1 : Tab) => (rfl : ({ t with side := z0, sideTag := z1 } : Tile).staleTrap = t.staleTrap)) _ _
@[simp] theorem Tile.sideWrite_staleArrivals (t : Tile) (l : List MByte) : (t.sideWrite l).staleArrivals = t.staleArrivals :=
  (fun (z0 : Mem) (z1 : Tab) => (rfl : ({ t with side := z0, sideTag := z1 } : Tile).staleArrivals = t.staleArrivals)) _ _
@[simp] theorem Tile.sideWrite_vflags (t : Tile) (l : List MByte) : (t.sideWrite l).vflags = t.vflags :=
  (fun (z0 : Mem) (z1 : Tab) => (rfl : ({ t with side := z0, sideTag := z1 } : Tile).vflags = t.vflags)) _ _
@[simp] theorem Tile.sideWrite_mflags (t : Tile) (l : List MByte) : (t.sideWrite l).mflags = t.mflags :=
  (fun (z0 : Mem) (z1 : Tab) => (rfl : ({ t with side := z0, sideTag := z1 } : Tile).mflags = t.mflags)) _ _
@[simp] theorem Tile.sideWrite_trapInfo (t : Tile) (l : List MByte) : (t.sideWrite l).trapInfo = t.trapInfo :=
  (fun (z0 : Mem) (z1 : Tab) => (rfl : ({ t with side := z0, sideTag := z1 } : Tile).trapInfo = t.trapInfo)) _ _
@[simp] theorem Tile.sideWrite_tok (t : Tile) (l : List MByte) : (t.sideWrite l).tok = t.tok :=
  (fun (z0 : Mem) (z1 : Tab) => (rfl : ({ t with side := z0, sideTag := z1 } : Tile).tok = t.tok)) _ _
@[simp] theorem Tile.sideWrite_sem (t : Tile) (l : List MByte) : (t.sideWrite l).sem = t.sem :=
  (fun (z0 : Mem) (z1 : Tab) => (rfl : ({ t with side := z0, sideTag := z1 } : Tile).sem = t.sem)) _ _
@[simp] theorem Tile.sideWrite_ring (t : Tile) (l : List MByte) : (t.sideWrite l).ring = t.ring :=
  (fun (z0 : Mem) (z1 : Tab) => (rfl : ({ t with side := z0, sideTag := z1 } : Tile).ring = t.ring)) _ _
@[simp] theorem Tile.sideWrite_eng (t : Tile) (l : List MByte) : (t.sideWrite l).eng = t.eng :=
  (fun (z0 : Mem) (z1 : Tab) => (rfl : ({ t with side := z0, sideTag := z1 } : Tile).eng = t.eng)) _ _
@[simp] theorem Tile.sideWrite_xs (t : Tile) (l : List MByte) : (t.sideWrite l).xs = t.xs :=
  (fun (z0 : Mem) (z1 : Tab) => (rfl : ({ t with side := z0, sideTag := z1 } : Tile).xs = t.xs)) _ _
@[simp] theorem Tile.sideWrite_tl (t : Tile) (l : List MByte) : (t.sideWrite l).tl = t.tl :=
  (fun (z0 : Mem) (z1 : Tab) => (rfl : ({ t with side := z0, sideTag := z1 } : Tile).tl = t.tl)) _ _
@[simp] theorem Tile.sideWrite_mode (t : Tile) (l : List MByte) : (t.sideWrite l).mode = t.mode :=
  (fun (z0 : Mem) (z1 : Tab) => (rfl : ({ t with side := z0, sideTag := z1 } : Tile).mode = t.mode)) _ _
@[simp] theorem Tile.sideWrite_rdvOff (t : Tile) (l : List MByte) : (t.sideWrite l).rdvOff = t.rdvOff :=
  (fun (z0 : Mem) (z1 : Tab) => (rfl : ({ t with side := z0, sideTag := z1 } : Tile).rdvOff = t.rdvOff)) _ _
@[simp] theorem Tile.sideWrite_live (t : Tile) (l : List MByte) : (t.sideWrite l).live = t.live :=
  (fun (z0 : Mem) (z1 : Tab) => (rfl : ({ t with side := z0, sideTag := z1 } : Tile).live = t.live)) _ _
@[simp] theorem Tile.sideWrite_reach (t : Tile) (l : List MByte) : (t.sideWrite l).reach = t.reach :=
  (fun (z0 : Mem) (z1 : Tab) => (rfl : ({ t with side := z0, sideTag := z1 } : Tile).reach = t.reach)) _ _
@[simp] theorem Tile.sideWrite_gseq (t : Tile) (l : List MByte) : (t.sideWrite l).gseq = t.gseq :=
  (fun (z0 : Mem) (z1 : Tab) => (rfl : ({ t with side := z0, sideTag := z1 } : Tile).gseq = t.gseq)) _ _
@[simp] theorem Tile.sideWrite_pend (t : Tile) (l : List MByte) : (t.sideWrite l).pend = t.pend :=
  (fun (z0 : Mem) (z1 : Tab) => (rfl : ({ t with side := z0, sideTag := z1 } : Tile).pend = t.pend)) _ _
@[simp] theorem Tile.sideWrite_banks (t : Tile) (l : List MByte) : (t.sideWrite l).banks = t.banks :=
  (fun (z0 : Mem) (z1 : Tab) => (rfl : ({ t with side := z0, sideTag := z1 } : Tile).banks = t.banks)) _ _
@[simp] theorem Tile.sideWrite_banksNow (t : Tile) (l : List MByte) : (t.sideWrite l).banksNow = t.banksNow :=
  (fun (z0 : Mem) (z1 : Tab) => (rfl : ({ t with side := z0, sideTag := z1 } : Tile).banksNow = t.banksNow)) _ _
@[simp] theorem Tile.sideWrite_looks (t : Tile) (l : List MByte) : (t.sideWrite l).looks = t.looks :=
  (fun (z0 : Mem) (z1 : Tab) => (rfl : ({ t with side := z0, sideTag := z1 } : Tile).looks = t.looks)) _ _
@[simp] theorem Tile.sideWrite_semOps (t : Tile) (l : List MByte) : (t.sideWrite l).semOps = t.semOps :=
  (fun (z0 : Mem) (z1 : Tab) => (rfl : ({ t with side := z0, sideTag := z1 } : Tile).semOps = t.semOps)) _ _
@[simp] theorem Tile.sideWrite_traps (t : Tile) (l : List MByte) : (t.sideWrite l).traps = t.traps :=
  (fun (z0 : Mem) (z1 : Tab) => (rfl : ({ t with side := z0, sideTag := z1 } : Tile).traps = t.traps)) _ _
@[simp] theorem Tile.sideWrite_clearing (t : Tile) (l : List MByte) : (t.sideWrite l).clearing = t.clearing :=
  (fun (z0 : Mem) (z1 : Tab) => (rfl : ({ t with side := z0, sideTag := z1 } : Tile).clearing = t.clearing)) _ _
@[simp] theorem Tile.sideWrite_blk (t : Tile) (l : List MByte) : (t.sideWrite l).blk = t.blk :=
  (fun (z0 : Mem) (z1 : Tab) => (rfl : ({ t with side := z0, sideTag := z1 } : Tile).blk = t.blk)) _ _
@[simp] theorem Tile.sideWrite_rdvEng (t : Tile) (l : List MByte) : (t.sideWrite l).rdvEng = t.rdvEng :=
  (fun (z0 : Mem) (z1 : Tab) => (rfl : ({ t with side := z0, sideTag := z1 } : Tile).rdvEng = t.rdvEng)) _ _
@[simp] theorem Tile.sideWrite_cleared (t : Tile) (l : List MByte) : (t.sideWrite l).cleared = t.cleared :=
  (fun (z0 : Mem) (z1 : Tab) => (rfl : ({ t with side := z0, sideTag := z1 } : Tile).cleared = t.cleared)) _ _
@[simp] theorem Tile.sideWrite_out (t : Tile) (l : List MByte) : (t.sideWrite l).out = t.out :=
  (fun (z0 : Mem) (z1 : Tab) => (rfl : ({ t with side := z0, sideTag := z1 } : Tile).out = t.out)) _ _
@[simp] theorem Tile.sideWrite_acc (t : Tile) (l : List MByte) : (t.sideWrite l).acc = t.acc :=
  (fun (z0 : Mem) (z1 : Tab) => (rfl : ({ t with side := z0, sideTag := z1 } : Tile).acc = t.acc)) _ _
@[simp] theorem Tile.sideWrite_cycActive (t : Tile) (l : List MByte) : (t.sideWrite l).cycActive = t.cycActive :=
  (fun (z0 : Mem) (z1 : Tab) => (rfl : ({ t with side := z0, sideTag := z1 } : Tile).cycActive = t.cycActive)) _ _
@[simp] theorem Tile.sideWrite_cycOwned (t : Tile) (l : List MByte) : (t.sideWrite l).cycOwned = t.cycOwned :=
  (fun (z0 : Mem) (z1 : Tab) => (rfl : ({ t with side := z0, sideTag := z1 } : Tile).cycOwned = t.cycOwned)) _ _
@[simp] theorem Tile.sideWrite_unsent (t : Tile) (l : List MByte) : (t.sideWrite l).unsent = t.unsent :=
  (fun (z0 : Mem) (z1 : Tab) => (rfl : ({ t with side := z0, sideTag := z1 } : Tile).unsent = t.unsent)) _ _
@[simp] theorem Tile.sideWrite_issued (t : Tile) (l : List MByte) : (t.sideWrite l).issued = t.issued :=
  (fun (z0 : Mem) (z1 : Tab) => (rfl : ({ t with side := z0, sideTag := z1 } : Tile).issued = t.issued)) _ _
@[simp] theorem Tile.sideWrite_worked (t : Tile) (l : List MByte) : (t.sideWrite l).worked = t.worked :=
  (fun (z0 : Mem) (z1 : Tab) => (rfl : ({ t with side := z0, sideTag := z1 } : Tile).worked = t.worked)) _ _

@[simp] theorem Tile.stage_pend (t : Tile) (c : Ctx) (k ph : Nat) (e : Eff) :
    (t.stage c k ph e).pend = t.pend ++ [⟨k, ph, Tile.own c, c.iss, e⟩] := rfl
@[simp] theorem Tile.record_traps (t : Tile) (r : TrapRec) : (t.record r).traps = t.traps ++ [r] :=
  (fun (w : Word) => (rfl : ({ t with traps := t.traps ++ [r], trapInfo := w } : Tile).traps = t.traps ++ [r])) _

end Sys2Proof.Machine
end

