-- ==== Sys2Proof/Laws/Issue.lean ====
section
/-! SUPPORT. What the issue of an instruction can do, said once for each shared operation. -/

namespace Sys2Proof.Machine

/-- An instruction issues in the tile at the cursor, and nothing else of the state changes. -/
theorem State.atTile_eq {s : State} {p : Pitch} {t : Tile} (h : s.At p t) (n : Nat) (f : Tile → Ctx → Tile) :
    s.atTile n f = .next (s.become p (f t (s.ctxAt p n))) := by
  simp [State.atTile, h.pitch, h.tile, State.become]

/-- Readable operands raise no STALE_READ. -/
theorem Tile.anyStale_readable {t : Tile} {e : Engine} {rs : List Nat} (h : t.Readable e rs) :
    (t.staleTrap && t.anyStale e rs) = false := by
  rcases h with h | h
  · simp [h]
  · cases hs : t.staleTrap <;> simp [Tile.anyStale]
    intro r hr
    simpa using h r hr

theorem Tile.withRegs_eq {t : Tile} {c : Ctx} {rs : List Nat} (h : t.Readable c.eng rs) (k : Tile → Tile) :
    t.withRegs c rs k = k t := by
  simp [Tile.withRegs, Tile.anyStale_readable h]

/-- The dependency bits and the step to the next group are staged before the body runs. -/
theorem issue_eq (p : Pre) (t : Tile) (c : Ctx) (body : Tile → Tile) :
    issue p t c body = body { t with pend := t.pend ++ c.ends t (p.tail c) } := by
  rcases p with ⟨a, b, d, e, f⟩
  cases a <;> cases b <;> cases d <;> cases e <;> cases f <;>
    simp [issue, stageTokens, Tile.stage, Pre.tail, Pre.moves, Ctx.ends, Tile.now, Ctx.last]

theorem issueCtl_eq (p : Pre) (t : Tile) (c : Ctx) (body : Tile → Tile) :
    issueCtl p t c body = body { t with pend := t.pend ++ c.ends t (p.moves c.eng) } := by
  rcases p with ⟨a, b, d, e, f⟩
  cases a <;> cases b <;> cases d <;> cases e <;>
    simp [issueCtl, stageTokens, Tile.stage, Pre.moves, Ctx.ends, Tile.now]

/-- A register operation with readable operands: one CTL charge and one register result. -/
theorem regOp_eq {t : Tile} {c : Ctx} {rs : List Nat} (h : t.Readable c.eng rs) (gd : Nat) (f : Tile → Word) :
    regOp t c rs gd f = t.issued1 c (c.result t gd (f t)) := by
  simp only [regOp, Tile.withRegs_eq h, chargeCtl, Tile.result, Tile.issued1, Ctx.result, Ctx.at]
  cases hc : c.eng <;> simp [Tile.stage, Tile.now, hc]

theorem Tile.issued1_pend (t : Tile) (c : Ctx) (l m : List Pend) :
    Tile.issued1 { t with pend := t.pend ++ l } c m = t.issued1 c (l ++ m) := by
  simp [Tile.issued1, Tile.charge, List.append_assoc]

/-- The same for a whole instruction of this shape. -/
theorem issue_regOp {t : Tile} {c : Ctx} {rs : List Nat} (h : t.Readable c.eng rs) (p : Pre) (gd : Nat) (f : Tile → Word) :
    issue p t c (fun q => regOp q c rs gd f) =
      t.issued1 c (c.ends t (p.tail c) ++ c.result t gd (f { t with pend := t.pend ++ c.ends t (p.tail c) })) := by
  rw [issue_eq, regOp_eq (t := { t with pend := t.pend ++ c.ends t (p.tail c) }) h, Tile.issued1_pend]
  rfl

theorem isStart_iff (c : Ctx) (k : Int) : isStart c k = true ↔ c.Starts k := by
  simp [isStart, Ctx.Starts]

theorem Tile.stage_issued1 (t : Tile) (c : Ctx) (l : List Pend) (k ph : Nat) (e : Eff) :
    (t.issued1 c l).stage c k ph e = t.issued1 c (l ++ c.one k ph e) := by
  simp [Tile.issued1, Tile.stage, Ctx.one]

theorem chargeCtl_pend (t : Tile) (c : Ctx) (l : List Pend) :
    chargeCtl { t with pend := t.pend ++ l } c = t.issued1 c l := by
  simp [chargeCtl, Tile.charge, Tile.issued1]

theorem Ctx.ends_append (c : Ctx) (t : Tile) (l m : List Eff) : c.ends t (l ++ m) = c.ends t l ++ c.ends t m := by
  simp [Ctx.ends]

/-- Taking a trap removes what the group has already staged for the end of its issue cycle. -/
theorem Tile.trapWith_ends (t : Tile) (c : Ctx) (l : List Eff) (code info data : Nat) :
    Tile.trapWith { t with pend := t.pend ++ c.ends t l } c code info data = t.trapWith c code info data := by
  have h : (c.ends t l).filter (fun p => !(Tile.sameOwn (Tile.own c) true p.own && decide (0 ≤ p.at_))) = [] := by
    simp [Ctx.ends, Tile.sameOwn, Tile.own]
  simp only [Tile.trapWith, Tile.suppress, List.filter_append, h, List.append_nil]

theorem Tile.Readable.pend {t : Tile} {e : Engine} {rs : List Nat} (h : t.Readable e rs) (l : List Pend) :
    Tile.Readable { t with pend := l } e rs := h

theorem Tile.Readable.mono {t : Tile} {e : Engine} {rs rs' : List Nat} (h : t.Readable e rs) (hs : ∀ r ∈ rs', r ∈ rs) :
    t.Readable e rs' := by
  rcases h with h | h
  · exact .inl h
  · exact .inr fun r hr => h r (hs r hr)

end Sys2Proof.Machine
end

