-- ==== Sys2Proof/Laws/Memory.lean ====
section
/-! SUPPORT. Byte stores: every write keeps the canonical form, a read after a write gives the value written, and a
write leaves every other byte alone. -/

namespace Sys2Proof.Machine

theorem Mem.wfFrom_mono {lo lo' : Nat} {m : Mem} (h : lo' ≤ lo) (hm : Mem.wfFrom lo m = true) : Mem.wfFrom lo' m = true := by
  cases m with
  | nil => rfl
  | cons x m =>
    obtain ⟨a, v⟩ := x
    simp only [Mem.wfFrom, Bool.and_eq_true, decide_eq_true_eq] at hm ⊢
    exact ⟨⟨by omega, hm.1.2⟩, hm.2⟩

/-- Below its first address a store reads as 0. -/
theorem Mem.read_below {lo k : Nat} {m : Mem} (hm : Mem.wfFrom lo m = true) (hk : k < lo) : m.read k = 0 := by
  cases m with
  | nil => rfl
  | cons x m =>
    obtain ⟨a, v⟩ := x
    simp only [Mem.wfFrom, Bool.and_eq_true, decide_eq_true_eq] at hm
    have h1 : k ≠ a := by omega
    have h2 : k < a := by omega
    simp [Mem.read, h1, h2]

theorem Mem.wfFrom_write {lo k : Nat} {v : Byte} {m : Mem} (hm : Mem.wfFrom lo m = true) (hk : lo ≤ k) :
    Mem.wfFrom lo (m.write k v) = true := by
  induction m generalizing lo with
  | nil =>
    by_cases h : v = 0#8
    · simp [Mem.write, h, Mem.wfFrom]
    · simp [Mem.write, h, Mem.wfFrom, hk]
  | cons x m ih =>
    obtain ⟨a, u⟩ := x
    have hm' := hm
    simp only [Mem.wfFrom, Bool.and_eq_true, decide_eq_true_eq, bne_iff_ne, ne_eq] at hm
    obtain ⟨⟨h1, h2⟩, h3⟩ := hm
    by_cases hlt : k < a
    · by_cases hv : v = 0#8
      · simpa [Mem.write, hlt, hv] using hm'
      · have e : (v == 0) = false := by simpa using hv
        have h2' : ¬u = 0#8 := h2
        simp only [Mem.write, hlt, e, Mem.wfFrom, if_true, Bool.false_eq_true, if_false, Bool.and_eq_true, decide_eq_true_eq,
          bne_iff_ne, ne_eq]
        exact ⟨⟨hk, hv⟩, ⟨by omega, h2'⟩, h3⟩
    · by_cases heq : k = a
      · by_cases hv : v = 0#8
        · simp only [Mem.write, heq, hv]
          simpa using Mem.wfFrom_mono (by omega) h3
        · simp [Mem.write, heq, hv, Mem.wfFrom, h1, h3]
      · simp only [Mem.write, hlt, heq, if_false, beq_iff_eq, Mem.wfFrom, Bool.and_eq_true, decide_eq_true_eq, bne_iff_ne, ne_eq]
        exact ⟨⟨h1, h2⟩, ih h3 (by omega)⟩

/-- A write keeps the canonical form. -/
theorem Mem.wf_write {k : Nat} {v : Byte} {m : Mem} (hm : m.wf = true) : (m.write k v).wf = true :=
  Mem.wfFrom_write hm (Nat.zero_le k)

/-- Reading after a write: the value written at its address, and what was there before at every other. -/
theorem Mem.read_writeFrom {lo k : Nat} {v : Byte} {m : Mem} (hm : Mem.wfFrom lo m = true) (j : Nat) :
    (m.write k v).read j = if j = k then v else m.read j := by
  induction m generalizing lo with
  | nil =>
    by_cases hv : v = 0#8
    · by_cases hj : j = k <;> simp [Mem.write, Mem.read, hv, hj]
    · by_cases hj : j = k <;> simp [Mem.write, Mem.read, hv, hj]
  | cons x m ih =>
    obtain ⟨a, u⟩ := x
    simp only [Mem.wfFrom, Bool.and_eq_true, decide_eq_true_eq] at hm
    obtain ⟨⟨h1, -⟩, h3⟩ := hm
    by_cases hlt : k < a
    · by_cases hv : v = 0#8
      · by_cases hj : j = k
        · have e1 : k ≠ a := by omega
          simp [Mem.write, Mem.read, hlt, hv, hj, e1]
        · simp [Mem.write, Mem.read, hlt, hv, hj]
      · by_cases hj : j = k
        · simp [Mem.write, Mem.read, hlt, hv, hj]
        · by_cases hja : j < k
          · have e1 : j ≠ a := by omega
            have e2 : j < a := by omega
            simp [Mem.write, Mem.read, hlt, hv, hj, hja, e1, e2]
          · simp [Mem.write, Mem.read, hlt, hv, hj, hja]
    · by_cases heq : k = a
      · subst heq
        by_cases hv : v = 0#8
        · by_cases hj : j = k
          · subst hj
            simp [Mem.write, hv, Mem.read_below h3 (Nat.lt_succ_self _)]
          · by_cases hja : j < k
            · simp [Mem.write, Mem.read, hv, hj, hja, Mem.read_below h3 (Nat.lt_succ_of_lt hja)]
            · simp [Mem.write, Mem.read, hv, hj, hja]
        · by_cases hj : j = k <;> simp [Mem.write, Mem.read, hv, hj]
      · by_cases hja : j = a
        · subst hja
          have e1 : ¬ j = k := fun h => heq h.symm
          simp [Mem.write, Mem.read, hlt, heq, e1]
        · by_cases hlt' : j < a
          · have e1 : ¬ j = k := by omega
            simp [Mem.write, Mem.read, hlt, heq, hja, hlt', e1]
          · simp [Mem.write, Mem.read, hlt, heq, hja, hlt', ih h3]

theorem Mem.read_write {k : Nat} {v : Byte} {m : Mem} (hm : m.wf = true) (j : Nat) :
    (m.write k v).read j = if j = k then v else m.read j := Mem.read_writeFrom hm j

theorem Mem.wf_writeAll {m : Mem} (a : Nat) (l : List Byte) (hm : m.wf = true) : (m.writeAll a l).wf = true := by
  induction l generalizing m a with
  | nil => exact hm
  | cons b l ih => exact ih (a + 1) (Mem.wf_write hm)

/-- A run of bytes leaves every byte outside it alone. -/
theorem Mem.read_writeAll {m : Mem} (a : Nat) (l : List Byte) (hm : m.wf = true) (j : Nat) (hj : j < a ∨ a + l.length ≤ j) :
    (m.writeAll a l).read j = m.read j := by
  induction l generalizing m a with
  | nil => rfl
  | cons b l ih =>
    simp only [List.length_cons] at hj
    have h1 : (m.write a b).read j = m.read j := by
      rw [Mem.read_write hm]
      exact if_neg (by omega)
    exact (ih (m := m.write a b) (a + 1) (Mem.wf_write hm) (by omega)).trans h1

theorem Mem.wf_writeMasked {m : Mem} (b : MByte) (hm : m.wf = true) : (m.writeMasked b).wf = true := Mem.wf_write hm

theorem Mem.wf_foldl_writeMasked {m : Mem} (l : List MByte) (hm : m.wf = true) :
    (l.foldl Mem.writeMasked m).wf = true := by
  induction l generalizing m with
  | nil => exact hm
  | cons b l ih => exact ih (Mem.wf_writeMasked b hm)

theorem TagStore.wf_write {st : TagStore} (sz base item tag : Nat) (l : List MByte) (h : st.mem.wf = true) :
    (st.write sz base item tag l).mem.wf = true := by
  refine Mem.wf_foldl_writeMasked l ?_
  by_cases hc : (st.tags.read item == tag && tag != 0) = true
  · simpa [hc] using h
  · simpa [hc] using Mem.wf_writeAll base (List.replicate sz 0) h

theorem TagStore.wf_writeItems {st : TagStore} (sz tag : Nat) (l : List MByte) (h : st.mem.wf = true) :
    (st.writeItems sz tag l).mem.wf = true := by
  have key : ∀ (its : List Nat) (u : TagStore), u.mem.wf = true →
      (its.foldl (fun s it => s.write sz (it * sz) it tag (l.filter fun b => b.addr / sz == it)) u).mem.wf = true := by
    intro its
    induction its with
    | nil => intro u hu; exact hu
    | cons i its ih => intro u hu; exact ih _ (TagStore.wf_write sz (i * sz) i tag _ hu)
  exact key _ st h

/-- A scratchpad write keeps the canonical form of the scratchpad. -/
theorem Tile.wf_spmWrite (t : Tile) (l : List MByte) (h : t.spm.wf = true) : (t.spmWrite l).spm.wf = true :=
  TagStore.wf_writeItems (st := ⟨t.spm, t.spmTag⟩) 64 t.gen l h

/-- A side-file write keeps the canonical form of the side file. -/
theorem Tile.wf_sideWrite (t : Tile) (l : List MByte) (h : t.side.wf = true) : (t.sideWrite l).side.wf = true :=
  TagStore.wf_writeItems (st := ⟨t.side, t.sideTag⟩) 64 t.gen l h

/-- A row write keeps the canonical form of the grid file. -/
theorem Tile.wf_gridWrite (t : Tile) (r row : Nat) (l : List MByte) (h : t.grid.wf = true) :
    (t.gridWrite r row l).grid.wf = true := by
  unfold Tile.gridWrite
  split
  · exact TagStore.wf_write (st := ⟨t.grid, t.gridTag⟩) _ _ _ _ _ h
  · exact h

end Sys2Proof.Machine
end

