-- ==== Sys2Proof/Laws/Sequence.lean ====
section
/-! SUPPORT. What a turn of block code can do (R364 to R372). -/

namespace Sys2Proof.Machine

/-- A tile without block code has no turn. -/
theorem blockTurn_of_none {t : Tile} (h : t.blk = none) (env : Env) (stop go : Bool) : blockTurn env stop go t = t := by
  simp [blockTurn, h]

/-- Nothing goes on in a tile that has trapped, whose time stands still or whose turn is not due. -/
theorem blockTurn_of_still {t : Tile} (go : Bool) (h : go = false ∨ t.live = false ∨ t.traps ≠ []) (env : Env) (stop : Bool) :
    blockTurn env stop go t = t := by
  cases hb : t.blk with
  | none => exact blockTurn_of_none hb env stop go
  | some b => rcases h with h | h | h <;> simp [blockTurn, hb, h]

/-- An operation that does not run delivers 0 and does nothing (R368). -/
theorem runTurn_of_not_goes {b : BlockRun} {st : BlockStep} (h : b.goes st = false) (stop : Bool) (t : Tile) :
    runTurn st stop b t = { t with blk := some (b.next 0) } := by
  simp [runTurn, h]

/-- Whether an operation runs: always, on a nonzero predicate, or on a zero one (R364). -/
theorem goes_iff (b : BlockRun) (st : BlockStep) :
    b.goes st = true ↔ st.pmode = 0 ∨ (st.pmode = 1 ∧ b.res.getD st.pred 0 ≠ 0) ∨
      (st.pmode ≠ 0 ∧ st.pmode ≠ 1 ∧ b.res.getD st.pred 0 = 0) := by
  by_cases h0 : st.pmode = 0
  · simp [BlockRun.goes, h0]
  · by_cases h1 : st.pmode = 1 <;> simp [BlockRun.goes, h0, h1]

/-- CONST, LIVEIN, LIVEOUT and EXIT act on the block alone (R366). -/
theorem runTurn_of_goes {b : BlockRun} {st : BlockStep} (h : b.goes st = true) (stop : Bool) (t : Tile) :
    (∀ v, st.act = .const v → runTurn st stop b t = { t with blk := some (b.next v) }) ∧
      (∀ k, st.act = .liveIn k → runTurn st stop b t = { t with blk := some (b.next (at' 0 b.live k)) }) ∧
      (∀ k q, st.act = .liveOut k → st.feeds.head? = some q →
        runTurn st stop b t = { t with blk := some { b.next 0 with outs := b.outs ++ [(k, b.res.getD q.2 0)] } }) ∧
      ∀ target, st.act = .exit target →
        runTurn st stop b t = { t with blk := some { b.next 0 with exit := some (b.exit.getD (b.op, target)) } } := by
  refine ⟨?_, ?_, ?_, ?_⟩ <;> intros <;> simp_all [runTurn]

/-- Once everything that a block kept is visible, its LIVEOUTs stand and its exit's block begins (R369, R370). -/
theorem commitTurn_of_exit {b : BlockRun} {j target : Nat} (steps : List BlockStep) (stop : Bool) (t : Tile)
    (hh : b.held = []) (he : b.exit = some (j, target)) (ht : target ≠ 0xFFF) :
    commitTurn steps stop b t = { t with
      blk := some { b with
        live := b.outs.foldl (fun v q => v.setIfInBounds q.1 q.2) b.live
        blk := target, op := 0, res := [], outs := [], exit := none, dirty := false } } := by
  simp [commitTurn, hh, he, ht]

end Sys2Proof.Machine
end

