-- ==== Sys2Proof/Laws/State.lean ====
section
/-! SUPPORT. What each update of the device state leaves in each field. -/

namespace Sys2Proof.Machine

@[simp] theorem State.putPitch_tick (s : State) (p : Pitch) : (s.putPitch p).tick = s.tick := rfl
@[simp] theorem State.putPitch_agenda (s : State) (p : Pitch) : (s.putPitch p).agenda = s.agenda := rfl
@[simp] theorem State.putPitch_cur (s : State) (p : Pitch) : (s.putPitch p).cur = s.cur := rfl
@[simp] theorem State.putPitch_fresh (s : State) (p : Pitch) : (s.putPitch p).fresh = s.fresh := rfl
@[simp] theorem State.putPitch_inputs (s : State) (p : Pitch) : (s.putPitch p).inputs = s.inputs := rfl
@[simp] theorem State.putPitch_readData (s : State) (p : Pitch) : (s.putPitch p).readData = s.readData := rfl
@[simp] theorem State.putPitch_msi (s : State) (p : Pitch) : (s.putPitch p).msi = s.msi := rfl
@[simp] theorem State.putPitch_dev (s : State) (p : Pitch) : (s.putPitch p).dev = s.dev := rfl
@[simp] theorem State.putPitch_mb (s : State) (p : Pitch) : (s.putPitch p).mb = s.mb := rfl
@[simp] theorem State.putPitch_rc (s : State) (p : Pitch) : (s.putPitch p).rc = s.rc := rfl
@[simp] theorem State.putPitch_slices (s : State) (p : Pitch) : (s.putPitch p).slices = s.slices := rfl
@[simp] theorem State.putPitch_launches (s : State) (p : Pitch) : (s.putPitch p).launches = s.launches := rfl
@[simp] theorem State.putPitch_copies (s : State) (p : Pitch) : (s.putPitch p).copies = s.copies := rfl
@[simp] theorem State.putPitch_msgs (s : State) (p : Pitch) : (s.putPitch p).msgs = s.msgs := rfl
@[simp] theorem State.putPitch_tlb (s : State) (p : Pitch) : (s.putPitch p).tlb = s.tlb := rfl
@[simp] theorem State.putPitch_phys (s : State) (p : Pitch) : (s.putPitch p).phys = s.phys := rfl
@[simp] theorem State.putPitch_pins (s : State) (p : Pitch) : (s.putPitch p).pins = s.pins := rfl
@[simp] theorem State.putPitch_translations (s : State) (p : Pitch) : (s.putPitch p).translations = s.translations := rfl
@[simp] theorem State.putPitch_ports (s : State) (p : Pitch) : (s.putPitch p).ports = s.ports := rfl
@[simp] theorem State.putPitch_host (s : State) (p : Pitch) : (s.putPitch p).host = s.host := rfl
@[simp] theorem State.putPitch_hbm (s : State) (p : Pitch) : (s.putPitch p).hbm = s.hbm := rfl
@[simp] theorem State.putPitch_answers (s : State) (p : Pitch) : (s.putPitch p).answers = s.answers := rfl

@[simp] theorem State.dropPitch_tick (s : State) (n : Nat) : (s.dropPitch n).tick = s.tick := rfl
@[simp] theorem State.dropPitch_agenda (s : State) (n : Nat) : (s.dropPitch n).agenda = s.agenda := rfl
@[simp] theorem State.dropPitch_cur (s : State) (n : Nat) : (s.dropPitch n).cur = s.cur := rfl
@[simp] theorem State.dropPitch_fresh (s : State) (n : Nat) : (s.dropPitch n).fresh = s.fresh := rfl
@[simp] theorem State.dropPitch_inputs (s : State) (n : Nat) : (s.dropPitch n).inputs = s.inputs := rfl
@[simp] theorem State.dropPitch_readData (s : State) (n : Nat) : (s.dropPitch n).readData = s.readData := rfl
@[simp] theorem State.dropPitch_msi (s : State) (n : Nat) : (s.dropPitch n).msi = s.msi := rfl
@[simp] theorem State.dropPitch_dev (s : State) (n : Nat) : (s.dropPitch n).dev = s.dev := rfl
@[simp] theorem State.dropPitch_mb (s : State) (n : Nat) : (s.dropPitch n).mb = s.mb := rfl
@[simp] theorem State.dropPitch_rc (s : State) (n : Nat) : (s.dropPitch n).rc = s.rc := rfl
@[simp] theorem State.dropPitch_slices (s : State) (n : Nat) : (s.dropPitch n).slices = s.slices := rfl
@[simp] theorem State.dropPitch_launches (s : State) (n : Nat) : (s.dropPitch n).launches = s.launches := rfl
@[simp] theorem State.dropPitch_copies (s : State) (n : Nat) : (s.dropPitch n).copies = s.copies := rfl
@[simp] theorem State.dropPitch_msgs (s : State) (n : Nat) : (s.dropPitch n).msgs = s.msgs := rfl
@[simp] theorem State.dropPitch_tlb (s : State) (n : Nat) : (s.dropPitch n).tlb = s.tlb := rfl
@[simp] theorem State.dropPitch_phys (s : State) (n : Nat) : (s.dropPitch n).phys = s.phys := rfl
@[simp] theorem State.dropPitch_pins (s : State) (n : Nat) : (s.dropPitch n).pins = s.pins := rfl
@[simp] theorem State.dropPitch_translations (s : State) (n : Nat) : (s.dropPitch n).translations = s.translations := rfl
@[simp] theorem State.dropPitch_ports (s : State) (n : Nat) : (s.dropPitch n).ports = s.ports := rfl
@[simp] theorem State.dropPitch_host (s : State) (n : Nat) : (s.dropPitch n).host = s.host := rfl
@[simp] theorem State.dropPitch_hbm (s : State) (n : Nat) : (s.dropPitch n).hbm = s.hbm := rfl
@[simp] theorem State.dropPitch_answers (s : State) (n : Nat) : (s.dropPitch n).answers = s.answers := rfl

@[simp] theorem State.putSlice_tick (s : State) (v : Slice) : (s.putSlice v).tick = s.tick := rfl
@[simp] theorem State.putSlice_agenda (s : State) (v : Slice) : (s.putSlice v).agenda = s.agenda := rfl
@[simp] theorem State.putSlice_cur (s : State) (v : Slice) : (s.putSlice v).cur = s.cur := rfl
@[simp] theorem State.putSlice_fresh (s : State) (v : Slice) : (s.putSlice v).fresh = s.fresh := rfl
@[simp] theorem State.putSlice_inputs (s : State) (v : Slice) : (s.putSlice v).inputs = s.inputs := rfl
@[simp] theorem State.putSlice_readData (s : State) (v : Slice) : (s.putSlice v).readData = s.readData := rfl
@[simp] theorem State.putSlice_msi (s : State) (v : Slice) : (s.putSlice v).msi = s.msi := rfl
@[simp] theorem State.putSlice_dev (s : State) (v : Slice) : (s.putSlice v).dev = s.dev := rfl
@[simp] theorem State.putSlice_mb (s : State) (v : Slice) : (s.putSlice v).mb = s.mb := rfl
@[simp] theorem State.putSlice_rc (s : State) (v : Slice) : (s.putSlice v).rc = s.rc := rfl
@[simp] theorem State.putSlice_launches (s : State) (v : Slice) : (s.putSlice v).launches = s.launches := rfl
@[simp] theorem State.putSlice_pitches (s : State) (v : Slice) : (s.putSlice v).pitches = s.pitches := rfl
@[simp] theorem State.putSlice_copies (s : State) (v : Slice) : (s.putSlice v).copies = s.copies := rfl
@[simp] theorem State.putSlice_msgs (s : State) (v : Slice) : (s.putSlice v).msgs = s.msgs := rfl
@[simp] theorem State.putSlice_tlb (s : State) (v : Slice) : (s.putSlice v).tlb = s.tlb := rfl
@[simp] theorem State.putSlice_phys (s : State) (v : Slice) : (s.putSlice v).phys = s.phys := rfl
@[simp] theorem State.putSlice_pins (s : State) (v : Slice) : (s.putSlice v).pins = s.pins := rfl
@[simp] theorem State.putSlice_translations (s : State) (v : Slice) : (s.putSlice v).translations = s.translations := rfl
@[simp] theorem State.putSlice_ports (s : State) (v : Slice) : (s.putSlice v).ports = s.ports := rfl
@[simp] theorem State.putSlice_host (s : State) (v : Slice) : (s.putSlice v).host = s.host := rfl
@[simp] theorem State.putSlice_hbm (s : State) (v : Slice) : (s.putSlice v).hbm = s.hbm := rfl
@[simp] theorem State.putSlice_answers (s : State) (v : Slice) : (s.putSlice v).answers = s.answers := rfl

@[simp] theorem State.onSlice_tick (s : State) (n : Nat) (f : Slice → Slice) : (s.onSlice n f).tick = s.tick := rfl
@[simp] theorem State.onSlice_agenda (s : State) (n : Nat) (f : Slice → Slice) : (s.onSlice n f).agenda = s.agenda := rfl
@[simp] theorem State.onSlice_cur (s : State) (n : Nat) (f : Slice → Slice) : (s.onSlice n f).cur = s.cur := rfl
@[simp] theorem State.onSlice_fresh (s : State) (n : Nat) (f : Slice → Slice) : (s.onSlice n f).fresh = s.fresh := rfl
@[simp] theorem State.onSlice_inputs (s : State) (n : Nat) (f : Slice → Slice) : (s.onSlice n f).inputs = s.inputs := rfl
@[simp] theorem State.onSlice_readData (s : State) (n : Nat) (f : Slice → Slice) : (s.onSlice n f).readData = s.readData := rfl
@[simp] theorem State.onSlice_msi (s : State) (n : Nat) (f : Slice → Slice) : (s.onSlice n f).msi = s.msi := rfl
@[simp] theorem State.onSlice_dev (s : State) (n : Nat) (f : Slice → Slice) : (s.onSlice n f).dev = s.dev := rfl
@[simp] theorem State.onSlice_mb (s : State) (n : Nat) (f : Slice → Slice) : (s.onSlice n f).mb = s.mb := rfl
@[simp] theorem State.onSlice_rc (s : State) (n : Nat) (f : Slice → Slice) : (s.onSlice n f).rc = s.rc := rfl
@[simp] theorem State.onSlice_launches (s : State) (n : Nat) (f : Slice → Slice) : (s.onSlice n f).launches = s.launches := rfl
@[simp] theorem State.onSlice_pitches (s : State) (n : Nat) (f : Slice → Slice) : (s.onSlice n f).pitches = s.pitches := rfl
@[simp] theorem State.onSlice_copies (s : State) (n : Nat) (f : Slice → Slice) : (s.onSlice n f).copies = s.copies := rfl
@[simp] theorem State.onSlice_msgs (s : State) (n : Nat) (f : Slice → Slice) : (s.onSlice n f).msgs = s.msgs := rfl
@[simp] theorem State.onSlice_tlb (s : State) (n : Nat) (f : Slice → Slice) : (s.onSlice n f).tlb = s.tlb := rfl
@[simp] theorem State.onSlice_phys (s : State) (n : Nat) (f : Slice → Slice) : (s.onSlice n f).phys = s.phys := rfl
@[simp] theorem State.onSlice_pins (s : State) (n : Nat) (f : Slice → Slice) : (s.onSlice n f).pins = s.pins := rfl
@[simp] theorem State.onSlice_translations (s : State) (n : Nat) (f : Slice → Slice) : (s.onSlice n f).translations = s.translations := rfl
@[simp] theorem State.onSlice_ports (s : State) (n : Nat) (f : Slice → Slice) : (s.onSlice n f).ports = s.ports := rfl
@[simp] theorem State.onSlice_host (s : State) (n : Nat) (f : Slice → Slice) : (s.onSlice n f).host = s.host := rfl
@[simp] theorem State.onSlice_hbm (s : State) (n : Nat) (f : Slice → Slice) : (s.onSlice n f).hbm = s.hbm := rfl
@[simp] theorem State.onSlice_answers (s : State) (n : Nat) (f : Slice → Slice) : (s.onSlice n f).answers = s.answers := rfl

@[simp] theorem State.putLaunch_tick (s : State) (l : Launch) : (s.putLaunch l).tick = s.tick := rfl
@[simp] theorem State.putLaunch_agenda (s : State) (l : Launch) : (s.putLaunch l).agenda = s.agenda := rfl
@[simp] theorem State.putLaunch_cur (s : State) (l : Launch) : (s.putLaunch l).cur = s.cur := rfl
@[simp] theorem State.putLaunch_fresh (s : State) (l : Launch) : (s.putLaunch l).fresh = s.fresh := rfl
@[simp] theorem State.putLaunch_inputs (s : State) (l : Launch) : (s.putLaunch l).inputs = s.inputs := rfl
@[simp] theorem State.putLaunch_readData (s : State) (l : Launch) : (s.putLaunch l).readData = s.readData := rfl
@[simp] theorem State.putLaunch_msi (s : State) (l : Launch) : (s.putLaunch l).msi = s.msi := rfl
@[simp] theorem State.putLaunch_dev (s : State) (l : Launch) : (s.putLaunch l).dev = s.dev := rfl
@[simp] theorem State.putLaunch_mb (s : State) (l : Launch) : (s.putLaunch l).mb = s.mb := rfl
@[simp] theorem State.putLaunch_rc (s : State) (l : Launch) : (s.putLaunch l).rc = s.rc := rfl
@[simp] theorem State.putLaunch_slices (s : State) (l : Launch) : (s.putLaunch l).slices = s.slices := rfl
@[simp] theorem State.putLaunch_pitches (s : State) (l : Launch) : (s.putLaunch l).pitches = s.pitches := rfl
@[simp] theorem State.putLaunch_copies (s : State) (l : Launch) : (s.putLaunch l).copies = s.copies := rfl
@[simp] theorem State.putLaunch_msgs (s : State) (l : Launch) : (s.putLaunch l).msgs = s.msgs := rfl
@[simp] theorem State.putLaunch_tlb (s : State) (l : Launch) : (s.putLaunch l).tlb = s.tlb := rfl
@[simp] theorem State.putLaunch_phys (s : State) (l : Launch) : (s.putLaunch l).phys = s.phys := rfl
@[simp] theorem State.putLaunch_pins (s : State) (l : Launch) : (s.putLaunch l).pins = s.pins := rfl
@[simp] theorem State.putLaunch_translations (s : State) (l : Launch) : (s.putLaunch l).translations = s.translations := rfl
@[simp] theorem State.putLaunch_ports (s : State) (l : Launch) : (s.putLaunch l).ports = s.ports := rfl
@[simp] theorem State.putLaunch_host (s : State) (l : Launch) : (s.putLaunch l).host = s.host := rfl
@[simp] theorem State.putLaunch_hbm (s : State) (l : Launch) : (s.putLaunch l).hbm = s.hbm := rfl
@[simp] theorem State.putLaunch_answers (s : State) (l : Launch) : (s.putLaunch l).answers = s.answers := rfl

@[simp] theorem State.onLaunch_tick (s : State) (n : Nat) (f : Launch → Launch) : (s.onLaunch n f).tick = s.tick := rfl
@[simp] theorem State.onLaunch_agenda (s : State) (n : Nat) (f : Launch → Launch) : (s.onLaunch n f).agenda = s.agenda := rfl
@[simp] theorem State.onLaunch_cur (s : State) (n : Nat) (f : Launch → Launch) : (s.onLaunch n f).cur = s.cur := rfl
@[simp] theorem State.onLaunch_fresh (s : State) (n : Nat) (f : Launch → Launch) : (s.onLaunch n f).fresh = s.fresh := rfl
@[simp] theorem State.onLaunch_inputs (s : State) (n : Nat) (f : Launch → Launch) : (s.onLaunch n f).inputs = s.inputs := rfl
@[simp] theorem State.onLaunch_readData (s : State) (n : Nat) (f : Launch → Launch) : (s.onLaunch n f).readData = s.readData := rfl
@[simp] theorem State.onLaunch_msi (s : State) (n : Nat) (f : Launch → Launch) : (s.onLaunch n f).msi = s.msi := rfl
@[simp] theorem State.onLaunch_dev (s : State) (n : Nat) (f : Launch → Launch) : (s.onLaunch n f).dev = s.dev := rfl
@[simp] theorem State.onLaunch_mb (s : State) (n : Nat) (f : Launch → Launch) : (s.onLaunch n f).mb = s.mb := rfl
@[simp] theorem State.onLaunch_rc (s : State) (n : Nat) (f : Launch → Launch) : (s.onLaunch n f).rc = s.rc := rfl
@[simp] theorem State.onLaunch_slices (s : State) (n : Nat) (f : Launch → Launch) : (s.onLaunch n f).slices = s.slices := rfl
@[simp] theorem State.onLaunch_pitches (s : State) (n : Nat) (f : Launch → Launch) : (s.onLaunch n f).pitches = s.pitches := rfl
@[simp] theorem State.onLaunch_copies (s : State) (n : Nat) (f : Launch → Launch) : (s.onLaunch n f).copies = s.copies := rfl
@[simp] theorem State.onLaunch_msgs (s : State) (n : Nat) (f : Launch → Launch) : (s.onLaunch n f).msgs = s.msgs := rfl
@[simp] theorem State.onLaunch_tlb (s : State) (n : Nat) (f : Launch → Launch) : (s.onLaunch n f).tlb = s.tlb := rfl
@[simp] theorem State.onLaunch_phys (s : State) (n : Nat) (f : Launch → Launch) : (s.onLaunch n f).phys = s.phys := rfl
@[simp] theorem State.onLaunch_pins (s : State) (n : Nat) (f : Launch → Launch) : (s.onLaunch n f).pins = s.pins := rfl
@[simp] theorem State.onLaunch_translations (s : State) (n : Nat) (f : Launch → Launch) : (s.onLaunch n f).translations = s.translations := rfl
@[simp] theorem State.onLaunch_ports (s : State) (n : Nat) (f : Launch → Launch) : (s.onLaunch n f).ports = s.ports := rfl
@[simp] theorem State.onLaunch_host (s : State) (n : Nat) (f : Launch → Launch) : (s.onLaunch n f).host = s.host := rfl
@[simp] theorem State.onLaunch_hbm (s : State) (n : Nat) (f : Launch → Launch) : (s.onLaunch n f).hbm = s.hbm := rfl
@[simp] theorem State.onLaunch_answers (s : State) (n : Nat) (f : Launch → Launch) : (s.onLaunch n f).answers = s.answers := rfl

@[simp] theorem State.putCopy_tick (s : State) (c : CopyRec) : (s.putCopy c).tick = s.tick := rfl
@[simp] theorem State.putCopy_agenda (s : State) (c : CopyRec) : (s.putCopy c).agenda = s.agenda := rfl
@[simp] theorem State.putCopy_cur (s : State) (c : CopyRec) : (s.putCopy c).cur = s.cur := rfl
@[simp] theorem State.putCopy_fresh (s : State) (c : CopyRec) : (s.putCopy c).fresh = s.fresh := rfl
@[simp] theorem State.putCopy_inputs (s : State) (c : CopyRec) : (s.putCopy c).inputs = s.inputs := rfl
@[simp] theorem State.putCopy_readData (s : State) (c : CopyRec) : (s.putCopy c).readData = s.readData := rfl
@[simp] theorem State.putCopy_msi (s : State) (c : CopyRec) : (s.putCopy c).msi = s.msi := rfl
@[simp] theorem State.putCopy_dev (s : State) (c : CopyRec) : (s.putCopy c).dev = s.dev := rfl
@[simp] theorem State.putCopy_mb (s : State) (c : CopyRec) : (s.putCopy c).mb = s.mb := rfl
@[simp] theorem State.putCopy_rc (s : State) (c : CopyRec) : (s.putCopy c).rc = s.rc := rfl
@[simp] theorem State.putCopy_slices (s : State) (c : CopyRec) : (s.putCopy c).slices = s.slices := rfl
@[simp] theorem State.putCopy_launches (s : State) (c : CopyRec) : (s.putCopy c).launches = s.launches := rfl
@[simp] theorem State.putCopy_pitches (s : State) (c : CopyRec) : (s.putCopy c).pitches = s.pitches := rfl
@[simp] theorem State.putCopy_msgs (s : State) (c : CopyRec) : (s.putCopy c).msgs = s.msgs := rfl
@[simp] theorem State.putCopy_tlb (s : State) (c : CopyRec) : (s.putCopy c).tlb = s.tlb := rfl
@[simp] theorem State.putCopy_phys (s : State) (c : CopyRec) : (s.putCopy c).phys = s.phys := rfl
@[simp] theorem State.putCopy_pins (s : State) (c : CopyRec) : (s.putCopy c).pins = s.pins := rfl
@[simp] theorem State.putCopy_translations (s : State) (c : CopyRec) : (s.putCopy c).translations = s.translations := rfl
@[simp] theorem State.putCopy_ports (s : State) (c : CopyRec) : (s.putCopy c).ports = s.ports := rfl
@[simp] theorem State.putCopy_host (s : State) (c : CopyRec) : (s.putCopy c).host = s.host := rfl
@[simp] theorem State.putCopy_hbm (s : State) (c : CopyRec) : (s.putCopy c).hbm = s.hbm := rfl
@[simp] theorem State.putCopy_answers (s : State) (c : CopyRec) : (s.putCopy c).answers = s.answers := rfl

@[simp] theorem State.dropCopy_tick (s : State) (n : Nat) : (s.dropCopy n).tick = s.tick := rfl
@[simp] theorem State.dropCopy_agenda (s : State) (n : Nat) : (s.dropCopy n).agenda = s.agenda := rfl
@[simp] theorem State.dropCopy_cur (s : State) (n : Nat) : (s.dropCopy n).cur = s.cur := rfl
@[simp] theorem State.dropCopy_fresh (s : State) (n : Nat) : (s.dropCopy n).fresh = s.fresh := rfl
@[simp] theorem State.dropCopy_inputs (s : State) (n : Nat) : (s.dropCopy n).inputs = s.inputs := rfl
@[simp] theorem State.dropCopy_readData (s : State) (n : Nat) : (s.dropCopy n).readData = s.readData := rfl
@[simp] theorem State.dropCopy_msi (s : State) (n : Nat) : (s.dropCopy n).msi = s.msi := rfl
@[simp] theorem State.dropCopy_dev (s : State) (n : Nat) : (s.dropCopy n).dev = s.dev := rfl
@[simp] theorem State.dropCopy_mb (s : State) (n : Nat) : (s.dropCopy n).mb = s.mb := rfl
@[simp] theorem State.dropCopy_rc (s : State) (n : Nat) : (s.dropCopy n).rc = s.rc := rfl
@[simp] theorem State.dropCopy_slices (s : State) (n : Nat) : (s.dropCopy n).slices = s.slices := rfl
@[simp] theorem State.dropCopy_launches (s : State) (n : Nat) : (s.dropCopy n).launches = s.launches := rfl
@[simp] theorem State.dropCopy_pitches (s : State) (n : Nat) : (s.dropCopy n).pitches = s.pitches := rfl
@[simp] theorem State.dropCopy_msgs (s : State) (n : Nat) : (s.dropCopy n).msgs = s.msgs := rfl
@[simp] theorem State.dropCopy_tlb (s : State) (n : Nat) : (s.dropCopy n).tlb = s.tlb := rfl
@[simp] theorem State.dropCopy_phys (s : State) (n : Nat) : (s.dropCopy n).phys = s.phys := rfl
@[simp] theorem State.dropCopy_pins (s : State) (n : Nat) : (s.dropCopy n).pins = s.pins := rfl
@[simp] theorem State.dropCopy_translations (s : State) (n : Nat) : (s.dropCopy n).translations = s.translations := rfl
@[simp] theorem State.dropCopy_ports (s : State) (n : Nat) : (s.dropCopy n).ports = s.ports := rfl
@[simp] theorem State.dropCopy_host (s : State) (n : Nat) : (s.dropCopy n).host = s.host := rfl
@[simp] theorem State.dropCopy_hbm (s : State) (n : Nat) : (s.dropCopy n).hbm = s.hbm := rfl
@[simp] theorem State.dropCopy_answers (s : State) (n : Nat) : (s.dropCopy n).answers = s.answers := rfl

@[simp] theorem State.putMsg_tick (s : State) (m : Msg) : (s.putMsg m).tick = s.tick := rfl
@[simp] theorem State.putMsg_agenda (s : State) (m : Msg) : (s.putMsg m).agenda = s.agenda := rfl
@[simp] theorem State.putMsg_cur (s : State) (m : Msg) : (s.putMsg m).cur = s.cur := rfl
@[simp] theorem State.putMsg_fresh (s : State) (m : Msg) : (s.putMsg m).fresh = s.fresh := rfl
@[simp] theorem State.putMsg_inputs (s : State) (m : Msg) : (s.putMsg m).inputs = s.inputs := rfl
@[simp] theorem State.putMsg_readData (s : State) (m : Msg) : (s.putMsg m).readData = s.readData := rfl
@[simp] theorem State.putMsg_msi (s : State) (m : Msg) : (s.putMsg m).msi = s.msi := rfl
@[simp] theorem State.putMsg_dev (s : State) (m : Msg) : (s.putMsg m).dev = s.dev := rfl
@[simp] theorem State.putMsg_mb (s : State) (m : Msg) : (s.putMsg m).mb = s.mb := rfl
@[simp] theorem State.putMsg_rc (s : State) (m : Msg) : (s.putMsg m).rc = s.rc := rfl
@[simp] theorem State.putMsg_slices (s : State) (m : Msg) : (s.putMsg m).slices = s.slices := rfl
@[simp] theorem State.putMsg_launches (s : State) (m : Msg) : (s.putMsg m).launches = s.launches := rfl
@[simp] theorem State.putMsg_pitches (s : State) (m : Msg) : (s.putMsg m).pitches = s.pitches := rfl
@[simp] theorem State.putMsg_copies (s : State) (m : Msg) : (s.putMsg m).copies = s.copies := rfl
@[simp] theorem State.putMsg_tlb (s : State) (m : Msg) : (s.putMsg m).tlb = s.tlb := rfl
@[simp] theorem State.putMsg_phys (s : State) (m : Msg) : (s.putMsg m).phys = s.phys := rfl
@[simp] theorem State.putMsg_pins (s : State) (m : Msg) : (s.putMsg m).pins = s.pins := rfl
@[simp] theorem State.putMsg_translations (s : State) (m : Msg) : (s.putMsg m).translations = s.translations := rfl
@[simp] theorem State.putMsg_ports (s : State) (m : Msg) : (s.putMsg m).ports = s.ports := rfl
@[simp] theorem State.putMsg_host (s : State) (m : Msg) : (s.putMsg m).host = s.host := rfl
@[simp] theorem State.putMsg_hbm (s : State) (m : Msg) : (s.putMsg m).hbm = s.hbm := rfl
@[simp] theorem State.putMsg_answers (s : State) (m : Msg) : (s.putMsg m).answers = s.answers := rfl

@[simp] theorem State.dropMsg_tick (s : State) (n : Nat) : (s.dropMsg n).tick = s.tick := rfl
@[simp] theorem State.dropMsg_agenda (s : State) (n : Nat) : (s.dropMsg n).agenda = s.agenda := rfl
@[simp] theorem State.dropMsg_cur (s : State) (n : Nat) : (s.dropMsg n).cur = s.cur := rfl
@[simp] theorem State.dropMsg_fresh (s : State) (n : Nat) : (s.dropMsg n).fresh = s.fresh := rfl
@[simp] theorem State.dropMsg_inputs (s : State) (n : Nat) : (s.dropMsg n).inputs = s.inputs := rfl
@[simp] theorem State.dropMsg_readData (s : State) (n : Nat) : (s.dropMsg n).readData = s.readData := rfl
@[simp] theorem State.dropMsg_msi (s : State) (n : Nat) : (s.dropMsg n).msi = s.msi := rfl
@[simp] theorem State.dropMsg_dev (s : State) (n : Nat) : (s.dropMsg n).dev = s.dev := rfl
@[simp] theorem State.dropMsg_mb (s : State) (n : Nat) : (s.dropMsg n).mb = s.mb := rfl
@[simp] theorem State.dropMsg_rc (s : State) (n : Nat) : (s.dropMsg n).rc = s.rc := rfl
@[simp] theorem State.dropMsg_slices (s : State) (n : Nat) : (s.dropMsg n).slices = s.slices := rfl
@[simp] theorem State.dropMsg_launches (s : State) (n : Nat) : (s.dropMsg n).launches = s.launches := rfl
@[simp] theorem State.dropMsg_pitches (s : State) (n : Nat) : (s.dropMsg n).pitches = s.pitches := rfl
@[simp] theorem State.dropMsg_copies (s : State) (n : Nat) : (s.dropMsg n).copies = s.copies := rfl
@[simp] theorem State.dropMsg_tlb (s : State) (n : Nat) : (s.dropMsg n).tlb = s.tlb := rfl
@[simp] theorem State.dropMsg_phys (s : State) (n : Nat) : (s.dropMsg n).phys = s.phys := rfl
@[simp] theorem State.dropMsg_pins (s : State) (n : Nat) : (s.dropMsg n).pins = s.pins := rfl
@[simp] theorem State.dropMsg_translations (s : State) (n : Nat) : (s.dropMsg n).translations = s.translations := rfl
@[simp] theorem State.dropMsg_ports (s : State) (n : Nat) : (s.dropMsg n).ports = s.ports := rfl
@[simp] theorem State.dropMsg_host (s : State) (n : Nat) : (s.dropMsg n).host = s.host := rfl
@[simp] theorem State.dropMsg_hbm (s : State) (n : Nat) : (s.dropMsg n).hbm = s.hbm := rfl
@[simp] theorem State.dropMsg_answers (s : State) (n : Nat) : (s.dropMsg n).answers = s.answers := rfl

@[simp] theorem State.onTile_tick (s : State) (n k : Nat) (f : Tile → Tile) : (s.onTile n k f).tick = s.tick := rfl
@[simp] theorem State.onTile_agenda (s : State) (n k : Nat) (f : Tile → Tile) : (s.onTile n k f).agenda = s.agenda := rfl
@[simp] theorem State.onTile_cur (s : State) (n k : Nat) (f : Tile → Tile) : (s.onTile n k f).cur = s.cur := rfl
@[simp] theorem State.onTile_fresh (s : State) (n k : Nat) (f : Tile → Tile) : (s.onTile n k f).fresh = s.fresh := rfl
@[simp] theorem State.onTile_inputs (s : State) (n k : Nat) (f : Tile → Tile) : (s.onTile n k f).inputs = s.inputs := rfl
@[simp] theorem State.onTile_readData (s : State) (n k : Nat) (f : Tile → Tile) : (s.onTile n k f).readData = s.readData := rfl
@[simp] theorem State.onTile_msi (s : State) (n k : Nat) (f : Tile → Tile) : (s.onTile n k f).msi = s.msi := rfl
@[simp] theorem State.onTile_dev (s : State) (n k : Nat) (f : Tile → Tile) : (s.onTile n k f).dev = s.dev := rfl
@[simp] theorem State.onTile_mb (s : State) (n k : Nat) (f : Tile → Tile) : (s.onTile n k f).mb = s.mb := rfl
@[simp] theorem State.onTile_rc (s : State) (n k : Nat) (f : Tile → Tile) : (s.onTile n k f).rc = s.rc := rfl
@[simp] theorem State.onTile_slices (s : State) (n k : Nat) (f : Tile → Tile) : (s.onTile n k f).slices = s.slices := rfl
@[simp] theorem State.onTile_launches (s : State) (n k : Nat) (f : Tile → Tile) : (s.onTile n k f).launches = s.launches := rfl
@[simp] theorem State.onTile_copies (s : State) (n k : Nat) (f : Tile → Tile) : (s.onTile n k f).copies = s.copies := rfl
@[simp] theorem State.onTile_msgs (s : State) (n k : Nat) (f : Tile → Tile) : (s.onTile n k f).msgs = s.msgs := rfl
@[simp] theorem State.onTile_tlb (s : State) (n k : Nat) (f : Tile → Tile) : (s.onTile n k f).tlb = s.tlb := rfl
@[simp] theorem State.onTile_phys (s : State) (n k : Nat) (f : Tile → Tile) : (s.onTile n k f).phys = s.phys := rfl
@[simp] theorem State.onTile_pins (s : State) (n k : Nat) (f : Tile → Tile) : (s.onTile n k f).pins = s.pins := rfl
@[simp] theorem State.onTile_translations (s : State) (n k : Nat) (f : Tile → Tile) : (s.onTile n k f).translations = s.translations := rfl
@[simp] theorem State.onTile_ports (s : State) (n k : Nat) (f : Tile → Tile) : (s.onTile n k f).ports = s.ports := rfl
@[simp] theorem State.onTile_host (s : State) (n k : Nat) (f : Tile → Tile) : (s.onTile n k f).host = s.host := rfl
@[simp] theorem State.onTile_hbm (s : State) (n k : Nat) (f : Tile → Tile) : (s.onTile n k f).hbm = s.hbm := rfl
@[simp] theorem State.onTile_answers (s : State) (n k : Nat) (f : Tile → Tile) : (s.onTile n k f).answers = s.answers := rfl

@[simp] theorem State.soon_tick (s : State) (l : List Slot) : (s.soon l).tick = s.tick := rfl
@[simp] theorem State.soon_cur (s : State) (l : List Slot) : (s.soon l).cur = s.cur := rfl
@[simp] theorem State.soon_fresh (s : State) (l : List Slot) : (s.soon l).fresh = s.fresh := rfl
@[simp] theorem State.soon_inputs (s : State) (l : List Slot) : (s.soon l).inputs = s.inputs := rfl
@[simp] theorem State.soon_readData (s : State) (l : List Slot) : (s.soon l).readData = s.readData := rfl
@[simp] theorem State.soon_msi (s : State) (l : List Slot) : (s.soon l).msi = s.msi := rfl
@[simp] theorem State.soon_dev (s : State) (l : List Slot) : (s.soon l).dev = s.dev := rfl
@[simp] theorem State.soon_mb (s : State) (l : List Slot) : (s.soon l).mb = s.mb := rfl
@[simp] theorem State.soon_rc (s : State) (l : List Slot) : (s.soon l).rc = s.rc := rfl
@[simp] theorem State.soon_slices (s : State) (l : List Slot) : (s.soon l).slices = s.slices := rfl
@[simp] theorem State.soon_launches (s : State) (l : List Slot) : (s.soon l).launches = s.launches := rfl
@[simp] theorem State.soon_pitches (s : State) (l : List Slot) : (s.soon l).pitches = s.pitches := rfl
@[simp] theorem State.soon_copies (s : State) (l : List Slot) : (s.soon l).copies = s.copies := rfl
@[simp] theorem State.soon_msgs (s : State) (l : List Slot) : (s.soon l).msgs = s.msgs := rfl
@[simp] theorem State.soon_tlb (s : State) (l : List Slot) : (s.soon l).tlb = s.tlb := rfl
@[simp] theorem State.soon_phys (s : State) (l : List Slot) : (s.soon l).phys = s.phys := rfl
@[simp] theorem State.soon_pins (s : State) (l : List Slot) : (s.soon l).pins = s.pins := rfl
@[simp] theorem State.soon_translations (s : State) (l : List Slot) : (s.soon l).translations = s.translations := rfl
@[simp] theorem State.soon_ports (s : State) (l : List Slot) : (s.soon l).ports = s.ports := rfl
@[simp] theorem State.soon_host (s : State) (l : List Slot) : (s.soon l).host = s.host := rfl
@[simp] theorem State.soon_hbm (s : State) (l : List Slot) : (s.soon l).hbm = s.hbm := rfl
@[simp] theorem State.soon_answers (s : State) (l : List Slot) : (s.soon l).answers = s.answers := rfl

@[simp] theorem State.later_tick (s : State) (l : List Slot) : (s.later l).tick = s.tick := rfl
@[simp] theorem State.later_cur (s : State) (l : List Slot) : (s.later l).cur = s.cur := rfl
@[simp] theorem State.later_fresh (s : State) (l : List Slot) : (s.later l).fresh = s.fresh := rfl
@[simp] theorem State.later_inputs (s : State) (l : List Slot) : (s.later l).inputs = s.inputs := rfl
@[simp] theorem State.later_readData (s : State) (l : List Slot) : (s.later l).readData = s.readData := rfl
@[simp] theorem State.later_msi (s : State) (l : List Slot) : (s.later l).msi = s.msi := rfl
@[simp] theorem State.later_dev (s : State) (l : List Slot) : (s.later l).dev = s.dev := rfl
@[simp] theorem State.later_mb (s : State) (l : List Slot) : (s.later l).mb = s.mb := rfl
@[simp] theorem State.later_rc (s : State) (l : List Slot) : (s.later l).rc = s.rc := rfl
@[simp] theorem State.later_slices (s : State) (l : List Slot) : (s.later l).slices = s.slices := rfl
@[simp] theorem State.later_launches (s : State) (l : List Slot) : (s.later l).launches = s.launches := rfl
@[simp] theorem State.later_pitches (s : State) (l : List Slot) : (s.later l).pitches = s.pitches := rfl
@[simp] theorem State.later_copies (s : State) (l : List Slot) : (s.later l).copies = s.copies := rfl
@[simp] theorem State.later_msgs (s : State) (l : List Slot) : (s.later l).msgs = s.msgs := rfl
@[simp] theorem State.later_tlb (s : State) (l : List Slot) : (s.later l).tlb = s.tlb := rfl
@[simp] theorem State.later_phys (s : State) (l : List Slot) : (s.later l).phys = s.phys := rfl
@[simp] theorem State.later_pins (s : State) (l : List Slot) : (s.later l).pins = s.pins := rfl
@[simp] theorem State.later_translations (s : State) (l : List Slot) : (s.later l).translations = s.translations := rfl
@[simp] theorem State.later_ports (s : State) (l : List Slot) : (s.later l).ports = s.ports := rfl
@[simp] theorem State.later_host (s : State) (l : List Slot) : (s.later l).host = s.host := rfl
@[simp] theorem State.later_hbm (s : State) (l : List Slot) : (s.later l).hbm = s.hbm := rfl
@[simp] theorem State.later_answers (s : State) (l : List Slot) : (s.later l).answers = s.answers := rfl

@[simp] theorem State.putPhys_tick (s : State) (k : Nat) (v : Phys) : (s.putPhys k v).tick = s.tick := rfl
@[simp] theorem State.putPhys_agenda (s : State) (k : Nat) (v : Phys) : (s.putPhys k v).agenda = s.agenda := rfl
@[simp] theorem State.putPhys_cur (s : State) (k : Nat) (v : Phys) : (s.putPhys k v).cur = s.cur := rfl
@[simp] theorem State.putPhys_fresh (s : State) (k : Nat) (v : Phys) : (s.putPhys k v).fresh = s.fresh := rfl
@[simp] theorem State.putPhys_inputs (s : State) (k : Nat) (v : Phys) : (s.putPhys k v).inputs = s.inputs := rfl
@[simp] theorem State.putPhys_readData (s : State) (k : Nat) (v : Phys) : (s.putPhys k v).readData = s.readData := rfl
@[simp] theorem State.putPhys_msi (s : State) (k : Nat) (v : Phys) : (s.putPhys k v).msi = s.msi := rfl
@[simp] theorem State.putPhys_dev (s : State) (k : Nat) (v : Phys) : (s.putPhys k v).dev = s.dev := rfl
@[simp] theorem State.putPhys_mb (s : State) (k : Nat) (v : Phys) : (s.putPhys k v).mb = s.mb := rfl
@[simp] theorem State.putPhys_rc (s : State) (k : Nat) (v : Phys) : (s.putPhys k v).rc = s.rc := rfl
@[simp] theorem State.putPhys_slices (s : State) (k : Nat) (v : Phys) : (s.putPhys k v).slices = s.slices := rfl
@[simp] theorem State.putPhys_launches (s : State) (k : Nat) (v : Phys) : (s.putPhys k v).launches = s.launches := rfl
@[simp] theorem State.putPhys_pitches (s : State) (k : Nat) (v : Phys) : (s.putPhys k v).pitches = s.pitches := rfl
@[simp] theorem State.putPhys_copies (s : State) (k : Nat) (v : Phys) : (s.putPhys k v).copies = s.copies := rfl
@[simp] theorem State.putPhys_msgs (s : State) (k : Nat) (v : Phys) : (s.putPhys k v).msgs = s.msgs := rfl
@[simp] theorem State.putPhys_tlb (s : State) (k : Nat) (v : Phys) : (s.putPhys k v).tlb = s.tlb := rfl
@[simp] theorem State.putPhys_pins (s : State) (k : Nat) (v : Phys) : (s.putPhys k v).pins = s.pins := rfl
@[simp] theorem State.putPhys_translations (s : State) (k : Nat) (v : Phys) : (s.putPhys k v).translations = s.translations := rfl
@[simp] theorem State.putPhys_ports (s : State) (k : Nat) (v : Phys) : (s.putPhys k v).ports = s.ports := rfl
@[simp] theorem State.putPhys_host (s : State) (k : Nat) (v : Phys) : (s.putPhys k v).host = s.host := rfl
@[simp] theorem State.putPhys_hbm (s : State) (k : Nat) (v : Phys) : (s.putPhys k v).hbm = s.hbm := rfl
@[simp] theorem State.putPhys_answers (s : State) (k : Nat) (v : Phys) : (s.putPhys k v).answers = s.answers := rfl

@[simp] theorem State.signal_tick (s : State) (f v : Nat) : (s.signal f v).tick = s.tick := rfl
@[simp] theorem State.signal_agenda (s : State) (f v : Nat) : (s.signal f v).agenda = s.agenda := rfl
@[simp] theorem State.signal_cur (s : State) (f v : Nat) : (s.signal f v).cur = s.cur := rfl
@[simp] theorem State.signal_fresh (s : State) (f v : Nat) : (s.signal f v).fresh = s.fresh := rfl
@[simp] theorem State.signal_inputs (s : State) (f v : Nat) : (s.signal f v).inputs = s.inputs := rfl
@[simp] theorem State.signal_readData (s : State) (f v : Nat) : (s.signal f v).readData = s.readData := rfl
@[simp] theorem State.signal_dev (s : State) (f v : Nat) : (s.signal f v).dev = s.dev := rfl
@[simp] theorem State.signal_mb (s : State) (f v : Nat) : (s.signal f v).mb = s.mb := rfl
@[simp] theorem State.signal_rc (s : State) (f v : Nat) : (s.signal f v).rc = s.rc := rfl
@[simp] theorem State.signal_slices (s : State) (f v : Nat) : (s.signal f v).slices = s.slices := rfl
@[simp] theorem State.signal_launches (s : State) (f v : Nat) : (s.signal f v).launches = s.launches := rfl
@[simp] theorem State.signal_pitches (s : State) (f v : Nat) : (s.signal f v).pitches = s.pitches := rfl
@[simp] theorem State.signal_copies (s : State) (f v : Nat) : (s.signal f v).copies = s.copies := rfl
@[simp] theorem State.signal_msgs (s : State) (f v : Nat) : (s.signal f v).msgs = s.msgs := rfl
@[simp] theorem State.signal_tlb (s : State) (f v : Nat) : (s.signal f v).tlb = s.tlb := rfl
@[simp] theorem State.signal_phys (s : State) (f v : Nat) : (s.signal f v).phys = s.phys := rfl
@[simp] theorem State.signal_pins (s : State) (f v : Nat) : (s.signal f v).pins = s.pins := rfl
@[simp] theorem State.signal_translations (s : State) (f v : Nat) : (s.signal f v).translations = s.translations := rfl
@[simp] theorem State.signal_ports (s : State) (f v : Nat) : (s.signal f v).ports = s.ports := rfl
@[simp] theorem State.signal_host (s : State) (f v : Nat) : (s.signal f v).host = s.host := rfl
@[simp] theorem State.signal_hbm (s : State) (f v : Nat) : (s.signal f v).hbm = s.hbm := rfl
@[simp] theorem State.signal_answers (s : State) (f v : Nat) : (s.signal f v).answers = s.answers := rfl

@[simp] theorem State.putPort_tick (s : State) (n : Nat) (v : Port) : (s.putPort n v).tick = s.tick := rfl
@[simp] theorem State.putPort_agenda (s : State) (n : Nat) (v : Port) : (s.putPort n v).agenda = s.agenda := rfl
@[simp] theorem State.putPort_cur (s : State) (n : Nat) (v : Port) : (s.putPort n v).cur = s.cur := rfl
@[simp] theorem State.putPort_fresh (s : State) (n : Nat) (v : Port) : (s.putPort n v).fresh = s.fresh := rfl
@[simp] theorem State.putPort_inputs (s : State) (n : Nat) (v : Port) : (s.putPort n v).inputs = s.inputs := rfl
@[simp] theorem State.putPort_readData (s : State) (n : Nat) (v : Port) : (s.putPort n v).readData = s.readData := rfl
@[simp] theorem State.putPort_msi (s : State) (n : Nat) (v : Port) : (s.putPort n v).msi = s.msi := rfl
@[simp] theorem State.putPort_dev (s : State) (n : Nat) (v : Port) : (s.putPort n v).dev = s.dev := rfl
@[simp] theorem State.putPort_mb (s : State) (n : Nat) (v : Port) : (s.putPort n v).mb = s.mb := rfl
@[simp] theorem State.putPort_rc (s : State) (n : Nat) (v : Port) : (s.putPort n v).rc = s.rc := rfl
@[simp] theorem State.putPort_slices (s : State) (n : Nat) (v : Port) : (s.putPort n v).slices = s.slices := rfl
@[simp] theorem State.putPort_launches (s : State) (n : Nat) (v : Port) : (s.putPort n v).launches = s.launches := rfl
@[simp] theorem State.putPort_pitches (s : State) (n : Nat) (v : Port) : (s.putPort n v).pitches = s.pitches := rfl
@[simp] theorem State.putPort_copies (s : State) (n : Nat) (v : Port) : (s.putPort n v).copies = s.copies := rfl
@[simp] theorem State.putPort_msgs (s : State) (n : Nat) (v : Port) : (s.putPort n v).msgs = s.msgs := rfl
@[simp] theorem State.putPort_tlb (s : State) (n : Nat) (v : Port) : (s.putPort n v).tlb = s.tlb := rfl
@[simp] theorem State.putPort_phys (s : State) (n : Nat) (v : Port) : (s.putPort n v).phys = s.phys := rfl
@[simp] theorem State.putPort_pins (s : State) (n : Nat) (v : Port) : (s.putPort n v).pins = s.pins := rfl
@[simp] theorem State.putPort_translations (s : State) (n : Nat) (v : Port) : (s.putPort n v).translations = s.translations := rfl
@[simp] theorem State.putPort_host (s : State) (n : Nat) (v : Port) : (s.putPort n v).host = s.host := rfl
@[simp] theorem State.putPort_hbm (s : State) (n : Nat) (v : Port) : (s.putPort n v).hbm = s.hbm := rfl
@[simp] theorem State.putPort_answers (s : State) (n : Nat) (v : Port) : (s.putPort n v).answers = s.answers := rfl

@[simp] theorem State.soon_agenda (s : State) (l : List Slot) : (s.soon l).agenda = l ++ s.agenda := rfl
@[simp] theorem State.later_agenda (s : State) (l : List Slot) : (s.later l).agenda = s.agenda ++ l := rfl
@[simp] theorem State.signal_msi (s : State) (f v : Nat) : (s.signal f v).msi = s.msi ++ [(f, v)] := rfl

end Sys2Proof.Machine
end

