-- ==== Sys2Proof/Machine/Source.lean ====
section
/-! DEFINITION. Source text of the assembler (R143, R144, R147 to R150): lines, tokens, symbols and exact expressions. -/

namespace Sys2Proof.Machine

/-- A token of a source line. -/
inductive Tok where
  | name (s : String)
  | num (n : Nat)
  /-- `fp(d)` with d = ±digits·10^scale (R149). -/
  | fp (neg : Bool) (digits : Nat) (scale : Int)
  | sign (s : String)
  /-- The mark of a dependency suffix, with whether a blank stands before it (R156). -/
  | caret (blank : Bool)
  deriving DecidableEq, Repr

/-- A letter or underscore; a decimal digit; a character of a symbol (R147). -/
def isLetter (c : Char) : Bool := c.isAlpha || c == '_'
def isDigit (c : Char) : Bool := c.isDigit
def isWord (c : Char) : Bool := isLetter c || isDigit c
def isBlank (c : Char) : Bool := c == ' ' || c == '\t'

/-- The value of decimal digits, most significant first. -/
def decValue (l : List Char) : Nat := l.foldl (fun z c => 10 * z + (c.toNat - 48)) 0

/-- Decimal digits without a leading zero, or the single digit 0 (R148). -/
def decNum (l : List Char) : Option Nat :=
  if l.isEmpty || !l.all isDigit || (l.head? == some '0' && l.length != 1) then none else some (decValue l)

/-- The value of a hexadecimal digit. -/
def hexDigit (c : Char) : Option Nat :=
  if c.isDigit then some (c.toNat - 48)
  else if 'a' ≤ c && c ≤ 'f' then some (c.toNat - 87)
  else if 'A' ≤ c && c ≤ 'F' then some (c.toNat - 55)
  else none

/-- Hexadecimal digits after 0x, with underscores anywhere after the first (R148). -/
def hexNum (l : List Char) : Option Nat :=
  match l with
  | [] => none
  | c :: _ =>
    if (hexDigit c).isNone then none
    else l.foldl (fun (z : Option Nat) c => match z with
      | none => none
      | some v => if c == '_' then some v else (hexDigit c).map fun d => 16 * v + d) (some 0)

/-- An integer literal (R148). -/
def literal (l : List Char) : Option Nat :=
  match l with
  | '0' :: 'x' :: r => hexNum r
  | _ => decNum l

/-- The exponent part of an fp argument: none, or e, a sign and digits (R149). -/
def fpExponent (l : List Char) : Option Int :=
  match l with
  | [] => some 0
  | 'e' :: '-' :: r => if r.isEmpty || !r.all isDigit then none else some (-(decValue r : Int))
  | 'e' :: '+' :: r => if r.isEmpty || !r.all isDigit then none else some (decValue r)
  | _ => none

/-- The argument of `fp` (R149). -/
def fpArg (l : List Char) : Option Tok :=
  let neg := l.head? == some '-'
  let body := if neg then l.drop 1 else l
  let whole := body.takeWhile isDigit
  let rest := body.drop whole.length
  let frac := if rest.head? == some '.' then (rest.drop 1).takeWhile isDigit else []
  let tail := if rest.head? == some '.' then rest.drop (1 + frac.length) else rest
  if whole.isEmpty || (rest.head? == some '.' && frac.isEmpty) then none
  else (fpExponent tail).map fun e => .fp neg (decValue (whole ++ frac)) (e - frac.length)

/-- Strip blanks at both ends. -/
def trimBlanks (l : List Char) : List Char := ((l.dropWhile isBlank).reverse.dropWhile isBlank).reverse

/-- Signs of one character. -/
def signChars : List Char := ['+', '-', '*', '/', '%', '&', '~', '(', ')', ',', ':', '|', '.', '=', '[', ']']

/-- The tokens of a line without its comment; none where a character or a number has no assigned form. R144 has blanks separate
tokens and does not say what a token is: a name, a number, and each sign, dot and caret is one of its own, so that blanks may stand
around it (DEDUCED, notes/assumptions/96.md). -/
def tokens : Nat → Bool → List Char → Option (List Tok)
  | _, _, [] => some []
  | 0, _, _ => none
  | n + 1, blank, c :: r =>
    if isBlank c then tokens n true r
    else if isLetter c then
      let w := c :: r.takeWhile isWord
      let rest := r.drop (w.length - 1)
      let s := String.ofList w
      let arg := rest.dropWhile isBlank
      if s.toLower == "fp" && arg.head? == some '(' then
        let body := (arg.drop 1).takeWhile fun x => x != ')'
        let after := arg.drop (1 + body.length)
        match fpArg (trimBlanks body), after with
        | some t, ')' :: more => (tokens n false more).map (t :: ·)
        | _, _ => none
      else (tokens n false rest).map (.name s :: ·)
    else if isDigit c then
      let w := c :: r.takeWhile isWord
      match literal w with
      | none => none
      | some v => (tokens n false (r.drop (w.length - 1))).map (.num v :: ·)
    else if c == '^' then (tokens n false r).map (.caret blank :: ·)
    else
      match c, r with
      | '<', '<' :: more => (tokens n false more).map (.sign "<<" :: ·)
      | '>', '>' :: more => (tokens n false more).map (.sign ">>" :: ·)
      | '.', '.' :: more => (tokens n false more).map (.sign ".." :: ·)
      | _, _ => if signChars.contains c then (tokens n false r).map (.sign (String.ofList [c]) :: ·) else none

/-- A line without its comment, which begins with a semicolon or two slashes (R144). -/
def uncomment : List Char → List Char
  | [] => []
  | ';' :: _ => []
  | '/' :: '/' :: _ => []
  | c :: r => c :: uncomment r

/-- The lines of a source file: each ends with LF or CR LF (R143). -/
def sourceLines (l : List Char) : List (List Char) :=
  let r := l.foldr (fun c (z : List Char × List (List Char)) => if c == '\n' then ([], z.1 :: z.2) else (c :: z.1, z.2)) ([], [])
  (r.1 :: r.2).map fun x => if x.getLast? == some '\r' then x.dropLast else x

/-- The tokens of a line: at most 1,024 characters, ASCII outside its comment (R143). -/
def lineTokens (l : List Char) : Option (List Tok) :=
  let t := uncomment l
  if decide (1024 < l.length) || t.any fun c => decide (127 < c.toNat) then none else tokens (t.length + 1) false t

/-! ## Expressions -/

/-- What an expression may name: the pitch's size, the symbols defined so far, the labels of the stream. -/
structure AsmEnv where
  w : Nat := 1
  h : Nat := 1
  syms : List (String × Int) := []
  labels : List (String × Nat) := []
  deriving DecidableEq, Repr

/-- The value of a symbol or label. -/
def AsmEnv.find (env : AsmEnv) (s : String) : Option Int :=
  match env.syms.find? fun q => q.1 == s with
  | some q => some q.2
  | none => (env.labels.find? fun q => q.1 == s).map fun q => (q.2 : Int)

/-- Bitwise complement and conjunction at unbounded width, in two's complement (R149). -/
def bitNot (a : Int) : Int := -a - 1
def bitAnd (a b : Int) : Int :=
  match decide (a < 0), decide (b < 0) with
  | false, false => ((a.toNat &&& b.toNat : Nat) : Int)
  | true, false => b - ((b.toNat &&& (bitNot a).toNat : Nat) : Int)
  | false, true => a - ((a.toNat &&& (bitNot b).toNat : Nat) : Int)
  | true, true => bitNot (((bitNot a).toNat ||| (bitNot b).toNat : Nat) : Int)
def bitOr (a b : Int) : Int := bitNot (bitAnd (bitNot a) (bitNot b))
def bitXor (a b : Int) : Int := bitOr a b - bitAnd a b

/-- A binary operator on exact integers (R149); none is an assembly error. -/
def binOp (op : String) (a b : Int) : Option Int :=
  if op == "*" then some (a * b)
  else if op == "/" then (if b == 0 then none else some (a.tdiv b))
  else if op == "%" then (if b == 0 then none else some (a.tmod b))
  else if op == "+" then some (a + b)
  else if op == "-" then some (a - b)
  else if op == "<<" then (if 0 ≤ b && b ≤ 63 then some (a * 2 ^ b.toNat) else none)
  else if op == ">>" then (if 0 ≤ b && b ≤ 63 then some (a / 2 ^ b.toNat) else none)
  else if op == "&" then some (bitAnd a b)
  else none

/-- The operators of each level, the loosest first. -/
def levelOps : List (List String) := [["&"], ["<<", ">>"], ["+", "-"], ["*", "/", "%"]]

/-- tile(x, y) (R149). -/
def tileAddr (env : AsmEnv) (x y : Int) : Option Int :=
  if 0 ≤ x && x < env.w && 0 ≤ y && y < env.h then some (y * 2 ^ 26 + x * 2 ^ 20) else none

/-- A function of R149 on its arguments. -/
def asmCall (env : AsmEnv) (f : String) (args : List Int) : Option Int :=
  match args with
  | [a] => if f == "log2" && 0 < a && a == 2 ^ a.toNat.log2 then some (a.toNat.log2 : Nat) else none
  | [a, b] => if f == "or" then some (bitOr a b) else if f == "xor" then some (bitXor a b)
    else if f == "tile" then tileAddr env a b else none
  | _ => none

mutual

/-- An expression of a level, from the loosest 0 to the unary 4, with the tokens that follow it. -/
def evalAt (env : AsmEnv) : Nat → Nat → List Tok → Option (Int × List Tok)
  | 0, _, _ => none
  | n + 1, lvl, ts =>
    if lvl < 4 then
      match evalAt env n (lvl + 1) ts with
      | none => none
      | some (v, r) => evalMore env n lvl v r
    else
      match ts with
      | .sign "-" :: r => (evalAt env n 4 r).map fun q => (-q.1, q.2)
      | .sign "~" :: r => (evalAt env n 4 r).map fun q => (bitNot q.1, q.2)
      | .sign "(" :: r =>
        (match evalAt env n 0 r with
        | some (v, .sign ")" :: more) => some (v, more)
        | _ => none)
      | .num v :: r => some (v, r)
      | .name s :: .sign "(" :: r =>
        (match evalAt env n 0 r with
        | some (a, .sign ")" :: more) => (asmCall env s.toLower [a]).map fun v => (v, more)
        | some (a, .sign "," :: r2) =>
          (match evalAt env n 0 r2 with
          | some (b, .sign ")" :: more) => (asmCall env s.toLower [a, b]).map fun v => (v, more)
          | _ => none)
        | _ => none)
      | .name s :: r => (env.find s).map fun v => (v, r)
      | _ => none

/-- The operators of a level after a first value, from left to right. -/
def evalMore (env : AsmEnv) : Nat → Nat → Int → List Tok → Option (Int × List Tok)
  | 0, _, _, _ => none
  | n + 1, lvl, v, ts =>
    match ts with
    | .sign op :: r =>
      if (levelOps.getD lvl []).contains op then
        match evalAt env n (lvl + 1) r with
        | none => none
        | some (b, more) =>
          match binOp op v b with
          | none => none
          | some c => evalMore env n lvl c more
      else some (v, ts)
    | _ => some (v, ts)

end

/-- The value of tokens that are one expression. -/
def evalAll (env : AsmEnv) (ts : List Tok) : Option Int :=
  match evalAt env (8 * ts.length + 8) 0 ts with
  | some (v, []) => some v
  | _ => none

/-- The tokens after the parenthesis that closes an open one. -/
def afterClose : Nat → List Tok → List Tok
  | _, [] => []
  | n, .sign "(" :: r => afterClose (n + 1) r
  | n, .sign ")" :: r => if n == 0 then r else afterClose (n - 1) r
  | n, _ :: r => afterClose n r

/-- A pitch address, tile(x,y) and then + or −, has its offset within a tile's storage: its value less that of tile(x,y). Any other
expression is no pitch address (R153; DESIGN CHOICE, notes/assumptions/96.md). -/
def offsetOk (env : AsmEnv) (ts : List Tok) : Bool :=
  match ts with
  | .name f :: .sign "(" :: r =>
    let rest := afterClose 0 r
    let signed : Bool := match rest with
      | .sign "+" :: _ => true
      | .sign "-" :: _ => true
      | _ => false
    if f.toLower != "tile" || !signed then true
    else match evalAll env ts, evalAll env (ts.take (ts.length - rest.length)) with
      | some v, some base => decide (base ≤ v) && decide (v ≤ base + 0xBFFFF)
      | _, _ => false
  | _ => true

/-- The value of an operand that is an expression (R150, R153). -/
def evalOperand (env : AsmEnv) (ts : List Tok) : Option Int := if offsetOk env ts then evalAll env ts else none

/-- A value in an unsigned field, a signed field, or one that takes either, of `n` bits (R150). -/
def fieldU (n : Nat) (v : Int) : Option Nat := if 0 ≤ v && v < 2 ^ n then some v.toNat else none
def fieldS (n : Nat) (v : Int) : Option Int := if -(2 ^ (n - 1) : Int) ≤ v && v < 2 ^ (n - 1) then some v else none
def fieldE (n : Nat) (v : Int) : Option Nat :=
  if -(2 ^ (n - 1) : Int) ≤ v && v < 2 ^ n then some (v % 2 ^ n).toNat else none

/-! ## Splitting -/

/-- Split tokens at a sign that stands outside parentheses. -/
def splitAt' (sep : String) : List Tok → Nat → List Tok → List (List Tok)
  | [], _, acc => [acc.reverse]
  | .sign s :: r, depth, acc =>
    if s == sep && depth == 0 then acc.reverse :: splitAt' sep r 0 []
    else splitAt' sep r (if s == "(" then depth + 1 else if s == ")" then depth - 1 else depth) (.sign s :: acc)
  | t :: r, depth, acc => splitAt' sep r depth (t :: acc)

/-- Operands, separated by commas (R153); no token is no operand. -/
def operands (ts : List Tok) : List (List Tok) := if ts.isEmpty then [] else splitAt' "," ts 0 []

/-- The numbered object of a name: a prefix and decimal digits below a limit, in any mix of capitals (R11, R147). -/
def objNum (pre : String) (lim : Nat) (s : String) : Option Nat :=
  let cs := s.toLower.toList
  let p := pre.toList
  if cs.take p.length == p then (decNum (cs.drop p.length)).bind fun n => if n < lim then some n else none else none

/-- The prefixes of R11 with their limits. -/
def prefixes : List (String × Nat) :=
  [("g", 32), ("x", 16), ("s", 16), ("t", 16), ("m", 8), ("sm", 64), ("rg", 16), ("ss", 4096)]

/-- A name has the form of a symbol (R147). -/
def symbolForm (s : String) : Bool := s.length ≤ 63 && s.toList.all isWord && (s.toList.head?.map isLetter).getD false

end Sys2Proof.Machine
end

