-- ==== Sys2Proof/Machine/Assembler.lean ====
section
/-! DEFINITION. Instructions as they are written (R145, R151, R153 to R156, and the syntax of every entry): operands, forms
and groups. -/

namespace Sys2Proof.Machine

/-- Where an instruction is assembled: its engine, its bits, the word offset of its word 0, its names. -/
structure AsmAt where
  e : Engine := .C
  p : Pre := {}
  pc : Nat := 0
  env : AsmEnv := {}
  deriving DecidableEq, Repr

/-- What an instruction is made of once its operands are known. -/
abbrev AsmForm := List (List Tok) → Option Instr

namespace AsmAt

variable (a : AsmAt)

/-- A single name. -/
def word (ts : List Tok) : Option String :=
  match ts with
  | [.name s] => some s
  | _ => none

/-- A numbered object. -/
def obj (pre : String) (lim : Nat) (ts : List Tok) : Option Nat := (word ts).bind (objNum pre lim)

/-- A register of the engine: x in X, otherwise g. -/
def reg (ts : List Tok) : Option Nat := if a.e == .X then obj "x" 16 ts else obj "g" 32 ts

def stream (ts : List Tok) : Option Nat := obj "s" 16 ts
def tileReg (ts : List Tok) : Option Nat := obj "t" 16 ts

/-- An expression. -/
def expr (ts : List Tok) : Option Int := evalOperand a.env ts

/-- An expression in an unsigned or signed field. -/
def uns (n : Nat) (ts : List Tok) : Option Nat := (a.expr ts).bind (fieldU n)
def sgn (n : Nat) (ts : List Tok) : Option Int := (a.expr ts).bind (fieldS n)
def eith (n : Nat) (ts : List Tok) : Option Nat := (a.expr ts).bind (fieldE n)

/-- An expression between two bounds. -/
def within (lo hi : Nat) (ts : List Tok) : Option Nat :=
  (a.expr ts).bind fun v => if (lo : Int) ≤ v && v ≤ hi then some v.toNat else none

/-- The distance from the instruction to a label of its stream (R151). -/
def toLabel (ts : List Tok) : Option Int :=
  (word ts).bind fun s => (a.env.labels.find? fun q => q.1 == s).map fun q => (q.2 : Int) - a.pc

/-- A grid operand (R154). -/
def grid (ts : List Tok) : Option Nat :=
  match ts with
  | [.name t, .sign ".", .name l] =>
    (objNum "t" 16 t).bind fun k =>
      match l.toLower.toList with
      | ['a'] => some (k * 256)
      | c :: r =>
        let dir := if c == 'h' then 1 else if c == 'c' then 2 else if c == 'd' then 3 else 0
        if dir == 0 then none else (decNum r).bind fun n => if n < 64 then some (k * 256 + dir * 64 + n) else none
      | [] => none
  | _ => none

/-- A mask register. -/
def mask (ts : List Tok) : Option Nat := obj "m" 8 ts

/-- A rounding mode (R64, R153). -/
def rnd (ts : List Tok) : Option Nat :=
  (word ts).bind fun s => ["rne", "rz", "rup", "rdn"].findIdx? fun q => q == s

/-- A keyword. -/
def isKey (k : String) (ts : List Tok) : Bool := word ts == some k

/-! ### Control instructions -/

def plain (k : Pre → Instr) : AsmForm := fun l => if l.isEmpty then some (k a.p) else none

def one {α : Type} (x : List Tok → Option α) (k : Pre → α → Instr) : AsmForm
  | [t] => (x t).map (k a.p)
  | _ => none

def two {α β : Type} (x : List Tok → Option α) (y : List Tok → Option β) (k : Pre → α → β → Instr) : AsmForm
  | [t, u] => (x t).bind fun v => (y u).map (k a.p v)
  | _ => none

def three {α β γ : Type} (x : List Tok → Option α) (y : List Tok → Option β) (z : List Tok → Option γ)
    (k : Pre → α → β → γ → Instr) : AsmForm
  | [t, u, v] => (x t).bind fun p => (y u).bind fun q => (z v).map (k a.p p q)
  | _ => none

def four {α β γ δ : Type} (x : List Tok → Option α) (y : List Tok → Option β) (z : List Tok → Option γ)
    (w : List Tok → Option δ) (k : Pre → α → β → γ → δ → Instr) : AsmForm
  | [t, u, v, r] => (x t).bind fun p => (y u).bind fun q => (z v).bind fun s => (w r).map (k a.p p q s)
  | _ => none

def rrr (k : Pre → Nat → Nat → Nat → Instr) : AsmForm := a.three a.reg a.reg a.reg k
def rr (k : Pre → Nat → Nat → Instr) : AsmForm := a.two a.reg a.reg k

/-- EXT, EXTU and INS: pos, then len, encoded as len − 1 (R202). -/
def bits (k : Pre → Nat → Nat → Nat → Nat → Instr) : AsmForm :=
  a.four a.reg a.reg (a.within 0 63) (a.within 1 64) fun p d s pos len => k p d s (len - 1) pos

/-- LOOP: the count is an expression or a register (R196). -/
def loop : AsmForm
  | [lv, count, lbl] =>
    (a.uns 2 lv).bind fun lvl => (a.toLabel lbl).bind fun d =>
      if d - 2 < 1 || 4095 < d - 2 then none
      else
        let body := (d - 2).toNat
        match a.reg count with
        | some r => if a.e == .C || a.e == .X then some (.loop a.p lvl true r body 0) else none
        | none => (a.uns 32 count).map fun c => .loop a.p lvl false 0 body c
  | _ => none

/-- The size of an access: b, h, w, d (R204). -/
def size (ts : List Tok) : Option Nat := (word ts).bind fun s => ["b", "h", "w", "d"].findIdx? fun q => q == s

/-- A byte offset as a multiple of the size. -/
def scaled (sz : Nat) (ts : List Tok) : Option Int :=
  (a.expr ts).bind fun v => if v % 2 ^ sz == 0 then fieldS 7 (v / 2 ^ sz) else none

def load : AsmForm
  | [d, s, off, z] => (a.reg d).bind fun gd => (a.reg s).bind fun ga => (size z).bind fun sz =>
      (a.scaled sz off).map fun o => .ld a.p gd ga sz false o
  | [d, s, off, z, x] => (a.reg d).bind fun gd => (a.reg s).bind fun ga => (size z).bind fun sz =>
      if isKey "sx" x then (a.scaled sz off).map fun o => .ld a.p gd ga sz true o else none
  | _ => none

def store : AsmForm
  | [d, s, off, z] => (a.reg d).bind fun gs => (a.reg s).bind fun ga => (size z).bind fun sz =>
      (a.scaled sz off).map fun o => .st a.p gs ga sz o
  | _ => none

/-- An engine by its letter (R213). -/
def engine (ts : List Tok) : Option Nat := (word ts).bind fun s => ["C", "X", "V", "M", "N"].findIdx? fun q => q == s

def ldel : AsmForm
  | [e, lv, s, d] => (engine e).bind fun g => (a.uns 2 lv).bind fun lvl => (stream s).bind fun k =>
      (a.sgn 21 d).map fun z => .ldel a.p g lvl k z
  | _ => none

/-- Control registers and meters by number (R310, R312). -/
def csrNames : List String :=
  ["tile_xy", "pitch_size", "orient", "gen", "stale_mode", "stale_arrivals", "hold_lead", "strict", "time_local", "time_pkg",
    "vflags", "mflags", "slice_id", "purse_level", "trap_info"]
def meterNames : List String :=
  ["mtr_total", "mtr_compute", "mtr_scratch", "mtr_stream", "mtr_copy", "mtr_seam", "mtr_hbm", "mtr_fabric", "mtr_cyc_active",
    "mtr_cyc_owned"]
/-- A control register by its name, in any capitals; NAME[i] names none, for R310 has no indexed register (DESIGN CHOICE,
notes/assumptions/96.md). -/
def csr (ts : List Tok) : Option Nat := (word ts).bind fun s => csrNames.findIdx? fun q => q == s.toLower
/-- A meter by its name, in any capitals (DESIGN CHOICE, notes/assumptions/96.md). -/
def meter (ts : List Tok) : Option Nat := (word ts).bind fun s => meterNames.findIdx? fun q => q == s.toLower

def setc : AsmForm
  | [n, g] => (csr n).bind fun k => (a.reg g).map fun r => .setc a.p r k 0
  | [n, g, w] => (csr n).bind fun k => (a.reg g).bind fun r =>
      if isKey "or" w then some (.setc a.p r k 1) else if isKey "clr" w then some (.setc a.p r k 2) else none
  | _ => none

/-! ### Synchronisation -/

/-- The object of a synchronisation instruction: OBJ, INDEX, coordinates (R153, R172, R173). -/
def syObject (ts : List Tok) : Option SyOps :=
  let local' (s : String) (sm rg : Nat) : Option SyOps :=
    match objNum "sm" 64 s, objNum "rg" 16 s with
    | some k, _ => some { obj := sm, index := k }
    | none, some k => some { obj := rg, index := k }
    | none, none => none
  match ts with
  | [.name s] =>
    (match local' s 0 3 with
    | some o => some o
    | none => (objNum "ss" 4096 s).map fun k => { obj := 2, index := k })
  | .name f :: .sign "(" :: r =>
    (match f.toLower == "tile", r.reverse with
    | true, .name s :: .sign "." :: .sign ")" :: inner =>
      (local' s 1 4).bind fun o =>
        match operands inner.reverse with
        | [x] => (obj "x" 16 x).map fun k => { o with rsel := true, rc := k }
        | [x, y] => (a.expr x).bind fun vx => (a.expr y).bind fun vy =>
            (tileAddr a.env vx vy).map fun _ => { o with tx := vx.toNat, ty := vy.toNat }
        | _ => none
    | _, _ => none)
  | _ => none

/-- An amount in rb: a register, or an expression with I = 1 (R174). -/
def amount (signed : Bool) (o : SyOps) (ts : List Tok) : Option SyOps :=
  match a.reg ts with
  | some r => some { o with rb := r }
  | none =>
    if signed then (a.sgn 5 ts).map fun v => { o with rb := ofSigned 5 v, imm := true }
    else (a.uns 5 ts).map fun v => { o with rb := v, imm := true }

def smcfg : AsmForm
  | [o, m, x, y] => (a.syObject o).bind fun q => (a.reg x).bind fun ra => (a.reg y).bind fun rb =>
      if isKey "count" m then some (.smcfg a.p { q with ra := ra, rb := rb })
      else if isKey "arrive" m then some (.smcfg a.p { q with ra := ra, rb := rb, mode := 1 }) else none
  | _ => none

def syAmount (k : Pre → SyOps → Instr) : AsmForm
  | [o, n] => (a.syObject o).bind fun q => (a.amount false q n).map (k a.p)
  | _ => none

def sfadd : AsmForm
  | [d, o, n] => (a.reg d).bind fun rd => (a.syObject o).bind fun q => (a.amount true { q with rd := rd } n).map (.sfadd a.p)
  | _ => none

def scas : AsmForm
  | [d, o, x, y] => (a.reg d).bind fun rd => (a.syObject o).bind fun q => (a.reg x).bind fun ra =>
      (a.reg y).map fun rb => .scas a.p { q with rd := rd, ra := ra, rb := rb }
  | _ => none

def syWord (k : Pre → SyOps → Instr) : AsmForm
  | [d, o, w] => (a.reg d).bind fun rd => (a.syObject o).bind fun q =>
      (a.within 0 1 w).map fun m => k a.p { q with rd := rd, mode := m }
  | _ => none

def rcfg : AsmForm
  | [o, x] => (a.syObject o).bind fun q => (a.reg x).map fun ra => .rcfg a.p { q with ra := ra }
  | _ => none

def ringTo (k : Pre → SyOps → Instr) : AsmForm
  | [d, o] => (a.reg d).bind fun rd => (a.syObject o).map fun q => k a.p { q with rd := rd }
  | _ => none

def ringAt (k : Pre → SyOps → Instr) : AsmForm
  | [o] => (a.syObject o).map (k a.p)
  | _ => none

/-! ### Copies -/

/-- xR, xR + expr or xR − expr: the register and the displacement (R281). -/
def disp (ts : List Tok) : Option (Nat × Int × Bool) :=
  match ts with
  | [.name s] => (objNum "x" 16 s).map fun r => (r, 0, false)
  | .name s :: .sign "+" :: r => (objNum "x" 16 s).bind fun k => (a.expr r).map fun v => (k, v, false)
  | .name s :: .sign "-" :: r => (objNum "x" 16 s).bind fun k => (a.expr r).map fun v => (k, -v, true)
  | _ => none

/-- The two operands of a copy. -/
def sides (d s : List Tok) : Option XcOps :=
  (a.disp d).bind fun x => (a.disp s).bind fun y => (fieldE 32 x.2.1).bind fun dv =>
    if y.2.2 then none else (fieldU 20 y.2.1).map fun sv => { xd := x.1, dimm := dv, xs := y.1, simm := sv }

/-- smK, inc and the optional arr. -/
def post (arr : Bool) (o : XcOps) (l : List (List Tok)) : Option XcOps :=
  match l with
  | [m, n] => (obj "sm" 64 m).bind fun k => (a.uns 4 n).map fun i => { o with sem := k, inc := i }
  | [m, n, w] => if arr && isKey "arr" w then
      (obj "sm" 64 m).bind fun k => (a.uns 4 n).map fun i => { o with sem := k, inc := i, arr := true } else none
  | _ => none

def copy (arr : Bool) (k : Pre → XcOps → Instr) : AsmForm
  | d :: s :: r => (a.sides d s).bind fun o => (a.post arr o r).map (k a.p)
  | _ => none

def copyCount (arr : Bool) (k : Pre → XcOps → Instr) : AsmForm
  | d :: s :: n :: r => (a.sides d s).bind fun o => (a.within 1 4095 n).bind fun c =>
      (a.post arr { o with aux := c } r).map (k a.p)
  | _ => none

def cbc : AsmForm
  | d :: s :: w :: h :: r => (a.sides d s).bind fun o => (a.within 1 64 w).bind fun x => (a.within 1 64 h).bind fun y =>
      (a.post true { o with aux := (x - 1) * 64 + (y - 1) } r).map (.cbc a.p)
  | _ => none

def cfb : AsmForm
  | d :: s :: r => (obj "x" 16 s).bind fun _ => (a.sides d s).bind fun o => (a.post false o r).map (.cfb a.p)
  | _ => none

def fspost : AsmForm
  | [o, k, n] => (obj "ss" 4096 o).bind fun i =>
      let pkg : Option (Bool × Nat) := match obj "x" 16 k with
        | some r => some (true, r)
        | none => (a.uns 14 k).map fun v => (false, v)
      let amt : Option (Bool × Nat) := match obj "x" 16 n with
        | some r => some (true, r)
        | none => (a.within 1 63 n).map fun v => (false, v)
      pkg.bind fun q => amt.map fun m => .fspost a.p (if q.1 then q.2 else 0) (if m.1 then m.2 else 0) q.1 m.1 i
        (if q.1 then 0 else q.2) (if m.1 then 0 else m.2)
  | _ => none

/-! ### Vector instructions -/

/-- The fields that the operands of a vector instruction fill, in the order in which they are written. -/
inductive VArg where
  | d
  | a
  | b
  /-- B, or an amount in IMM6 with FUNC 1 (R236). -/
  | bAmount
  /-- Mask indices, g registers and streams in D, A or B (R179). -/
  | maskD
  | maskA
  | maskB
  | regD
  | regA
  | streamD
  | streamA
  | streamB
  /-- A number in IMM6 of so many bits; the class set in B; a mask index in IMM6. -/
  | imm (n : Nat)
  | classSet
  | maskImm
  deriving DecidableEq, Repr

/-- Put one operand into its field. -/
def vArg (k : VArg) (o : VOps) (ts : List Tok) : Option VOps :=
  match k with
  | .d => (grid ts).map fun v => { o with d := v }
  | .a => (grid ts).map fun v => { o with a := v }
  | .b => (grid ts).map fun v => { o with b := v }
  | .bAmount => match grid ts with
    | some v => some { o with b := v }
    | none => (a.uns 6 ts).map fun v => { o with func := 1, imm := v }
  | .maskD => (mask ts).map fun v => { o with d := v }
  | .maskA => (mask ts).map fun v => { o with a := v }
  | .maskB => (mask ts).map fun v => { o with b := v }
  | .regD => (a.reg ts).map fun v => { o with d := v }
  | .regA => (a.reg ts).map fun v => { o with a := v }
  | .streamD => (stream ts).map fun v => { o with d := v }
  | .streamA => (stream ts).map fun v => { o with a := v }
  | .streamB => (stream ts).map fun v => { o with b := v }
  | .imm n => (a.uns n ts).map fun v => { o with imm := v }
  | .classSet => (a.uns 9 ts).map fun v => { o with b := v }
  | .maskImm => (mask ts).map fun v => { o with imm := v }

/-- The options that may follow the operands, in their order. -/
structure VTail where
  rnd : Bool := false
  sat : Bool := false
  sx : Bool := false
  mask : Bool := true
  deriving DecidableEq, Repr

/-- The lane mask m1 to m7 that ends the operands (R155). -/
def vMask (o : VOps) (l : List (List Tok)) : Option VOps :=
  match l with
  | [] => some o
  | [t] => (mask t).bind fun k => if k == 0 then none else some { o with mask := k }
  | _ => none

/-- The options of a vector instruction. -/
def vTail (t : VTail) (o : VOps) (l : List (List Tok)) : Option VOps :=
  let r : VOps × List (List Tok) := match t.rnd, l with
    | true, x :: more => (match rnd x with
      | some v => ({ o with rnd := v }, more)
      | none => (o, l))
    | _, _ => (o, l)
  let s : VOps × List (List Tok) := match t.sat, r.2 with
    | true, x :: more => if isKey "sat" x then ({ r.1 with imm := 1 }, more) else r
    | _, _ => r
  let u : VOps × List (List Tok) := match t.sx, s.2 with
    | true, x :: more => if isKey "sx" x then ({ s.1 with func := 1 }, more) else s
    | _, _ => s
  if t.mask then vMask u.1 u.2 else if u.2.isEmpty then some u.1 else none

/-- The operands of a vector instruction, then its options. -/
def vOps (t : VTail) : List VArg → VOps → List (List Tok) → Option VOps
  | [], o, l => vTail t o l
  | k :: ks, o, x :: l => (a.vArg k o x).bind fun q => vOps t ks q l
  | _ :: _, _, [] => none

def vec (args : List VArg) (t : VTail) (k : Pre → VOps → Instr) : AsmForm := fun l => (a.vOps t args {} l).map (k a.p)

def vTri (k : Pre → VOps → Instr) (t : VTail := {}) : AsmForm := a.vec [.d, .a, .b] t k
def vDuo (k : Pre → VOps → Instr) (t : VTail := {}) : AsmForm := a.vec [.d, .a] t k

/-! ### Matrix and stream-plane instructions -/

def stt : AsmForm
  | s :: t :: r => (stream s).bind fun k => (tileReg t).bind fun n =>
      let q : Nat × List (List Tok) := match r with
        | x :: more => (match rnd x with
          | some v => (v, more)
          | none => (0, r))
        | [] => (0, r)
      match q.2 with
      | [] => some (.stt a.p n k false q.1)
      | [x] => if isKey "sat" x then some (.stt a.p n k true q.1) else none
      | _ => none
  | _ => none

def send (k : Pre → Int → Int → Nat → Nat → Nat → Instr) : AsmForm
  | [x, y, s, o, n] => (a.sgn 6 x).bind fun dx => (a.sgn 6 y).bind fun dy => (stream s).bind fun r =>
      (a.uns 20 o).bind fun off => (a.within 1 4095 n).map fun len => k a.p dx dy r off len
  | _ => none

def sendl : AsmForm
  | [x, y, d, s] => (a.sgn 6 x).bind fun dx => (a.sgn 6 y).bind fun dy => (grid d).bind fun dst =>
      (grid s).map fun src => .sendl a.p dx dy dst src
  | _ => none

/-- The forms of control, system and synchronisation instructions, by mnemonic in small letters. -/
def formC (mn : String) : Option AsmForm :=
  match mn with
  | "nop" => some (a.plain .nop)
  | "idle" => some (a.one (a.uns 20) .idle)
  | "ends" => some (a.plain .ends)
  | "loop" => some a.loop
  | "add" => some (a.rrr .add)
  | "sub" => some (a.rrr .sub)
  | "addi" => some (a.three a.reg a.reg (a.sgn 10) .addi)
  | "mul" => some (a.rrr .mul)
  | "mulh" => some (a.rrr .mulh)
  | "mulhu" => some (a.rrr .mulhu)
  | "div" => some (a.rrr .div)
  | "divu" => some (a.rrr .divu)
  | "rem" => some (a.rrr .rem)
  | "remu" => some (a.rrr .remu)
  | "and" => some (a.rrr .and)
  | "or" => some (a.rrr .or)
  | "xor" => some (a.rrr .xor)
  | "andn" => some (a.rrr .andn)
  | "shl" => some (a.rrr .shl)
  | "shr" => some (a.rrr .shr)
  | "sra" => some (a.rrr .sra)
  | "rotl" => some (a.rrr .rotl)
  | "clz" => some (a.rr .clz)
  | "ctz" => some (a.rr .ctz)
  | "popc" => some (a.rr .popc)
  | "min" => some (a.rrr .min)
  | "max" => some (a.rrr .max)
  | "minu" => some (a.rrr .minu)
  | "maxu" => some (a.rrr .maxu)
  | "cmpeq" => some (a.rrr .cmpeq)
  | "cmpne" => some (a.rrr .cmpne)
  | "cmplt" => some (a.rrr .cmplt)
  | "cmpltu" => some (a.rrr .cmpltu)
  | "sel" => some (a.four a.reg a.reg a.reg a.reg .sel)
  | "movi" => some (a.two a.reg (a.eith 32) .movi)
  | "movk" => some (a.two a.reg (a.eith 32) .movk)
  | "ext" => some (a.bits .ext)
  | "extu" => some (a.bits .extu)
  | "ins" => some (a.bits .ins)
  | "ld" => some a.load
  | "st" => some a.store
  | "bz" => some (a.two a.reg a.toLabel .bz)
  | "bnz" => some (a.two a.reg a.toLabel .bnz)
  | "j" => some (a.one a.toLabel .j)
  | "call" => some (a.one a.toLabel .call)
  | "ret" => some (a.plain .ret)
  | "scfg" => some (a.three stream (a.within 0 5) a.reg fun p s w g => .scfg p g s w)
  | "sget" => some (a.three a.reg stream (a.within 0 5) .sget)
  | "srst" => some (a.one stream .srst)
  | "ldel" => some a.ldel
  | "tcfg" => some (a.two tileReg a.reg fun p t g => .tcfg p g t)
  | "tget" => some (a.two a.reg tileReg .tget)
  | "rdv.p" => some (a.one (a.uns 16) .rdvP)
  | "rdv.t" => some (a.one a.reg .rdvT)
  | "safe" => some (a.plain .safe)
  | "tick" => some (a.one a.reg .tick)
  | "getc" => some (a.two a.reg csr .getc)
  | "setc" => some a.setc
  | "genclr" => some (a.plain .genclr)
  | "mtrd" => some (a.two a.reg meter .mtrd)
  | "trap" => some (a.one (a.uns 16) .trap)
  | "smcfg" => some a.smcfg
  | "swait" => some (a.syAmount .swait)
  | "spost" => some (a.syAmount .spost)
  | "sfadd" => some a.sfadd
  | "scas" => some a.scas
  | "srd" => some (a.syWord .srd)
  | "sexp" => some (a.syAmount .sexp)
  | "sphw" => some (a.syAmount .sphw)
  | "rcfg" => some a.rcfg
  | "rclf" => some (a.ringTo .rclf)
  | "rcld" => some (a.ringTo .rcld)
  | "rfil" => some (a.ringAt .rfil)
  | "rrel" => some (a.ringAt .rrel)
  | "rstat" => some (a.syWord .rstat)
  | _ => none

/-- The forms of X's own, M's and N's instructions. -/
def formX (mn : String) : Option AsmForm :=
  match mn with
  | "cpt" => some (a.copyCount true .cpt)
  | "cld" => some (a.copy true .cld)
  | "cst" => some (a.copy false .cst)
  | "ctt" => some (a.copy false .ctt)
  | "cbc" => some a.cbc
  | "cga" => some (a.copyCount true .cga)
  | "csc" => some (a.copyCount false .csc)
  | "cfb" => some a.cfb
  | "fspost" => some a.fspost
  | "cfen" => some (a.plain .cfen)
  | "cdrn" => some (a.plain .cdrn)
  | "tinfo" => some (a.three a.reg a.reg (a.within 0 3) .tinfo)
  | "mma" => some (a.three tileReg tileReg tileReg .mma)
  | "mmaz" => some (a.three tileReg tileReg tileReg .mmaz)
  | "mmas" => some (a.four tileReg tileReg tileReg tileReg .mmas)
  | "mmal" => some (a.three tileReg tileReg tileReg .mmal)
  | "mrk1" => some (a.four tileReg tileReg tileReg (a.within 0 63) .mrk1)
  | "ldt" => some (a.two tileReg stream .ldt)
  | "stt" => some a.stt
  | "tzro" => some (a.one tileReg .tzro)
  | "tcpy" => some (a.two tileReg tileReg .tcpy)
  | "ldsc" => some (a.two tileReg stream .ldsc)
  | "send" => some (a.send .send)
  | "sendl" => some a.sendl
  | "sendm" => some (a.send .sendm)
  | _ => none

/-- The forms of vector instructions. -/
def formV (mn : String) : Option AsmForm :=
  let round : VTail := { rnd := true }
  let sat : VTail := { sat := true }
  match mn with
  | "vadd" => some (a.vTri .vadd round)
  | "vsub" => some (a.vTri .vsub round)
  | "vmul" => some (a.vTri .vmul round)
  | "vfma" => some (a.vTri .vfma round)
  | "vfms" => some (a.vTri .vfms round)
  | "vneg" => some (a.vDuo .vneg round)
  | "vabs" => some (a.vDuo .vabs round)
  | "vmin" => some (a.vTri .vmin round)
  | "vmax" => some (a.vTri .vmax round)
  | "vminn" => some (a.vTri .vminn round)
  | "vmaxn" => some (a.vTri .vmaxn round)
  | "vdiv" => some (a.vTri .vdiv)
  | "vrcp" => some (a.vDuo .vrcp)
  | "vsqrt" => some (a.vDuo .vsqrt)
  | "vrsq" => some (a.vDuo .vrsq)
  | "vexp2" => some (a.vDuo .vexp2)
  | "vlog2" => some (a.vDuo .vlog2)
  | "vtanh" => some (a.vDuo .vtanh)
  | "vcmpeq" => some (a.vec [.maskD, .a, .b] {} .vcmpeq)
  | "vcmplt" => some (a.vec [.maskD, .a, .b] {} .vcmplt)
  | "vcmple" => some (a.vec [.maskD, .a, .b] {} .vcmple)
  | "vcmpun" => some (a.vec [.maskD, .a, .b] {} .vcmpun)
  | "vsel" => some (a.vec [.d, .a, .b, .maskImm] {} .vsel)
  | "vclass" => some (a.vec [.maskD, .a, .classSet] {} .vclass)
  | "viadd" => some (a.vTri .viadd sat)
  | "visub" => some (a.vTri .visub sat)
  | "vimul" => some (a.vTri .vimul sat)
  | "vand" => some (a.vTri .vand)
  | "vor" => some (a.vTri .vor)
  | "vxor" => some (a.vTri .vxor)
  | "vshl" => some (a.vec [.d, .a, .bAmount] {} .vshl)
  | "vshr" => some (a.vec [.d, .a, .bAmount] {} .vshr)
  | "vsra" => some (a.vec [.d, .a, .bAmount] {} .vsra)
  | "vimin" => some (a.vTri .vimin)
  | "vimax" => some (a.vTri .vimax)
  | "vmix" => some (a.vTri .vmix)
  | "viota" => some (a.vec [.d, .imm 6] {} .viota)
  | "vcvt" => some (a.vDuo .vcvt { rnd := true, sat := true })
  | "vqnt" => some (a.vDuo .vqnt { rnd := true, sat := true, mask := false })
  | "vdqt" => some (a.vDuo .vdqt round)
  | "vts8" => some (a.vDuo .vts8 { mask := false })
  | "vrsum" => some (a.vec [.d, .a, .imm 6] round .vrsum)
  | "vrmax" => some (a.vec [.d, .a, .imm 6] {} .vrmax)
  | "vrmin" => some (a.vec [.d, .a, .imm 6] {} .vrmin)
  | "vscan" => some (a.vDuo .vscan round)
  | "vargmx" => some (a.vec [.d, .a, .imm 6] {} .vargmx)
  | "vmov" => some (a.vDuo .vmov)
  | "vbcst" => some (a.vec [.d, .regA] {} .vbcst)
  | "vspl" => some (a.vec [.d, .a, .imm 6] {} .vspl)
  | "vperm" => some (a.vTri .vperm)
  | "vshf" => some (a.vec [.d, .a, .imm 6] {} .vshf)
  | "vrot" => some (a.vec [.d, .a, .imm 6] {} .vrot)
  | "vtrn" => some (a.vDuo .vtrn { mask := false })
  | "vzip" => some (a.vec [.d, .a, .b, .imm 1] {} .vzip)
  | "vunz" => some (a.vec [.d, .a, .b, .imm 1] {} .vunz)
  | "vext" => some (a.vec [.regD, .a, .imm 6] { sx := true, mask := false } .vext)
  | "vld" => some (a.vec [.d, .streamA] {} .vld)
  | "vst" => some (a.vec [.streamD, .a] {} .vst)
  | "vgath" => some (a.vec [.d, .a, .streamB] {} .vgath)
  | "vscat" => some (a.vec [.streamD, .a, .b] {} .vscat)
  | "vcmpr" => some (a.vTri .vcmpr)
  | "vexpd" => some (a.vTri .vexpd)
  | "vmand" => some (a.vec [.maskD, .maskA, .maskB] { mask := false } .vmand)
  | "vmor" => some (a.vec [.maskD, .maskA, .maskB] { mask := false } .vmor)
  | "vmnot" => some (a.vec [.maskD, .maskA] { mask := false } .vmnot)
  | "vmpop" => some (a.vec [.regD, .maskA] { mask := false } .vmpop)
  | _ => none

/-- The form of a mnemonic. -/
def form (mn : String) : Option AsmForm :=
  match a.formC mn, a.formX mn with
  | some f, _ => some f
  | none, some f => some f
  | none, none => a.formV mn

end AsmAt

/-- A name is a mnemonic (R147); RDV stands for its two forms. -/
def isMnemonic (s : String) : Bool := ((AsmAt.form {} s.toLower).isSome) || s.toLower == "rdv"

/-- Words that the opcode of a mnemonic fixes (R145). -/
def mnemonicWords (e : Engine) (mn : String) : Nat :=
  if ["movi", "movk", "loop", "ext", "extu", "ins", "ldel", "fspost", "send", "sendm", "sendl", "smcfg", "swait", "spost", "sfadd",
      "scas", "srd", "sexp", "sphw", "rcfg", "rclf", "rcld", "rfil", "rrel", "rstat"].contains mn then 2
  else if ["cpt", "cld", "cst", "ctt", "cbc", "cga", "csc", "cfb"].contains mn then 3
  else if e == .V && (AsmAt.formV {} mn).isSome then 2
  else 1

/-- An instruction as it is written: mnemonic, operands, dependency bits. -/
structure AsmPart where
  mn : String
  ops : List (List Tok)
  pre : Pre
  deriving DecidableEq, Repr

/-- The dependency suffixes of an instruction (R156). -/
def suffixes : List Tok → Pre → Option Pre
  | [], p => some p
  | .caret _ :: .name s :: r, p =>
    match s.toLower with
    | "wp" => if p.wp then none else suffixes r { p with wp := true }
    | "sp" => if p.sp then none else suffixes r { p with sp := true }
    | "wn" => if p.wn then none else suffixes r { p with wn := true }
    | "sn" => if p.sn then none else suffixes r { p with sn := true }
    | _ => none
  | _ :: _, _ => none

/-- A token is the mark of a suffix. -/
def isCaret : Tok → Bool
  | .caret _ => true
  | _ => false

/-- One instruction of a line; `last` sets the stop bit (R145). -/
def asmPart (ts : List Tok) (last : Bool) : Option AsmPart :=
  let body := ts.takeWhile fun t => !isCaret t
  let suf := ts.drop body.length
  if suf.head? == some (.caret false) then none
  else
    (suffixes suf { s := last }).bind fun p =>
      match body with
      | .name m :: .sign "." :: .name k :: r =>
        if m.toLower == "rdv" then some { mn := "rdv." ++ k.toLower, ops := operands r, pre := p } else none
      | .name m :: r => some { mn := m.toLower, ops := operands r, pre := p }
      | _ => none

/-- The instructions of a line (R145): as many as the engine issues, none empty. -/
def asmLine (e : Engine) (ts : List Tok) : Option (List AsmPart) :=
  let l := splitAt' "|" ts 0 []
  if e.width < l.length then none
  else
    (List.range l.length).foldr (fun k (z : Option (List AsmPart)) =>
      z.bind fun r => (asmPart (l.getD k []) (k + 1 == l.length)).map fun q => q :: r) (some [])

/-- A part at its place as an instruction of the engine's space. -/
def AsmPart.assemble (q : AsmPart) (e : Engine) (env : AsmEnv) (pc : Nat) : Option Instr :=
  ((AsmAt.form { e := e, p := q.pre, pc := pc, env := env } q.mn).bind fun f => f q.ops).bind fun i =>
    if wf e i then some i else none

end Sys2Proof.Machine
end

