-- ==== Sys2Proof/Machine/Lyas.lean ====
section
/-! DEFINITION. The assembler lyas, from a source file to a native image (R145, R146, R151, R152, R157 to R161), and what lyld
packs of images into a ZFO (R352 to R354). -/

namespace Sys2Proof.Machine

/-- A group of a stream as it is written: where it stands and what an expression in it may name. -/
structure AsmGroup where
  line : Nat
  cls : Nat
  e : Engine
  pc : Nat
  parts : List AsmPart
  syms : List (String × Int)
  deriving DecidableEq, Repr

/-- A label of a stream of a class (R151). -/
structure AsmLabel where
  cls : Nat
  e : Engine
  name : String
  off : Nat
  deriving DecidableEq, Repr

/-- What the lines read so far have said. -/
structure Asm where
  name : String := ""
  pin : Bool := false
  steps : Nat := 0
  fwd : Bool := false
  w : Nat := 1
  h : Nat := 1
  /-- 0 any, 1 rotate, 2 fixed. -/
  orient : Nat := 0
  seamC : Nat := 0
  seamR : Nat := 0
  /-- Seams that the whole source declares, which _SEAMS and _F count (R147). -/
  allSeams : Nat := 0
  strict : Bool := false
  stale : Bool := false
  safeGap : Nat := 0
  /-- Directives seen, which may appear once (R158). -/
  seen : List String := []
  ended : Bool := false
  classes : List String := []
  cls : Option Nat := none
  stream : Option Engine := none
  /-- Symbols of .equ. -/
  equ : List (String × Int) := []
  /-- Labels that the next group of the section takes (R144). -/
  waiting : List String := []
  labels : List AsmLabel := []
  groups : List AsmGroup := []
  /-- Rectangles of .tiles: x0, x1, y0, y1, class name. -/
  tiles : List (Nat × Nat × Nat × Nat × String) := []
  /-- .data (with its class) and .const lines: offset, format, bytes. -/
  data : List (Option Nat × Nat × Fmt × List Byte) := []
  /-- The byte after the last such line, as moved by .align (R161). -/
  running : Nat := 0
  /-- Lines with an inexact fp value (R150). -/
  warnings : List Nat := []
  deriving DecidableEq, Repr

/-- The directives of R157. -/
def directiveNames : List String :=
  ["image", "rev", "pitch", "orient", "seam", "strict", "stale", "safe_gap", "class", "tiles", "stream", "data", "const", "equ",
    "align", "end"]

/-- A name that a program may give to a symbol (R147). -/
def symbolFree (s : String) : Bool :=
  let l := s.toLower
  symbolForm s && s.toList.head? != some '_' && !isMnemonic s && !directiveNames.contains l &&
    !(prefixes.any fun q => (objNum q.1 q.2 s).isSome) && !AsmAt.csrNames.contains l &&
    !(["or", "xor", "tile", "fp", "log2", "dup"].contains l)

namespace Asm

/-- The predefined symbols (R147), once .pitch is read, and those of .equ. DESIGN CHOICE: in an .equ before .pitch the symbols of
the pitch are undefined, and tile(x,y) is that of a pitch of one tile (notes/assumptions/96.md). -/
def syms (z : Asm) : List (String × Int) :=
  (if z.seen.contains "pitch" then
      [("_W", (z.w : Int)), ("_H", (z.h : Int)), ("_SEAMS", (z.allSeams : Int)),
        ("_F", ((4 * (z.w + z.h) + 20 * z.allSeams + 8 : Nat) : Int))]
    else []) ++ z.equ

/-- Word offset of the next group of a stream. -/
def next (z : Asm) (c : Nat) (e : Engine) : Nat :=
  ((z.groups.filter fun g => g.cls == c && g.e == e).map fun g =>
    (g.parts.map fun q => mnemonicWords e q.mn).foldl (· + ·) 0).foldl (· + ·) 0

/-- The labels of the open stream that stand above (R151, R152). -/
def labelsSoFar (z : Asm) : List (String × Nat) :=
  match z.cls, z.stream with
  | some c, some e =>
    (z.waiting.map fun s => (s, z.next c e)) ++
      (z.labels.filter fun l => l.cls == c && l.e == e).map fun l => (l.name, l.off)
  | _, _ => []

/-- The names of an expression outside instructions. -/
def env (z : Asm) : AsmEnv := { w := z.w, h := z.h, syms := z.syms, labels := z.labelsSoFar }

/-- An expression between two bounds. -/
def within (z : Asm) (lo hi : Nat) (ts : List Tok) : Option Nat :=
  (evalAll z.env ts).bind fun v => if (lo : Int) ≤ v && v ≤ hi then some v.toNat else none

/-- A section ends: a label with no group after it names nothing (R144). -/
def leave (z : Asm) : Asm := { z with waiting := [] }

/-- A label (R144, R151). DESIGN CHOICE: one on a line outside every stream section is refused, and so is one that shares its name
with an .equ symbol (R152; notes/assumptions/96.md). -/
def label (z : Asm) (s : String) : Option Asm :=
  match z.cls, z.stream with
  | some c, some e =>
    if !symbolFree s || z.waiting.contains s || (z.equ.any fun q => q.1 == s) ||
        z.labels.any fun l => l.cls == c && l.e == e && l.name == s then none
    else some { z with waiting := s :: z.waiting }
  | _, _ => none

/-- A line of instructions (R145). -/
def group (z : Asm) (line : Nat) (ts : List Tok) : Option Asm :=
  match z.cls, z.stream with
  | some c, some e =>
    (asmLine e ts).map fun l =>
      let pc := z.next c e
      { z with
        groups := z.groups ++ [{ line := line, cls := c, e := e, pc := pc, parts := l, syms := z.syms }]
        labels := z.labels ++ z.waiting.map fun s => { cls := c, e := e, name := s, off := pc }
        waiting := [] }
  | _, _ => none

/-- .rev: E1, then steppings, then fwd (R157). -/
def rev (z : Asm) (l : List (List Tok)) : Option Asm :=
  match l with
  | [.name "E1"] :: r =>
    let fwd := r.getLast? == some [.name "fwd"]
    let ss := if fwd then r.dropLast else r
    let bit' (t : List Tok) : Option Nat := if t == [.name "A0"] then some 1 else if t == [.name "B0"] then some 2 else none
    if ss.isEmpty || ss.any fun t => (bit' t).isNone then none
    else some { z with steps := ss.foldl (fun v t => v ||| (bit' t).getD 0) 0, fwd := fwd }
  | _ => none

/-- .seam: col=N or row=N, and lat=10 or nothing (R157). -/
def seam (z : Asm) (ts : List Tok) : Option Asm :=
  match ts with
  | .name ax :: .sign "=" :: r =>
    let n := r.takeWhile fun t => t != .name "lat"
    let latOk := match r.drop n.length with
      | [] => true
      | .name "lat" :: .sign "=" :: v => evalAll z.env v == some 10
      | _ => false
    if !latOk then none
    else if ax == "col" && z.seamC == 0 then (z.within 1 (z.w - 1) n).map fun v => { z with seamC := v }
    else if ax == "row" && z.seamR == 0 then (z.within 1 (z.h - 1) n).map fun v => { z with seamR := v }
    else none
  | _ => none

/-- .tiles x0..x1, y0..y1 class (R157, R159). -/
def tilesLine (z : Asm) (ts : List Tok) : Option Asm :=
  match ts.getLast?, (splitAt' "," ts.dropLast 0 []).map fun l => splitAt' ".." l 0 [] with
  | some (.name c), [[a, b], [p, q]] =>
    (z.within 0 (z.w - 1) a).bind fun x0 => (z.within x0 (z.w - 1) b).bind fun x1 => (z.within 0 (z.h - 1) p).bind fun y0 =>
      (z.within y0 (z.h - 1) q).map fun y1 => { z with tiles := z.tiles ++ [(x0, x1, y0, y1, c)] }
  | _, _ => none

/-- A format of R81 by its name. -/
def fmtOf (ts : List Tok) : Option Fmt :=
  (AsmAt.word ts).bind fun s =>
    (["FP32", "FP16", "BF16", "F8A", "F8B", "F4", "TS8", "I8", "I32", "E8"].findIdx? fun q => q == s).bind Fmt.ofCode

/-- The E8 code of a positive number m·2^e, and whether it is inexact: the nearest power of two, of two equally near the one
with the even code (R50, R65). None where there is no such code. -/
def e8Code (m : Nat) (e : Int) : Option (Nat × Bool) :=
  let k := m.log2
  let c : Int := k + e + 127
  let up := decide (3 * 2 ^ k < 2 * m) || (decide (3 * 2 ^ k = 2 * m) && c % 2 != 0)
  let r := if c < 0 then 0 else if up then c + 1 else c
  if m == 0 || 254 < r then none else some (r.toNat, decide (c < 0) || m != 2 ^ k)

/-- fp(d) in a format: its code, whether it is inexact; none where it overflows (R149, R150). -/
def fpCode (f : Fmt) (neg : Bool) (digits : Nat) (scale : Int) : Option (Nat × Bool) :=
  let v : Val :=
    if 0 ≤ scale then .fin neg (digits * 10 ^ scale.toNat) 0
    else
      let d := 10 ^ (-scale).toNat
      let k := 512
      let q := digits * 2 ^ k / d
      .fin neg (2 * q + if digits * 2 ^ k % d == 0 then 0 else 1) (-(k + 1 : Nat) : Int)
  let r := f.round .rne false v
  match f, v with
  | .e8, .fin false m e => e8Code m e
  | .e8, _ => none
  | _, _ => if r.2 &&& flagOF != 0 || r.2 &&& flagNV != 0 then none else some (r.1, r.2 &&& flagNX != 0)

/-- The codes of one value of .data or .const (R161), with whether one is inexact. The first argument bounds the depth of dup: a
value nests at most as deep as it has tokens. -/
def dataValue (z : Asm) (f : Fmt) : Nat → List Tok → Option (List Nat × Bool)
  | 0, _ => none
  | n + 1, ts =>
    match ts with
    | [.fp neg digits scale] => (fpCode f neg digits scale).map fun r => ([r.1], r.2)
    | .name s :: .sign "(" :: r =>
      if s.toLower == "dup" then
        (match r.getLast?, operands r.dropLast with
        | some (.sign ")"), [k, v] =>
          (z.within 0 (2 * Config.spmSize) k).bind fun c => (dataValue z f n v).map fun q =>
            ((List.replicate c q.1).flatten, q.2)
        | _, _ => none)
      else (evalAll z.env ts).bind fun v => (fieldE f.width v).map fun c => ([c], false)
    | _ => (evalAll z.env ts).bind fun v => (fieldE f.width v).map fun c => ([c], false)

/-- Codes packed into bytes (R53, R161). -/
def packCodes (f : Fmt) (l : List Nat) : List Byte :=
  if f.width == 4 then
    (List.range ((l.length + 1) / 2)).map fun i => BitVec.ofNat 8 (l.getD (2 * i) 0 + 16 * l.getD (2 * i + 1) 0)
  else l.flatMap fun c => leBytes (f.width / 8) c

/-- A .data or .const line (R161). -/
def dataLine (z : Asm) (line : Nat) (owner : Option Nat) (l : List (List Tok)) : Option Asm :=
  match l with
  | o :: f :: v :: vs =>
    (fmtOf f).bind fun fmt =>
      (if o == [.sign "+"] then some z.running else z.within 0 Config.spmSize o).bind fun off =>
        ((v :: vs).foldr (fun t (r : Option (List Nat × Bool)) =>
          r.bind fun q => (z.dataValue fmt (t.length + 1) t).map fun c => (c.1 ++ q.1, c.2 || q.2)) (some ([], false))).bind fun r =>
          let bytes := packCodes fmt r.1
          if off % Nat.max 1 (fmt.width / 8) != 0 || decide (Config.spmSize < off + bytes.length) then none
          else some { z with
            data := z.data ++ [(owner, off, fmt, bytes)], running := off + bytes.length
            warnings := if r.2 then z.warnings ++ [line] else z.warnings }
  | _ => none

/-- Whether a directive may stand here (R158). -/
def mayStand (z : Asm) (d : String) : Bool :=
  let heads := ["image", "rev", "pitch"]
  let early := ["orient", "seam", "strict", "stale", "safe_gap"]
  if d == "equ" then true
  else match heads.findIdx? fun q => q == d with
    | some k => !z.seen.contains d && (heads.take k).all fun q => z.seen.contains q
    | none => heads.all (fun q => z.seen.contains q) &&
        (!early.contains d || z.classes.isEmpty && (d == "seam" || !z.seen.contains d))

/-- A directive of R157. -/
def directive (z : Asm) (line : Nat) (d : String) (ts : List Tok) : Option Asm :=
  let l := operands ts
  if !z.mayStand d then none
  else
    let y := { z with seen := d :: z.seen }
    match d, l with
    | "image", [[.name s]] => if symbolForm s then some { y with name := s } else none
    | "image", [[.name s], [.name "pin"]] => if symbolForm s then some { y with name := s, pin := true } else none
    | "rev", _ => y.rev l
    | "pitch", [w, h] => (z.within 1 48 w).bind fun a => (z.within 1 48 h).map fun b => { y with w := a, h := b }
    | "orient", [[.name s]] => (["any", "rotate", "fixed"].findIdx? fun q => q == s).map fun k => { y with orient := k }
    | "seam", _ => y.seam ts
    | "strict", [] => some { y with strict := true }
    | "stale", [[.name s]] => if s == "zero" then some y else if s == "trap" then some { y with stale := true } else none
    | "safe_gap", [n] => (z.within 1 (2 ^ 32 - 1) n).map fun v => { y with safeGap := v }
    | "class", [[.name s]] =>
      if !symbolForm s then none
      else match z.classes.findIdx? fun q => q == s with
        | some k => some { y.leave with cls := some k, stream := none }
        | none => some { y.leave with classes := z.classes ++ [s], cls := some z.classes.length, stream := none }
    | "tiles", _ => y.tilesLine ts
    | "stream", [e] => match z.cls with
      | none => none
      | some _ => (AsmAt.engine e).map fun k => { y.leave with stream := some (Engine.all.getD k .C) }
    | "data", _ => match z.cls with
      | none => none
      | some c => y.dataLine line (some c) l
    | "const", _ => y.dataLine line none l
    | "equ", [[.name s], v] =>
      if !symbolFree s || (z.equ.any fun q => q.1 == s) || (z.labels.any fun q => q.name == s) || z.waiting.contains s then none
      else (evalAll z.env v).map fun x => { y with equ := z.equ ++ [(s, x)] }
    | "align", [n] => (z.within 1 65536 n).bind fun v =>
        if v == 2 ^ v.log2 then some { y with running := (z.running + v - 1) / v * v } else none
    | "end", [] => some { y.leave with ended := true }
    | _, _ => none

/-- A line of the source; a line of tokens after .end is an error (R158). -/
def line (z : Asm) (n : Nat) (ts : List Tok) : Option Asm :=
  if ts.isEmpty then some z
  else if z.ended then none
  else
    let r : Option (Asm × List Tok) := match ts with
      | .name s :: .sign ":" :: more => (z.label s).map fun y => (y, more)
      | _ => some (z, ts)
    r.bind fun q => match q.2 with
      | [] => some q.1
      | .sign "." :: .name d :: more => q.1.directive n d.toLower more
      | _ => q.1.group n q.2

/-- All lines in order; otherwise the number of the first line that is an assembly error. -/
def lines : Nat → List (List Char) → Asm → Except Nat Asm
  | _, [], z => .ok z
  | n, l :: ls, z =>
    match (lineTokens l).bind fun ts => z.line n ts with
    | none => .error n
    | some y => lines (n + 1) ls y

/-- The instructions of a group with the labels of its stream; a dependent group is an error (R146). -/
def assembleGroup (z : Asm) (g : AsmGroup) : Option (List Instr) :=
  let labels := (z.labels.filter fun l => l.cls == g.cls && l.e == g.e).map fun l => (l.name, l.off)
  let env : AsmEnv := { w := z.w, h := z.h, syms := g.syms, labels := labels }
  let r := g.parts.foldl (fun (r : Nat × Option (List Instr)) q =>
    (r.1 + mnemonicWords g.e q.mn, r.2.bind fun l => (q.assemble g.e env r.1).map fun i => l ++ [i])) (g.pc, some [])
  r.2.bind fun l => match l with
    | [a, b] => if dependent a b then none else some l
    | _ => some l

/-- The number of a .seam directive's line among the seams of a source (R147). -/
def declaresSeam (ts : List Tok) : Bool :=
  match ts with
  | .sign "." :: .name d :: _ => d.toLower == "seam"
  | .name _ :: .sign ":" :: .sign "." :: .name d :: _ => d.toLower == "seam"
  | _ => false

/-- A whole assembled source: the words of every stream of every class, in class and engine order. -/
structure Built where
  src : Asm
  code : List (List (List Nat))
  instrs : List Instr
  /-- The instructions of each class's C stream. -/
  ctrl : List (List Instr) := []
  deriving DecidableEq, Repr

/-- The words of one stream; one that the class never opens is the single group ENDS (R160). -/
def streamWords (l : List (AsmGroup × List Instr)) (c : Nat) (e : Engine) : List Nat :=
  let mine := l.filter fun q => q.1.cls == c && q.1.e == e
  if mine.isEmpty then [endsWord] else mine.flatMap fun q => q.2.flatMap encode

/-- Two lines that write one byte of one tile (R161). A line of no bytes meets another one inside whose bytes its offset lies
(DESIGN CHOICE, notes/assumptions/96.md). -/
def dataMeets (z : Asm) : Bool :=
  let spans := z.data.map fun q => (q.1, q.2.1, q.2.1 + q.2.2.2.length)
  (List.range spans.length).any fun i => (List.range i).any fun j =>
    let a := spans.getD i (none, 0, 0)
    let b := spans.getD j (none, 0, 0)
    (a.1 == none || b.1 == none || a.1 == b.1) && decide (a.2.1 < b.2.2) && decide (b.2.1 < a.2.2)

/-- The classes and rectangles hold (R159). -/
def tilesOk (z : Asm) : Bool :=
  (z.tiles.all fun r => z.classes.contains r.2.2.2.2) && (z.classes.all fun c => z.tiles.any fun r => r.2.2.2.2 == c) &&
    (List.range (z.w * z.h)).all fun k =>
      (z.tiles.filter fun r => decide (r.1 ≤ k % z.w) && decide (k % z.w ≤ r.2.1) && decide (r.2.2.1 ≤ k / z.w) &&
        decide (k / z.w ≤ r.2.2.2.1)).length == 1

/-- LYAS (R143 to R161): a source file as its assembled streams, or the line of its first assembly error (0 for one that no line
shows). -/
def build (text : List Char) : Except Nat Built :=
  let ls := sourceLines text
  match lines 1 ls { allSeams := (ls.filter fun l => (lineTokens l).any declaresSeam).length } with
  | .error n => .error n
  | .ok z =>
    let done := z.groups.map fun g => (g, z.assembleGroup g)
    match done.find? fun q => q.2.isNone with
    | some q => .error q.1.line
    | none =>
      let l := done.map fun q => (q.1, q.2.getD [])
      let code := (List.range z.classes.length).map fun c => Engine.all.map fun e => streamWords l c e
      if !z.ended || !z.tilesOk || z.dataMeets || decide (255 < z.classes.length) || z.classes.isEmpty ||
          code.any (fun ss => decide (24576 < (ss.map List.length).foldl (· + ·) 0)) then .error 0
      else .ok { src := z, code := code, instrs := l.flatMap fun q => q.2
                 ctrl := (List.range z.classes.length).map fun c =>
                   (l.filter fun q => q.1.cls == c && q.1.e == .C).flatMap fun q => q.2 }

/-! ## The native image and the ZFO -/

/-- Bytes padded with zeros to a multiple of 8. -/
def pad8 (b : List Byte) : List Byte := b ++ List.replicate ((8 - b.length % 8) % 8) 0

/-- A DATA or CONST record (R359). -/
def recordOf (off : Nat) (b : List Byte) : List Byte := if b.isEmpty then [] else leBytes 8 (b.length * 2 ^ 20 + off) ++ pad8 b

/-- The sections of an image: type, class, engine, contents (R359). -/
def sectionsOf (b : Built) : List (Nat × Nat × Nat × List Byte) :=
  let z := b.src
  let idx (s : String) : Nat := (z.classes.findIdx? fun q => q == s).getD 0
  let map := z.tiles.flatMap fun r =>
    leBytes 8 (idx r.2.2.2.2 * 2 ^ 24 + r.2.2.2.1 * 2 ^ 18 + r.2.2.1 * 2 ^ 12 + r.2.1 * 2 ^ 6 + r.1)
  let of' (o : Option Nat) : List Byte := (z.data.filter fun q => q.1 == o).flatMap fun q => recordOf q.2.1 q.2.2.2
  let code := (List.range b.code.length).flatMap fun c => (List.range 5).map fun e =>
    (1, c, e, ((b.code.getD c []).getD e []).flatMap (leBytes 4))
  let data := (List.range z.classes.length).map fun c => (2, c, 0, of' (some c))
  (0, 0, 0, map) :: code ++ (data.filter fun q => !q.2.2.2.isEmpty) ++
    if (of' none).isEmpty then [] else [(3, 0, 0, of' none)]

/-- The native image of a source (R357 to R359): header, section table, sections. -/
def image (b : Built) : List Byte :=
  let z := b.src
  let ss := sectionsOf b
  let base := 96 + 16 * ss.length
  let w0 := z.w + z.h * 2 ^ 8 + z.classes.length * 2 ^ 15 + z.orient * 2 ^ 23 + b2n z.strict * 2 ^ 25 + b2n z.stale * 2 ^ 26 +
    b2n z.pin * 2 ^ 27 + z.seamC * 2 ^ 30 + z.seamR * 2 ^ 36
  let name := z.name.toList.map fun c => BitVec.ofNat 8 c.toNat
  let table := ss.foldl (fun (r : Nat × List Byte) q =>
    (r.1 + (pad8 q.2.2.2).length,
      r.2 ++ leBytes 8 (r.1 * 2 ^ 32 + q.2.2.2.length) ++ leBytes 8 (q.2.2.1 * 2 ^ 16 + q.1 * 2 ^ 8 + q.2.1))) (base, [])
  leBytes 8 w0 ++ leBytes 8 (z.safeGap * 2 ^ 32 + ss.length) ++ leBytes 8 96 ++ leBytes 8 0 ++
    (name ++ List.replicate (64 - name.length) 0) ++ table.2 ++ ss.flatMap fun q => pad8 q.2.2.2

/-- What is known of the registers of a stream after one more of its instructions, in text order: values that MOVI and MOVK
give (notes/assumptions/96.md). -/
def constants (known : List (Nat × Word)) (i : Instr) : List (Nat × Word) :=
  let rest := known.filter fun q => !(objWrites i).contains (.reg q.1)
  match i with
  | .movi _ d v => (d, BitVec.ofInt 64 (toSigned 32 v)) :: rest
  | .movk _ d v => match known.find? fun q => q.1 == d with
    | some q => (d, BitVec.ofNat 64 (v * 2 ^ 32 + q.2.toNat % 2 ^ 32)) :: rest
    | none => rest
  | _ => rest

/-- A stream's TCFG or SCFG names F4 or TS8: its register holds a configuration word of that format (R80, R84, R354). -/
def namesNarrow (l : List Instr) : Bool :=
  (l.foldl (fun (r : List (Nat × Word) × Bool) i =>
    let value (g : Nat) : Option Word := (r.1.find? fun q => q.1 == g).map fun q => q.2
    let narrow (c : Nat) : Bool := Fmt.ofCode c == some .f4 || Fmt.ofCode c == some .ts8
    let hit := match i with
      | .tcfg _ g _ => (value g).any fun v => narrow (wfld v 0 4)
      | .scfg _ g _ w => w == 0 && (value g).any fun v => narrow (wfld v 20 4)
      | _ => false
    (constants r.1 i, r.2 || hit)) ([], false)).2

/-- FEATMASK of an image (R354). -/
def features (b : Built) : Nat :=
  let narrow (q : Option Nat × Nat × Fmt × List Byte) : Bool := q.2.2.1 == .f4 || q.2.2.1 == .ts8
  let is (p : Instr → Bool) : Nat := b2n (b.instrs.any p)
  let sparse : Instr → Bool
    | .mmas _ _ _ _ _ => true
    | .vcmpr _ _ => true
    | .vexpd _ _ => true
    | _ => false
  let ts8 : Instr → Bool
    | .vts8 _ _ => true
    | _ => false
  let fabric : Instr → Bool
    | .fspost _ _ _ _ _ _ _ _ => true
    | _ => false
  1 + 2 * is sparse + 4 * b2n (b.instrs.any ts8 || b.src.data.any narrow || b.ctrl.any namesNarrow) + 8 * is fabric + 16 * b2n b.src.strict

/-- LYLD (R352 to R354): images in file order, each with its directory word 0 and features, as one ZFO. -/
def zfo (l : List (Nat × Nat × List Byte)) : List Byte :=
  let ims := l.map fun q => (q.1, q.2.1, pad8 q.2.2)
  let base := 64 + 32 * l.length
  let dir := ims.foldl (fun (r : Nat × List Byte) q =>
    (r.1 + q.2.2.length, r.2 ++ leBytes 8 q.1 ++ leBytes 8 q.2.1 ++ leBytes 8 (q.2.2.length * 2 ^ 32 + r.1) ++ leBytes 8 0))
    (base, [])
  let body := dir.2 ++ ims.flatMap fun q => q.2.2
  leBytes 8 (l.length * 2 ^ 48 + 1 * 2 ^ 32 + 0x314F465A) ++ leBytes 8 (64 + body.length) ++ leBytes 8 (64 * 2 ^ 32) ++ leBytes 8 0 ++
    sha256 body ++ body

/-- The directory entry of a native image of edition E1: KIND 0, FAMILY 1, EDITION 1, its steppings and FWD (R353). -/
def dirWord (z : Asm) : Nat := 1 * 2 ^ 8 + 1 * 2 ^ 16 + z.steps * 2 ^ 24 + b2n z.fwd * 2 ^ 32

/-- The ZFO of one source. -/
def pack (b : Built) : List Byte := zfo [(dirWord b.src, features b, image b)]

end Asm

end Sys2Proof.Machine
end

