-- ==== Sys2Proof/Tests/Slice0.lean ====
section
/-! SUPPORT. The model's own tests: words of every constructor written out from the spec's encodings and what they decode to,
terms that each check of `WellFormed` refuses, and for every obligation with hypotheses a state that meets them, at the
boundary values of its clauses. -/

open Sys2Proof Sys2Proof.Machine

section

set_option Elab.async false

/-- A stream of eight one-word groups. -/
def Tests.code : Code := { words := [0, 0, 0, 0, 0, 0, 0, 0], starts := [0, 1, 2, 3, 4, 5, 6, 7] }

/-- A pitch of one tile. -/
def Tests.pit (t : Tile) : Pitch :=
  { id := 7, slice := 1, launch := 7, img := { w := 1, h := 1, classOf := [0], code := [List.replicate 5 Tests.code] }
    tiles := [t] }

/-- Engine `e` of that tile issues, at word `pc`. -/
def Tests.world (e : Engine) (t : Tile) (pc : Nat := 0) (sl : Slice := { id := 1 }) : State :=
  { cur := { pitch := 7, eng := e, pc := pc, gpc := pc }, pitches := [Tests.pit t], slices := [sl]
    launches := [{ id := 7, slice := 1, placed := true }] }

theorem Tests.world_at (e : Engine) (t : Tile) (pc : Nat) (sl : Slice) : (Tests.world e t pc sl).At (Tests.pit t) t := ⟨rfl, rfl⟩

/-- A tile in trap mode whose g0 and x0 are current, with the values 0xBFFF8 and 8, and whose other registers are stale. -/
def Tests.strictTile : Tile :=
  { staleTrap := true, gen := 1, pitchGen := 1
    g := (Vector.replicate 32 {}).set 0 { val := 0xBFFF8, tag := 1 }
    xr := (Vector.replicate 16 {}).set 0 { val := 8, tag := 1 } }

/-- A tile that reads stale registers as zero. -/
def Tests.looseTile : Tile := { gen := 1, pitchGen := 1 }

/-- AluTwoSource, ImmediatesAndFields, SystemReads: operands that can be read, in both stale modes, and the boundaries of
the immediates and of the fields. -/
theorem test_witness_arithmetic :
    (Tests.world .C Tests.strictTile).At (Tests.pit Tests.strictTile) Tests.strictTile ∧
      (Tests.world .X Tests.strictTile).At (Tests.pit Tests.strictTile) Tests.strictTile ∧
      Tests.strictTile.Readable .C [0, 0] ∧ Tests.strictTile.Readable .X [0, 0, 0, 0] ∧
      Tests.looseTile.Readable .C [31, 1, 2, 3] ∧ (2 ^ 32 - 1 < 2 ^ 32 ∧ 63 + 0 + 1 ≤ 64 ∧ 0 + 63 + 1 ≤ 64) :=
  ⟨⟨rfl, rfl⟩, ⟨rfl, rfl⟩, .inr (by decide), .inr (by decide), .inl rfl, by decide⟩

/-- Branches: targets at the ends of the code and beyond them, and stale operands in trap mode. -/
theorem test_witness_branches :
    let c := (Tests.world .C Tests.looseTile 3).ctxAt (Tests.pit Tests.looseTile) 1
    Tests.looseTile.Readable .C [5, 31] ∧ c.Starts ((c.pc : Int) + 4) ∧ c.Starts ((c.pc : Int) - 3) ∧
      ¬ c.Starts ((c.pc : Int) + 5) ∧ ¬ c.Starts ((c.pc : Int) - 4) ∧ c.Starts (Tests.looseTile.reg .C 31).toNat ∧
      Tests.strictTile.staleTrap = true ∧ Tests.strictTile.regStale .C 1 = true ∧ Tests.strictTile.regStale .C 31 = true :=
  ⟨.inl rfl, by simp only [Ctx.Starts]; decide⟩

/-- Branches, RET: g31 beyond the code. -/
theorem test_witness_ret :
    let t : Tile := { Tests.looseTile with g := (Vector.replicate 32 {}).set 31 { val := 8, tag := 1 } }
    t.Readable .C [0, 31] ∧ ¬ ((Tests.world .C t).ctxAt (Tests.pit t) 1).Starts (t.reg .C 31).toNat :=
  ⟨.inl rfl, by simp only [Ctx.Starts]; decide⟩

/-- LoopEndsIdle: a body that ends with the code, one that would end beyond it, and engines other than X. -/
theorem test_witness_loops :
    let c := (Tests.world .V Tests.looseTile).ctxAt (Tests.pit Tests.looseTile) 2
    Tests.looseTile.Readable .V [0] ∧ c.Starts (c.pc + 2 + 5 : Nat) ∧
      c.pc + 2 + 6 = (c.env.codeOf c.eng).words.length ∧
      ¬ (c.Starts (c.pc + 2 + 7 : Nat) ∨ c.pc + 2 + 7 = (c.env.codeOf c.eng).words.length) ∧
      (Tests.world .V Tests.looseTile).cur.eng ≠ .X :=
  ⟨.inl rfl, by simp only [Ctx.Starts]; decide⟩

/-- LoopEndsIdle, the end check: no level ends, a level with LEFT 1 ends, a level with LEFT 2 ends. -/
theorem test_witness_end_check :
    let lvl (left : Nat) : LoopLvl := { active := true, start := 2, stop := 5, left := left, order := 1 }
    let ends (s : EngState) (e l : Nat) : Prop := l < 4 ∧ (at' {} s.loops l).active = true ∧ (at' {} s.loops l).stop = e
    let s (left : Nat) : EngState := { loops := (Vector.replicate 4 {}).set 1 (lvl left) }
    (∀ l, ¬ ends (s 1) 4 l) ∧ (ends (s 1) 5 1 ∧ ∀ k, ends (s 1) 5 k → k = 1) ∧ (at' {} (s 1).loops 1).left ≤ 1 ∧
      (ends (s 2) 5 1 ∧ ∀ k, ends (s 2) 5 k → k = 1) ∧ 1 < (at' {} (s 2).loops 1).left := by
  refine ⟨?_, ⟨by decide, ?_⟩, by decide, ⟨by decide, ?_⟩, by decide⟩
  · rintro l ⟨h, ha, hb⟩; revert ha hb; interval_cases l <;> decide
  all_goals (rintro l ⟨h, ha, hb⟩; revert ha hb; interval_cases l <;> decide)

/-- Configuration: a value of word 0 that SCFG takes, at the last mode and format, and a stream in use of the same phase;
a descriptor that TCFG takes. -/
theorem test_witness_configuration :
    let v : Word := BitVec.ofNat 64 (1 * 2 ^ 24 + 9 * 2 ^ 20 + 3 * 2 ^ 6)
    let t : Tile := { Tests.looseTile with s := (Vector.replicate 16 {}).set 0 { base := 3 * 64, cur := 3 * 64 + 1024, inUse := true, tag := 1 } }
    let d : Word := TDesc.toWord { fmt := 0, rows := 64, cols := 32 } 0
    (Tests.world .C t).At (Tests.pit t) t ∧ t.Readable .C [0] ∧
      ¬ (1 < wfld v 24 2 ∨ 9 < wfld v 20 4) ∧
      (at' {} t.s 0).inUse = true ∧
      ¬ (wfld v 6 4 ≠ (t.streamOf 0).base / 64 % 16 ∨ wfld v 6 4 ≠ (t.streamOf 0).cur / 64 % 16) ∧
      (TDesc.ofWord d).illegal = false ∧ (TDesc.ofWord d).sideOver = false ∧ wfld d 4 6 = 0 ∧ wfld d 49 15 = 0 :=
  ⟨⟨rfl, rfl⟩, .inl rfl, by decide, by decide, by decide, by decide, by decide, by decide, by decide⟩

/-- ScalarAccessInC: a bank cycle that is fixed, one that is chosen in the last cycle, and a bank that every cycle takes. -/
theorem test_witness_bank_choice :
    let own : Own := Tile.own ((Tests.world .C Tests.looseTile).ctxAt (Tests.pit Tests.looseTile) 1)
    let all (n : Nat) : Tile := { Tests.looseTile with banks := (List.range n).map fun k => ⟨k + 1, 3, { eng := .V }, 0⟩ }
    let fix : Tile := { Tests.looseTile with banks := [⟨4, 3, own, 0⟩] }
    (fix.banks.find? fun u => u.own == own).map BankUse.at_ = some 4 ∧ (∀ u ∈ (all 6).banks, u.own ≠ own) ∧
      (∀ j < 5, ∃ u ∈ (all 5).banks, u.at_ = j + 1 ∧ u.bank = 3) ∧ (∀ u ∈ (all 5).banks, u.at_ ≠ 6) ∧
      ∀ j < 6, ∃ u ∈ (all 6).banks, u.at_ = j + 1 ∧ u.bank = 3 := by
  decide +kernel

/-- ScalarAccessInC, StoreInX, LoadInX: the last address of the scratchpad and the first beyond it, and one that is not
aligned. -/
theorem test_witness_scalar_access :
    let a (off : Int) : Nat := (Tests.strictTile.reg .C 0 + BitVec.ofInt 64 (off * 2 ^ 3)).toNat
    (a 0 + 2 ^ 3 ≤ 0xC0000 ∧ a 0 % 2 ^ 3 = 0) ∧ ¬ (a 1 + 2 ^ 3 ≤ 0xC0000) ∧
      ¬ ((Tests.strictTile.reg .C 0 + BitVec.ofInt 64 (1 * 2 ^ 1)).toNat % 2 ^ 3 = 0) ∧
      (let x := (Tests.strictTile.reg .X 0 + BitVec.ofInt 64 (-1 * 2 ^ 3)).toNat
       x + 2 ^ 3 ≤ 0xC0000 ∧ x % 2 ^ 3 = 0) ∧
      Tests.strictTile.Readable .X [0, 0] ∧ Tests.strictTile.spm.wf = true ∧ Tests.strictTile.gen ≠ 0 ∧
      (Tests.looseTile.staleTrap = false ∨ Tests.looseTile.spmCur 0 = true) ∧ 3 < 4 :=
  ⟨by decide, by decide, by decide, by decide, .inr (by decide), by decide, by decide, .inl rfl, by decide⟩

/-- TrapTaken: every engine of the tile exists. -/
theorem test_witness_traps : ∀ e : Engine, e.idx < Tests.looseTile.eng.size := by intro e; cases e <;> decide

/-- LocalSync: an immediate amount at its last value, a register amount, and no lookahead made. -/
theorem test_witness_local_sync :
    let c := (Tests.world .C Tests.looseTile).ctxAt (Tests.pit Tests.looseTile) 2
    (∀ q ∈ syncRows, let o : SyOps := { rb := 31, obj := 3, imm := q.useB && !q.useA }
      (o.obj = 0 ∨ o.obj = 3) ∧ o.rsel = false ∧ (o.imm = true → q.useB = true ∧ q.useA = false ∧ o.rb < 32)) ∧
      Tests.looseTile.Readable .C [0, 31] ∧ lookOf Tests.looseTile c = none :=
  ⟨by simp [syncRows], .inl rfl, by decide⟩

/-- LocalSync: a lookahead that passed, made for the group that issues. -/
theorem test_witness_lookahead_made :
    let l : Look := { eng := .C, at_ := 0, pc := 0, pos := 0, kind := .take 3, amount := 2 }
    let t : Tile := { Tests.looseTile with looks := [l] }
    lookOf t ((Tests.world .C t).ctxAt (Tests.pit t) 2) = some l ∧ l.stale = false := by decide

/-- RemoteSync: SPOST has the shape; coordinates inside the pitch and the first outside, and a slice object. -/
theorem test_witness_remote_sync :
    (∀ p o, Instr.spost p o ≠ .smcfg p o ∧ Instr.spost p o ≠ .rcfg p o) ∧
      (∃ q ∈ syncRows, q.make = Instr.spost ∧ q.waits = false) ∧ (∃ q ∈ syncRows, q.make = Instr.swait ∧ q.waits = true) ∧
      0 < (Tests.pit Tests.looseTile).img.w ∧ 0 < (Tests.pit Tests.looseTile).img.h ∧
      ¬ (1 < (Tests.pit Tests.looseTile).img.w ∧ 0 < (Tests.pit Tests.looseTile).img.h) ∧
      Tests.looseTile.Readable .X [1, 2, 3] ∧ (Tests.world .X Tests.looseTile).cur.eng = .X :=
  ⟨fun _ _ => ⟨by simp, by simp⟩, ⟨_, .tail _ (.head _), rfl, rfl⟩,
    ⟨⟨.swait, false, true, false, true, fun o _ b => .take o.index b.toNat⟩, by simp [syncRows], rfl, rfl⟩, by decide,
    by decide, by decide, .inl rfl, rfl⟩

/-- A region of four 16-byte elements of the tensor with handle 5. -/
def Tests.region : RegionDesc :=
  { handle := 5, esize := 4, extent := #v[4, 1, 1, 1], stride := #v[16, 0, 0, 0] }

/-- Its entry: host memory at 0x1000, 64 bytes, valid, readable and writable. -/
def Tests.entry : Vector Word 4 := #v[0x1000, 64, 0, 0x17]

/-- A tile whose scratchpad holds the descriptor at 0, and with a count of 1 the index 0 at 64. -/
def Tests.descTile : Tile :=
  Tests.looseTile.spmWrite (Tests.region.toBytes.mapIdx fun k b => { addr := k, val := b.toNat })

/-- The slice with that tensor. -/
def Tests.tensorSlice : Slice := { id := 1, tensors := [(5, Tests.entry)] }

/-- CopyRegion, CPT: the last granules of the scratchpad, a count that leaves it, and a tile outside the pitch. -/
theorem test_witness_copy_push :
    let good (src d n : Nat) : Prop := Fits src n 64 ∧ Fits (d % 2 ^ 20) n 64 ∧ d / 2 ^ 20 % 64 < 1 ∧ d / 2 ^ 26 % 64 < 1
    good 0xBFFC0 0xBFFC0 64 ∧ ¬ good 0xBFFC0 0xBFFC0 128 ∧ ¬ good 0 (2 ^ 20) 64 ∧ Tests.looseTile.Readable .X [0, 1] := by
  refine ⟨?_, ?_, ?_, .inl rfl⟩ <;> simp [Fits]

set_option maxRecDepth 20000 in
/-- CopyRegion: a descriptor that is read, its region inside the tensor and one that leaves it, a scratchpad side that
fits and one that does not. -/
theorem test_witness_copy_region :
    let d := RegionDesc.ofBytes (Tests.descTile.spmBytes 0 64)
    let e := tensorOf Tests.tensorSlice.tensors d.handle
    d = Tests.region ∧ d.count [] false = 4 ∧ d.z = 16 ∧ regionOk d [] false false e = true ∧
      regionOk d [] false true e = true ∧ regionOk { d with offset := 1 } [] false false e = false ∧
      regionOk d (indexList Tests.descTile 0 1) true false e = true ∧
      regionOk d (indexList Tests.descTile 0 1) true true e = true ∧ Tests.descTile.staleTrap = false := by
  decide +kernel

theorem test_witness_copy_sides :
    Fits 0 64 64 ∧ ¬ Fits 32 64 64 ∧ ¬ Fits 0xBFFC0 128 64 ∧ Fits 0xBFFC0 (4 * 16) 16 ∧ ¬ Fits 0xBFFD0 (4 * 16) 16 := by
  simp [Fits]

/-- CopyTensorForms: two regions of one size that are not both remote, a pair that differs in count, and a rectangle
inside the pitch and one outside. -/
theorem test_witness_copy_tensor :
    let d := Tests.region
    let e := Tests.entry
    (regionOk d [] false false e = true ∧ regionOk d [] false true e = true ∧ d.count [] false = d.count [] false ∧
      ¬ (entLoc e = 2 ∧ entLoc e = 2)) ∧ { d with extent := #v[3, 1, 1, 1] }.count [] false ≠ d.count [] false ∧
      (0 + (0 / 64 + 1) ≤ 1 ∧ 0 + (0 % 64 + 1) ≤ 1) ∧ ¬ (0 + (64 / 64 + 1) ≤ 1) := by
  decide +kernel

/-- PostsFencesInfo: this package, a bound one, and one that is neither. -/
theorem test_witness_posts :
    let bound (sl : Slice) (k : Nat) : Prop :=
      k = (Tests.world .X {} 0 sl).dev.pkg ∨ ∃ q, (Tests.world .X {} 0 sl).slice? 1 = some q ∧ k ∈ q.bind.map Prod.fst
    bound { id := 1 } 0 ∧ bound { id := 1, bind := [(9, 3)] } 9 ∧ ¬ bound { id := 1, bind := [(9, 3)] } 8 := by
  refine ⟨.inl rfl, .inr ⟨_, rfl, by decide⟩, ?_⟩
  rintro (h | ⟨q, hq, hk⟩)
  · exact absurd h (by decide)
  · cases hq; exact absurd hk (by decide)

/-- Every word sequence decodes to its instruction and is consumed whole. -/
def Tests.reads (l : List (Engine × List Nat × Instr)) : Bool :=
  l.all fun q => match decode q.1 q.2.1 with
    | .ok r => decide (r = (q.2.2, q.2.1.length)) && decide (encode q.2.2 = q.2.1)
    | .error _ => false

/-- R170, R171, R183: integer operations in C. -/
theorem test_decode_c_arithmetic : Tests.reads [
    (.C, [w0 0x04 [(5, 31), (5, 16), (5, 1), (5, 0)]], .add {} 31 16 1),
    (.C, [w0 0x05 [(5, 31), (5, 16), (5, 1), (5, 0)]], .sub {} 31 16 1),
    (.C, [w0 0x07 [(5, 31), (5, 16), (5, 1), (5, 0)]], .mul {} 31 16 1),
    (.C, [w0 0x08 [(5, 31), (5, 16), (5, 1), (5, 0)]], .mulh {} 31 16 1),
    (.C, [w0 0x09 [(5, 31), (5, 16), (5, 1), (5, 0)]], .mulhu {} 31 16 1),
    (.C, [w0 0x0A [(5, 31), (5, 16), (5, 1), (5, 0)]], .div {} 31 16 1),
    (.C, [w0 0x0B [(5, 31), (5, 16), (5, 1), (5, 0)]], .divu {} 31 16 1),
    (.C, [w0 0x0C [(5, 31), (5, 16), (5, 1), (5, 0)]], .rem {} 31 16 1),
    (.C, [w0 0x0D [(5, 31), (5, 16), (5, 1), (5, 0)]], .remu {} 31 16 1),
    (.C, [w0 0x0E [(5, 31), (5, 16), (5, 1), (5, 0)]], .and {} 31 16 1),
    (.C, [w0 0x0F [(5, 31), (5, 16), (5, 1), (5, 0)]], .or {} 31 16 1),
    (.C, [w0 0x10 [(5, 31), (5, 16), (5, 1), (5, 0)]], .xor {} 31 16 1),
    (.C, [w0 0x11 [(5, 31), (5, 16), (5, 1), (5, 0)]], .andn {} 31 16 1),
    (.C, [w0 0x12 [(5, 31), (5, 16), (5, 1), (5, 0)]], .shl {} 31 16 1),
    (.C, [w0 0x13 [(5, 31), (5, 16), (5, 1), (5, 0)]], .shr {} 31 16 1),
    (.C, [w0 0x14 [(5, 31), (5, 16), (5, 1), (5, 0)]], .sra {} 31 16 1),
    (.C, [w0 0x15 [(5, 31), (5, 16), (5, 1), (5, 0)]], .rotl {} 31 16 1),
    (.C, [w0 0x19 [(5, 31), (5, 16), (5, 1), (5, 0)]], .min {} 31 16 1),
    (.C, [w0 0x1A [(5, 31), (5, 16), (5, 1), (5, 0)]], .max {} 31 16 1),
    (.C, [w0 0x1B [(5, 31), (5, 16), (5, 1), (5, 0)]], .minu {} 31 16 1),
    (.C, [w0 0x1C [(5, 31), (5, 16), (5, 1), (5, 0)]], .maxu {} 31 16 1),
    (.C, [w0 0x1D [(5, 31), (5, 16), (5, 1), (5, 0)]], .cmpeq {} 31 16 1),
    (.C, [w0 0x1E [(5, 31), (5, 16), (5, 1), (5, 0)]], .cmpne {} 31 16 1),
    (.C, [w0 0x1F [(5, 31), (5, 16), (5, 1), (5, 0)]], .cmplt {} 31 16 1),
    (.C, [w0 0x20 [(5, 31), (5, 16), (5, 1), (5, 0)]], .cmpltu {} 31 16 1),
    (.C, [w0 0x16 [(5, 30), (5, 2), (5, 0), (5, 0)]], .clz {} 30 2),
    (.C, [w0 0x17 [(5, 30), (5, 2), (5, 0), (5, 0)]], .ctz {} 30 2),
    (.C, [w0 0x18 [(5, 30), (5, 2), (5, 0), (5, 0)]], .popc {} 30 2),
    (.C, [w0 0x21 [(5, 1), (5, 2), (5, 3), (5, 31)]], .sel {} 1 2 3 31)] = true := by decide +kernel

/-- R167, R184: the integer operations of X, with 4-bit registers. -/
theorem test_decode_x_arithmetic : Tests.reads [
    (.X, [w0 0x04 [(5, 15), (5, 8), (5, 1), (5, 0)]], .add {} 15 8 1),
    (.X, [w0 0x05 [(5, 15), (5, 8), (5, 1), (5, 0)]], .sub {} 15 8 1),
    (.X, [w0 0x0E [(5, 15), (5, 8), (5, 1), (5, 0)]], .and {} 15 8 1),
    (.X, [w0 0x0F [(5, 15), (5, 8), (5, 1), (5, 0)]], .or {} 15 8 1),
    (.X, [w0 0x10 [(5, 15), (5, 8), (5, 1), (5, 0)]], .xor {} 15 8 1),
    (.X, [w0 0x12 [(5, 15), (5, 8), (5, 1), (5, 0)]], .shl {} 15 8 1),
    (.X, [w0 0x13 [(5, 15), (5, 8), (5, 1), (5, 0)]], .shr {} 15 8 1),
    (.X, [w0 0x19 [(5, 15), (5, 8), (5, 1), (5, 0)]], .min {} 15 8 1),
    (.X, [w0 0x1A [(5, 15), (5, 8), (5, 1), (5, 0)]], .max {} 15 8 1),
    (.X, [w0 0x1D [(5, 15), (5, 8), (5, 1), (5, 0)]], .cmpeq {} 15 8 1),
    (.X, [w0 0x1F [(5, 15), (5, 8), (5, 1), (5, 0)]], .cmplt {} 15 8 1),
    (.X, [w0 0x20 [(5, 15), (5, 8), (5, 1), (5, 0)]], .cmpltu {} 15 8 1)] = true := by decide +kernel

/-- R170, R171, R183: immediates, constants, fields, LD and ST. -/
theorem test_decode_c_constants : Tests.reads [
    (.C, [w0 0x06 [(5, 1), (5, 2), (10, 0x200)]], .addi {} 1 2 (-512)),
    (.C, [w0 0x22 [(5, 1), (15, 0)], 0x80000000], .movi {} 1 0x80000000),
    (.C, [w0 0x23 [(5, 1), (15, 0)], 1], .movk {} 1 1),
    (.C, [w0 0x24 [(5, 4), (5, 2), (10, 0)], fields [(18, 0), (6, 0), (2, 0), (6, 63)]], .ext {} 4 2 0 63),
    (.C, [w0 0x25 [(5, 3), (5, 2), (10, 0)], fields [(18, 0), (6, 20), (2, 0), (6, 21)]], .extu {} 3 2 20 21),
    (.C, [w0 0x26 [(5, 3), (5, 2), (10, 0)], fields [(18, 0), (6, 63), (2, 0), (6, 0)]], .ins {} 3 2 63 0),
    (.C, [w0 0x27 [(5, 7), (5, 8), (2, 3), (1, 0), (7, 63)]], .ld {} 7 8 3 false 63),
    (.X, [w0 0x28 [(5, 7), (5, 8), (2, 0), (1, 0), (7, 64)]], .st {} 7 8 0 (-64))] = true := by decide +kernel

/-- R170, R171, R183: flow control. R207 gives the first word. -/
theorem test_decode_control : Tests.reads [
    (.C, [0x0AA3FFFC], .bnz {} 7 (-4)),
    (.C, [w0 0x29 [(5, 7), (15, 4)]], .bz {} 7 4),
    (.C, [w0 0x2B [(20, 2 ^ 20 - 1)]], .j {} (-1)),
    (.C, [w0 0x2C [(20, 9)]], .call {} 9),
    (.C, [w0 0x2D [(20, 0)]], .ret {}),
    (.C, [0x08300006, 0x00000010], .loop {} 0 false 0 6 16),
    (.X, [w0 0x03 [(2, 3), (1, 1), (5, 15), (12, 4095)], 0], .loop {} 3 true 15 4095 0),
    (.N, [w0 0x01 [(20, 1)]], .idle {} 1),
    (.M, [w0 0x02 [(20, 0)]], .ends {}),
    (.V, [w0 0x00 [(20, 0)]], .nop {})] = true := by decide +kernel

/-- R170, R171, R183: streams, descriptors, registers of the tile and system instructions. -/
theorem test_decode_configuration : Tests.reads [
    (.C, [w0 0x2E [(5, 0), (5, 2), (4, 15), (3, 5), (3, 0)]], .scfg {} 2 15 5),
    (.C, [w0 0x2F [(5, 2), (5, 0), (4, 15), (3, 5), (3, 0)]], .sget {} 2 15 5),
    (.C, [w0 0x30 [(5, 0), (5, 0), (4, 15), (3, 0), (3, 0)]], .srst {} 15),
    (.C, [w0 0x31 [(3, 4), (2, 3), (4, 15), (11, 0)], fields [(11, 0), (21, 2 ^ 20)]], .ldel {} 4 3 15 (-1048576)),
    (.C, [w0 0x32 [(5, 0), (5, 2), (4, 15), (3, 0), (3, 0)]], .tcfg {} 2 15),
    (.C, [w0 0x33 [(5, 2), (5, 0), (4, 15), (3, 0), (3, 0)]], .tget {} 2 15),
    (.C, [w0 0x34 [(2, 0), (2, 0), (16, 65535)]], .rdvP {} 65535),
    (.C, [w0 0x34 [(2, 1), (3, 0), (5, 31), (10, 0)]], .rdvT {} 31),
    (.C, [w0 0x35 [(20, 0)]], .safe {}),
    (.C, [w0 0x36 [(5, 9), (5, 0), (4, 0), (3, 0), (3, 0)]], .tick {} 9),
    (.X, [w0 0x37 [(5, 9), (12, 0x00E), (3, 0)]], .getc {} 9 14),
    (.C, [w0 0x38 [(5, 9), (12, 0x00B), (3, 2)]], .setc {} 9 11 2),
    (.C, [w0 0x39 [(20, 0)]], .genclr {}),
    (.C, [w0 0x3A [(5, 9), (12, 0x009), (3, 0)]], .mtrd {} 9 9),
    (.X, [w0 0x3B [(4, 0), (16, 0xFFFF)]], .trap {} 65535)] = true := by decide +kernel

/-- R172 to R174: the synchronisation block. R186 gives the words of SPOST. -/
theorem test_decode_synchronisation : Tests.reads [
    (.C, [w0 0x40 [(5, 0), (5, 1), (5, 2), (3, 0), (2, 1)], fields [(12, 63), (6, 0), (6, 0), (1, 0), (5, 0), (1, 0), (1, 0)]], .smcfg {} { ra := 1, rb := 2, mode := 1, index := 63 }),
    (.C, [w0 0x41 [(5, 0), (5, 0), (5, 31), (3, 0), (2, 0)], fields [(12, 1), (6, 0), (6, 0), (1, 0), (5, 0), (1, 0), (1, 1)]], .swait {} { rb := 31, index := 1, imm := true }),
    (.X, [0x0C200024, 0x0050C001], .spost {} { rb := 1, obj := 1, index := 5, tx := 3, imm := true }),
    (.X, [w0 0x43 [(5, 1), (5, 0), (5, 16), (3, 2), (2, 0)], fields [(12, 4095), (6, 0), (6, 0), (1, 0), (5, 0), (1, 0), (1, 1)]], .sfadd {} { rd := 1, rb := 16, obj := 2, index := 4095, imm := true }),
    (.X, [w0 0x44 [(5, 1), (5, 2), (5, 3), (3, 1), (2, 0)], fields [(12, 5), (6, 0), (6, 0), (1, 1), (5, 15), (1, 0), (1, 0)]], .scas {} { rd := 1, ra := 2, rb := 3, obj := 1, index := 5, rsel := true, rc := 15 }),
    (.C, [w0 0x45 [(5, 31), (5, 0), (5, 0), (3, 0), (2, 1)], fields [(12, 5), (6, 0), (6, 0), (1, 0), (5, 0), (1, 0), (1, 0)]], .srd {} { rd := 31, mode := 1, index := 5 }),
    (.C, [w0 0x46 [(5, 0), (5, 0), (5, 7), (3, 0), (2, 0)], fields [(12, 5), (6, 0), (6, 0), (1, 0), (5, 0), (1, 0), (1, 0)]], .sexp {} { rb := 7, index := 5 }),
    (.X, [w0 0x47 [(5, 0), (5, 0), (5, 7), (3, 1), (2, 0)], fields [(12, 5), (6, 63), (6, 62), (1, 0), (5, 0), (1, 0), (1, 0)]], .sphw {} { rb := 7, obj := 1, index := 5, tx := 63, ty := 62 }),
    (.C, [w0 0x48 [(5, 0), (5, 7), (5, 0), (3, 3), (2, 0)], fields [(12, 15), (6, 0), (6, 0), (1, 0), (5, 0), (1, 0), (1, 0)]], .rcfg {} { ra := 7, obj := 3, index := 15 }),
    (.C, [w0 0x49 [(5, 7), (5, 0), (5, 0), (3, 3), (2, 0)], fields [(12, 15), (6, 0), (6, 0), (1, 0), (5, 0), (1, 0), (1, 0)]], .rclf {} { rd := 7, obj := 3, index := 15 }),
    (.X, [w0 0x4A [(5, 7), (5, 0), (5, 0), (3, 4), (2, 0)], fields [(12, 15), (6, 1), (6, 2), (1, 0), (5, 0), (1, 0), (1, 0)]], .rcld {} { rd := 7, obj := 4, index := 15, tx := 1, ty := 2 }),
    (.C, [w0 0x4B [(5, 0), (5, 0), (5, 0), (3, 3), (2, 0)], fields [(12, 15), (6, 0), (6, 0), (1, 0), (5, 0), (1, 0), (1, 0)]], .rfil {} { obj := 3, index := 15 }),
    (.X, [w0 0x4C [(5, 0), (5, 0), (5, 0), (3, 4), (2, 0)], fields [(12, 15), (6, 1), (6, 2), (1, 0), (5, 0), (1, 0), (1, 0)]], .rrel {} { obj := 4, index := 15, tx := 1, ty := 2 }),
    (.C, [w0 0x4D [(5, 7), (5, 0), (5, 0), (3, 3), (2, 1)], fields [(12, 15), (6, 0), (6, 0), (1, 0), (5, 0), (1, 0), (1, 0)]], .rstat {} { rd := 7, obj := 3, mode := 1, index := 15 })] = true := by decide +kernel

/-- R175 to R177: the copy engine. R186 gives the words of CLD. -/
theorem test_decode_copies : Tests.reads [
    (.X, [0x0D123104, 0x00001000, 0x00040000], .cld {} { xd := 2, xs := 3, sem := 4, inc := 1, dimm := 0x1000, simm := 0x40 }),
    (.X, [w0 0x50 [(4, 15), (4, 14), (6, 63), (4, 15), (1, 1), (1, 0)], 0xFFFFFFFF, fields [(20, 0xFFFFF), (12, 4095)]], .cpt {} { xd := 15, xs := 14, sem := 63, inc := 15, arr := true, dimm := 0xFFFFFFFF, simm := 0xFFFFF, aux := 4095 }),
    (.X, [w0 0x52 [(4, 15), (4, 14), (6, 63), (4, 15), (1, 0), (1, 0)], 0xFFFFFFFF, fields [(20, 0xFFFFF), (12, 0)]], .cst {} { xd := 15, xs := 14, sem := 63, inc := 15, arr := false, dimm := 0xFFFFFFFF, simm := 0xFFFFF, aux := 0 }),
    (.X, [w0 0x53 [(4, 15), (4, 14), (6, 63), (4, 15), (1, 0), (1, 0)], 0xFFFFFFFF, fields [(20, 0xFFFFF), (12, 0)]], .ctt {} { xd := 15, xs := 14, sem := 63, inc := 15, arr := false, dimm := 0xFFFFFFFF, simm := 0xFFFFF, aux := 0 }),
    (.X, [w0 0x54 [(4, 15), (4, 14), (6, 63), (4, 15), (1, 1), (1, 0)], 0xFFFFFFFF, fields [(20, 0xFFFFF), (12, 64)]], .cbc {} { xd := 15, xs := 14, sem := 63, inc := 15, arr := true, dimm := 0xFFFFFFFF, simm := 0xFFFFF, aux := 64 }),
    (.X, [w0 0x55 [(4, 15), (4, 14), (6, 63), (4, 15), (1, 1), (1, 0)], 0xFFFFFFFF, fields [(20, 0xFFFFF), (12, 4095)]], .cga {} { xd := 15, xs := 14, sem := 63, inc := 15, arr := true, dimm := 0xFFFFFFFF, simm := 0xFFFFF, aux := 4095 }),
    (.X, [w0 0x56 [(4, 15), (4, 14), (6, 63), (4, 15), (1, 0), (1, 0)], 0xFFFFFFFF, fields [(20, 0xFFFFF), (12, 1)]], .csc {} { xd := 15, xs := 14, sem := 63, inc := 15, arr := false, dimm := 0xFFFFFFFF, simm := 0xFFFFF, aux := 1 }),
    (.X, [w0 0x57 [(4, 1), (4, 2), (6, 3), (4, 4), (1, 0), (1, 0)], 7, 0], .cfb {} { xd := 1, xs := 2, sem := 3, inc := 4, dimm := 7 }),
    (.X, [w0 0x58 [(4, 0), (4, 2), (10, 0), (1, 0), (1, 1)], fields [(12, 4095), (14, 16383), (6, 0)]], .fspost {} 0 2 false true 4095 16383 0),
    (.X, [w0 0x58 [(4, 1), (4, 0), (10, 0), (1, 1), (1, 0)], fields [(12, 9), (14, 0), (6, 63)]], .fspost {} 1 0 true false 9 0 63),
    (.X, [w0 0x59 [(20, 0)]], .cfen {}),
    (.X, [w0 0x5A [(20, 0)]], .cdrn {}),
    (.X, [w0 0x5B [(5, 15), (5, 14), (5, 0), (5, 3)]], .tinfo {} 15 14 3)] = true := by decide +kernel

/-- R178, R179, R185: float and bitwise lines. R186 gives the words of VFMA. -/
theorem test_decode_v_arithmetic : Tests.reads [
    (.V, [0x08744260, 0x14228500], .vfma {} { d := 0x442, mask := 3, a := 0x142, b := 0x285 }),
    (.V, [w0 0x04 [(12, 0x141), (3, 1), (5, 0)], fields [(12, 0x242), (12, 0x343), (2, 3), (6, 0)]], .vadd {} { d := 0x141, mask := 1, a := 0x242, b := 0x343, rnd := 3 }),
    (.V, [w0 0x05 [(12, 0x141), (3, 1), (5, 0)], fields [(12, 0x242), (12, 0x343), (2, 3), (6, 0)]], .vsub {} { d := 0x141, mask := 1, a := 0x242, b := 0x343, rnd := 3 }),
    (.V, [w0 0x06 [(12, 0x141), (3, 1), (5, 0)], fields [(12, 0x242), (12, 0x343), (2, 3), (6, 0)]], .vmul {} { d := 0x141, mask := 1, a := 0x242, b := 0x343, rnd := 3 }),
    (.V, [w0 0x08 [(12, 0x141), (3, 1), (5, 0)], fields [(12, 0x242), (12, 0x343), (2, 3), (6, 0)]], .vfms {} { d := 0x141, mask := 1, a := 0x242, b := 0x343, rnd := 3 }),
    (.V, [w0 0x0B [(12, 0x141), (3, 1), (5, 0)], fields [(12, 0x242), (12, 0x343), (2, 3), (6, 0)]], .vmin {} { d := 0x141, mask := 1, a := 0x242, b := 0x343, rnd := 3 }),
    (.V, [w0 0x0C [(12, 0x141), (3, 1), (5, 0)], fields [(12, 0x242), (12, 0x343), (2, 3), (6, 0)]], .vmax {} { d := 0x141, mask := 1, a := 0x242, b := 0x343, rnd := 3 }),
    (.V, [w0 0x0D [(12, 0x141), (3, 1), (5, 0)], fields [(12, 0x242), (12, 0x343), (2, 3), (6, 0)]], .vminn {} { d := 0x141, mask := 1, a := 0x242, b := 0x343, rnd := 3 }),
    (.V, [w0 0x0E [(12, 0x141), (3, 1), (5, 0)], fields [(12, 0x242), (12, 0x343), (2, 3), (6, 0)]], .vmaxn {} { d := 0x141, mask := 1, a := 0x242, b := 0x343, rnd := 3 }),
    (.V, [w0 0x09 [(12, 0x141), (3, 7), (5, 0)], fields [(12, 0x242), (12, 0x0), (2, 2), (6, 0)]], .vneg {} { d := 0x141, mask := 7, a := 0x242, rnd := 2 }),
    (.V, [w0 0x0A [(12, 0x141), (3, 7), (5, 0)], fields [(12, 0x242), (12, 0x0), (2, 2), (6, 0)]], .vabs {} { d := 0x141, mask := 7, a := 0x242, rnd := 2 }),
    (.V, [w0 0x2B [(12, 0x141), (3, 7), (5, 0)], fields [(12, 0x242), (12, 0x0), (2, 2), (6, 0)]], .vdqt {} { d := 0x141, mask := 7, a := 0x242, rnd := 2 }),
    (.V, [w0 0x30 [(12, 0x141), (3, 7), (5, 0)], fields [(12, 0x242), (12, 0x0), (2, 2), (6, 0)]], .vscan {} { d := 0x141, mask := 7, a := 0x242, rnd := 2 }),
    (.V, [w0 0x0F [(12, 0x141), (3, 2), (5, 0)], fields [(12, 0x242), (12, 0x343), (2, 0), (6, 0)]], .vdiv {} { d := 0x141, mask := 2, a := 0x242, b := 0x343 }),
    (.V, [w0 0x1F [(12, 0x141), (3, 2), (5, 0)], fields [(12, 0x242), (12, 0x343), (2, 0), (6, 0)]], .vand {} { d := 0x141, mask := 2, a := 0x242, b := 0x343 }),
    (.V, [w0 0x20 [(12, 0x141), (3, 2), (5, 0)], fields [(12, 0x242), (12, 0x343), (2, 0), (6, 0)]], .vor {} { d := 0x141, mask := 2, a := 0x242, b := 0x343 }),
    (.V, [w0 0x21 [(12, 0x141), (3, 2), (5, 0)], fields [(12, 0x242), (12, 0x343), (2, 0), (6, 0)]], .vxor {} { d := 0x141, mask := 2, a := 0x242, b := 0x343 }),
    (.V, [w0 0x25 [(12, 0x141), (3, 2), (5, 0)], fields [(12, 0x242), (12, 0x343), (2, 0), (6, 0)]], .vimin {} { d := 0x141, mask := 2, a := 0x242, b := 0x343 }),
    (.V, [w0 0x26 [(12, 0x141), (3, 2), (5, 0)], fields [(12, 0x242), (12, 0x343), (2, 0), (6, 0)]], .vimax {} { d := 0x141, mask := 2, a := 0x242, b := 0x343 }),
    (.V, [w0 0x27 [(12, 0x141), (3, 2), (5, 0)], fields [(12, 0x242), (12, 0x343), (2, 0), (6, 0)]], .vmix {} { d := 0x141, mask := 2, a := 0x242, b := 0x343 }),
    (.V, [w0 0x10 [(12, 0xF00), (3, 0), (5, 0)], fields [(12, 0x100), (12, 0x0), (2, 0), (6, 0)]], .vrcp {} { d := 0xF00, a := 0x100 }),
    (.V, [w0 0x11 [(12, 0xF00), (3, 0), (5, 0)], fields [(12, 0x100), (12, 0x0), (2, 0), (6, 0)]], .vsqrt {} { d := 0xF00, a := 0x100 }),
    (.V, [w0 0x12 [(12, 0xF00), (3, 0), (5, 0)], fields [(12, 0x100), (12, 0x0), (2, 0), (6, 0)]], .vrsq {} { d := 0xF00, a := 0x100 }),
    (.V, [w0 0x13 [(12, 0xF00), (3, 0), (5, 0)], fields [(12, 0x100), (12, 0x0), (2, 0), (6, 0)]], .vexp2 {} { d := 0xF00, a := 0x100 }),
    (.V, [w0 0x14 [(12, 0xF00), (3, 0), (5, 0)], fields [(12, 0x100), (12, 0x0), (2, 0), (6, 0)]], .vlog2 {} { d := 0xF00, a := 0x100 }),
    (.V, [w0 0x15 [(12, 0xF00), (3, 0), (5, 0)], fields [(12, 0x100), (12, 0x0), (2, 0), (6, 0)]], .vtanh {} { d := 0xF00, a := 0x100 }),
    (.V, [w0 0x32 [(12, 0xF00), (3, 0), (5, 0)], fields [(12, 0x100), (12, 0x0), (2, 0), (6, 0)]], .vmov {} { d := 0xF00, a := 0x100 })] = true := by decide +kernel

/-- R178, R179, R185: compares, integers, conversions and reductions. -/
theorem test_decode_v_compares : Tests.reads [
    (.V, [w0 0x16 [(12, 0x7), (3, 1), (5, 0)], fields [(12, 0x242), (12, 0x343), (2, 0), (6, 0)]], .vcmpeq {} { d := 0x7, mask := 1, a := 0x242, b := 0x343 }),
    (.V, [w0 0x17 [(12, 0x7), (3, 1), (5, 0)], fields [(12, 0x242), (12, 0x343), (2, 0), (6, 0)]], .vcmplt {} { d := 0x7, mask := 1, a := 0x242, b := 0x343 }),
    (.V, [w0 0x18 [(12, 0x7), (3, 1), (5, 0)], fields [(12, 0x242), (12, 0x343), (2, 0), (6, 0)]], .vcmple {} { d := 0x7, mask := 1, a := 0x242, b := 0x343 }),
    (.V, [w0 0x19 [(12, 0x7), (3, 1), (5, 0)], fields [(12, 0x242), (12, 0x343), (2, 0), (6, 0)]], .vcmpun {} { d := 0x7, mask := 1, a := 0x242, b := 0x343 }),
    (.V, [w0 0x1B [(12, 0x7), (3, 1), (5, 0)], fields [(12, 0x242), (12, 0x1FF), (2, 0), (6, 0)]], .vclass {} { d := 0x7, mask := 1, a := 0x242, b := 0x1FF }),
    (.V, [w0 0x1A [(12, 0x141), (3, 1), (5, 0)], fields [(12, 0x242), (12, 0x343), (2, 0), (6, 7)]], .vsel {} { d := 0x141, mask := 1, a := 0x242, b := 0x343, imm := 7 }),
    (.V, [w0 0x1C [(12, 0x141), (3, 1), (5, 0)], fields [(12, 0x242), (12, 0x343), (2, 0), (6, 1)]], .viadd {} { d := 0x141, mask := 1, a := 0x242, b := 0x343, imm := 1 }),
    (.V, [w0 0x1D [(12, 0x141), (3, 1), (5, 0)], fields [(12, 0x242), (12, 0x343), (2, 0), (6, 1)]], .visub {} { d := 0x141, mask := 1, a := 0x242, b := 0x343, imm := 1 }),
    (.V, [w0 0x1E [(12, 0x141), (3, 1), (5, 0)], fields [(12, 0x242), (12, 0x343), (2, 0), (6, 1)]], .vimul {} { d := 0x141, mask := 1, a := 0x242, b := 0x343, imm := 1 }),
    (.V, [w0 0x22 [(12, 0x141), (3, 1), (5, 1)], fields [(12, 0x242), (12, 0x0), (2, 0), (6, 63)]], .vshl {} { d := 0x141, mask := 1, func := 1, a := 0x242, imm := 63 }),
    (.V, [w0 0x23 [(12, 0x141), (3, 1), (5, 1)], fields [(12, 0x242), (12, 0x0), (2, 0), (6, 63)]], .vshr {} { d := 0x141, mask := 1, func := 1, a := 0x242, imm := 63 }),
    (.V, [w0 0x24 [(12, 0x141), (3, 1), (5, 0)], fields [(12, 0x242), (12, 0x343), (2, 0), (6, 0)]], .vsra {} { d := 0x141, mask := 1, a := 0x242, b := 0x343 }),
    (.V, [w0 0x28 [(12, 0x141), (3, 1), (5, 0)], fields [(12, 0x0), (12, 0x0), (2, 0), (6, 63)]], .viota {} { d := 0x141, mask := 1, imm := 63 }),
    (.V, [w0 0x29 [(12, 0x141), (3, 1), (5, 0)], fields [(12, 0x242), (12, 0x0), (2, 3), (6, 1)]], .vcvt {} { d := 0x141, mask := 1, a := 0x242, rnd := 3, imm := 1 }),
    (.V, [w0 0x2A [(12, 0x100), (3, 0), (5, 0)], fields [(12, 0x200), (12, 0x0), (2, 3), (6, 1)]], .vqnt {} { d := 0x100, a := 0x200, rnd := 3, imm := 1 }),
    (.V, [w0 0x2C [(12, 0x100), (3, 0), (5, 0)], fields [(12, 0x200), (12, 0x0), (2, 0), (6, 0)]], .vts8 {} { d := 0x100, a := 0x200 }),
    (.V, [w0 0x2D [(12, 0x141), (3, 1), (5, 0)], fields [(12, 0x242), (12, 0x0), (2, 3), (6, 63)]], .vrsum {} { d := 0x141, mask := 1, a := 0x242, rnd := 3, imm := 63 }),
    (.V, [w0 0x2E [(12, 0x141), (3, 1), (5, 0)], fields [(12, 0x200), (12, 0x0), (2, 0), (6, 63)]], .vrmax {} { d := 0x141, mask := 1, a := 0x200, imm := 63 }),
    (.V, [w0 0x2F [(12, 0x141), (3, 1), (5, 0)], fields [(12, 0x200), (12, 0x0), (2, 0), (6, 63)]], .vrmin {} { d := 0x141, mask := 1, a := 0x200, imm := 63 }),
    (.V, [w0 0x31 [(12, 0x141), (3, 1), (5, 0)], fields [(12, 0x200), (12, 0x0), (2, 0), (6, 63)]], .vargmx {} { d := 0x141, mask := 1, a := 0x200, imm := 63 })] = true := by decide +kernel

/-- R178, R179, R185: moves, storage, compression and masks. -/
theorem test_decode_v_moves : Tests.reads [
    (.V, [w0 0x33 [(12, 0x141), (3, 1), (5, 0)], fields [(12, 0x1F), (12, 0x0), (2, 0), (6, 0)]], .vbcst {} { d := 0x141, mask := 1, a := 0x1F }),
    (.V, [w0 0x34 [(12, 0x141), (3, 1), (5, 0)], fields [(12, 0x242), (12, 0x0), (2, 0), (6, 63)]], .vspl {} { d := 0x141, mask := 1, a := 0x242, imm := 63 }),
    (.V, [w0 0x36 [(12, 0x141), (3, 1), (5, 0)], fields [(12, 0x242), (12, 0x0), (2, 0), (6, 63)]], .vshf {} { d := 0x141, mask := 1, a := 0x242, imm := 63 }),
    (.V, [w0 0x37 [(12, 0x141), (3, 1), (5, 0)], fields [(12, 0x242), (12, 0x0), (2, 0), (6, 63)]], .vrot {} { d := 0x141, mask := 1, a := 0x242, imm := 63 }),
    (.V, [w0 0x35 [(12, 0x141), (3, 1), (5, 0)], fields [(12, 0x242), (12, 0x343), (2, 0), (6, 0)]], .vperm {} { d := 0x141, mask := 1, a := 0x242, b := 0x343 }),
    (.V, [w0 0x38 [(12, 0x100), (3, 0), (5, 0)], fields [(12, 0x200), (12, 0x0), (2, 0), (6, 0)]], .vtrn {} { d := 0x100, a := 0x200 }),
    (.V, [w0 0x39 [(12, 0x141), (3, 1), (5, 0)], fields [(12, 0x242), (12, 0x343), (2, 0), (6, 1)]], .vzip {} { d := 0x141, mask := 1, a := 0x242, b := 0x343, imm := 1 }),
    (.V, [w0 0x3A [(12, 0x141), (3, 1), (5, 0)], fields [(12, 0x242), (12, 0x343), (2, 0), (6, 1)]], .vunz {} { d := 0x141, mask := 1, a := 0x242, b := 0x343, imm := 1 }),
    (.V, [w0 0x3B [(12, 0x1F), (3, 0), (5, 1)], fields [(12, 0x242), (12, 0x0), (2, 0), (6, 63)]], .vext {} { d := 0x1F, func := 1, a := 0x242, imm := 63 }),
    (.V, [w0 0x3C [(12, 0x100), (3, 1), (5, 0)], fields [(12, 0xF), (12, 0x0), (2, 0), (6, 0)]], .vld {} { d := 0x100, mask := 1, a := 0xF }),
    (.V, [w0 0x3D [(12, 0xF), (3, 1), (5, 0)], fields [(12, 0x100), (12, 0x0), (2, 0), (6, 0)]], .vst {} { d := 0xF, mask := 1, a := 0x100 }),
    (.V, [w0 0x3E [(12, 0x141), (3, 1), (5, 0)], fields [(12, 0x242), (12, 0xF), (2, 0), (6, 0)]], .vgath {} { d := 0x141, mask := 1, a := 0x242, b := 0xF }),
    (.V, [w0 0x3F [(12, 0xF), (3, 1), (5, 0)], fields [(12, 0x242), (12, 0x343), (2, 0), (6, 0)]], .vscat {} { d := 0xF, mask := 1, a := 0x242, b := 0x343 }),
    (.V, [w0 0x40 [(12, 0x141), (3, 1), (5, 0)], fields [(12, 0x242), (12, 0x343), (2, 0), (6, 0)]], .vcmpr {} { d := 0x141, mask := 1, a := 0x242, b := 0x343 }),
    (.V, [w0 0x41 [(12, 0x100), (3, 1), (5, 0)], fields [(12, 0x200), (12, 0x300), (2, 0), (6, 0)]], .vexpd {} { d := 0x100, mask := 1, a := 0x200, b := 0x300 }),
    (.V, [w0 0x42 [(12, 0x7), (3, 0), (5, 0)], fields [(12, 0x6), (12, 0x5), (2, 0), (6, 0)]], .vmand {} { d := 0x7, a := 0x6, b := 0x5 }),
    (.V, [w0 0x43 [(12, 0x7), (3, 0), (5, 0)], fields [(12, 0x6), (12, 0x5), (2, 0), (6, 0)]], .vmor {} { d := 0x7, a := 0x6, b := 0x5 }),
    (.V, [w0 0x44 [(12, 0x7), (3, 0), (5, 0)], fields [(12, 0x6), (12, 0x0), (2, 0), (6, 0)]], .vmnot {} { d := 0x7, a := 0x6 }),
    (.V, [w0 0x45 [(12, 0x1F), (3, 0), (5, 0)], fields [(12, 0x6), (12, 0x0), (2, 0), (6, 0)]], .vmpop {} { d := 0x1F, a := 0x6 })] = true := by decide +kernel

/-- R180, R181, R186: the matrix engine. R186 gives the word of MMA with a wait. -/
theorem test_decode_matrix : Tests.reads [
    (.M, [0x88480400], .mma { wp := true } 8 0 4),
    (.M, [w0 0x05 [(4, 15), (4, 14), (4, 13), (4, 0), (4, 0)]], .mmaz {} 15 14 13),
    (.M, [w0 0x06 [(4, 15), (4, 14), (4, 13), (4, 12), (4, 0)]], .mmas {} 15 14 13 12),
    (.M, [w0 0x07 [(4, 15), (4, 14), (4, 13), (4, 0), (4, 0)]], .mmal {} 15 14 13),
    (.M, [w0 0x08 [(4, 15), (4, 14), (4, 13), (4, 3), (4, 15)]], .mrk1 {} 15 14 13 63),
    (.M, [w0 0x09 [(4, 15), (4, 14), (12, 0)]], .ldt {} 15 14),
    (.M, [w0 0x0A [(4, 15), (4, 14), (12, 7)]], .stt {} 15 14 true 3),
    (.M, [w0 0x0B [(4, 15), (4, 0), (4, 0), (4, 0), (4, 0)]], .tzro {} 15),
    (.M, [w0 0x0C [(4, 15), (4, 14), (4, 0), (4, 0), (4, 0)]], .tcpy {} 15 14),
    (.M, [w0 0x0D [(4, 15), (4, 14), (12, 0)]], .ldsc {} 15 14)] = true := by decide +kernel

/-- R182, R186: the stream-plane engine. R186 gives the words of SEND. -/
theorem test_decode_stream_plane : Tests.reads [
    (.N, [0x084FBF30, 0x02000004], .send {} (-2) (-1) 3 0x2000 4),
    (.N, [w0 0x05 [(6, 31), (6, 32), (4, 0), (4, 0)], fields [(12, 0x141), (12, 0x242), (8, 0)]], .sendl {} 31 (-32) 0x141 0x242),
    (.N, [w0 0x06 [(6, 1), (6, 2), (4, 15), (4, 0)], fields [(20, 0xBFFC0), (12, 4095)]], .sendm {} 1 2 15 0xBFFC0 4095)] = true := by decide +kernel

/-- The words that R186 lists as no instructions, and a SPOST of a MODE that it does not use. -/
theorem test_decode_refused :
    ([(Engine.X, [0x08700000]), (.C, [0x0A208001, 0]), (.X, [0x0C200027, 0]), (.C, [0x08300000, 0x00000010]),
      (.C, [0xFFFFFFFF])].all fun q => !(decode q.1 q.2).isOk) = true := by decide +kernel

/-- Each check of WellFormed refuses: register widths, signed and unsigned ranges, engines, formats of operands. -/
theorem test_wf_refuses_scalar : ([
    (Engine.X, Instr.idle {} 1), (.C, .idle {} 0), (.C, .idle {} (2 ^ 20)),
    (.C, .loop {} 4 false 0 1 1), (.C, .loop {} 0 false 0 0 1), (.C, .loop {} 0 false 0 4096 1), (.C, .loop {} 0 false 0 1 (2 ^ 32)),
    (.C, .loop {} 0 false 1 1 1), (.C, .loop {} 0 true 1 1 1), (.V, .loop {} 0 true 0 1 0), (.X, .loop {} 0 true 16 1 0),
    (.V, .add {} 0 0 0), (.C, .add {} 32 0 0), (.C, .add {} 0 32 0), (.C, .add {} 0 0 32), (.X, .add {} 16 0 0), (.X, .mul {} 0 0 0),
    (.X, .clz {} 0 0), (.C, .clz {} 0 32), (.C, .sel {} 0 0 0 32), (.C, .addi {} 0 0 512), (.C, .addi {} 0 0 (-513)),
    (.C, .movi {} 0 (2 ^ 32)), (.C, .ext {} 0 0 64 0), (.C, .ext {} 0 0 0 64), (.C, .ext {} 0 0 32 32), (.X, .ext {} 0 0 0 0),
    (.C, .ld {} 0 0 4 false 0), (.C, .ld {} 0 0 3 true 0), (.C, .ld {} 0 0 0 false 64), (.C, .st {} 0 0 0 (-65)), (.N, .st {} 0 0 0 0),
    (.C, .bz {} 32 0), (.C, .bz {} 0 16384), (.C, .j {} (2 ^ 19)), (.X, .call {} 0), (.X, .ret {}),
    (.C, .scfg {} 0 16 0), (.C, .scfg {} 0 0 6), (.X, .sget {} 0 0 0), (.C, .srst {} 16), (.C, .ldel {} 5 0 0 0), (.C, .ldel {} 0 4 0 0),
    (.C, .ldel {} 0 0 16 0), (.C, .ldel {} 0 0 0 (2 ^ 20)), (.C, .tcfg {} 0 16), (.C, .tget {} 0 16), (.C, .rdvP {} 65536), (.X, .rdvT {} 0),
    (.X, .safe {}), (.X, .genclr {}), (.X, .tick {} 0), (.C, .getc {} 0 15), (.C, .setc {} 0 0 0), (.C, .setc {} 0 4 3), (.C, .mtrd {} 0 10),
    (.C, .trap {} 65536), (.V, .trap {} 0)].all fun q => !wf q.1 q.2) = true := by decide +kernel

theorem test_wf_refuses_sync : ([
    (Engine.V, Instr.spost {} {}), (.C, .spost {} { obj := 1 }), (.X, .spost {} { obj := 5 }), (.X, .spost {} { obj := 3 }),
    (.C, .spost {} { rd := 1 }), (.C, .spost {} { ra := 1 }), (.C, .spost {} { rb := 32 }), (.C, .spost {} { rb := 32, imm := true }),
    (.C, .smcfg {} { imm := true }), (.C, .smcfg {} { mode := 2 }), (.C, .srd {} { mode := 2 }), (.C, .srd {} { rd := 32 }),
    (.C, .srd {} { rb := 1 }), (.C, .scas {} { ra := 32 }), (.C, .spost {} { index := 64 }), (.X, .spost {} { obj := 2, index := 4096 }),
    (.C, .rfil {} { obj := 3, index := 16 }), (.C, .rfil {} { obj := 4 }), (.X, .spost {} { obj := 1, tx := 64 }), (.X, .spost {} { obj := 1, ty := 64 }),
    (.C, .spost {} { tx := 1 }), (.C, .spost {} { ty := 1 }), (.C, .spost {} { rsel := true }), (.C, .spost {} { rc := 1 }),
    (.X, .spost {} { obj := 1, rc := 1 }), (.X, .spost {} { obj := 1, rsel := true, tx := 1 }), (.X, .spost {} { obj := 1, rsel := true, rc := 16 }),
    (.X, .sexp {} { obj := 2 }), (.X, .rcfg {} { obj := 4 })].all fun q => !wf q.1 q.2) = true := by decide +kernel

theorem test_wf_refuses_copies : ([
    (Engine.C, Instr.cld {} {}), (.X, .cld {} { xd := 16 }), (.X, .cld {} { xs := 16 }), (.X, .cld {} { sem := 64 }), (.X, .cld {} { inc := 16 }),
    (.X, .cst {} { arr := true }), (.X, .cld {} { dimm := 2 ^ 32 }), (.X, .cld {} { simm := 2 ^ 20 }), (.X, .cld {} { aux := 1 }), (.X, .cpt {} {}),
    (.X, .cpt {} { aux := 4096 }), (.X, .cga {} {}), (.X, .cfb {} { simm := 1 }), (.C, .fspost {} 0 0 false false 0 0 1), (.X, .fspost {} 0 0 false false 0 0 0),
    (.X, .fspost {} 16 0 true false 0 0 1), (.X, .fspost {} 1 0 false false 0 0 1), (.X, .fspost {} 0 0 true false 0 1 1), (.X, .fspost {} 0 1 false false 0 0 1),
    (.X, .fspost {} 0 0 false true 0 0 1), (.X, .fspost {} 0 0 false false 4096 0 1), (.X, .fspost {} 0 0 false false 0 16384 1),
    (.X, .fspost {} 0 0 false false 0 0 64), (.C, .cfen {}), (.C, .cdrn {}), (.X, .tinfo {} 16 0 0), (.X, .tinfo {} 0 0 4)].all
      fun q => !wf q.1 q.2) = true := by decide +kernel

theorem test_wf_refuses_vector : ([
    (Engine.C, Instr.vadd {} { d := 0x141, a := 0x142, b := 0x143 }), (.V, .vadd {} { d := 0x101, a := 0x142, b := 0x143 }),
    (.V, .vadd {} { d := 4096, a := 0x142, b := 0x143 }), (.V, .vadd {} { d := 0x100, a := 0x142, b := 0x143 }),
    (.V, .vadd {} { d := 0x100, a := 0x200, b := 0x283 }), (.V, .vadd {} { d := 0x141, a := 0x142, b := 0x100 }),
    (.V, .vadd {} { d := 0x141, a := 0x142, b := 0x143, mask := 8 }), (.V, .vadd {} { d := 0x141, a := 0x142, b := 0x143, func := 1 }),
    (.V, .vadd {} { d := 0x141, a := 0x142, b := 0x143, rnd := 4 }), (.V, .vadd {} { d := 0x141, a := 0x142, b := 0x143, imm := 1 }),
    (.V, .vdiv {} { d := 0x141, a := 0x142, b := 0x143, rnd := 1 }), (.V, .vneg {} { d := 0x141, a := 0x142, b := 0x143 }),
    (.V, .vsqrt {} { d := 0x141, a := 0x142, rnd := 1 }), (.V, .vcmpeq {} { d := 8, a := 0x142, b := 0x143 }), (.V, .vcmpeq {} { a := 0x100, b := 0x143 }),
    (.V, .vclass {} { a := 0x141, b := 512 }), (.V, .vsel {} { d := 0x141, a := 0x142, b := 0x143, imm := 8 }),
    (.V, .viadd {} { d := 0x141, a := 0x142, b := 0x143, imm := 2 }), (.V, .vshl {} { d := 0x141, a := 0x142, func := 2 }),
    (.V, .vshl {} { d := 0x141, a := 0x142, b := 0x143, func := 1 }), (.V, .vshl {} { d := 0x141, a := 0x142, b := 0x143, imm := 1 }),
    (.V, .viota {} { d := 0x141, a := 1 }), (.V, .vcvt {} { d := 0x141, a := 0x142, imm := 2 }), (.V, .vqnt {} { d := 0x141, a := 0x142 }),
    (.V, .vqnt {} { d := 0x100, a := 0x200, mask := 1 }), (.V, .vts8 {} { d := 0x100, a := 0x200, rnd := 1 }), (.V, .vrsum {} { d := 0x100, a := 0x200 }),
    (.V, .vrmax {} { d := 0x141, a := 0x200, rnd := 1 }), (.V, .vbcst {} { d := 0x141, a := 32 }), (.V, .vspl {} { d := 0x100, a := 0x200 }),
    (.V, .vperm {} { d := 0x141, a := 0x142, b := 0x143, imm := 1 }), (.V, .vzip {} { d := 0x141, a := 0x142, b := 0x143, imm := 2 }),
    (.V, .vtrn {} { d := 0x100, a := 0x100 }), (.V, .vext {} { d := 32, a := 0x141 }), (.V, .vext {} { a := 0x141, func := 2 }),
    (.V, .vld {} { d := 0x100, a := 16 }), (.V, .vst {} { d := 16, a := 0x100 }), (.V, .vgath {} { d := 0x100, a := 0x141 }),
    (.V, .vscat {} { d := 16, a := 0x141, b := 0x142 }), (.V, .vcmpr {} { d := 0x141, a := 0x142, b := 0x183 }), (.V, .vexpd {} { d := 0x141, a := 0x142, b := 0x1C3 }),
    (.V, .vmand {} { d := 8 }), (.V, .vmand {} { b := 8 }), (.V, .vmand {} { mask := 1 }), (.V, .vmnot {} { b := 1 }), (.V, .vmpop {} { d := 32 })].all
      fun q => !wf q.1 q.2) = true := by decide +kernel

theorem test_wf_refuses_matrix_and_plane : ([
    (Engine.V, Instr.mma {} 0 0 0), (.M, .mma {} 16 0 0), (.M, .mma {} 0 16 0), (.M, .mma {} 0 0 16), (.M, .mmas {} 0 0 0 16), (.M, .mrk1 {} 0 0 0 64),
    (.M, .ldt {} 16 0), (.M, .ldt {} 0 16), (.M, .stt {} 0 0 false 4), (.M, .tzro {} 16), (.M, .tcpy {} 0 16), (.M, .ldsc {} 0 16),
    (.M, .send {} 0 0 0 0 1), (.N, .send {} 32 0 0 0 1), (.N, .send {} 0 (-33) 0 0 1), (.N, .send {} 0 0 16 0 1), (.N, .send {} 0 0 0 (2 ^ 20) 1),
    (.N, .send {} 0 0 0 0 0), (.N, .sendm {} 0 0 0 0 4096), (.N, .sendl {} 0 0 0x100 0x141), (.N, .sendl {} 0 0 0x141 0x100),
    (.C, .boot), (.C, .illegalEncoding), (.N, .idleCountExpiry)].all fun q => !wf q.1 q.2) = true := by decide +kernel

/-- DecodeEncode, DecodeOnlyEncoded: a well-formed instruction of each engine, and words that decode. -/
theorem test_witness_decode :
    wf .C (.addi {} 0 0 511) = true ∧ wf .X (.cld {} {}) = true ∧ wf .V (.vadd {} { d := 0x100, a := 0x200, b := 0x300 }) = true ∧
      wf .M (.mrk1 {} 0 0 0 63) = true ∧ wf .N (.send {} 31 (-32) 15 0xFFFFF 4095) = true ∧
      (∀ w ∈ [0x084FBF30, 0x02000004, 0xFFFFFFFF], w < 2 ^ 32) ∧ (decode .N [0x084FBF30, 0x02000004, 0xFFFFFFFF]).isOk = true := by
  decide +kernel

/-- StepRuns: an engine's turn whose word decodes, one whose word does not, and a halted engine; an event's turn; an input
that is due, and none. -/
theorem test_witness_step :
    let s := { Tests.world .C Tests.looseTile with agenda := [.instr { pitch := 7, eng := .C }] }
    let t : Tile := { Tests.looseTile with eng := (Vector.replicate 5 {}).set 0 { halted := true } }
    s.pitch? 7 = some (Tests.pit Tests.looseTile) ∧ (Tests.pit Tests.looseTile).tiles[0]? = some Tests.looseTile ∧
      (Tests.looseTile.engOf .C).halted = false ∧ (t.engOf .C).halted = true ∧
      (decode .C [Tests.code.word 0, Tests.code.word 1, Tests.code.word 2]).isOk = true ∧
      (decode .C [Tests.code.word 8, Tests.code.word 9, Tests.code.word 10]).isOk = false ∧
      ({ (State.reset) with agenda := [.ev .powerCut] } : State).agenda = [.ev .powerCut] ∧
      ([(5, Input.sensor 1)] : List (Nat × Input)).find? (fun q => decide (q.1 ≤ 5)) = some (5, .sensor 1) ∧
      ∀ q ∈ ([(6, Input.sensor 1)] : List (Nat × Input)), 5 < q.1 := by
  refine ⟨rfl, rfl, rfl, rfl, by decide +kernel, by decide +kernel, rfl, by decide, by decide⟩

/-- StepsKeepInv: the invariant holds at reset, and a step from a state that has it is a next state. -/
theorem test_witness_inv :
    State.reset.RegsOk ∧ State.reset.host.wf = true ∧
      ∃ t, step { (State.reset) with agenda := [.ev (.mbLock 1)] } = .next t := by
  refine ⟨⟨?_, ?_, ?_, ?_, ?_, ?_, ?_⟩, rfl, _, rfl⟩ <;> decide

/-- A tile with sixteen FP32 registers of four rows and four columns, written and current. -/
def Tests.vecTile : Tile :=
  { Tests.looseTile with desc := Vector.replicate 16 { rows := 4, cols := 4 }, descTag := Vector.replicate 16 1 }

/-- VectorLines, VectorWholeForms: a line form and a whole-tile form that raise no trap. -/
theorem test_witness_vector_lines :
    let line := Instr.vadd {} { d := 0x141, a := 0x242, b := 0x343 }
    let whole := Instr.vadd {} { d := 0x100, a := 0x200, b := 0x300 }
    vTrap line Tests.vecTile (vCapture line Tests.vecTile) = none ∧ vWhole line = false ∧
      vTrap whole Tests.vecTile (vCapture whole Tests.vecTile) = none ∧ vWhole whole = true ∧
      vTrap (.vext {} { d := 3, a := 0x141 }) Tests.vecTile (vCapture (.vext {} { d := 3, a := 0x141 }) Tests.vecTile) = none ∧
      vWhole (.vext {} { d := 3, a := 0x141 }) = false ∧ (.vadd, 4, 2) ∈ lineRows ∧ Tests.vecTile.staleTrap = false := by
  refine ⟨by decide +kernel, by decide, by decide +kernel, by decide, by decide +kernel, by decide, ?_, rfl⟩
  simp [lineRows]

/-- VectorRows: the turn of the last row of a whole-tile form in engine V. -/
theorem test_witness_vector_rows :
    let e : Pend := { at_ := 3, ph := 1, own := { eng := .V }, iss := 0, eff := .job (.vadd {} {}) {} 3 }
    e.eff = .job (.vadd {} {}) {} 3 ∧ e.own.eng = .V ∧ Tests.vecTile.staleTrap = false := ⟨rfl, rfl, rfl⟩

/-- The lanes of a row of integers. -/
def Tests.lanes (f : Fmt) (w : Nat) : LaneEnv :=
  { vLanes (.vshl {} {}) Tests.vecTile {} {} 0x140 0x140 0x140 none with fd := f, fa := f, A := fun _ => 2 ^ w - 1, nA := 4, nD := 4 }

/-- LaneValues: lanes at the end of their width, of 32 bits and of 8. -/
theorem test_witness_lanes :
    (∀ k, (Tests.lanes .i32 32).A k < 2 ^ (Tests.lanes .i32 32).fd.width) ∧ (Tests.lanes .i32 32).fd.width = 32 ∧
      (Tests.lanes .i32 32).fd = .i32 ∧ (∀ k, (Tests.lanes .i8 8).A k < 2 ^ (Tests.lanes .i8 8).fd.width) ∧
      (Tests.lanes .i8 8).fd = .i8 :=
  ⟨fun _ => show 2 ^ 32 - 1 < 2 ^ 32 by decide, rfl, rfl, fun _ => show 2 ^ 8 - 1 < 2 ^ 8 by decide, rfl⟩

/-- IntegerSums: a line of 32-bit integers of every length that a line has, and sums on each side of the range. -/
theorem test_witness_sums :
    (Tests.lanes .i32 32).fa = .i32 ∧ (Tests.lanes .i32 32).nA ≤ 512 ∧ (∀ k, (Tests.lanes .i32 32).A k < 2 ^ 32) ∧
      (2 : Int) ^ 31 ≤ toSigned 32 (2 ^ 31 - 1) + (([(1, 1)] : List (Int × Int)).map fun q => q.1 * q.2).sum ∧
      toSigned 32 (2 ^ 31) + (([(1, -1)] : List (Int × Int)).map fun q => q.1 * q.2).sum < -(2 ^ 31) ∧
      -(2 ^ 31) ≤ toSigned 32 (2 ^ 31) + (([] : List (Int × Int)).map fun q => q.1 * q.2).sum :=
  ⟨rfl, by decide, fun _ => show 2 ^ 32 - 1 < 2 ^ 32 by decide, by decide, by decide, by decide⟩

/-- MaskLogic: masks that may be read in trap mode, and a mask result in its register. -/
theorem test_witness_masks :
    let t : Tile := { Tests.strictTile with m := (Vector.replicate 8 {}).set 7 { val := 5, tag := 1 } }
    t.maskStale 7 = false ∧ (7 < 8 ∧ 31 < 32) ∧ t.gen ≠ 0 ∧ ({} : VOps).mask = 0 := by decide

/-- VectorTraps: units busy to the last cycle and free, a stale mask in trap mode, formats that are allowed and not. -/
theorem test_witness_vector_traps :
    let t : Tile := { Tests.vecTile with tl := 9, eng := (Vector.replicate 5 {}).set 2 { busyA := 10, busyB := 9 } }
    let i := Instr.vadd {} { d := 0x141, mask := 1, a := 0x242, b := 0x343 }
    let j := Instr.viadd {} { d := 0x141, a := 0x242, b := 0x343 }
    let cap := vCapture j Tests.vecTile
    isVec i = true ∧ (vUnit i = .line ∧ t.tl < (t.engOf .V).busyA) ∧
      ¬ (vUnit (.vld {} {}) = .storage ∧ t.tl < (t.engOf .V).busyB) ∧ Tests.strictTile.maskStale 1 = true ∧
      vFormatsOk j (fmtOn cap.dOn cap.d) (fmtOn cap.aOn cap.a) (fmtOn cap.bOn cap.b) cap.d.scaleOn = false ∧
      vTrap i Tests.vecTile (vCapture i Tests.vecTile) = none ∧
      (vCapture (.vqnt {} { d := 0x100, a := 0x200 }) Tests.looseTile).dOn = false ∧ (vCapture i Tests.vecTile).dOn = true := by
  decide +kernel

/-- QuantAndTranspose: registers of one shape and of two shapes that raise no earlier trap, with and without room for the
scales, and a destination that is not configured while unit L is free. -/
theorem test_witness_quant :
    let q (sslice : Nat) : Tile := { Tests.vecTile with desc := Tests.vecTile.desc.set 1 { fmt := 3, rows := 4, cols := 32, scaleOn := true, scaleA := 5, sslice := sslice }
                                                         |>.set 2 { rows := 4, cols := 32 } }
    let i := Instr.vqnt {} { d := 0x100, a := 0x200 }
    let w := Instr.vtrn {} { d := 0x100, a := 0x200 }
    vTrap i (q 0) (vCapture i (q 0)) = none ∧ (vCapture i (q 0)).d.rows = (vCapture i (q 0)).a.rows ∧ (vCapture i (q 0)).d.sideOver = false ∧
      (vCapture i (q 64)).d.sideOver = true ∧ vTrap i (q 64) (vCapture i (q 64)) = none ∧
      vTrap w Tests.vecTile (vCapture w Tests.vecTile) = none ∧ (vCapture w Tests.vecTile).d.rows = (vCapture w Tests.vecTile).a.cols ∧
      (vCapture i { q 0 with desc := (q 0).desc.set 2 { rows := 3, cols := 32 } }).d.rows ≠
        (vCapture i { q 0 with desc := (q 0).desc.set 2 { rows := 3, cols := 32 } }).a.rows ∧
      (vCapture i (q 0)).dOn = true ∧ (vCapture i Tests.looseTile).dOn = false ∧
      (Tests.looseTile.engOf .V).busyA ≤ Tests.looseTile.tl := by
  decide +kernel

/-- VectorStorage, IndexedStorage: a stream at the last place of the scratchpad that holds the line, and one beyond it. -/
theorem test_witness_vector_storage :
    let t (cur : Nat) : Tile := { Tests.vecTile with s := (Vector.replicate 16 {}).set 1 { cur := cur, tag := 1 } }
    let i := Instr.vld {} { d := 0x141, a := 1 }
    let g := Instr.vgath {} { d := 0x141, a := 0x242, b := 1 }
    let iTile : Tile := { t 0xBFFFC with desc := Tests.vecTile.desc.set 2 { fmt := 8, rows := 4, cols := 4 } }
    vTrap i (t 0xBFFF0) (vCapture i (t 0xBFFF0)) = none ∧ lineBytes (vCapture i (t 0)).d 0x141 = 16 ∧
      Stream.offsets 1 ((t 0xBFFF0).streamAhead 1) = [0xBFFF0] ∧ 0xBFFF0 + 16 ≤ 0xC0000 ∧ ¬ (0xBFFF4 + 16 ≤ 0xC0000) ∧
      Stream.offsets 1 ((t 0xBFFF4).streamAhead 1) = [0xBFFF4] ∧
      vTrap g iTile (vCapture g iTile) = none ∧ (iTile.streamAhead 1).cur + 4 ≤ 0xC0000 ∧ ({ iTile with s := (t 0xBFFFD).s }.streamAhead 1).cur + 4 > 0xC0000 := by
  decide +kernel

/-- ArrayInstructions: the array busy to its last cycle and free, an unconfigured Tc, formats that no variant pairs, and a
BF16 product that runs. -/
theorem test_witness_array :
    let t (fa fc : Nat) : Tile := { Tests.vecTile with desc := ((Tests.vecTile.desc.set 1 { fmt := fa, rows := 4, cols := 4 }).set 2 { fmt := fa, rows := 4, cols := 4 }).set 3 { fmt := fc, rows := 4, cols := 4 } }
    let busy : Tile := { Tests.vecTile with tl := 9, eng := (Vector.replicate 5 {}).set 3 { busyA := 10 } }
    busy.tl < (busy.engOf .M).busyA ∧ (Tests.vecTile.engOf .M).busyA ≤ Tests.vecTile.tl ∧ Tests.looseTile.configured 3 = false ∧
      Tests.vecTile.configured 3 = true ∧ mmaShape ((t 2 0).descOf 1).format ((t 2 0).descOf 2).format ((t 2 0).descOf 3).format ≠ none ∧
      mmaShape ((t 2 8).descOf 1).format ((t 2 8).descOf 2).format ((t 2 8).descOf 3).format = none ∧
      (let k : Tile := { Tests.vecTile with desc := Tests.vecTile.desc.set 1 { fmt := 2, rows := 4, cols := 4, kaxis := true } }
       k.configured 1 = true ∧ (k.descOf 1).kaxis = true ∧ ((t 2 0).descOf 1).kaxis = false) ∧
      ¬ (∃ k, ArrayOp.mma = ArrayOp.mmas k) ∧ (∃ k, ArrayOp.mmas 4 = ArrayOp.mmas k) := by
  refine ⟨by decide, by decide, by decide, by decide, by decide +kernel, by decide +kernel, by decide +kernel, ?_, ⟨4, rfl⟩⟩
  rintro ⟨k, h⟩; exact nomatch h

/-- TransferIssue, LoadStoreTile: the transfer unit busy and free, registers configured and not, with and without scale
geometry, streams of formats that the register admits and not, and offsets at the end of the scratchpad. -/
theorem test_witness_transfer :
    let st (fmt cur : Nat) (on : Bool) : Vector Stream 16 := (Vector.replicate 16 {}).set 1 { fmt := fmt, cur := cur, base := cur, scaleOn := on, scaleA := 5, tag := 1 }
    let t (fmt cur : Nat) (on : Bool) : Tile := { Tests.vecTile with s := st fmt cur on }
    let busy : Tile := { Tests.vecTile with tl := 9, eng := (Vector.replicate 5 {}).set 3 { busyB := 10 } }
    let nd (fmt : Nat) (on : Bool) : TDesc := { rows := 4, cols := 4, fmt := fmt, scaleOn := on, scaleA := 5 }
    busy.tl < (busy.engOf .M).busyB ∧ (Tests.vecTile.engOf .M).busyB ≤ Tests.vecTile.tl ∧
      (Tests.looseTile.configured 2 = false ∧ Tests.vecTile.configured 2 = true) ∧ (Tests.vecTile.descOf 2).scaleOn = false ∧
      Fmt.ofCode ((t 8 0 false).streamAhead 1).fmt = some .i32 ∧ Fmt.ofCode ((t 9 0 false).streamAhead 1).fmt = some .e8 ∧
      (nd 0 false).illegal = false ∧ (nd 0 true).illegal = true ∧ (nd 0 false).sideOver = false ∧
      Stream.offsets 4 ((t 0 0xBFFC0 false).streamAhead 1) = [0xBFFC0, 0xBFFC0, 0xBFFC0, 0xBFFC0] ∧
      0xBFFC0 + 16 ≤ 0xC0000 ∧ Stream.offsets 4 ((t 0 0xBFFF8 false).streamAhead 1) = [0xBFFF8, 0xBFFF8, 0xBFFF8, 0xBFFF8] ∧
      ¬ (0xBFFF8 + 16 ≤ 0xC0000) := by
  decide +kernel

/-- LoadStoreTile, LDSC: a register with scale geometry whose scales lie inside the side file, and one beyond it. -/
theorem test_witness_scales :
    let d (sslice : Nat) : TDesc := { fmt := 3, rows := 4, cols := 32, scaleOn := true, scaleA := 5, sslice := sslice }
    (d 63).sideOver = false ∧ (d 64).sideOver = true ∧ (d 0).no = 4 ∧ (d 0).nk = 1 ∧
      ({ Tests.vecTile with desc := Tests.vecTile.desc.set 2 (d 0) }.descOf 2).scaleOn = true := by
  decide +kernel

/-- TransferRows, Sends: the turns of rows and beats, the port busy and free, routes inside the pitch and outside, and
granules at the end of the scratchpad. -/
theorem test_witness_sends :
    let busy : Tile := { Tests.looseTile with tl := 9, eng := (Vector.replicate 5 {}).set 4 { busyA := 10 } }
    let inside (dx dy : Int) : Prop := 0 ≤ (Tests.looseTile.x : Int) + dx ∧ (Tests.looseTile.x : Int) + dx < (Tests.pit {}).img.w ∧
      0 ≤ (Tests.looseTile.y : Int) + dy ∧ (Tests.looseTile.y : Int) + dy < (Tests.pit {}).img.h
    busy.tl < (busy.engOf .N).busyA ∧ (Tests.looseTile.engOf .N).busyA ≤ Tests.looseTile.tl ∧ inside 0 0 ∧ ¬ inside 1 0 ∧ ¬ inside 0 (-1) ∧
      (0xBFFC0 % 64 = 0 ∧ 0xBFFC0 + 64 * 1 ≤ 0xC0000) ∧ ¬ (0xBFFC0 + 64 * 2 ≤ 0xC0000) ∧
      ({ at_ := 0, ph := 1, own := { eng := .N }, iss := 0, eff := .job (.send {} 0 0 0 0 9) {} 1 } : Pend).own.eng = .N := by
  decide +kernel

/-- ResultsLand, CycleEndEffects: a tile that has been placed, the last register of each file, and an EPOCH that may grow. -/
theorem test_witness_results :
    let t : Tile := { Tests.vecTile with epoch := Vector.replicate 16 1 }
    Tests.looseTile.gen ≠ 0 ∧ (31 < 32 ∧ 15 < 16 ∧ 7 < 8) ∧
      (∀ row < 64, t.gridTag.read (15 * 64 + row) ≤ at' 1 t.epoch 15) ∧
      1 ≤ at' 1 t.epoch 15 ∧ at' 1 t.epoch 15 < 4095 := by
  decide +kernel

/-- SemaphoreOps, CountsStayUnderCeilings: counts at their ceiling and one beyond, an error, an expectation, and a cycle
of operations on semaphores that keep their ceilings. -/
theorem test_witness_semaphores :
    let z : Sem := { count := 2, ceiling := 3 }
    (3 < 4 ∧ 3 ≤ 3) ∧ z.err = false ∧ ({ z with err := true } : Sem).err = true ∧ (3 ≤ z.ceiling ∧ z.count < 3) ∧ (2 ≤ z.ceiling ∧ 2 ≤ z.count) ∧
      z.count + 1 ≤ z.ceiling ∧ z.ceiling < z.count + 2 ∧ ((0 : Int) ≤ z.count + -2 ∧ (z.count : Int) + -2 ≤ z.ceiling) ∧
      (z.count : Int) + -3 < 0 ∧ (z.ceiling : Int) < z.count + 2 ∧ z.expValid = false ∧
      (let y : Sem := { z with expValid := true, expect := 1 }; y.expValid = true ∧ y.expect + 1 < 2 ^ 32) := by
  decide

theorem test_witness_ceilings :
    let z : SyncState := { sem := Vector.replicate 64 {}, ring := Vector.replicate 16 {} }
    ∀ k, (z.s k).arrive = false → (z.s k).count ≤ (z.s k).ceiling := by
  intro z k _
  rcases lt_or_ge k 64 with h | h <;> simp [z, SyncState.s, at', h]

/-- A booted device whose mailbox requester 5 holds, with these argument words. -/
def Tests.boss (args : List (Nat × Nat)) : State :=
  { Tests.world .C Tests.looseTile with
    dev := { booted := true }
    mb := { owner := 5, args := args.foldl (fun v q => v.setIfInBounds q.1 q.2) (Vector.replicate 32 0) } }

/-- DeviceRegisters: a free lock and the first and last ID, IDs that no one has, an owner, a lock that has stood for 2 s and
one that has not, and the last argument word and chain. -/
theorem test_witness_device_registers :
    State.reset.mb.owner = 0 ∧ (1 % 2 ^ 16 ≠ 0 ∧ 1 % 2 ^ 16 ≠ 0xFFFF) ∧ (0xFFFE % 2 ^ 16 ≠ 0 ∧ 0xFFFE % 2 ^ 16 ≠ 0xFFFF) ∧
      0x10000 % 2 ^ 16 = 0 ∧ (Tests.boss []).mb.owner ≠ 0 ∧ 5 % 2 ^ 16 = (Tests.boss []).mb.owner ∧ (Tests.boss []).mb.busy = false ∧
      (let s := { Tests.boss [] with tick := 4000000000 }; s.mb.last + 4000000000 ≤ s.tick) ∧
      (let s := { Tests.boss [] with tick := 3999999999 }; s.tick < s.mb.last + 4000000000) ∧ (31 < 32 ∧ 7 < 8) := by
  decide

/-- SliceSettings: an accepted command and ones that are not, a slice that exists and one that does not, and words at the
ends of their ranges and beyond them. -/
theorem test_witness_slice_settings :
    Accepted (Tests.boss []) 5 4 ∧ ¬ Accepted (Tests.boss []) 6 4 ∧ ¬ Accepted State.reset 0 4 ∧
      Accepted { Tests.boss [] with dev := { booted := true, recovery := true } } 5 8 ∧
      ¬ Accepted { Tests.boss [] with dev := { booted := true, recovery := true } } 5 7 ∧
      (Tests.boss [(0, 1)]).slice? (argument (Tests.boss [(0, 1)]) 0 % 2 ^ 6) = some { id := 1 } ∧
      (Tests.boss [(0, 2)]).slice? (argument (Tests.boss [(0, 2)]) 0 % 2 ^ 6) = none ∧
      32 * 2 ^ 20 < argument (Tests.boss [(1, 32 * 2 ^ 20 + 1)]) 1 ∧ 2 ≤ argument (Tests.boss [(2, 2)]) 2 ∧
      (let a := argument (Tests.boss [(0, 1), (1, 1000), (2, 96), (3, 10000), (4, 192)])
       (1 ≤ a 1 ∧ a 1 ≤ 1000) ∧ (a 2 % 4 = 0 ∧ a 2 ≤ 96) ∧ a 3 ≤ 10000 ∧ a 4 ≤ 192) ∧
      (let a := argument (Tests.boss [(0, 1), (1, 1001)]); ¬ (a 1 = 2 ^ 32 - 1 ∨ (1 ≤ a 1 ∧ a 1 ≤ 1000))) ∧
      (((1 : Nat).testBit 0 = true ∧ ({ prot := true } : Slice).prot = true ∧ ({ prot := true } : Slice).adbg = false)) ∧
      (let a := argument (Tests.boss [(0, 1), (1, 1), (2, 2 ^ 47 - 1)]); ¬ (2 ^ 6 ≤ a 0 ∨ a 1 = 0 ∨ a 2 = 0 ∨ 2 ^ 47 ≤ a 2 ∨ a 2 < a 2 / 8 ∨ a 4 % 4 = 3)) ∧
      (let a := argument (Tests.boss [(0, 1), (1, 1), (2, 2 ^ 47)]); 2 ^ 47 ≤ a 2) := by
  simp only [Accepted]
  decide +kernel

/-- SliceCommands: words of SLICE_CREATE that are well formed and ask for what is free (whether a step of the command fails
and which clock steps are valid are free values of Config), words that are not, a slice, and an image of FW_STAGE while a slice exists (whether an image verifies is one as well). -/
theorem test_witness_slice_commands :
    let s := Tests.boss [(0, 2), (1, 1), (2, 1), (10, 3400), (13, 1)]
    Accepted s 5 1 ∧ (s.argsOk = true ∧ s.tableArgsOk = true) ∧
      (s.slice? 2 = none ∧ s.freeFor 2 1 s.argPorts s.argChans = true ∧ argument s 1 ≠ 0 ∧ s.argChans ≠ [] ∧
        s.capsBut 2 + argument s 10 % 2 ^ 32 ≤ 3400 ∧ s.slices.foldl (fun z v => z + v.ptSize) 0 + argument s 15 ≤ 256 * 2 ^ 20 ∧
        hbmTotal (s.hostTensors (argument s 16) (argument s 17)) ≤ s.argChans.length * 2 ^ 31) ∧
      (Tests.boss [(0, 36)]).argsOk = false ∧ (Tests.boss [(0, 1)]).slice? 1 = some { id := 1 } ∧
      (Tests.boss [(0, 1), (10, 1)]).argsOk = true ∧ (Tests.boss [(0, 1), (10, 1)]).argChans = ({ id := 1 } : Slice).chans ∧
      (Tests.boss []).slices ≠ [] ∧ (0 ≤ 32 * 2 ^ 20 ∧ 1 < 2) := by
  simp only [Accepted]
  decide +kernel

/-- SliceSettings: a locked slice whose words would change and would stay, and purse words that keep an R of 0. SliceCommands: a
step below the new MAXSTEP and one above it. -/
theorem test_witness_locked_slice :
    let sl : Slice := { id := 1, prot := true, tdisp := .locked, step := 7 }
    let keep := argument (Tests.boss [(0, 1), (1, 2 ^ 64 - 1), (2, 2 ^ 64 - 1), (3, 2 ^ 64 - 1)])
    (sl.tdisp = .locked ∧ { sl with quantumMs := 3 } ≠ sl ∧ ¬ (sl ≠ sl)) ∧ (keep 1 = 2 ^ 64 - 1 ∧ keep 2 ≠ 0 ∧ keep 3 ≠ 0) ∧
      (sl.newStep.elim sl.step Prod.fst ≤ 7 ∧ 6 < sl.newStep.elim sl.step Prod.fst) := by
  decide +kernel

/-- TillAndReceipts: slices that own every square and channel, and all but one. -/
theorem test_witness_house :
    let all : Slice := { id := 1, squares := 2 ^ 36 - 1, chans := List.range 384 }
    let less : Slice := { id := 1, squares := 2 ^ 35 - 1, chans := List.range 383 }
    (∀ q < 36, all.squares.testBit q = true) ∧ (∀ n < 384, n ∈ all.chans) ∧
      (less.squares.testBit 35 = false ∧ ∀ q < 36, q ≠ 35 → less.squares.testBit q = true) ∧
      (383 ∉ less.chans ∧ ∀ n < 384, n ≠ 383 → n ∈ less.chans) := by
  decide +kernel

/-- SliceCommands: a command that runs and can complete, one that waits for a launch, and none. -/
theorem test_witness_command_completes :
    let s (code : Nat) : State := { Tests.boss [(0, 1)] with mb := { (Tests.boss [(0, 9)]).mb with busy := true, code := code, target := 1 } }
    (s 4).mb.busy = true ∧ (s 4).mb.next = 0 ∧ ((s 4).mb.code ≠ 1 ∧ (s 4).mb.code ≠ 2 ∧ (s 4).mb.code ≠ 3) ∧
      ((s 1).mb.code = 1 ∧ (s 3).mb.code = 3) ∧
      (∃ l ∈ (s 2).launches, l.slice = (s 2).mb.target ∧ l.done = false) ∧
      ({ s 2 with launches := [] }.launches.all fun l => l.done) = true ∧ (Tests.boss []).mb.busy = false := by
  refine ⟨rfl, rfl, by decide, ⟨rfl, rfl⟩, ⟨_, .head _, rfl, rfl⟩, rfl, rfl⟩

/-- ChainEvents: a TAIL at the end of the ring and beyond it, chains that are enabled and not, sizes 3 and 4, a chain that
may be read and one that may not, and launches that are placed, frozen and not yet placed. -/
theorem test_witness_chains :
    let c : Chain := { enable := true, log2n := 4 }
    let sl : Slice := { id := 1, chains := (Vector.replicate 8 {}).set 0 { c with tail := 1 } }
    let s : State := { Tests.world .C Tests.looseTile 0 sl with launches := [] }
    let l (placed : Bool) (h : Option Pitch) : Launch := { id := 7, slice := 1, chain := 0, index := 3, placed := placed, hamper := h }
    (2 ^ 31 < sub32 (2 ^ 32 - 1) c.tail ∨ 2 ^ c.log2n < sub32 (2 ^ 32 - 1) c.done) ∧
      ¬ (2 ^ 31 < sub32 16 c.tail ∨ 2 ^ c.log2n < sub32 16 c.done) ∧ (2 ^ c.log2n < sub32 17 c.done) ∧
      (c.enable = true ∧ ({} : Chain).enable = false ∧ 3 % 2 ^ 4 < 4 ∧ 4 ≤ 4 % 2 ^ 4) ∧
      s.slice? 1 = some sl ∧ sl.active = true ∧ s.mayRead 1 0 (sl.chain 0) = true ∧ s.mayRead 1 1 (sl.chain 1) = false ∧
      ([l true none].find? fun l => l.slice == 1 && l.chain == 0 && l.index == 3 % 2 ^ 32 && !l.done) = some (l true none) ∧
      (l false none).placed = false ∧ (l false none).hamper = none ∧ (l false (some {})).hamper = some {} := by
  decide +kernel

/-- LaunchReadiness: a translation that is kept and one that is not. -/
theorem test_witness_translations :
    let x : Translation := translate [1] [2]
    (x.image = [1] ∧ x.edition = 1 ∧ x.measure = [2]) ∧ (∀ t ∈ ([] : List Translation), ¬ (t.image = [1] ∧ t.edition = 1 ∧ t.measure = [2])) ∧
      ({ (Tests.pit {}).img with block := true } : Image).block = true := by
  refine ⟨⟨rfl, rfl, rfl⟩, by simp, rfl⟩

/-- LaunchReadiness: a launch that goes, one that is ready, a file that is no container, and a container of one image is
what the loader tests elsewhere; a failing load is a code. -/
theorem test_witness_readiness :
    let sl : Slice := { id := 1 }
    let l : Launch := { id := 9, slice := 1 }
    let s : State := { Tests.world .C Tests.looseTile 0 sl with launches := [l] }
    s.launch? 9 = some l ∧ s.slice? 1 = some sl ∧
      (l.ready = false ∧ l.placed = false ∧ l.done = false ∧ sl.active = true ∧ l.depsHold sl = true) ∧
      ¬ ({ l with ready := true }.ready = false) ∧
      ∃ code, loadZfo [] [] s.dev.measure 0 0 0 false [] = .failed code := by
  refine ⟨by decide +kernel, by decide +kernel, by decide +kernel, by decide, _, rfl⟩

/-- TranslationFaults: a tile whose X has stopped, one that has not, a hamper with such a tile, and a fault queue with room
and without. -/
theorem test_witness_translation :
    let t : Tile := { Tests.looseTile with xs := { stopped := true } }
    let sl : Slice := { id := 1, fqEnable := true, fqLog2n := 4 }
    let s : State := Tests.world .X t 0 sl
    let fz : State := { s with pitches := [], launches := [{ id := 7, slice := 1, hamper := some (Tests.pit t) }] }
    (∃ q, s.stoppedX 1 0 = some q) ∧ (Tests.world .X Tests.looseTile).stoppedX 1 0 = none ∧
      (Tests.world .X Tests.looseTile).stoppedHamper 1 0 = none ∧ (fz.stoppedX 1 0 = none ∧ ∃ q, fz.stoppedHamper 1 0 = some q) ∧
      s.slice? 1 = some sl ∧ s.tile? 7 0 = some t ∧ s.launch? 7 = some { id := 7, slice := 1, placed := true } ∧
      (t.xs.stopped = true ∧ t.xs.told = false ∧ sl.active = true ∧ sl.fqEnable = true ∧ 4 ≤ sl.fqLog2n ∧ sl.fqLog2n ≤ 12 ∧
        (sl.fqTail + 2 ^ 32 - sl.fqHead) % 2 ^ 32 < 2 ^ sl.fqLog2n) ∧ ¬ ((16 + 2 ^ 32 - 0) % 2 ^ 32 < 2 ^ 4) := by
  refine ⟨⟨_, rfl⟩, by decide +kernel, by decide +kernel, ⟨by decide +kernel, _, rfl⟩, by decide +kernel, by decide +kernel, by decide +kernel, by decide, by decide⟩

/-- TableRegisters: the last entry of the page table and the first place beyond it, shootdowns of 11, 12, 52 and 53 bits,
one that runs and one whose requests are done, and a table that the slice's HBM holds. -/
theorem test_witness_tables :
    let sl : Slice := { id := 1, ptSize := 4096, ptOff := 4088 }
    let s : State := Tests.world .C Tests.looseTile 0 sl
    s.slice? 1 = some sl ∧ sl.ptOff + 8 ≤ sl.ptSize ∧ ({ sl with ptOff := 4096 }.ptSize < 4096 + 8) ∧
      (11 % 2 ^ 6 < 12 ∧ 52 < 53 % 2 ^ 6 ∧ sl.sdBusy = false ∧ 12 ≤ 12 % 2 ^ 6 ∧ 52 % 2 ^ 6 ≤ 52) ∧
      (let b := { sl with sdBusy := true }
       b.sdBusy = true ∧ ∀ id ∈ b.sdWait, (s.copies.any fun c => c.reqs.any fun r => r.tlb.contains id) = false) ∧
      hbmTotal sl.tensors ≤ sl.capacity ∧
      { sl with chans := [] }.capacity < hbmTotal [(5, #v[0, 2 ^ 47, 0, 7])] := by
  decide +kernel

/-- SliceRegisters: a post that reaches the ceiling and one beyond it, an access in progress and none, an access that the
slice may make, of each kind, and each state of the interface. -/
theorem test_witness_slice_registers :
    let sl : Slice := { id := 1, dbgBusy := true, dbgGrant := true, dbgCtl := 2 ^ 60 }
    let s : State := Tests.world .C Tests.looseTile 0 sl
    let old : Sem := { count := 1, ceiling := 2 }
    s.slice? 1 = some sl ∧ old.count + 1 % 2 ^ 32 ≤ old.ceiling ∧ old.ceiling < old.count + 2 % 2 ^ 32 ∧
      ({} : Slice).dbgBusy = false ∧ (sl.dbgGrant && (!sl.prot || sl.adbg)) = true ∧
      (({} : Slice).dbgGrant && (!({} : Slice).prot || ({} : Slice).adbg)) = false ∧
      (s.launches.find? fun l => l.slice == 1 && l.chain == sl.dbgCtl / 2 ^ 42 % 8 && l.index == sl.dbgCtl % 2 ^ 32) =
        some { id := 7, slice := 1, placed := true } ∧ s.pitch? 7 = some (Tests.pit Tests.looseTile) ∧
      (2 ^ 61 / 2 ^ 60 % 4 = 2 ∧ sl.dbgCtl / 2 ^ 60 % 4 ≠ 2) ∧ sl.dbgCtl / 2 ^ 48 % 64 < (Tests.pit Tests.looseTile).img.w ∧
      (Tests.pit Tests.looseTile).img.w ≤ 2 ^ 48 / 2 ^ 48 % 64 ∧
      ¬ (Tests.looseTile.clearing ≠ none ∨ (1 = 0 ∧ sl.dbgAddr / 64 % 16 ∈ Tests.looseTile.banksNow)) ∧
      ({ Tests.looseTile with clearing := some 5 } : Tile).clearing ≠ none ∧
      (2 ^ 61 / 2 ^ 60 % 4 ≠ 3 ∧ 3 * 2 ^ 60 / 2 ^ 60 % 4 = 3 ∧ (2 ^ 63 : Nat) / 2 ^ 62 % 4 = 2) ∧
      (sl.tdisp ≠ .locked ∧ sl.tdisp ≠ .run ∧ ({ prot := true, tdisp := .locked } : Slice).tdisp = .locked) := by
  decide +kernel

/-- BootAndErrors: errors that reach sixteen and that do not, and a tile that a pitch holds and one that no pitch holds. -/
theorem test_witness_boot_and_errors :
    let old : Phys := { errs := List.replicate 15 5 }
    (6 :: old.errs.filter fun n => decide (6 < n + 24 * 3600 * 1000 * 2000000)).length = 16 ∧
      (6 :: ({} : Phys).errs).length < 16 ∧ (∃ q, (Tests.world .C Tests.looseTile).atPhys 0 = some q) ∧
      (Tests.world .C Tests.looseTile).atPhys 1 = none := by
  refine ⟨by decide, by decide, ⟨_, rfl⟩, by decide +kernel⟩

/-- TillAndReceipts: a pitch and its slice, a batch that has room in the ring and one that has not. -/
theorem test_witness_till :
    let s : State := Tests.world .C Tests.looseTile
    let r : Receipts := { held := [List.replicate 512 0], enable := true, log2n := 10 }
    s.pitch? (Tests.pit Tests.looseTile).id = some (Tests.pit Tests.looseTile) ∧ s.slice? 1 = some { id := 1 } ∧ (∃ m, m < 7) ∧ 0 < 1 ∧
      r.held = List.replicate 512 0 :: [] ∧ (r.enable = true ∧ sub32 r.tail r.head + 512 / 256 ≤ 2 ^ r.log2n) ∧
      ¬ (sub32 1023 r.head + 512 / 256 ≤ 2 ^ r.log2n) ∧ State.reset.rc.held = [] := by
  refine ⟨by decide +kernel, by decide +kernel, ⟨0, by decide⟩, by decide, rfl, by decide, by decide, rfl⟩

/-- A header, 232 bytes and their tag make a flit that the key opens. -/
theorem Tests.flit_opens (k : KeySlot) (hdr payload : List Byte) (hh : hdr.length = 8) (hp : payload.length = 232)
    (ht : (gcmTag (leBytes 32 k.key) (leBytes 4 k.salt ++ leBytes 8 k.counter) hdr payload).length = 16) :
    let nonce := leBytes 4 k.salt ++ leBytes 8 k.counter
    let tag := gcmTag (leBytes 32 k.key) nonce hdr payload
    let bytes := ((hdr ++ payload ++ tag).map BitVec.toNat).map fun b => BitVec.ofNat 8 b
    bytes.length = 256 ∧ bytes.drop 240 = gcmTag (leBytes 32 k.key) nonce (bytes.take 8) ((bytes.drop 8).take 232) := by
  intro nonce tag bytes
  have hb : bytes = hdr ++ payload ++ tag := by simp [bytes, Function.comp_def]
  have hl : tag.length = 16 := ht
  have h1 : bytes.take 8 = hdr := by simp [hb, hh]
  have h2 : (bytes.drop 8).take 232 = payload := by simp [hb, hh, hp]
  refine ⟨by simp [hb, hh, hp, hl], ?_⟩
  rw [h1, h2, hb]
  simp [hh, hp, List.drop_append, tag]

/-- FabricLinks: a flit of SEQ 7 that the key 5 of slot 0 opens. -/
theorem test_witness_flit :
    let flit := (leBytes 8 7 ++ List.replicate 232 0 ++
      gcmTag (leBytes 32 5) (leBytes 4 1 ++ leBytes 8 0) (leBytes 8 7) (List.replicate 232 0)).map BitVec.toNat
    let bytes : List Byte := flit.map fun b => BitVec.ofNat 8 b
    bytes.length = 256 ∧
      bytes.drop 240 = gcmTag (leBytes 32 5) (leBytes 4 1 ++ leBytes 8 0) (bytes.take 8) ((bytes.drop 8).take 232) := by
  exact Tests.flit_opens { key := 5, salt := 1, valid := true } (leBytes 8 7) (List.replicate 232 0)
    (by decide +kernel) (by decide +kernel) (by decide +kernel)

/-- FabricLinks: headers of the expected SEQ and of another, a key marker and none, and a key whose counter is near its end. -/
theorem test_witness_flit_header :
    let h (v : Nat) : Nat := leNat (leBytes 8 v)
    (h (2 ^ 55 + 7) / 2 ^ 55 % 2 = 1 ∧ h (2 ^ 55 + 7) % 2 ^ 32 = 7 ∧ h (2 ^ 55 + 7) / 2 ^ 56 % 2 ^ 8 ≠ 3) ∧
      h (3 * 2 ^ 56) / 2 ^ 56 % 2 ^ 8 = 3 ∧ (leBytes 8 (3 * 2 ^ 56)).length = 8 ∧
      (let tx : KeySlot := { counter := 2 ^ 39, valid := true }
       tx.valid = true ∧ 2 ^ 39 ≤ tx.counter ∧ tx.counter < 2 ^ 40) ∧
      (let v : Port := { expect := 7 }
       v.expect < 2 ^ 32 ∧ v.counters 0 7 = [(slotAt v.rx 0).counter] ∧ 8 ≠ v.expect) ∧ h (6 * 2 ^ 56) / 2 ^ 56 % 2 ^ 8 = 6 ∧ ({} : Port).queue = [] ∧ (slotAt ({} : Port).tx 0).valid = false := by
  decide +kernel

/-- FabricLinks: a port that is up and one that is down, flits of 256 bytes and not, resends below eight and at eight, keys
below the early end and at it, and a port that is ready to go over to its other key, and must. (Whether a link retrains is a
free value of Config.) -/
theorem test_witness_fabric :
    let s : State := { Tests.boss [] with ports := [(0, { replay := [{ seq := 3, ty := 0, dpkg := 0, slot := 0, counter := 0, fails := 7 }] }), (1, { down := true })] }
    (s.port 0).down = false ∧ (s.port 1).down = true ∧ (List.replicate 256 0).length = 256 ∧ (List.replicate 255 0).length ≠ 256 ∧
      (∃ f, (s.port 0).replay.find? (fun g => g.seq == 3) = some f ∧ f.fails < 8) ∧ 8 ≤ ({ seq := 3, ty := 0, dpkg := 0, slot := 0, counter := 0, fails := 8 } : Flit).fails ∧ (∀ f ∈ (s.port 0).replay, f.seq ≠ 4) ∧
      ((slotAt (s.port 0).tx 0).valid = false) ∧ ((s.port 0).txSlot < 2 ∧ (s.port 0).rxSlot < 2) ∧
      (({ valid := true } : KeySlot).valid = true ∧ ({ valid := true } : KeySlot).counter < 2 ^ 39) ∧
      (let v : Port := { tx := #v[{ valid := true, counter := 2 ^ 40 - 1 }, { valid := true }] }
       v.down = false ∧ (slotAt v.tx v.txSlot).valid = true ∧ (slotAt v.tx (1 - v.txSlot)).valid = true ∧
         2 ^ 40 - 1 ≤ (slotAt v.tx v.txSlot).counter) := by
  refine ⟨by decide +kernel, by decide +kernel, by decide +kernel, by decide +kernel, ⟨_, rfl, by decide⟩, by decide, by decide +kernel, by decide +kernel, by decide +kernel, by decide, by decide +kernel⟩

/-- SeamsAndSweep: a boundary that waits for a freeze and one that does not, a repair that is asked for, crossings of which
23 and 24 are down, and a sweep that has a chunk to go and one that has ended. -/
theorem test_witness_seams :
    let wide : Pitch := { Tests.pit Tests.looseTile with img := { w := 2, h := 1, seamC := 1 }, ox := 23, reqs := [.seam 0] }
    let d : Dev := { repairing := [(0, 3)], sweeps := [(4, 31), (5, 32)], crossDown := (List.range 24).map fun j => j }
    ((wide.img.spans wide.physAll).any fun q => q.1 == 0) = true ∧ FreezeWhy.seam 0 ∈ wide.reqs ∧
      ((Tests.pit Tests.looseTile).img.spans (Tests.pit Tests.looseTile).physAll) = [] ∧ (d.repairing.filter fun q => q.1 == 0) ≠ [] ∧
      (∀ j < 24, 24 * 0 + j ∈ d.crossDown) ∧ ¬ (∀ j < 24, 24 * 1 + j ∈ d.crossDown) ∧
      d.sweeps.find? (fun q => q.1 == 4 && decide (q.2 < 32)) = some (4, 31) ∧
      d.sweeps.find? (fun q => q.1 == 5 && decide (q.2 < 32)) = none := by
  decide +kernel

/-- PitchClocksAndFreezes: a live tile and one that is not, a hold with a failed lookahead that has cleared, a rendezvous that
every tile has reached, and a pitch with and without requests. -/
theorem test_witness_rendezvous_freeze :
    let met : Pitch := Tests.pit { Tests.looseTile with mode := .rdv 3 0 }
    let asked : Pitch := { met with reqs := [.purse], tauR := some 0 }
    asked.rdvReady = true ∧ asked.freezePoint ≠ none ∧ met.freezePoint = none ∧ met.wantsSafe = false := by
  decide +kernel

theorem test_witness_pitch_clocks :
    let l : Look := { eng := .C, at_ := 20, pc := 0, pos := 0, kind := .take 0, amount := 1, passed := false, clear := some 6 }
    let held : Pitch := { Tests.pit { Tests.looseTile with looks := [l], mode := .run, live := true } with holds := [{ stop := 20 }] }
    let met : Pitch := Tests.pit { Tests.looseTile with mode := .rdv 3 0 }
    (Tests.world .C Tests.looseTile).tile? 7 0 = some Tests.looseTile ∧ Tests.looseTile.live = false ∧ (held.tiles.getD 0 {}).live = true ∧
      (∃ q, held.holdQ 20 = some q) ∧ (Tests.pit Tests.looseTile).rdvReady = false ∧ met.rdvReady = true ∧
      (Tests.pit Tests.looseTile).reqs = [] ∧ ({ met with reqs := [.purse] } : Pitch).reqs ≠ [] ∧
      (∃ n, ({ Tests.looseTile with clearing := some 1 } : Tile).clearing = some n ∧ n ≤ 1) := by
  refine ⟨by decide +kernel, rfl, rfl, ⟨_, rfl⟩, by decide +kernel, by decide +kernel, rfl, by decide, ⟨1, rfl, by decide⟩⟩

/-- PitchEnds: a pitch that has stopped and drained and one that runs, one that has finished, with a trap and without, and a
record that goes to host memory. -/
theorem test_witness_pitch_ends :
    let asked (t : Tile) : Pitch := { Tests.pit t with reqs := [.purse], tauR := some 0 }
    let frozen : Tile := { Tests.looseTile with mode := .frozen }
    let ended : Tile := { Tests.looseTile with mode := .run, eng := Vector.replicate 5 { ended := true } }
    let s : State := { Tests.world .C frozen with pitches := [asked frozen] }
    ((asked frozen).allStopped = true ∧ s.drainedFor (asked frozen) = true) ∧ (asked Tests.looseTile).allStopped = false ∧
      (Tests.pit ended).finished = true ∧ (asked frozen).trapped = false ∧
      (asked { frozen with traps := [{ tau := 0, eng := .C, code := 15 }] }).trapped = true ∧
      s.pitch? 7 = some (asked frozen) ∧ s.launch? (asked frozen).launch = some { id := 7, slice := 1, placed := true } ∧
      ({ id := 1 } : Slice).active = true ∧ (({ id := 1 } : Slice).chain 0).loc = false := by
  decide +kernel

/-- A copy of this tile: 64 bytes from `src` to `dst`. -/
def Tests.copy (src dst : Side) (n : Nat := 64) : CopyRec :=
  { id := 3, pitch := 7, tile := 0, slice := 1, pgen := 1, instr := .cpt {} {}, off := 0, opD := 0, opS := 0, src := src,
    dst := dst, n := n, z := 1, posts := [⟨0, 2, 1, true⟩] }

/-- A launch of the one-tile image that is ready, in orientation 0. -/
def Tests.launch : Launch :=
  { id := 8, slice := 1, ready := true, desc := (Vector.replicate 8 0).set 0 (2 ^ 24)
    img := some { (Tests.pit {}).img with digest := [1] } }

/-- A slice of one square with that launch, and pinned code of the launch in its tiles. -/
def Tests.yard (l : Launch) (gen : Nat := 0) : State :=
  { slices := [{ id := 1, squares := 1 }], launches := [l], phys := [(0, { maxGen := gen })], pins := [(0, 8, 160)] }

set_option maxRecDepth 40000 in
/-- PitchPlacement: a place that is free and none, a generation at the limit and beyond it, a hamper that is intact, one whose
tag fails, one whose code is gone, and a wrap with copies to the tiles and without. -/
theorem test_witness_placement :
    let l := Tests.launch
    let h : Pitch := Tests.pit Tests.looseTile
    let back : Launch := { l with hamper := some h, coolBox := true }
    (Tests.yard l).launch? l.id = some l ∧ ((Tests.yard l).chosen l).isSome = true ∧ (Tests.yard l).chosen { l with ready := false } = none ∧
      ((Tests.yard l).chosen l).map (fun r => r.2.2.2) = some [0] ∧ ((Tests.yard back).chosen back).isSome = true ∧
      (Tests.yard l 4094).nextGen [0] ≤ 4095 ∧ 4095 < (Tests.yard l 4095).nextGen [0] ∧ l.strict = false ∧
      (Tests.yard back).reloadOk { id := 1 } back (back.img.getD {}) [0] = true ∧
      (Tests.yard back).reloadOk { id := 1 } back (back.img.getD {}) [1] = false ∧
      ((Tests.yard back).chosen back).map (fun r => decide (h.ox = r.2.2.1.ox ∧ h.oy = r.2.2.1.oy ∧ h.orient = r.2.2.1.o)) = some true ∧
      (Tests.yard l).copiesTo [0] = false ∧
      ({ Tests.yard l with copies := [{ Tests.copy (.pattern 0) (.pattern 0) with left := [(0, 0)] }] }).copiesTo [0] = true ∧
      (0 < 1 ∧ (List.replicate 48 (0 : Word)).length ≤ 48) := by
  decide +kernel

/-- PitchPlacement: the arguments of an image of block code at their ends. -/
theorem test_witness_block_launch :
    (List.replicate 48 (0 : Word)).length ≤ 48 ∧ (255 < 256) ∧ ({ (Tests.pit {}).img with block := true } : Image).block = true := by
  decide

/-- PitchPlacement: a hamper in a space that no page maps fails. -/
theorem test_witness_hamper_bad :
    ((Tests.yard Tests.launch).hamperBad Tests.launch (Tests.pit Tests.looseTile)).isSome = true := by
  decide +kernel

/-- A tile whose X has that copy in issue. -/
def Tests.porter : Tile := { Tests.looseTile with xs := { copying := some 3, copies := [3] }, mode := .run }

/-- The machine with one copy. -/
def Tests.dock (c : CopyRec) (t : Tile := Tests.porter) : State := { Tests.world .X t with copies := [c] }

/-- An entry of a tensor in HBM. -/
def Tests.hbmEntry : Vector Word 4 := #v[0x1000, 64, 0, 0x07]

set_option maxRecDepth 20000 in
/-- CopyDispatch: a copy that goes and one that does not, one that only padding remains of, a page that misses, one without
its permission, one that is translated, and a walk that finds nothing. -/
theorem test_witness_copy_dispatch :
    let push := Tests.copy (.spm [0] 0) (.spm [0] 4096)
    let goes (s : State) (c : CopyRec) (p : Pitch) (t : Tile) : Prop :=
      t.xs.copying = some c.id ∧ t.xs.stopped = false ∧ c.walk = none ∧ p.xStop t = false ∧ (t.engOf .X).halted = false ∧
        t.clearing = none ∧ t.xs.slots < Config.slotLimit ∧ s.pitch? 7 = some p ∧ c.left = [] ∧
        (CopyRec.locOf c.src ≠ some 1 ∧ CopyRec.locOf c.dst ≠ some 1) ∧ ∀ k ∈ t.xs.fence, k ∈ t.xs.copies → k = c.id
    let p := Tests.pit Tests.porter
    let fetch := Tests.copy (.region Tests.region [] Tests.hbmEntry) (.spm [0] 0)
    let e : TlbEnt := { id := 1, slice := 1, home := p.physOf 0 0, va := 0x1000, size := 4096, base := 0, rd := true, wr := false }
    let miss (l : List TlbEnt) : Option (Nat × Bool × Bool) :=
      { Tests.dock fetch with tlb := l }.firstMiss 1 (p.physOf 0 0) (fetch.needs fetch.nextRun.1 fetch.nextRun.2)
    goes (Tests.dock push) push p Tests.porter ∧ Tests.looseTile.xs.copying ≠ some push.id ∧ push.nextRun = (0, 64) ∧ 0 < push.total ∧
      ({ push with next := 64 }).total ≤ ({ push with next := 64 }).nextRun.1 ∧
      miss [] = some (0x1000, false, false) ∧ miss [{ e with rd := false }] = some (0x1000, false, true) ∧ miss [e] = none ∧
      (Tests.dock push).slice? push.slice = some { id := 1 } ∧ (∀ b, ({ id := 1 } : Slice).walk 0x1000 b = none) ∧
      (Tests.dock push).copy? push.id = some push ∧
      (let away := { push with left := [(0, 1)] }
       away.left ≠ [] ∧ away.next < away.total ∧ away.nextRun.1 < away.total ∧ { away with next := 64 }.total ≤ { away with next := 64 }.next) := by
  refine ⟨by simp only [Pitch.xStop]; decide +kernel, by decide, by decide +kernel, by decide +kernel, by decide +kernel, by decide +kernel,
    by decide +kernel, by decide +kernel, by decide +kernel, fun b => by cases b <;> decide +kernel, by decide +kernel, by decide +kernel⟩

/-- CopyDispatch: a page of 128 MiB that a walk finds. -/
theorem test_witness_walk :
    let sl : Slice := { id := 1, chans := [0], ptSize := 65536, pt := [⟨0, 1⟩, ⟨1, 0x80⟩, ⟨0x8000, 0x0F⟩, ⟨0x8001, 0x0F⟩] }
    (∀ b, (sl.walk 0x1000 b).isSome = true) ∧ (sl.walk 0x1000 false).map (fun lf => (lf.size, lf.rd)) = some (2 ^ 27, true) := by
  refine ⟨fun b => by cases b <;> decide +kernel, by decide +kernel⟩

/-- CopyProgress: a request that reads its scratchpad or its tensor, that carries bytes, a bank that is free and one that is
served, and stale bytes in trap mode. -/
theorem test_witness_copy_progress :
    let r : Req := { id := 5, k0 := 0, k1 := 64 }
    let push := { Tests.copy (.spm [0] 0) (.spm [0] 4096) with reqs := [r] }
    let store := { Tests.copy (.spm [0] 0) (.region Tests.region [] Tests.entry) with reqs := [r] }
    let fetch := { Tests.copy (.region Tests.region [] Tests.entry) (.spm [0] 0) with reqs := [{ r with phase := .carry [0] }, { r with id := 6 }] }
    let open_ (c : CopyRec) (n : Nat) := c.reqs.find? fun r => r.id == n && (r.phase == .fetch || r.phase == .slow)
    open_ push 5 = some r ∧ open_ push 6 = none ∧ open_ fetch 6 = some { r with id := 6 } ∧ push.toTensor = false ∧ store.toTensor = true ∧
      (Tests.copy (.pattern 0) (.region Tests.region [] Tests.entry)).toTensor = true ∧
      fetch.reqs.find? (fun r => r.id == 5) = some { r with phase := .carry [0] } ∧
      ((Tile.granules 0 64).map fun g => g % 16) = [0] ∧ (0 ∈ ({ Tests.porter with banksNow := [0] } : Tile).banksNow ∧ Tests.porter.banksNow = []) ∧
      (Tests.strictTile.staleTrap = true ∧ Tests.strictTile.spmStale 0 64 = true) ∧ Tests.porter.staleTrap = false ∧
      (Tests.copy (.spm [0] 0) (.spm [0] 4096)).complete = false ∧
      { Tests.copy (.spm [0] 0) (.spm [0] 4096) with next := 64 }.complete = true ∧
      (push.reqs.find? (fun r => r.id == 5 && r.phase != .landing) = some r ∧ push.reqs.find? (fun r => r.id == 6 && r.phase != .landing) = none) := by
  decide +kernel

set_option maxRecDepth 20000 in
/-- CopyProgress: a write that an earlier request of the same bytes holds up and one that none does, source lines of which one
or each is lost, and a slice that may reach its host memory. -/
theorem test_witness_copy_writes :
    let a : Req := { id := 5, k0 := 0, k1 := 32, phase := .carry [0] }
    let b : Req := { id := 6, k0 := 32, k1 := 64, phase := .carry [0] }
    let flat : RegionDesc := { Tests.region with stride := #v[0, 0, 0, 0] }
    let c := { Tests.copy (.spm [0] 0) (.region flat [] Tests.entry) with reqs := [a, b] }
    let f := Tests.copy (.region Tests.region [] Tests.entry) (.spm [0] 0)
    let here (n : Nat) := (List.range n).filterMap fun i => (f.srcByte i).map fun q => q / 64
    (∃ q ∈ c.reqs, q.k0 < b.k0 ∧ c.shares q b = true) ∧ ¬ (∃ q ∈ c.reqs, q.k0 < a.k0 ∧ c.shares q a = true) ∧
      CopyRec.locOf c.dst = some 1 ∧ (∃ sl, (Tests.dock c).slice? c.slice = some sl ∧ sl.active = true) ∧
      (∃ l, l ∈ here 64 ∧ (∀ o ∈ here 64, o = l) ∧ l + 1 ∉ here 64) := by
  refine ⟨by decide +kernel, by decide +kernel, by decide +kernel, ⟨_, rfl, rfl⟩, ?_⟩
  exact ⟨0, by decide +kernel, by decide +kernel, by decide +kernel⟩

/-- CopyProgress: a part that reaches its tile, one of another generation, one at a bank that is served, and one whose
tile no pitch holds. -/
theorem test_witness_copy_parts :
    let part : Part := { id := 9, tile := 0, lo := 4096, hi := 4112, k0 := 0, bytes := [(4096, 7)], stage := 1, phys := 0, pgen := 1 }
    let c := { Tests.copy (.spm [0] 0) (.spm [0] 4096) with parts := [part] }
    c.parts.find? (fun q => q.id == 9 && q.stage != 0) = some part ∧
      (∃ q, (Tests.dock c).atPhys part.phys = some (q, 0) ∧ q.tiles[0]? = some Tests.porter) ∧ (Tests.dock c).atPhys 1 = none ∧
      Tests.porter.pitchGen = part.pgen ∧ Tests.porter.pitchGen ≠ { part with pgen := 2 }.pgen ∧ Tests.porter.clearing = none ∧
      part.lo / 64 % 16 ∉ Tests.porter.banksNow ∧ 0 ∈ ({ Tests.porter with banksNow := [0] } : Tile).banksNow ∧ part.lo / 64 % 16 = 0 := by
  refine ⟨by decide +kernel, ⟨Tests.pit Tests.porter, by decide +kernel, rfl⟩, by decide +kernel, by decide, by decide, rfl, by decide, by decide, by decide⟩

/-- Messages: one on its way to a tile, of this generation and another, and one to a slice semaphore that waits, acts or is
refused; a post that the ceiling admits and one that it does not. -/
theorem test_witness_messages :
    let m : Msg := { id := 4, pitch := 7, tile := 0, pgen := 1, dest := .tile 0, op := .post 2 1, rd := some 3, wait := false, off := 0 }
    let s : State := { Tests.world .X Tests.porter with msgs := [m] }
    let old : Sem := { count := 1, ceiling := 2 }
    s.msg? m.id = some m ∧ s.pitch? m.pitch = some (Tests.pit Tests.porter) ∧ s.slice? (Tests.pit Tests.porter).slice = some { id := 1 } ∧
      m.phase = .going ∧ Tests.porter.clearing = none ∧ ({ Tests.porter with clearing := some 1 } : Tile).clearing ≠ none ∧
      Tests.porter.pitchGen = m.pgen ∧ Tests.porter.pitchGen ≠ { m with pgen := 2 }.pgen ∧ ({ m with phase := .back }).phase = .back ∧
      (sliceApply old (.take 2 2)).2 = .wait ∧ (sliceApply old (.post 2 1)).2 = .done none ∧
      (∃ code data, (sliceApply old (.post 2 2)).2 = .trap code data) ∧
      (3 < 16 ∧ Tests.porter.gen ≠ 0 ∧ ({ m with val := some 5 }).val = some 5 ∧ m.trap = none ∧ m.rd = some 3) ∧
      ({ m with trap := some (6, 0) }).trap = some (6, 0) ∧ ({ m with dest := .fabric 9 1 2 }).dest = .fabric 9 1 2 ∧
      (old.count + 1 ≤ old.ceiling ∧ old.ceiling < old.count + 2) ∧
      (let r : PostRoute := ⟨9, 3, 1⟩
       let q : Slice := { id := 1, bind := [(9, 3)] }
       { s with slices := [q] }.slice? r.slice = some q ∧ (r.pkg, r.src) ∈ q.bind ∧ (9, 4) ∉ q.bind) := by
  refine ⟨by decide +kernel, by decide +kernel, by decide +kernel, rfl, rfl, by decide, rfl, by decide, rfl, by decide +kernel, by decide +kernel, ?_, by decide +kernel, rfl, rfl, by decide, by decide +kernel⟩
  exact ⟨_, _, rfl⟩

/-- FormatValues, IntegerSums: values level by level, from a first level and a rule for the next, always exist. -/
theorem test_witness_levels (α : Type) (first : Nat → α) (next : Nat → (Nat → α) → Nat → α) :
    ∃ x : Nat → Nat → α, (∀ k, x 0 k = first k) ∧ ∀ l k, x (l + 1) k = next l (x l) k :=
  ⟨fun l => Nat.rec first next l, fun _ => rfl, fun _ _ => rfl⟩

/-- AluTwoSource, ImmediatesAndFields: a tile in trap mode whose g0 is current reads it while g1 is stale. -/
theorem test_witness_stale_destination :
    Tests.strictTile.Readable .C [0, 0] ∧ Tests.strictTile.regStale .C 1 = true := ⟨.inr (by decide), by decide⟩

/-- Configuration: words of SCFG and TCFG that are no configuration, a phase that differs, scales beyond the side file, and
stale operands in trap mode. -/
theorem test_witness_configuration_traps :
    let used : Tile := { Tests.looseTile with s := (Vector.replicate 16 {}).set 0 { inUse := true, tag := 1 } }
    let wide : Word := TDesc.toWord { fmt := 3, rows := 64, cols := 128, scaleOn := true, scaleA := 5, sslice := 63 } 0
    1 < wfld (BitVec.ofNat 64 (2 * 2 ^ 24)) 24 2 ∧ 9 < wfld (BitVec.ofNat 64 (10 * 2 ^ 20)) 20 4 ∧
      (at' {} used.s 0).inUse = true ∧ wfld (BitVec.ofNat 64 64) 6 4 ≠ (used.streamOf 0).base / 64 % 16 ∧
      (TDesc.ofWord wide).illegal = false ∧ (TDesc.ofWord wide).sideOver = true ∧ wfld wide 4 6 = 0 ∧ wfld wide 49 15 = 0 ∧
      (wfld (BitVec.ofNat 64 16) 4 6 ≠ 0 ∧ wfld (BitVec.ofNat 64 (2 ^ 63)) 49 15 ≠ 0) ∧
      (Tests.strictTile.staleTrap = true ∧ Tests.strictTile.regStale .C 1 = true ∧ Tests.strictTile.streamStale 0 = true ∧
        Tests.strictTile.descCur 0 = false) := by
  decide +kernel

/-- IntegerSums: lanes of a float line, tree heights at both ends, and a scan of the same lanes. -/
theorem test_witness_reductions :
    let v := Tests.lanes .fp32 32
    v.fa ≠ .i32 ∧ v.nA ≤ 2 ^ 2 ∧ (∀ k < 2, 2 ^ k < v.nA) ∧ (512 ≤ 2 ^ 9 ∧ ∀ k < 9, 2 ^ k < 512) ∧
      (Nat.max v.nA v.nD ≤ 2 ^ 2 ∧ 2 ≤ 9) ∧ (Tests.lanes .i32 32).fa = .i32 ∧ v.o.imm < v.nD := by
  decide +kernel

/-- IntegerSums: products of a floating k-step: a NaN with and without NV, infinities of one sign and of both, numbers, and
zeros alone. -/
theorem test_witness_float_step :
    let one : Val := .fin false 1 0
    let zero : Val := .fin false 0 0
    let vals (l : List (Val × Val)) : List Val := (l.map fun q => Val.mul q.1 q.2).map fun q => q.1
    (.nan ∈ vals [(.inf true, zero)] ∧ (Val.mul (.inf true) zero).2 ≠ 0) ∧ (.nan ∈ vals [(.nan, one)] ∧ (Val.mul .nan one).2 = 0) ∧
      (.nan ∉ vals [(.inf false, one), (.inf true, one)] ∧ .inf false ∈ vals [(.inf false, one), (.inf true, one)] ∧
        .inf true ∈ vals [(.inf false, one), (.inf true, one)]) ∧
      (.inf false ∈ vals [(.inf false, one)] ∧ .inf true ∉ vals [(.inf false, one)] ∧ .nan ∉ vals [(.inf false, one)]) ∧
      (vals [(one, one)] = [.fin false 1 0] ∧ vals [(zero, one)] = [.fin false 0 0] ∧ one.num = some 1 ∧ zero.num = some 0) ∧
      ((1 : ℚ) < 2 ^ ((0 : Int) + 1) ∧ (2 : ℚ) ^ (0 : Int) ≤ 1) := by
  refine ⟨by decide +kernel, by decide +kernel, by decide +kernel, by decide +kernel, ⟨by decide +kernel, by decide +kernel, ?_, ?_⟩, by norm_num, by norm_num⟩ <;>
    simp [Val.num]

/-- FormatValues: codes of infinities, NaNs and numbers, and values that the functions take exactly. -/
theorem test_witness_format_codes :
    (⟨.fp32, 8, 23, 127, (2 ^ 24 - 1) * 2 ^ 104, true, 0x7FC00000⟩ : FloatRow) ∈ floatRows ∧
      (0x7F800000 < 2 ^ (1 + 8 + 23) ∧ 0x7F800000 / 2 ^ 23 % 2 ^ 8 = 2 ^ 8 - 1 ∧ 0x7F800000 % 2 ^ 23 = 0) ∧
      (0x7F < 2 ^ (1 + 4 + 3) ∧ 0x7F / 2 ^ 3 % 2 ^ 4 = 2 ^ 4 - 1 ∧ 0x7F % 2 ^ 3 = 7) ∧ 0x7E % 2 ^ 3 ≠ 7 ∧
      (Val.fin false 3 0).num = some 3 ∧ (Val.fin false 1 5).num = some ((2 : ℚ) ^ (5 : Int)) ∧ (0 < 3 ∧ (-149 : Int) ≤ 3 ∧ (5 : Int) ≤ 127) := by
  refine ⟨by simp [floatRows], by decide, by decide, by decide, ?_, ?_, by decide⟩ <;> simp [Val.num]

/-- FormatValues: 1.5 on the grid of FP32, 2^128 beyond its largest number, and 128 beyond I8: what the rounding mode chooses. -/
theorem test_witness_rounding :
    ((1 : Int) - 127 - 23 ≤ -23 ∧ (3 / 2 : ℝ) < 2 ^ ((-23 : Int) + 23 + 1) ∧ (2 : ℝ) ^ ((-23 : Int) + 23) ≤ 3 / 2 ∧
      Chosen .rne false (3 / 2) (2 ^ (-23 : Int)) (3 * 2 ^ 22)) ∧
    ((2 : ℝ) ^ (128 : Int) < 2 ^ ((105 : Int) + 23 + 1) ∧ (2 : ℝ) ^ ((105 : Int) + 23) ≤ 2 ^ (128 : Int) ∧
      Chosen .rz true (2 ^ (128 : Int)) (2 ^ (105 : Int)) (2 ^ 23)) ∧
    Chosen .rup false 128 1 128 ∧ Chosen .rdn true 128 1 128 := by
  refine ⟨⟨by norm_num, by norm_num, by norm_num, ?_⟩, ⟨by norm_num, by norm_num, ?_⟩, ?_, ?_⟩ <;> norm_num [Chosen]

/-- QuantAndTranspose: turns before the last cycle and in it, and the scale of blocks of zeros. -/
theorem test_witness_quant_turns :
    let d : TDesc := { fmt := 3, rows := 1, cols := 32, scaleOn := true, scaleA := 5 }
    let cap : Cap := { d := d, a := { fmt := 0, rows := 1, cols := 32 }, dOn := true, rows := [[]] }
    let rows := cap.rows ++ [[]]
    let value (r k : Nat) : Val := cap.a.format.decode ((rows.getD r []).getD k 0)
    d.illegal = false ∧ 0 + 1 < 2 * d.rows ∧ 2 * d.rows ≤ 1 + 1 ∧ rows.length = 2 * d.rows ∧
      (∀ k, (value 0 k).isZero = true ∧ value 0 k ≠ .nan) ∧ (0 + 1 < Nat.max 1 (Nat.max 2 1) ∧ Nat.max 1 (Nat.max 2 1) ≤ 1 + 1) := by
  refine ⟨by decide +kernel, by decide, by decide, by decide, fun k => ?_, by decide⟩
  show (Fmt.decode _ ((List.getD [] k 0))).isZero = true ∧ Fmt.decode _ (List.getD [] k 0) ≠ .nan
  simp only [List.getD_nil]
  decide +kernel

/-- IndexedStorage: two granules of one bank, and a third. -/
theorem test_witness_indexed_turns :
    let reached (offs : List Nat) : List Nat := offs.flatMap fun a => (List.range ((a + 4 - 1) / 64 + 1 - a / 64)).map fun k => a / 64 + k
    reached [0, 1024] = [0, 16] ∧ reached [0, 1022, 2048] = [0, 15, 16, 32] ∧
      (∃ g ∈ reached [0, 1022, 2048], ∃ h ∈ reached [0, 1022, 2048], ∃ l ∈ reached [0, 1022, 2048],
        g % 16 = h % 16 ∧ h % 16 = l % 16 ∧ g ≠ h ∧ g ≠ l ∧ h ≠ l) ∧
      ¬ (∃ g ∈ reached [0, 1024], ∃ h ∈ reached [0, 1024], ∃ l ∈ reached [0, 1024],
        g % 16 = h % 16 ∧ h % 16 = l % 16 ∧ g ≠ h ∧ g ≠ l ∧ h ≠ l) ∧ 8 ≤ 32 ∧
      ({ rows := [[0], [5]] } : Cap).rows = [({ rows := [[0], [5]] } : Cap).rows.getD 0 [], ({ rows := [[0], [5]] } : Cap).rows.getD 1 []] := by
  decide +kernel

/-- TransferRows, Sends: routes inside the pitch in both directions, seams declared once, and landings of granules at the end
of the scratchpad and of lines of equal and unequal widths. -/
theorem test_witness_landings :
    let t := Tests.vecTile
    (0 ≤ ((2 : Nat) : Int) + -2 ∧ 0 ≤ ((1 : Nat) : Int) + 1) ∧ (8 * 1 < 9 ∧ ¬ 8 * 2 < 9) ∧ ([24] : List Nat).Nodup ∧
      (0xBFFC0 % 64 = 0 ∧ 0xBFFC0 + 64 ≤ 0xC0000 ∧ (List.replicate 64 255).length = 64 ∧ ∀ b ∈ List.replicate 64 255, b < 256) ∧
      (t.gen ≠ 0 ∧ t.spm.wf = true ∧ t.grid.wf = true ∧ t.side.wf = true) ∧
      (Tests.looseTile.configured 1 = false ∧ t.configured 1 = true ∧ (t.descOf 1).w = 32 ∧ (t.descOf 1).w ≠ 16 ∧ (t.descOf 1).illegal = false ∧
        t.descCur 1 = true ∧ 1 ≤ at' 1 (Vector.replicate 16 1) 1) := by
  decide +kernel

/-- ResultsLand: loads and stores at the last address, current and stale granules in trap mode, bytes of the side file and of
a row, and a row that a later write has cancelled. -/
theorem test_witness_stores_land :
    let t := Tests.vecTile
    let l : List MByte := [{ addr := 127, val := 5 }]
    (0xBFFF8 % 2 ^ 3 = 0 ∧ 0xBFFF8 + 2 ^ 3 ≤ 0xC0000 ∧ 3 < 4) ∧ t.staleTrap = false ∧
      (Tests.strictTile.staleTrap = true ∧ Tests.strictTile.spmCur 0 = false) ∧
      ((∀ b ∈ l, b.mask < 256) ∧ (∀ b ∈ l, b.addr < 128) ∧ ∀ b ∈ l, b.addr < 4096) ∧
      (t.cancelled 1 0 0 = false ∧ ({ t with cutAt := (Vector.replicate 16 0).set 1 5, cutBy := Vector.replicate 16 9 } : Tile).cancelled 1 0 3 = true) := by
  decide +kernel

/-- CycleEndEffects: streams that are stale and current, of both modes, an EPOCH at its end, and tags up to GEN. -/
theorem test_witness_cycle_ends :
    let t : Tile := { Tests.vecTile with s := (Vector.replicate 16 {}).set 1 { mode := 1, tag := 1 } |>.set 2 { tag := 1 } }
    t.gen ≠ 0 ∧ (t.streamStale 0 = true ∧ t.streamStale 1 = false ∧ (t.streamOf 1).mode ≠ 0 ∧ t.streamStale 2 = false ∧ (t.streamOf 2).mode = 0) ∧
      4095 ≤ at' 1 ({ t with epoch := Vector.replicate 16 4095 } : Tile).epoch 3 ∧ (t.vflags < 32 ∧ t.mflags < 32) ∧
      ((∀ e, (t.regOf e 0).tag ≤ t.gen) ∧ (at' {} t.m 0).tag ≤ t.gen ∧ (at' {} t.s 1).tag ≤ t.gen ∧ at' 0 t.descTag 0 ≤ t.gen ∧
        t.spmTag.read 0 ≤ t.gen ∧ t.sideTag.read (0 / 64) ≤ t.gen) := by
  refine ⟨by decide +kernel, by decide +kernel, by decide +kernel, by decide +kernel, fun e => ?_, by decide +kernel⟩
  cases e <;> decide +kernel

/-- SemaphoreOps: SCAS of the count to a value beyond the ceiling, SEXP that reaches 2^32, a ring configuration that is taken
and ones that are not, rings with and without slots, whose semaphores admit, hold up and refuse. -/
theorem test_witness_rings :
    let z : Sem := { count := 2, ceiling := 3 }
    let y (free filled : Sem) : SyncState :=
      { sem := ((Vector.replicate 64 {}).set 1 free).set 2 filled
        ring := (Vector.replicate 16 {}).set 0 { slots := 4, slotSize := 1, freeSem := 1, filledSem := 2 } }
    (z.count = 2 ∧ z.ceiling < 4) ∧ (z.expValid = false ∧ 2 ^ 32 ≤ 2 ^ 32) ∧
      ({ z with expValid := true, expect := 2 ^ 32 - 1 } : Sem).expect + 1 = 2 ^ 32 ∧
      (let v : Word := BitVec.ofNat 64 (2 ^ 20 + 4 * 2 ^ 37 + 2 ^ 46 + 2 * 2 ^ 52)
       ¬ (wfld v 0 20 % 64 ≠ 0 ∨ 0xC0000 < wfld v 0 20 + wfld v 37 9 * wfld v 20 13 * 64 ∨ wfld v 37 9 = 0 ∨ 256 < wfld v 37 9 ∨
         wfld v 20 13 = 0 ∨ 4096 < wfld v 20 13 ∨ wfld v 46 6 = wfld v 52 6)) ∧
      (wfld (0 : Word) 46 6 = wfld (0 : Word) 52 6) ∧ (((y {} {}).r 1).slots = 0 ∧ ((y {} {}).r 0).slots ≠ 0 ∧ ((y {} {}).r 0).freeSem < 64) ∧
      ((((y { count := 1, ceiling := 4 } {}).s 1).take 1).2 = .done none ∧ (((y { ceiling := 4 } {}).s 1).take 1).2 = .wait ∧
        (((y { err := true } {}).s 1).take 1).2 = .trap trapMemory 0) ∧
      (((y {} { ceiling := 4 }).s 2).post 1).2 = .done none ∧ (((y {} { count := 4, ceiling := 4 }).s 2).post 1).2 = .trap trapCeiling 5 := by
  decide +kernel

/-- SemaphoreOps: cycles in which an operation of C fails and none does, a remote operation, and an ARRIVE semaphore that the
cycle leaves beyond its ceiling. -/
theorem test_witness_semaphore_cycle :
    let t (l : List SemOp) : Tile := { Tests.looseTile with
      sem := (Vector.replicate 64 { ceiling := 3 }).set 5 { arrive := true, count := 1, ceiling := 1 }, semOps := l }
    let op (src : SemSrc) (o : SemDo) : SemOp := { src := src, gid := 0, iid := 0, op := o }
    let run (l : List SemOp) := resolveOps ⟨(t l).sem, (t l).ring⟩ (t l).semOps
    (∃ q ∈ (run [op .c (.post 0 4)]).2, q.1.src = .c ∧ q.2 = .trap trapCeiling 4) ∧
      ((run [op .x (.post 0 1)]).2.all fun q => q.1.src != .c) = true ∧
      (∀ o ∈ [op (.remote 63 63) (.post 0 1)], ∀ y x, o.src = .remote y x → y < 64 ∧ x < 64) ∧
      (let u := semCycle (Tests.pit {} |> fun p => (Tests.world .C {}).envOf p 0) (t [op .copy (.arrive 5 1)])
       (at' {} u.sem 5).arrive = true ∧ (at' {} u.sem 5).ceiling < (at' {} u.sem 5).count) := by
  refine ⟨by decide +kernel, by decide +kernel, ?_, by decide +kernel⟩
  intro o ho y x h
  simp only [List.mem_singleton] at ho
  subst ho
  cases h
  decide

/-- PitchEnds: a launch of which a copy that stayed behind still writes a HOST tensor, and one without. -/
theorem test_witness_owed_record :
    let c : CopyRec := { Tests.copy (.spm [0] 0) (.region Tests.region [] Tests.entry) with left := [(0, 0)] }
    (Tests.dock c).hostWrites { id := 7, slice := 1 } = true ∧ (Tests.dock c).hostWrites { id := 8, slice := 1 } = false := by
  decide +kernel

/-- CopyDispatch: the same copy of a slice that may and that may not issue it, and a boundary that has failed. -/
theorem test_witness_left_dispatch :
    let c : CopyRec := { Tests.copy (.spm [0] 0) (.region Tests.region [] Tests.entry) with left := [(0, 0)] }
    let off : Slice := { id := 1, prot := true }
    CopyRec.locOf c.dst = some 1 ∧ CopyRec.locOf c.src ≠ some 2 ∧ c.left ≠ [] ∧ (Tests.dock c).copy? c.id = some c ∧ off.active = false ∧ ({} : Slice).active = true ∧
      (c.next < c.total ∧ c.nextRun.1 < c.total ∧ { c with next := 64 }.total ≤ { c with next := 64 }.nextRun.1) ∧
      at' 0 ({ seams := (Vector.replicate 4 0).set 2 3 } : Dev).seams 2 = 3 ∧
      CopyRec.locOf (.region Tests.region [] #v[0, 64, 0, 0x27]) = some 2 := by
  decide +kernel

/-- CopyProgress: requests that read HBM for their source or for a line written in part, lines that are reported of each kind
of request, and a request that is the only one of its number. -/
theorem test_witness_reported_lines :
    let r : Req := { id := 5, k0 := 0, k1 := 16, phase := .carry [0] }
    let c := { Tests.copy (.spm [0] 0) (.region Tests.region [] Tests.hbmEntry) with reqs := [r] }
    let f := { Tests.copy (.region Tests.region [] Tests.hbmEntry) (.spm [0] 0) with reqs := [{ r with phase := .fetch }] }
    (CopyRec.locOf c.dst = some 0 ∧ ∀ j < 16, ((c.dstByte (0 + j)).all fun a => a % 64 != 63) = true) ∧
      (CopyRec.locOf f.src = some 0 ∧ ({ r with phase := .fetch } : Req).phase = .fetch) ∧
      (c.dstByte r.k0).map (fun a => a / 64) = some 0 ∧ ({ r with retry := true } : Req).retry = true ∧
      (∀ o ∈ c.reqs, o.id = 5 → o = r) ∧ ({ r with phase := .slow } : Req).phase = .slow := by
  decide +kernel

/-- Messages: a take of a tile that has stopped, and one of a tile that runs. -/
theorem test_witness_stopped_wait :
    let frozen : Pitch := Tests.pit { Tests.looseTile with mode := .frozen }
    waitsAt (.take 2 1) = true ∧ (frozen.tiles.getD 0 {}).mode = .frozen ∧ (Tests.pit Tests.looseTile).allStopped = false ∧
      ((Tests.pit Tests.looseTile).tiles.getD 0 {}).mode ≠ .frozen ∧ waitsAt (.post 2 1) = false := by
  decide +kernel

/-- LoadInX: a stale granule in trap mode, and a current one. -/
theorem test_witness_load_stale :
    let now : Tile := { Tests.strictTile with spmTag := [(0, 1)] }
    Tests.strictTile.Readable .X [0] ∧ (let a := (Tests.strictTile.reg .X 0 + BitVec.ofInt 64 0).toNat; a + 2 ^ 3 ≤ 0xC0000 ∧ a % 2 ^ 3 = 0 ∧ a / 64 = 0) ∧
      Tests.strictTile.staleTrap = true ∧ Tests.strictTile.spmCur 0 = false ∧ now.staleTrap = true ∧ now.spmCur 0 = true ∧ now.Readable .X [0] :=
  ⟨.inr (by decide), by decide, rfl, by decide, rfl, by decide, .inr (by decide)⟩

/-- Branches, stale operands: the first and the last stale register of C and of X, synchronisation in both engines with an
immediate amount and with registers, and a wait whose lookahead found a stale amount. -/
theorem test_witness_stale_operands :
    let l : Look := { eng := .C, at_ := 0, pc := 0, pos := 0, kind := .take 3, amount := 2, stale := true }
    let t : Tile := { Tests.strictTile with looks := [l] }
    let c (u : Tile) := (Tests.world .C u).ctxAt (Tests.pit u) 2
    let o : SyOps := { rb := 31, obj := 3, imm := true }
    let remote : SyOps := { rsel := true, rc := 15 }
    t.staleTrap = true ∧ (t.regStale .C 1 = true ∧ t.regStale .C 31 = true ∧ t.regStale .X 1 = true ∧ t.regStale .X 15 = true) ∧
      (∃ q ∈ syncRows, (q.useB = true ∧ q.useA = false) ∧ o.imm = true) ∧ (∃ q ∈ syncRows, q.useA = true ∧ remote.imm = false) ∧
      (∃ q ∈ syncRows, q.waits = true) ∧ lookOf Tests.strictTile (c Tests.strictTile) = none ∧ lookOf t (c t) = some l ∧
      (remote.rsel = true ∧ Instr.spost {} remote ≠ .smcfg {} remote ∧ Instr.spost {} remote ≠ .rcfg {} remote) := by
  refine ⟨rfl, by decide, ⟨_, .tail _ (.head _), by decide⟩, ⟨_, .head _, by decide⟩,
    ⟨⟨.swait, false, true, false, true, fun o _ b => .take o.index b.toNat⟩, by simp [syncRows], rfl⟩, by decide, by decide, rfl, by simp, by simp⟩

/-- Configuration, TCFG: the last format, row count, column counts and block length that are a descriptor, each condition that makes
none, and scales that end at the side file's last byte and beyond it. -/
theorem test_witness_descriptors :
    let noDesc (v : Word) : Bool := wfld v 4 6 != 0 || wfld v 49 15 != 0 || match formatCodes[wfld v 0 4]? with
      | none => true
      | some (_, limit, scaled) => decide (64 < wfld v 10 7) || (wfld v 17 9 == 0 && wfld v 10 7 != 0) || decide (limit < wfld v 17 9) ||
          decide (5 < wfld v 27 3) || (v.getLsbD 30 && !scaled)
    let bytes (v : Word) : Nat := let a := 2 ^ wfld v 27 3
      wfld v 31 6 * 64 + (wfld v 17 9 + a - 1) / a * ((wfld v 10 7 + 32 / a - 1) / (32 / a))
    let w (d : TDesc) : Word := d.toWord 0
    (∀ q ∈ [(9, 128), (5, 256), (0, 32)], noDesc (w { fmt := q.1, rows := 64, cols := q.2 }) = false ∧
        noDesc (w { fmt := q.1, rows := 64, cols := q.2 + 1 }) = true) ∧
      noDesc (w { fmt := 3, rows := 64, cols := 128, scaleOn := true, scaleA := 5 }) = false ∧ noDesc (w {}) = false ∧
      noDesc (w { fmt := 10 }) = true ∧ noDesc (w { rows := 65, cols := 32 }) = true ∧ noDesc (w { rows := 1 }) = true ∧
      noDesc (w { rows := 1, cols := 1, scaleA := 6 }) = true ∧ noDesc (w { rows := 1, cols := 1, scaleOn := true }) = true ∧
      noDesc (BitVec.ofNat 64 16) = true ∧ noDesc (BitVec.ofNat 64 (2 ^ 63)) = true ∧
      (let edge := w { fmt := 3, rows := 16, cols := 128, scaleOn := true, scaleA := 5, sslice := 63 }
       noDesc edge = false ∧ edge.getLsbD 30 = true ∧ bytes edge = 4096) ∧
      (let over_ := w { fmt := 3, rows := 17, cols := 128, scaleOn := true, scaleA := 5, sslice := 63 }
       noDesc over_ = false ∧ over_.getLsbD 30 = true ∧ 4096 < bytes over_) := by
  decide +kernel

set_option maxRecDepth 20000 in
/-- CopyRegion, the regions themselves: the 64 bytes of a descriptor and an index list, the last element of a region and of a
gathered one, whose addresses stay in range, at the ends of 64 bits, and the first addresses that leave them. -/
theorem test_witness_regions :
    let d := Tests.region
    let term (j : Int) (k : Nat) : Int := (at' 0 d.start k + j) * at' 0 d.stride k
    let fits (z : Int) : Bool := decide (-(2 ^ 63) ≤ z) && decide (z < 2 ^ 63)
    let formed (off : Int) (l : List Int) : Bool := l.all fits && (List.range (l.length + 1)).all fun n => fits (off + (l.take n).sum)
    let last : List Int := [term 3 0, term 0 1, term 0 2, term 0 3]
    Tests.region.toBytes.length = 64 ∧ (indexList Tests.descTile 0 1).length = 1 ∧ (∀ k < 4, 0 < at' 0 d.extent k) ∧
      3 < at' 0 d.extent 0 ∧ formed 0 last = true ∧ formed (2 ^ 63 - 49) last = true ∧ formed (2 ^ 63 - 48) last = false ∧
      formed (-(2 ^ 63)) last = true ∧ formed 0 [term 3 0, term (-(2 ^ 31)) 1] = true ∧ 0 < ([-(2 ^ 31)] : List Int).length ∧
      formed (-(2 ^ 63) - 1) last = false := by
  decide +kernel

/-- CopyTensorForms: descriptors that do not fit, at the end of the scratchpad and beyond it, stale ones in trap mode, and ones
that can be read in both modes. -/
theorem test_witness_tensor_reads :
    let now : Tile := { Tests.strictTile with spmTag := [(0, 1)] }
    (Fits 0xBFFC0 64 64 ∧ ¬ Fits 0xC0000 64 64 ∧ ¬ Fits 32 64 64) ∧
      (Fits 0 64 64 ∧ Tests.strictTile.staleTrap = true ∧ Tests.strictTile.spmCur (0 / 64) = false) ∧
      (now.staleTrap = true ∧ now.spmCur (0 / 64) = true) ∧ Tests.descTile.staleTrap = false ∧ now.Readable .X [0, 0] :=
  ⟨by simp [Fits], ⟨by simp [Fits], rfl, by decide⟩, ⟨rfl, by decide⟩, rfl, .inr (by decide)⟩

/-- A tile in trap mode whose sixteen FP32 registers are configured and whose rows 0 and
1 of register 2 have been written. -/
def Tests.strictVec : Tile :=
  { Tests.vecTile with staleTrap := true, epoch := Vector.replicate 16 1, gridTag := [(2 * 64, 1), (2 * 64 + 1, 1)] }

/-- VectorLines: the last register and line, scale geometry at its last value, block scales of 255 and of another value in a current
granule, and line forms that raise no trap of their operands' state, one that reads stale rows in trap mode and one that reads none. -/
theorem test_witness_line_reads :
    let d : TDesc := { fmt := 3, rows := 4, cols := 32, scaleOn := true, scaleA := 5 }
    let t : Tile := { Tests.vecTile with side := [⟨0, 255⟩, ⟨1, 130⟩], sideTag := [(0, 1)] }
    let bad := Instr.vadd {} { d := 0x141, a := 0x240, b := 0x343 }
    let good := Instr.vneg {} { d := 0x141, a := 0x241 }
    let stale (i : Instr) : Bool := let cap := vCapture i Tests.strictVec
      let o := vopsOf i
      vLineStale i Tests.strictVec cap (vLanes i Tests.strictVec cap o o.d o.a o.b none) o.d o.a o.b (vWritesB i)
    (15 < 16 ∧ 63 < 64) ∧ d.scaleA ≤ 5 ∧ (d.scaleOn = true ∧ d.format = .f8a) ∧
      (t.sideByte 0 = 255 ∧ t.sideByte 1 ≠ 255 ∧ t.sideCur 0 = true ∧ t.sideCur 64 = false) ∧
      (d.format.decode 0x38).num.isSome = true ∧ (.vadd, 4, 2) ∈ lineRows ∧ (.vneg, 4, 2) ∈ lineRows ∧
      Tests.strictVec.staleTrap = true ∧
      (vTrap bad Tests.strictVec (vCapture bad Tests.strictVec) = none ∧ vWhole bad = false ∧ stale bad = true) ∧
      (vTrap good Tests.strictVec (vCapture good Tests.strictVec) = none ∧ vWhole good = false ∧ stale good = false) := by
  refine ⟨by decide, by decide, by decide, by decide +kernel, ?_, by simp [lineRows], by simp [lineRows], rfl, by decide +kernel, by decide +kernel⟩
  rfl

/-- VectorWholeForms: in trap mode a whole-tile form whose one row of B is stale, one whose row is current, and the turn of a row
that reads a stale element and one that does not. -/
theorem test_witness_whole_reads :
    let t := Tests.strictVec
    let i (b : Nat) := Instr.vadd {} { d := 0x100, a := 0x200, b := b }
    let stale (b : Nat) : Bool := (List.range 4).any fun k => decide (k < lineLen (t.descOf 3) b) && !t.rowCur (fieldTile b) (linePos (t.descOf 3) b k).1
    let row (r : Nat) : Bool := let o : VOps := { d := 0x100, a := 0x200 }
      let cap := vCapture (.vneg {} o) t
      vLineStale (.vneg {} o) t cap (vLanes (.vneg {} o) t cap o (0x140 + r) (0x240 + r) 0 none) (0x140 + r) (0x240 + r) 0 false
    t.staleTrap = true ∧ (vTrap (i 0x343) t (vCapture (i 0x343) t) = none ∧ vWhole (i 0x343) = true ∧ stale 0x343 = true) ∧
      (vTrap (i 0x241) t (vCapture (i 0x241) t) = none ∧ stale 0x241 = false) ∧ (vGridB (i 0x343) = true ∧ gridWhole 0x343 = false) ∧
      row 1 = false ∧ row 2 = true := by
  decide +kernel

/-- LaneValues: lanes of which one holds a NaN and none does, values that are no NaN and zeros of both signs, and the last code of
a format. -/
theorem test_witness_compares :
    let v := { Tests.lanes .fp32 32 with A := fun k => if k = 0 then 0x7FC00000 else 0, B := fun _ => 0 }
    (0 < v.nA ∧ (v.av 0).isNan = true) ∧ (v.av 1).isNan = false ∧ (Val.fin true 0 0 ≠ .nan ∧ Val.inf false ≠ .nan) ∧
      (0xFF < 2 ^ (1 + 5 + 2) ∧ (⟨.f8b, 5, 2, 15, 57344, true, 0x7E⟩ : FloatRow) ∈ floatRows) := by
  refine ⟨by decide +kernel, by decide +kernel, by simp, by simp [floatRows]⟩

/-- VectorTraps: what an instruction finds stale at its issue in trap mode: its mask, a selector, a mask source, the register of
VBCST, and a descriptor of A, of B and of the D that is read; and one that finds nothing stale. -/
theorem test_witness_stale_at_issue :
    let t := Tests.strictTile
    let i := Instr.vneg {} { d := 0x141, a := 0x241 }
    t.staleTrap = true ∧ (t.maskStale 1 = true ∧ t.maskStale 7 = true ∧ t.regStale .V 31 = true ∧ t.regStale .V 0 = false) ∧
      (vGridA i = true ∧ t.descCur 2 = false) ∧ (vGridB (.vadd {} {}) = true ∧ t.descCur (fieldTile 0x343) = false) ∧
      (Tests.strictVec.staleTrap = true ∧ ({} : VOps).mask = 0 ∧ Tests.strictVec.descCur 2 = true ∧ vGridB i = false) ∧
      (isVec i = true ∧ vUnit i = .line ∧ (Tests.strictVec.engOf .V).busyA ≤ Tests.strictVec.tl) := by
  decide +kernel

/-- VectorTraps, storage: streams that are stale and current at issue, lanes whose index or data row is stale, and the turns of rows
that read a stale row, a stale granule, and a stale granule of a gather in each of its two turns. -/
theorem test_witness_vector_stale_turns :
    let t : Tile := { Tests.strictVec with
      desc := Tests.vecTile.desc.set 2 { fmt := 8, rows := 4, cols := 4 }, s := (Vector.replicate 16 {}).set 1 { tag := 1 } }
    let trap (i : Instr) := vTrap i t (vCapture i t)
    let cap : Cap := { d := t.descOf 1, a := t.descOf 3, aOn := true, offs := [0, 1024] }
    let reached (offs : List Nat) : List Nat := offs.flatMap fun a => (List.range ((a + 4 - 1) / 64 + 1 - a / 64)).map fun k => a / 64 + k
    (trap (.vld {} { d := 0x141, a := 2 }) = none ∧ trap (.vst {} { d := 2, a := 0x241 }) = none ∧
        trap (.vgath {} { d := 0x141, a := 0x242, b := 1 }) = none ∧ trap (.vscat {} { d := 1, a := 0x343, b := 0x241 }) = none) ∧
      t.streamStale 2 = true ∧ t.streamStale 1 = false ∧
      (0 < lineLen (t.descOf 1) 0x141 ∧ 0 < lineLen (t.descOf 2) 0x242 ∧ laneActive 0 0 32 0 = true ∧ t.rowCur 2 2 = false ∧ t.rowCur 2 1 = true ∧
        t.rowCur 3 3 = false) ∧
      (cap.aOn = true ∧ t.rowCur 3 0 = false ∧ (0 < cap.a.rows ∧ 0 < cap.d.rows) ∧ t.spmCur 0 = false ∧ cap.d.w = 32) ∧
      (reached cap.offs = [0, 16] ∧ t.spmCur 16 = false ∧ (reached cap.offs).find? (fun k => k % 16 == 16 % 16) = some 0) ∧
      ({ at_ := 3, ph := 1, own := { eng := .V }, iss := 0, eff := .job (.vgath {} {}) cap 1 } : Pend).own.eng = .V := by
  decide +kernel

/-- ArrayInstructions in trap mode: stale descriptors, a stale accumulator, and operands that are all current. -/
theorem test_witness_array_reads :
    let t : Tile := { Tests.strictVec with
      desc := ((Tests.vecTile.desc.set 1 { fmt := 2, rows := 4, cols := 4 }).set 2 { fmt := 2, rows := 4, cols := 4 }) }
    let now : Tile := { t with gridTag := [1, 2, 3].flatMap fun r => (List.range 4).map fun k => (r * 64 + k, 1) }
    (Tests.strictTile.staleTrap = true ∧ Tests.strictTile.descCur 3 = false) ∧
      (t.staleTrap = true ∧ ∀ r < 16, t.descCur r = true) ∧
      (0 < (t.descOf 3).rows ∧ 0 < (t.descOf 3).cols ∧ pendingAcc t 3 0 0 = none ∧ t.rowCur 3 0 = false) ∧
      (now.staleTrap = true ∧ (∀ r ∈ [1, 2, 3], ∀ k < 4, now.rowCur r k = true ∧ (now.descOf r).scaleOn = false ∧
        (now.descOf r).rows = 4) ∧ now.configured 3 = true) ∧
      (arrayTable.find? fun x => x.1 == .bf16 && x.2.1 == .bf16 && x.2.2.1 == .fp32) = some (.bf16, .bf16, .fp32, 16, 8, 8) := by
  decide +kernel

/-- TransferIssue, TransferRows, Sends in trap mode: descriptors and streams that are stale and current, and turns of rows and beats
over stale granules, rows and scales. -/
theorem test_witness_transfer_reads :
    let t : Tile := { Tests.strictVec with s := (Vector.replicate 16 {}).set 1 { tag := 1 } }
    let cap : Cap := { d := { fmt := 3, rows := 4, cols := 32, scaleOn := true, scaleA := 5 }, offs := [0] }
    (Tests.strictTile.staleTrap = true ∧ Tests.strictTile.descCur 2 = false ∧ Tests.strictTile.streamStale 1 = true) ∧
      (t.staleTrap = true ∧ t.descCur 1 = true ∧ t.descCur 2 = true ∧ t.streamStale 1 = false) ∧
      ((t.engOf .M).busyB ≤ t.tl ∧ (t.engOf .N).busyA ≤ t.tl) ∧
      (t.spmCur (0 / 64) = false ∧ 0 < (cap.d.cols * cap.d.w + 7) / 8 ∧ 0 < cap.d.nk ∧ 0 < 64 * Nat.min 8 (1 - 8 * 0)) ∧
      (t.rowCur 2 2 = false ∧ t.rowCur 2 1 = true ∧ t.sideCur (cap.d.scaleByte 0 0) = false ∧ cap.d.format = .f8a) ∧
      (lineLen (t.descOf 2) 0x242 = 4 ∧ t.rowCur 2 (linePos (t.descOf 2) 0x242 0).1 = false ∧
        ∀ k < 4, t.rowCur 2 (linePos (t.descOf 2) 0x241 k).1 = true) := by
  decide +kernel

/-- DeviceRegisters: accesses that reach no register, one of each kind, and what is due now. -/
theorem test_witness_register_access :
    let s (sl : Slice) : State := { Tests.boss [] with slices := [sl], agenda := [] }
    let mute (s : State) (fn off size : Nat) (mctp : Bool) : Bool := size != 8 || off % 8 != 0 || !s.dev.booted || (fn != 0 &&
      (s.slice? (fn - 1)).all fun sl => !sl.vf || (sl.prot && sl.tdisp != .run) || (sl.prot && mctp))
    let away : State := s { id := 1, vf := true }
    let i : Input := .write 1 0 4 8 5 false
    mute away 0 0 4 false = true ∧ mute away 0 4 8 false = true ∧ mute State.reset 0 0 8 false = true ∧ mute away 1 0 8 false = true ∧
      mute (s { id := 1, vf := false }) 2 0 8 false = true ∧ mute (s { id := 1, vf := true, prot := true, tdisp := .locked }) 2 0 8 false = true ∧
      mute (s { id := 1, vf := true, prot := true, tdisp := .run }) 2 0 8 true = true ∧
      mute (s { id := 1, vf := true, prot := true, tdisp := .run }) 2 0 8 false = false ∧ mute away 2 0 8 false = false ∧ away.agenda = [] ∧
      ([(0, i), (9, .sensor 1)].find? fun q => decide (q.1 ≤ away.tick)) = some (0, i) ∧
      ([(0, Input.read 1 0 4 8 false)].find? fun q => decide (q.1 ≤ away.tick)) = some (0, Input.read 1 0 4 8 false) := by
  decide +kernel

/-- TillAndReceipts: a debit that leaves the level at 0, and above it, and a half nanosecond in which nothing happens. -/
theorem test_witness_purse :
    let t : Tile := { Tests.looseTile with unsent := (Vector.replicate 7 0).set 2 7 }
    let s : State := { Tests.boss [] with agenda := [], inputs := [(1, .sensor 1)] }
    at' 0 t.unsent 2 = 7 ∧ max (-(purseUnits 1)) (min (purseUnits 1) (7 * 5 ^ 12 - 7 * 5 ^ 12)) ≤ 0 ∧
      0 < max (-(purseUnits 1)) (min (purseUnits 1) (7 * 5 ^ 12 + 1 - 7 * 5 ^ 12)) ∧ ({} : Slice).exhausted = false ∧
      s.agenda = [] ∧ (∀ q ∈ s.inputs, s.tick < q.1) ∧ s.dev.booted = true := by
  decide +kernel

/-- CopyProgress: requests of copies from a scratchpad that stayed behind a freeze, toward a tensor and toward a tile. -/
theorem test_witness_left_read :
    let r : Req := { id := 5, k0 := 0, k1 := 64, phase := .slow }
    let c := { Tests.copy (.spm [0] 0) (.region Tests.region [] Tests.entry) with left := [(0, 0)], reqs := [r], kept := List.replicate 64 7 }
    (c.reqs.find? fun q => q.id == 5 && (q.phase == .fetch || q.phase == .slow)) = some r ∧ c.left ≠ [] ∧ c.toTensor = true ∧
      (∃ ts off, c.src = .spm ts off) ∧ (Tests.dock c).copy? c.id = some c ∧ (c.ks r).length = 64 ∧
      { c with dst := .spm [0] 4096 }.toTensor = false := by
  refine ⟨by decide +kernel, by decide, by decide +kernel, ⟨_, _, rfl⟩, by decide +kernel, by decide +kernel, by decide +kernel⟩

/-- The words of one line of C in a pitch of 2 by 1 tiles. -/
def Tests.lineWords (s : String) : Option (List Nat) :=
  ((lineTokens s.toList).bind fun ts => asmLine .C ts).bind fun l =>
    l.foldr (fun q r => r.bind fun ws => (q.assemble .C { w := 2, h := 1 } 0).map fun i => encode i ++ ws) (some [])

set_option maxRecDepth 20000 in
/-- Lines of the complete image of chapter 05, with the words that it gives for them. -/
theorem test_assembled_lines :
    Tests.lineWords "  ADDI g4, g2, -3 ^sn   // cyc 2" = some [0x18620BFD] ∧
      Tests.lineWords "MOVI g1, tile(1,0)+0x400" = some [0x0A208000, 0x00100400] ∧
      Tests.lineWords "MOVI g2, 3*4 | MOVI g3, 5" = some [0x02210000, 0x0000000C, 0x0A218000, 0x00000005] ∧
      Tests.lineWords "ADDI g4, g2, 512" = none := by
  decide +kernel

/-- Grid operands of R154 and fp values of chapter 05. -/
theorem test_assembled_operands :
    AsmAt.grid [.name "T3", .sign ".", .name "h5"] = some 0x345 ∧ AsmAt.grid [.name "T3", .sign ".", .name "a"] = some 0x300 ∧
      AsmAt.grid [.name "T15", .sign ".", .name "d63"] = some 0xFFF ∧ AsmAt.grid [.name "T3", .sign ".", .name "h64"] = none ∧
      Asm.fpCode .bf16 false 375 (-3) = some (0x3EC0, false) ∧ Asm.fpCode .bf16 true 2 0 = some (0xC000, false) := by
  decide +kernel

end
end

/-! What a key slot holds, and what the transmitter of a fabric port does with flits and keys (R414, R415). -/

namespace Sys2Proof.Machine

theorem slotAt_setIfInBounds_self (v : Vector KeySlot 2) {i : Nat} (hi : i < 2) (k : KeySlot) :
    slotAt (v.setIfInBounds i k) i = k := by
  simp [slotAt, at', hi]

@[simp] theorem slotAt_setIfInBounds_ne (v : Vector KeySlot 2) {i j : Nat} (h : i ≠ j) (k : KeySlot) :
    slotAt (v.setIfInBounds i k) j = slotAt v j := by
  simp [slotAt, at', h]

/-- There is no third slot. -/
theorem slotAt_of_two_le (v : Vector KeySlot 2) {i : Nat} (hi : 2 ≤ i) : slotAt v i = {} := by
  simp [slotAt, at', Vector.getElem?_eq_none hi]

/-- A slot after a write is either the slot written or what it was. -/
theorem slotAt_setIfInBounds_cases (v : Vector KeySlot 2) (i j : Nat) (k : KeySlot) :
    slotAt (v.setIfInBounds i k) j = k ∨ slotAt (v.setIfInBounds i k) j = slotAt v j := by
  by_cases h : i = j
  · subst h
    by_cases hi : i < 2
    · exact .inl (slotAt_setIfInBounds_self v hi k)
    · exact .inr (by rw [slotAt_of_two_le _ (by omega), slotAt_of_two_le _ (by omega)])
  · exact .inr (slotAt_setIfInBounds_ne v h k)

/-- The receiving half of a port, which sending flits leaves alone. -/
def Port.receiver (v : Port) : Vector KeySlot 2 × Nat × Nat × List Nat × Bool × List (Nat × List Byte) :=
  (v.rx, v.rxSlot, v.expect, v.nacks, v.down, v.inbox)

@[simp] theorem Port.emit_receiver (v : Port) (ty dpkg : Nat) : (v.emit ty dpkg).receiver = v.receiver := rfl

@[simp] theorem Port.switch_receiver (v : Port) : v.switch.receiver = v.receiver := rfl

@[simp] theorem Port.installTx_receiver (v : Port) (new : KeySlot) : (v.installTx new).receiver = v.receiver := by
  unfold Port.installTx
  split <;> rfl

/-- Both slots are installed, and the live one may give way to the other (R415). -/
def Port.ReadyToSwitch (v : Port) : Prop :=
  v.down = false ∧ (slotAt v.tx v.txSlot).valid = true ∧ (slotAt v.tx (1 - v.txSlot)).valid = true

/-- Before a flit the transmitter stays with its slot, or goes over where the other slot has a key. -/
theorem Port.settled_cases (v : Port) : v.settled = v ∨ (v.ReadyToSwitch ∧ v.settled = v.switch) := by
  unfold Port.settled
  dsimp only
  split
  case isTrue h =>
    simp only [Bool.and_eq_true, Bool.not_eq_true'] at h
    obtain ⟨⟨⟨hdown, hlive⟩, hother⟩, -⟩ := h
    exact .inr ⟨⟨hdown, hlive, hother⟩, rfl⟩
  case isFalse => exact .inl rfl

/-- The counter kept for the marker forces the transmitter over (R415). -/
theorem Port.settled_of_last_counter {v : Port} (h : v.ReadyToSwitch)
    (hc : 2 ^ 40 - 1 ≤ (slotAt v.tx v.txSlot).counter) : v.settled = v.switch := by
  obtain ⟨hdown, hlive, hother⟩ := h
  simp only [Port.settled, hdown, hlive, hother, decide_eq_true hc, Bool.not_false, Bool.and_self, Bool.or_true, if_true]

@[simp] theorem Port.settled_receiver (v : Port) : v.settled.receiver = v.receiver := by
  rcases v.settled_cases with h | ⟨-, h⟩ <;> simp [h]

theorem Port.drainQueue_receiver (n : Nat) (v : Port) : (v.drainQueue n).receiver = v.receiver := by
  induction n generalizing v with
  | zero => rfl
  | succ n ih =>
    unfold Port.drainQueue
    split
    · rfl
    · next q l _ =>
      dsimp only
      split
      · exact (ih _).trans v.settled_receiver
      · exact v.settled_receiver

/-- The marker leaves under the old slot, which is retired, and the other slot is live (R415). -/
theorem Port.switch_slots {v : Port} (h : v.txSlot < 2) :
    v.switch.txSlot = 1 - v.txSlot ∧
      slotAt v.switch.tx v.txSlot =
        { slotAt v.tx v.txSlot with counter := (slotAt v.tx v.txSlot).counter + 1, valid := false } ∧
      slotAt v.switch.tx (1 - v.txSlot) = slotAt v.tx (1 - v.txSlot) := by
  have hne : v.txSlot ≠ 1 - v.txSlot := by omega
  simp [Port.switch, Port.emit, KeySlot.retired, slotAt_setIfInBounds_self _ h, slotAt_setIfInBounds_ne _ hne]

/-- A new flit replaces what the replay buffer held under its SEQ, and no other flit joins it. -/
theorem Port.mem_emit_replay {v : Port} {ty dpkg : Nat} {f : Flit} (hf : f ∈ (v.emit ty dpkg).replay) :
    f ∈ v.replay ∨ f.counter = (slotAt v.tx v.txSlot).counter := by
  simp only [Port.emit, List.mem_append, List.mem_filter, List.mem_singleton] at hf
  rcases hf with ⟨hold, -⟩ | rfl
  · exact .inl hold
  · exact .inr rfl

/-- No slot that may encrypt has a counter of 2^40 or above (R415). -/
def Port.CountersInRange (v : Port) : Prop :=
  ∀ i, (slotAt v.tx i).valid = true → (slotAt v.tx i).counter < 2 ^ 40

theorem Port.emit_countersInRange {v : Port} (h : v.CountersInRange)
    (hc : (slotAt v.tx v.txSlot).counter < 2 ^ 40 - 1) (ty dpkg : Nat) : (v.emit ty dpkg).CountersInRange := by
  intro i hi
  simp only [Port.emit] at hi ⊢
  rcases slotAt_setIfInBounds_cases v.tx v.txSlot i
    { slotAt v.tx v.txSlot with counter := (slotAt v.tx v.txSlot).counter + 1 } with heq | heq
  · simp only [heq]
    omega
  · rw [heq] at hi ⊢
    exact h i hi

/-- The marker may use the last counter, because its slot is retired with it. -/
theorem Port.switch_countersInRange {v : Port} (h : v.CountersInRange) (hs : v.txSlot < 2) :
    v.switch.CountersInRange := by
  obtain ⟨-, hold, hother⟩ := Port.switch_slots hs
  intro i hi
  rcases (by omega : i = v.txSlot ∨ i = 1 - v.txSlot ∨ 2 ≤ i) with rfl | rfl | h2
  · simp [hold] at hi
  · rw [hother] at hi ⊢
    exact h _ hi
  · simp [slotAt_of_two_le _ h2] at hi

theorem Port.txSlot_lt_two_of_valid {v : Port} (h : (slotAt v.tx v.txSlot).valid = true) : v.txSlot < 2 := by
  by_contra hs
  simp [slotAt_of_two_le v.tx (Nat.le_of_not_lt hs)] at h

/-- Going over to another key keeps the counters in range, and so does the marker's own counter. -/
theorem Port.settled_countersInRange {v : Port} (h : v.CountersInRange) :
    v.settled.CountersInRange ∧ ∀ f ∈ v.settled.replay, f ∈ v.replay ∨ f.counter < 2 ^ 40 := by
  rcases v.settled_cases with heq | ⟨⟨-, hlive, -⟩, heq⟩
  · rw [heq]
    exact ⟨h, fun f hf => .inl hf⟩
  · rw [heq]
    refine ⟨Port.switch_countersInRange h (Port.txSlot_lt_two_of_valid hlive), fun f hf => ?_⟩
    exact (Port.mem_emit_replay (v := v) (ty := 3) (dpkg := 0) hf).imp_right fun hc => lt_of_eq_of_lt hc (h _ hlive)

/-- Every flit that the queue sends is encrypted below 2^40. -/
theorem Port.drainQueue_counters (n : Nat) {v : Port} (h : v.CountersInRange) :
    ∀ f ∈ (v.drainQueue n).replay, f ∈ v.replay ∨ f.counter < 2 ^ 40 := by
  induction n generalizing v with
  | zero => exact fun f hf => .inl hf
  | succ n ih =>
    obtain ⟨hrange, hmarker⟩ := Port.settled_countersInRange h
    unfold Port.drainQueue
    split
    · exact fun f hf => .inl hf
    · next q l _ =>
      dsimp only
      split
      · next hlive =>
        simp only [Port.live, Bool.and_eq_true, decide_eq_true_eq] at hlive
        obtain ⟨-, hcounter⟩ := hlive
        let u : Port := { v.settled with queue := l }
        intro f hf
        rcases ih (Port.emit_countersInRange (v := u) hrange hcounter q.1 q.2) f hf with hsent | hnew
        · rcases Port.mem_emit_replay hsent with hkept | hlast
          · exact hmarker f hkept
          · have : (slotAt u.tx u.txSlot).counter < 2 ^ 40 - 1 := hcounter
            exact .inr (by omega)
        · exact .inr hnew
      · exact hmarker

/-- R414, R415: the bytes of a new flit, over a payload that the model leaves free, and the bound on counters. -/
theorem saysFlitSend_holds : saysFlitSend := by
  intro v ty dpkg
  refine ⟨⟨(List.range 232).map fun i => Config.payload (slotAt v.tx v.txSlot).key (slotAt v.tx v.txSlot).counter i,
    by simp, rfl⟩, fun hbound => ?_⟩
  have hrange : Port.CountersInRange { v with queue := v.queue ++ [(ty, dpkg)] } := by
    intro i hi
    by_cases h2 : i < 2
    · exact hbound i h2
    · simp [slotAt_of_two_le _ (Nat.le_of_not_lt h2)] at hi
  exact Port.drainQueue_counters _ hrange

end Sys2Proof.Machine

/-! What a port does with a flit that arrives (R414 to R416). -/

namespace Sys2Proof.Machine

/-- The header of a flit as a number. -/
def flitHead (flit : List Nat) : Nat := leNat ((flit.take 8).map fun b => BitVec.ofNat 8 b)

/-- A valid slot opens the flit under one of the counters that it may have been encrypted with. -/
def Port.opens (v : Port) (flit : List Nat) : Bool :=
  let slot := fld (flitHead flit) 55 1
  let k := slotAt v.rx slot
  k.valid && (v.counters slot (fld (flitHead flit) 0 32)).any fun m => flitOpens k.key k.salt m flit

/-- What a port does with a flit, by what is wrong with it first. -/
theorem execFabricFlitReceive_eq (n : Nat) (flit : List Nat) (s : State) :
    execFabricFlitReceive n flit s =
      let v := s.port n
      let h := flitHead flit
      let slot := fld h 55 1
      let k := slotAt v.rx slot
      if v.down || flit.length != 256 then .next s
      else if !v.opens flit then .next (s.putPort n { v with nacks := v.nacks ++ [fld h 0 32] })
      else if fld h 0 32 != v.expect || decide (5 < fld h 56 8) then .next s
      else .next (s.putPort n (v.accept slot (fld h 56 8) (fld h 34 14) s.dev.pkg
        (flitText k.key k.salt k.counter flit))) := by
  simp only [Port.opens, Bool.not_and]
  rfl

/-- The next flit in order is judged under its slot's counter alone. -/
theorem Port.counters_expected (v : Port) (slot : Nat) : v.counters slot v.expect = [(slotAt v.rx slot).counter] := by
  by_cases hslot : slot = v.rxSlot <;> simp [Port.counters, hslot]

/-- The port after the expected flit of a slot, before what its TYPE does: SEQ and the slot's counter have gone on. -/
def Port.advanced (v : Port) (slot : Nat) : Port :=
  { v with
    expect := (v.expect + 1) % 2 ^ 32
    rx := v.rx.setIfInBounds slot { slotAt v.rx slot with counter := (slotAt v.rx slot).counter + 1 } }

section
variable (v : Port) (slot dpkg pkg : Nat) (text : List Byte)

theorem Port.accept_data {ty : Nat} (h : ty < 2) : v.accept slot ty dpkg pkg text =
    { v.advanced slot with inbox := if dpkg = pkg then v.inbox ++ [(ty, text)] else v.inbox } := by
  have h3 : ty ≠ 3 := by omega
  have h2 : ty ≠ 2 := by omega
  have hlt : ty < 3 := by omega
  by_cases hp : dpkg = pkg <;> simp [Port.accept, Port.advanced, h3, h2, hlt, hp]

theorem Port.accept_ack : v.accept slot 2 dpkg pkg text =
    { v.advanced slot with
      inbox := if dpkg = pkg then v.inbox ++ [(2, text)] else v.inbox
      replay := v.replay.drop (Config.acked (slotAt v.rx slot).key (slotAt v.rx slot).counter) } := by
  by_cases hp : dpkg = pkg <;> simp [Port.accept, Port.advanced, hp]

theorem Port.accept_marker : v.accept slot 3 dpkg pkg text =
    { v.advanced slot with
      rxSlot := 1 - slot
      rx := (v.advanced slot).rx.setIfInBounds slot { slotAt (v.advanced slot).rx slot with valid := false } } := rfl

theorem Port.accept_other {ty : Nat} (h : 3 < ty) : v.accept slot ty dpkg pkg text = v.advanced slot := by
  have h3 : ty ≠ 3 := by omega
  have h2 : ty ≠ 2 := by omega
  have hlt : ¬ ty < 3 := by omega
  simp [Port.accept, Port.advanced, h3, h2, hlt]

end

/-- Opening a flit, in the bytes of its header, payload and tag (R414, R415). -/
theorem Port.opens_iff (v : Port) (flit : List Nat) :
    let bytes : List Byte := flit.map fun b => BitVec.ofNat 8 b
    let slot := leNat (bytes.take 8) / 2 ^ 55 % 2
    let k := slotAt v.rx slot
    v.opens flit = true ↔ k.valid = true ∧ ∃ m ∈ v.counters slot (leNat (bytes.take 8) % 2 ^ 32),
      bytes.drop 240 = gcmTag (leBytes 32 k.key) (leBytes 4 k.salt ++ leBytes 8 m) (bytes.take 8) ((bytes.drop 8).take 232) := by
  simp only [Port.opens, flitHead, fld, flitOpens, flitIv, List.map_take, Bool.and_eq_true, List.any_eq_true, beq_iff_eq,
    pow_zero, pow_one, Nat.div_one, eq_comm (a := List.drop 240 _)]

/-- R414 to R416: what a flit does, by whether its slot opens it, its place in order and its TYPE. -/
theorem saysFlitReceive_holds : saysFlitReceive := by
  intro n flit s
  extract_lets out v bytes h ty slot seq k tag opens text got inbox does
  have hrun : exec (.fabricFlitReceive n flit) s = _ := execFabricFlitReceive_eq n flit s
  have hopens : (s.port n).opens flit = true ↔ opens := v.opens_iff flit
  have hhead : flitHead flit = h := by simp only [flitHead, h, bytes, List.map_take]
  have hty : fld h 56 8 = ty := rfl
  have hseq : fld h 0 32 = seq := by rw [fld, pow_zero, Nat.div_one]
  have htext : flitText k.key k.salt k.counter flit = text := by
    simp only [flitText, flitIv, text, bytes, List.map_take, List.map_drop]
  rw [hhead] at hrun
  dsimp only at hrun
  rw [hseq, hty] at hrun
  refine ⟨fun _ hs => hs ▸ v.counters_expected slot, fun hoff => ?_, fun hup hlen => ?_⟩
  · rw [hrun, if_pos (by simpa using hoff)]
  · rw [if_neg (by simp [hup, hlen, v])] at hrun
    refine ⟨fun hbad => ?_, fun hgood hdrop => ?_, fun hgood hnext => ?_⟩
    · rw [if_pos (by simpa using mt hopens.mp hbad)] at hrun
      exact hrun
    · rw [if_neg (by simpa [hopens] using hgood), if_pos (by simpa [v] using hdrop)] at hrun
      exact hrun
    · have haccept (h5 : ty ≤ 5) {u : Port} (hu : v.accept slot ty (h / 2 ^ 34 % 2 ^ 14) s.dev.pkg text = u) : does u := by
        rw [if_neg (by simpa [hopens] using hgood), if_neg (by simpa [v] using And.intro hnext h5)] at hrun
        rw [← hu, ← htext]
        exact hrun
      refine ⟨fun hdata => ?_, fun hack => ?_, fun hmark => ?_, fun hother => ?_⟩
      · exact haccept (by omega) (v.accept_data slot _ _ text hdata)
      · exact ⟨_, haccept (by omega) (hack ▸ v.accept_ack slot _ _ text)⟩
      · exact haccept (by omega) (hmark ▸ v.accept_marker slot _ _ text)
      · exact haccept (by omega) (v.accept_other slot _ _ text (by omega))

end Sys2Proof.Machine

/-! Negative acknowledgements and key rotation (R415, R416). -/

namespace Sys2Proof.Machine

/-- R416: the resends that a negative acknowledgement asks for, by how many have failed. -/
theorem saysNackReceive_holds : saysNackReceive := by
  intro n seq s
  refine ⟨fun hnone => ?_, fun f hf => ⟨fun hfew => ?_, fun hmany hr => ?_, fun hmany hr => ?_⟩⟩
  all_goals show execFabricNackReceive n seq s = _
  · have hfind : (s.port n).replay.find? (fun g => g.seq == seq) = none := by simpa using hnone
    simp only [execFabricNackReceive, hfind]
  · simp only [execFabricNackReceive, hf, hfew, if_true, beq_iff_eq]
  · simp only [execFabricNackReceive, hf, Nat.not_lt.mpr hmany, hr, if_true, if_false, beq_iff_eq]
  · simp only [execFabricNackReceive, hf, Nat.not_lt.mpr hmany, hr, if_false, Bool.false_eq_true, beq_iff_eq]

theorem keyDue_iff (v : Vector KeySlot 2) (k : Nat) :
    keyDue v k = true ↔
      (slotAt v k).valid = false ∨ (2 ^ 39 ≤ (slotAt v k).counter ∧ (slotAt v (1 - k)).valid = false) := by
  simp [keyDue]

/-- Where no key is due, the live slot is valid. -/
theorem valid_of_not_keyDue {v : Vector KeySlot 2} {k : Nat} (h : keyDue v k = false) : (slotAt v k).valid = true := by
  simp only [keyDue, Bool.or_eq_false_iff, Bool.not_eq_false'] at h
  exact h.1

/-- Both directions after an installation, each by its own slots. -/
theorem Port.install_eq (v : Port) (new : KeySlot) :
    (v.installRx new).installTx new = { v with
      tx := if keyDue v.tx v.txSlot then v.tx.setIfInBounds (1 - v.txSlot) new else v.tx
      txSlot := if (slotAt v.tx v.txSlot).valid then v.txSlot else 1 - v.txSlot
      rx := if keyDue v.rx v.rxSlot then v.rx.setIfInBounds (1 - v.rxSlot) new else v.rx
      rxSlot := if (slotAt v.rx v.rxSlot).valid then v.rxSlot else 1 - v.rxSlot } := by
  cases hr : keyDue v.rx v.rxSlot <;> cases ht : keyDue v.tx v.txSlot
  · simp [Port.installRx, Port.installTx, hr, ht, valid_of_not_keyDue hr, valid_of_not_keyDue ht]
  · simp [Port.installRx, Port.installTx, hr, ht, valid_of_not_keyDue hr]
  · simp [Port.installRx, Port.installTx, hr, ht, valid_of_not_keyDue ht]
  · simp [Port.installRx, Port.installTx, hr, ht]

section
variable {n key salt : Nat} {s : State}

theorem execFabricKeyRotation_of_not_due (ht : keyDue (s.port n).tx (s.port n).txSlot = false)
    (hr : keyDue (s.port n).rx (s.port n).rxSlot = false) : execFabricKeyRotation n key salt s = .next s := by
  simp [execFabricKeyRotation, ht, hr]

theorem execFabricKeyRotation_of_rx_due (ht : keyDue (s.port n).tx (s.port n).txSlot = false)
    (hr : keyDue (s.port n).rx (s.port n).rxSlot = true) :
    let new : KeySlot := { key := key, salt := salt, counter := 0, valid := true }
    execFabricKeyRotation n key salt s = .next (s.putPort n (((s.port n).installRx new).installTx new)) := by
  simp [execFabricKeyRotation, ht, hr]

theorem execFabricKeyRotation_of_tx_due (ht : keyDue (s.port n).tx (s.port n).txSlot = true) :
    let new : KeySlot := { key := key, salt := salt, counter := 0, valid := true }
    let v1 := ((s.port n).installRx new).installTx new
    execFabricKeyRotation n key salt s = .next (s.putPort n (v1.drainQueue v1.queue.length)) := by
  simp [execFabricKeyRotation, ht]

end

/-- R415: where an installation puts a key, and when the transmitter goes over to it. -/
theorem saysKeyRotation_holds : saysKeyRotation := by
  intro n key salt s
  extract_lets out v live other hears sends takes new tx rx both ready
  have hsends : keyDue v.tx v.txSlot = true ↔ sends := keyDue_iff _ _
  have htakes : keyDue v.rx v.rxSlot = true ↔ takes := keyDue_iff _ _
  have hboth : (v.installRx new).installTx new = both := by
    simp only [Port.install_eq, hsends, htakes]
    rfl
  have hnotsends (h : ¬ sends) : keyDue v.tx v.txSlot = false := Bool.eq_false_iff.mpr (mt hsends.mp h)
  have hdrain (h : sends) : exec (.fabricKeyRotation n key salt) s = out (s.putPort n (both.drainQueue both.queue.length)) := by
    have := execFabricKeyRotation_of_tx_due (key := key) (salt := salt) (hsends.mpr h)
    rw [← hboth]
    exact this
  refine ⟨fun hs ht => ?_, fun hs ht => ?_, fun hs hq => ?_, fun hs => ?_, v.settled_cases,
    fun hready hc => Port.settled_of_last_counter hready hc, fun h2 => ?_⟩
  · exact execFabricKeyRotation_of_not_due (hnotsends hs) (Bool.eq_false_iff.mpr (mt htakes.mp ht))
  · rw [← hboth]
    exact execFabricKeyRotation_of_rx_due (hnotsends hs) (htakes.mpr ht)
  · have hempty : both.queue = [] := hq
    rw [hdrain hs, hempty]
    rfl
  · have hkeep := Port.drainQueue_receiver both.queue.length both
    simp only [Port.receiver, Prod.mk.injEq] at hkeep
    exact ⟨_, hdrain hs, hkeep⟩
  · obtain ⟨hslot, hold, hother⟩ := Port.switch_slots h2
    exact ⟨hslot, hold, hother, _, rfl⟩

/-- Settles O53: the flits, negative acknowledgements and key rotations of a fabric port, one lemma for each. -/
theorem fabricLinks : Obligations.FabricLinks :=
  ⟨saysFlitReceive_holds, saysFlitSend_holds, saysNackReceive_holds, saysKeyRotation_holds⟩

end Sys2Proof.Machine

/-! The mailbox lock, the registers that hold a value, and the accesses that reach no register (R375 to R377). -/

namespace Sys2Proof.Machine

theorem execMbLock_eq (v : Nat) (s : State) : execMbLock v s =
    .next (if s.mb.owner = 0 ∧ v % 2 ^ 16 ≠ 0 ∧ v % 2 ^ 16 ≠ 0xFFFF
      then { s with mb := { s.mb with owner := v % 2 ^ 16, last := s.tick } } else s) := by
  simp only [execMbLock, Bool.and_eq_true, beq_iff_eq, bne_iff_ne, and_assoc]
  split <;> rfl

theorem execMbUnlock_eq (v : Nat) (s : State) : execMbUnlock v s =
    .next (if s.mb.owner ≠ 0 ∧ v % 2 ^ 16 = s.mb.owner
      then { s with mb := { s.mb with owner := 0, last := s.tick } } else s) := by
  simp only [execMbUnlock, Bool.and_eq_true, beq_iff_eq, bne_iff_ne]
  split <;> rfl

theorem execMbLockTimeout_eq (s : State) : execMbLockTimeout s =
    .next (if s.mb.owner ≠ 0 ∧ s.mb.busy = false ∧ s.mb.last + msTicks 2000 ≤ s.tick
      then { s with mb := { s.mb with owner := 0 } } else s) := by
  simp only [execMbLockTimeout, Bool.and_eq_true, bne_iff_ne, Bool.not_eq_true', decide_eq_true_eq, and_assoc]
  split <;> rfl

theorem saysMailboxLock_holds : saysMailboxLock := by
  intro v s id lock
  have hlock : exec (.mbLock v) s = _ := execMbLock_eq v s
  have hunlock : exec (.mbUnlock v) s = _ := execMbUnlock_eq v s
  have htimeout : exec .mbLockTimeout s = _ := execMbLockTimeout_eq s
  refine ⟨fun hfree h0 hF => ?_, fun h => ?_, fun hheld hid => ?_, fun h => ?_, fun hheld hidle hdue => ?_, fun h => ?_, rfl⟩
  · rw [hlock, if_pos ⟨hfree, h0, hF⟩]
  · rw [hlock, if_neg fun ⟨hfree, h0, hF⟩ => h.elim (· hfree) (Or.elim · h0 hF)]
  · rw [hunlock, if_pos ⟨hheld, hid⟩]
  · rw [hunlock, if_neg fun ⟨hheld, hid⟩ => h.elim hheld (· hid)]
  · rw [htimeout, if_pos ⟨hheld, hidle, hdue⟩]
  · rw [htimeout, if_neg fun ⟨hheld, hidle, hdue⟩ =>
      h.elim hheld (Or.elim · (by simp [hidle]) (Nat.not_lt.mpr hdue))]

theorem bit_eq_testBit (w k : Nat) : bit w k = w.testBit k := by
  simp [bit, fld, Nat.testBit_eq_decide_div_mod_eq]
  rfl

/-- A write of a register of VF BAR0 holds in the slice of that function. -/
theorem exec_registerWrite_vf (n off v : Nat) (s : State) :
    exec (.registerWrite (n + 1) 0 off v) s = .next (s.onSlice n fun sl => sl.hold off v) := rfl

theorem hold_chainBase (sl : Slice) {k : Nat} (hk : k < 8) (v : Nat) :
    sl.hold (0x100 + 64 * k) v = sl.setChain k
      (if (sl.chain k).enable then sl.chain k else { sl.chain k with base := fld v 6 46 * 64 }) := by
  have hmod : (0x100 + 64 * k) % 64 = 0 := by omega
  have hlt : 0x100 + 64 * k < 0x300 := by omega
  simp [Slice.hold, Chain.hold, hmod, hlt]

theorem hold_chainRecords (sl : Slice) {k : Nat} (hk : k < 8) (v : Nat) :
    sl.hold (0x108 + 64 * k) v = sl.setChain k
      (if (sl.chain k).enable then sl.chain k else { sl.chain k with recBase := fld v 6 46 * 64 }) := by
  have hge : 0x100 ≤ 0x108 + 64 * k := by omega
  have hlt : 0x108 + 64 * k < 0x300 := by omega
  have hmod : (0x108 + 64 * k) % 64 = 8 := by omega
  have hdiv : (0x108 + 64 * k - 0x100) / 64 = k := by omega
  simp [Slice.hold, Chain.hold, hge, hlt, hmod, hdiv]

theorem execRegisterWrite_mailboxArg {k : Nat} (hk : k < 32) (v : Nat) (s : State) :
    execRegisterWrite 0 0 (0x200 + 8 * k) v s =
      .next { s with mb := { s.mb with args := s.mb.args.setIfInBounds k (v % 2 ^ 64) } } := by
  have hlt : 0x200 + 8 * k < 0x300 := by omega
  simp [execRegisterWrite, hlt]

theorem execRcIntWrite_eq (v : Nat) (s : State) : execRcIntWrite v s =
    .next (if 100 ≤ fld v 0 14 ∧ fld v 0 14 ≤ 10000 then { s with rc := { s.rc with interval := fld v 0 14 } } else s) := by
  simp only [execRcIntWrite, ← Bool.decide_and, decide_eq_true_eq]
  split <;> rfl

theorem execPkgWrite_eq (v : Nat) (s : State) : execPkgWrite v s =
    .next (if s.slices = [] then { s with dev := { s.dev with pkg := fld v 0 14 } } else s) := by
  simp only [execPkgWrite, List.isEmpty_iff]
  split <;> rfl

theorem execRcCfgEnable_eq (v : Nat) (s : State) : execRcCfgEnable v s =
    .next { s with rc := { s.rc with
      log2n := fld v 0 5, enable := v.testBit 8 && decide (10 ≤ fld v 0 5 ∧ fld v 0 5 ≤ 20) } } := by
  simp only [execRcCfgEnable, bit_eq_testBit, Bool.decide_and, Bool.and_assoc]

theorem saysRegisterWrites_holds : saysRegisterWrites := by
  intro v n k s
  extract_lets out bits reg base records
  have hreg {off : Nat} {f : Slice → Slice} (h : ∀ sl : Slice, sl.hold off v = f sl) : reg off f := by
    show exec (.registerWrite (n + 1) 0 off v) s = out (s.onSlice n f)
    rw [exec_registerWrite_vf, funext h]
  have hlow (w : Nat) : bits 0 w = v % 2 ^ w := by simp [bits]
  refine ⟨execPkgWrite_eq v s, execRcCfgEnable_eq v s, execRcIntWrite_eq v s, ?_, fun hk => ?_, rfl,
    hreg fun sl => ?_, hreg fun sl => ?_, hreg fun sl => ?_, hreg fun sl => rfl, hreg fun sl => rfl, hreg fun sl => ?_,
    hreg fun sl => ?_, fun hk => ⟨hreg fun sl => hold_chainBase sl hk v, hreg fun sl => hold_chainRecords sl hk v⟩⟩
  · rw [hlow]
    rfl
  · rw [hlow]
    exact execRegisterWrite_mailboxArg hk v s
  · rw [hlow]
    rfl
  · rw [← bit_eq_testBit]
    rfl
  · rw [hlow]
    rfl
  · rw [← bit_eq_testBit]
    rfl
  · rw [hlow]
    rfl

/-- The accesses of a BAR that reach no register (R375, R404, R420). -/
def State.Mute (s : State) (fn off size : Nat) (mctp : Bool) : Prop :=
  size ≠ 8 ∨ off % 8 ≠ 0 ∨ s.dev.booted = false ∨ (fn ≠ 0 ∧ ∀ sl, s.slice? (fn - 1) = some sl →
    sl.vf = false ∨ (sl.prot = true ∧ sl.tdisp ≠ .run) ∨ (sl.prot = true ∧ mctp = true))

/-- A function whose slice is missing, not enabled or out of reach does not answer. -/
theorem answering_eq_none {s : State} {fn : Nat} {mctp : Bool} (h : ∀ sl, s.slice? (fn - 1) = some sl →
    sl.vf = false ∨ (sl.prot = true ∧ sl.tdisp ≠ .run) ∨ (sl.prot = true ∧ mctp = true)) :
    s.answering fn mctp = none := by
  unfold State.answering
  split
  · next sl hsl =>
    rcases h sl hsl with hvf | ⟨hprot, hrun⟩ | ⟨hprot, hm⟩
    · simp [hvf]
    · simp [Slice.active, hprot, hrun]
    · simp [hprot, hm]
  · rfl

theorem writeEvent_of_mute {s : State} {fn off size : Nat} {mctp : Bool} (h : s.Mute fn off size mctp) (bar v : Nat) :
    s.writeEvent fn bar off size v mctp = none := by
  rcases h with h | h | h | ⟨hfn, h⟩
  · simp [State.writeEvent, h]
  · simp [State.writeEvent, h]
  · simp [State.writeEvent, h]
  · simp [State.writeEvent, hfn, answering_eq_none h]

theorem regRead_of_mute {s : State} {fn off size : Nat} {mctp : Bool} (h : s.Mute fn off size mctp) (bar : Nat) :
    s.regRead fn bar off size mctp = 0 := by
  rcases h with h | h | h | ⟨hfn, h⟩
  · simp [State.regRead, h]
  · simp [State.regRead, h]
  · simp [State.regRead, h]
  · simp [State.regRead, hfn, answering_eq_none h]

/-- Where nothing is under way, a step takes the input that is due. -/
theorem step_of_due_input {s : State} {q : Nat × Input} (ha : s.agenda = [])
    (hq : s.inputs.find? (fun q => decide (q.1 ≤ s.tick)) = some q) :
    step s = .next ({ s with inputs := s.inputs.erase q }.input q.2) := by
  simp only [step, ha, State.advance, hq]

theorem saysRegisterAccess_holds : saysRegisterAccess := by
  intro s at_ fn bar off size v mctp ha mute due hmute
  have hafter (l : List (Nat × Input)) : State.Mute { s with inputs := l } fn off size mctp := hmute
  refine ⟨fun hw => ?_, fun hr => ⟨s.fresh + 1, ?_⟩⟩
  · rw [step_of_due_input ha hw]
    simp only [State.input, writeEvent_of_mute (hafter _)]
  · rw [step_of_due_input ha hr]
    simp only [State.input, regRead_of_mute (hafter _)]

/-- Settles O42: the mailbox lock, the register writes and the accesses that reach none, one lemma for each. -/
theorem deviceRegisters : Obligations.DeviceRegisters :=
  ⟨saysMailboxLock_holds, saysRegisterWrites_holds, saysRegisterAccess_holds⟩

end Sys2Proof.Machine

/-! What a step runs: the instruction that a cursor decodes, an event, an input or the next tick (R13, R14, R169). -/

namespace Sys2Proof.Machine

section
variable {s : State} {c : Cursor} {pit : Pitch} {t : Tile}

theorem State.tile?_eq (hp : s.pitch? c.pitch = some pit) (ht : pit.tiles[c.tile]? = some t) :
    s.tile? c.pitch c.tile = some t := by
  simp only [State.tile?, hp, ht]

theorem State.halts_eq (hp : s.pitch? c.pitch = some pit) (ht : pit.tiles[c.tile]? = some t) :
    s.halts c = (t.engOf c.eng).halted := by
  simp only [State.halts, State.tile?_eq hp ht]

/-- The streams of a tile are those of its class. -/
theorem State.envOf_code {k : Nat} (ht : pit.tiles[k]? = some t) :
    (s.envOf pit k).code = pit.img.code.getD t.cls [] := by
  simp only [State.envOf, List.getD_eq_getElem?_getD, ht, Option.getD_some]

/-- A fetch decodes three words of the engine's stream, from the cursor on. -/
theorem State.fetch_of_ok (hp : s.pitch? c.pitch = some pit) (ht : pit.tiles[c.tile]? = some t) {i : Instr} {n : Nat}
    (hd : let code := (pit.img.code.getD t.cls []).getD c.eng.idx {}
      decode c.eng [code.word c.pc, code.word (c.pc + 1), code.word (c.pc + 2)] = .ok (i, n)) : s.fetch c = .ok i := by
  simp only [State.fetch, hp, Env.codeOf, State.envOf_code ht, hd]

theorem State.fetch_of_error (hp : s.pitch? c.pitch = some pit) (ht : pit.tiles[c.tile]? = some t) {f : DecodeError}
    (hd : let code := (pit.img.code.getD t.cls []).getD c.eng.idx {}
      decode c.eng [code.word c.pc, code.word (c.pc + 1), code.word (c.pc + 2)] = .error f) : s.fetch c = .error c.pc := by
  simp only [State.fetch, hp, Env.codeOf, State.envOf_code ht, hd]

end

theorem step_of_instr {s : State} {c : Cursor} {rest : List Slot} (ha : s.agenda = .instr c :: rest) :
    step s = runAt c { s with agenda := rest } := by
  simp only [step, ha, runSlot]

theorem saysStepRunsDecoded_holds : saysStepRunsDecoded := by
  intro s c rest pit t ha hp ht code words s1
  have hstep := step_of_instr ha
  have hhalts : State.halts { s with agenda := rest } c = (t.engOf c.eng).halted := State.halts_eq hp ht
  refine ⟨fun hrun i n hdec => ?_, fun hrun f hdec => ?_, fun hhalt => ?_⟩
  · have hfetch : State.fetch { s with agenda := rest } c = .ok i := State.fetch_of_ok hp ht hdec
    simp [hstep, runAt, hhalts, hrun, hfetch, s1]
  · have hfetch : State.fetch { s with agenda := rest } c = .error c.pc := State.fetch_of_error hp ht hdec
    simp [hstep, runAt, hhalts, hrun, hfetch, s1]
  · simp [hstep, runAt, hhalts, hhalt]

/-- Where no input is due, half a nanosecond passes, in a device with power and in one without. -/
theorem State.advance_tick {s : State} (h : ∀ q ∈ s.inputs, s.tick < q.1) : s.advance.tick = s.tick + 1 := by
  have hnone : s.inputs.find? (fun q => decide (q.1 ≤ s.tick)) = none := by
    simpa [List.find?_eq_none] using fun a b hq => h (a, b) hq
  cases hb : s.dev.booted <;> simp only [State.advance, hnone, hb] <;> rfl

theorem saysStepRunsEvents_holds : saysStepRunsEvents := by
  refine ⟨fun s i rest ha => ?_, fun s q ha hq => step_of_due_input ha hq, fun s ha h => ⟨s.advance, ?_, State.advance_tick h⟩⟩
  · simp only [step, ha, runSlot]
  · simp only [step, ha]

/-- Settles O19: decoded instructions, and events, inputs and ticks, one lemma for each. -/
theorem stepRuns : Obligations.StepRuns :=
  ⟨saysStepRunsDecoded_holds, saysStepRunsEvents_holds⟩

end Sys2Proof.Machine

/-! Two statements that fail: the charges of a beat, and row tags that are listed twice. -/

namespace Sys2Proof.Machine

/-- A SEND of one granule from a tile to itself. -/
def sendToSelf : Instr := .send {} 0 0 0 0 1

/-- The turn of its only beat. -/
def beatToSelf : Pend := { at_ := 0, ph := 1, own := { eng := .N }, iss := 0, eff := .job sendToSelf {} 0 }

/-- Refutes O36, by its clause on the turn of a beat: there the beat also stages a charge of event 1 for each landing, and in
the model the turn stages the charges of hops and seams alone. A granule's landing is charged to its sender later, in the
cycle in which it lands (`Pitch.chargeLandings`, R260). The beat of `sendToSelf` enters no link, so its turn stages nothing,
where the statement has one charge. -/
theorem not_transferRows : ¬ Obligations.TransferRows := by
  rintro ⟨-, -, hbeats, -, -⟩
  have hturn := hbeats {} 0 0 0 0 1 {} {} beatToSelf {} 0 rfl rfl (by decide) (by decide) (by decide)
    (sendToSelf, false) (by simp [sendToSelf]) rfl
  have hstaged := congrArg (fun t => t.pend.length) hturn
  exact absurd hstaged (by decide)

/-- A tile at EPOCH 4,095 whose table of row tags names row 0 of register 0 twice. -/
def twiceTagged : Tile := { gen := 1, epoch := Vector.replicate 16 4095, gridTag := [(0, 5), (0, 7)] }

/-- Refutes O39, by its clause on an EPOCH increment that would pass 4,095: it claims that every row tag is 0 afterwards, of
any table of row tags, and writing 0 into a table removes one entry. In `twiceTagged`, whose table is not in canonical form
(`Tab`), a second entry of the row stays. -/
theorem not_cycleEndEffects : ¬ Obligations.CycleEndEffects := by
  rintro ⟨hends, -, -⟩
  obtain ⟨-, -, -, -, hwrap, -⟩ := hends {} twiceTagged {} 0 0 0 {} .C false (by decide) (by decide)
  obtain ⟨-, hrows⟩ := hwrap (by decide)
  obtain ⟨hzero, -⟩ := hrows 0 (by decide)
  exact absurd hzero (by decide)

end Sys2Proof.Machine

/-! XCTL of a stopped X, in a placed pitch and in a hamper, and the fault queue (R38, R40, R129, R393). -/

namespace Sys2Proof.Machine

/-- X halts and its stop ends, in a tile whose trap fields are given. -/
theorem Tile.halt_resume_eq (t : Tile) (l : List TrapRec) (w : Word) :
    (Tile.setEng { t with traps := l, trapInfo := w } .X { t.engOf .X with halted := true }).xResume = { t with
      xs := { t.xs with stopped := false, told := false }
      traps := l
      trapInfo := w
      eng := t.eng.setIfInBounds 1 { t.engOf .X with halted := true } } := rfl

/-- The fatal end of a stop, field by field. -/
theorem Tile.xFatal_eq (t : Tile) : t.xFatal = { t with
    xs := { t.xs with stopped := false, told := false }
    traps := t.traps ++ [{ tau := t.tl, eng := .X, code := trapTranslation, wr := t.xs.faultWr, info := t.xs.faultVa
                           data := t.xs.faultVa, off := t.xs.faultOff, word := t.xs.faultOff }]
    trapInfo := trapInfoWord trapTranslation .X t.xs.faultWr t.xs.faultVa
    eng := t.eng.setIfInBounds 1 { t.engOf .X with halted := true } } :=
  Tile.halt_resume_eq t _ _

section
variable {s : State} {n v : Nat}

theorem execXctl_of_placed {p : Pitch} {j : Nat} (h : s.stoppedX n v = some (p, j)) :
    execXctlResume n v s = .next (s.onTile p.id j Tile.xResume) ∧
      execXctlFatal n v s = .next (s.onTile p.id j Tile.xFatal) := by
  simp only [execXctlResume, execXctlFatal, h, and_self]

theorem execXctl_of_hamper {l : Launch} {p : Pitch} {j : Nat} (hx : s.stoppedX n v = none)
    (h : s.stoppedHamper n v = some (l, p, j)) :
    execXctlResume n v s = .next (s.putLaunch { l with hamper := some (p.onTile j Tile.xResume) }) ∧
      execXctlFatal n v s = .next ((s.onSlice n fun w => { w with faults := w.faults + 1 }).faultImage
        { l with ready := false } (p.onTile j Tile.xFatal) (p.onTile j Tile.xFatal).faultRec) := by
  simp only [execXctlResume, execXctlFatal, hx, h, and_self]

theorem execXctl_of_none (hx : s.stoppedX n v = none) (h : s.stoppedHamper n v = none) :
    execXctlResume n v s = .next s ∧ execXctlFatal n v s = .next s := by
  simp only [execXctlResume, execXctlFatal, hx, h, and_self]

end

/-- The report of a stopped X may be written: it stands out, and the queue takes entries and has room (R393). -/
def Slice.HasRoomFor (sl : Slice) (t : Tile) : Prop :=
  t.xs.stopped = true ∧ t.xs.told = false ∧ sl.active = true ∧ sl.fqEnable = true ∧ 4 ≤ sl.fqLog2n ∧ sl.fqLog2n ≤ 12 ∧
    (sl.fqTail + 2 ^ 32 - sl.fqHead) % 2 ^ 32 < 2 ^ sl.fqLog2n

theorem hasRoomFor_iff (sl : Slice) (t : Tile) : sl.HasRoomFor t ↔
    (!t.xs.stopped || t.xs.told || !sl.active || !sl.fqOn ||
      decide (2 ^ sl.fqLog2n ≤ (sl.fqTail + 2 ^ 32 - sl.fqHead) % 2 ^ 32)) = false := by
  simp only [Slice.HasRoomFor, Slice.fqOn, Bool.or_eq_false_iff, Bool.not_eq_false', decide_eq_false_iff_not, Nat.not_le,
    Bool.and_eq_true, decide_eq_true_eq, and_assoc]

section
variable {s : State} {n pid k : Nat} {sl : Slice} {t : Tile} {l : Launch}

theorem execFaultQueueWrite_of_no_room (hsl : s.slice? n = some sl) (ht : s.tile? pid k = some t)
    (hl : s.launch? pid = some l) (h : ¬ sl.HasRoomFor t) : execFaultQueueWrite n pid k s = .next s := by
  rw [hasRoomFor_iff, Bool.not_eq_false] at h
  simp only [execFaultQueueWrite, hsl, ht, hl, h, if_true]

theorem execFaultQueueWrite_of_room (hsl : s.slice? n = some sl) (ht : s.tile? pid k = some t)
    (hl : s.launch? pid = some l) (h : sl.HasRoomFor t) :
    let w0 := (if t.xs.faultWr then 2 ^ 47 else 0) + t.y * 2 ^ 41 + t.x * 2 ^ 35 + l.chain * 2 ^ 32 + l.index
    let entry := leBytes 8 w0 ++ leBytes 8 t.xs.faultVa ++ List.replicate 16 0
    let host := s.host.writeAll (sl.fqBase + 32 * (sl.fqTail % 2 ^ sl.fqLog2n)) entry
    execFaultQueueWrite n pid k s = .next (((State.onTile { s with host := host } pid k
      fun t => { t with xs := { t.xs with told := true } }).putSlice
        { sl with fqTail := (sl.fqTail + 1) % 2 ^ 32 }).signal (n + 1) 1) := by
  have hwr : b2n t.xs.faultWr * 2 ^ 47 = if t.xs.faultWr then 2 ^ 47 else 0 := by cases t.xs.faultWr <;> simp [b2n]
  simp only [execFaultQueueWrite, hsl, ht, hl, (hasRoomFor_iff sl t).mp h, Bool.false_eq_true, if_false, hwr]

end

/-- Settles O47: XCTL by where the stopped X is, and the fault queue by whether it has room. -/
theorem translationFaults : Obligations.TranslationFaults := by
  intro n v pid k s out go trapped
  have hfatal : trapped = Tile.xFatal := funext fun t => t.xFatal_eq.symm
  rw [hfatal]
  exact ⟨fun p j h => execXctl_of_placed h, fun l p j hx h => execXctl_of_hamper hx h, fun hx h => execXctl_of_none hx h,
    fun sl t l hsl ht hl => ⟨execFaultQueueWrite_of_no_room hsl ht hl, execFaultQueueWrite_of_room hsl ht hl⟩⟩

end Sys2Proof.Machine

/-! What the scheduler leaves: events that follow, and areas of launches (R385, R386). -/

namespace Sys2Proof.Machine

theorem State.Scheduled.refl (s : State) : s.Scheduled s := ⟨[], fun l => l.area, by simp⟩

/-- Giving launches their areas, one after another, changes nothing but areas. -/
theorem State.foldl_onLaunch_area (l : List (Nat × List Nat)) (s : State) : ∃ area : Launch → List Nat,
    l.foldl (fun (z : State) q => z.onLaunch q.1 fun m => { m with area := q.2 }) s =
      { s with launches := s.launches.map fun m => { m with area := area m } } := by
  induction l generalizing s with
  | nil => exact ⟨fun m => m.area, by simp⟩
  | cons q l ih =>
    obtain ⟨area, h⟩ := ih (s.onLaunch q.1 fun m => { m with area := q.2 })
    refine ⟨fun m => area (if m.id == q.1 then { m with area := q.2 } else m), ?_⟩
    rw [List.foldl_cons, h]
    simp only [State.onLaunch, mapIf, List.map_map, Function.comp_def]
    congr 2
    funext m
    split <;> rfl

/-- The scheduler asks for events and gives launches areas to wait for; nothing else changes. -/
theorem State.scheduled_schedule (s : State) (n : Nat) : s.Scheduled (s.schedule n) := by
  unfold State.schedule
  split
  · exact .refl s
  · next sl _ =>
    dsimp only
    split
    · exact .refl s
    · generalize List.foldl _ _ (sortOn _ _) = r
      obtain ⟨area, h⟩ := State.foldl_onLaunch_area r.2 s
      rw [h]
      exact ⟨_, area, rfl⟩

end Sys2Proof.Machine

/-! Lookaheads (R26, R46) and holds (R27). -/

namespace Sys2Proof.Machine

/-- `u` is `t` with more lookaheads, all of them for groups that issue in cycle `n`. -/
def Tile.LooksOn (t : Tile) (n : Nat) (u : Tile) : Prop :=
  ∃ l : List Look, u = { t with looks := t.looks ++ l } ∧ ∀ k ∈ l, k.at_ = n

theorem Tile.LooksOn.refl (t : Tile) (n : Nat) : t.LooksOn n t := ⟨[], by simp, by simp⟩

theorem makeLook_eq (env : Env) (e : Engine) (n pc : Nat) (t : Tile) (w : Nat × WaitOf) :
    ∃ k : Look, makeLook env e n pc t w = { t with looks := t.looks ++ [k] } ∧ k.at_ = n := ⟨_, rfl, rfl⟩

theorem Tile.LooksOn.makeLook {t u : Tile} {n : Nat} (h : t.LooksOn n u) (env : Env) (e : Engine) (pc : Nat)
    (w : Nat × WaitOf) : t.LooksOn n (makeLook env e n pc u w) := by
  obtain ⟨l, rfl, hl⟩ := h
  obtain ⟨k, hk, hat⟩ := makeLook_eq env e n pc { t with looks := t.looks ++ l } w
  refine ⟨l ++ [k], by rw [hk, List.append_assoc], fun j hj => ?_⟩
  rcases List.mem_append.mp hj with hj | hj
  · exact hl j hj
  · rw [List.mem_singleton.mp hj, hat]

theorem Tile.lookFor_looksOn (env : Env) (n : Nat) (t : Tile) : t.LooksOn (t.tl + n) (lookFor env n t) := by
  refine List.foldlRecOn _ _ (.refl t _) fun u hu e _ => ?_
  have htl : u.tl = t.tl := by
    obtain ⟨l, rfl, -⟩ := hu
    rfl
  split
  · exact hu
  · next pc l _ =>
    rw [htl]
    exact List.foldlRecOn _ _ hu fun v hv w _ => hv.makeLook env e pc w

/-- A span of lookaheads changes nothing of a tile but its lookaheads. -/
theorem Tile.lookSpan_eq (env : Env) (t : Tile) (n : Nat) : ∃ l, lookSpan env t n = { t with looks := l } := by
  induction n with
  | zero => exact ⟨t.looks, rfl⟩
  | succ n ih =>
    obtain ⟨l, h⟩ := ih
    obtain ⟨l', h', -⟩ := Tile.lookFor_looksOn env n (lookSpan env t n)
    exact ⟨_, by rw [lookSpan, h', h]⟩

/-- The hold of a stop cycle ends with the latest clearing, or not while a failed wait has not cleared. -/
theorem Pitch.holdQ_eq (p : Pitch) (stop : Nat) : p.holdQ stop = (p.failed stop).foldl
    (fun q c => q.bind fun n => c.2.map fun w => Nat.max n (w + p.img.lead - (p.holdBase stop + c.1))) (some 1) := by
  unfold Pitch.holdQ
  congr 1
  funext q c
  cases q <;> cases c.2 <;> rfl

/-- The greatest of a number and of what every entry of a list gives, where every entry gives something. -/
theorem foldl_max_spec {late : Nat × Option Nat → Nat → Nat} {l : List (Nat × Option Nat)} {n q : Nat}
    (h : l.foldl (fun q c => q.bind fun n => c.2.map fun w => Nat.max n (late c w)) (some n) = some q) :
    n ≤ q ∧ (∀ c ∈ l, ∃ w, c.2 = some w ∧ late c w ≤ q) ∧ (q = n ∨ ∃ c ∈ l, ∃ w, c.2 = some w ∧ late c w = q) := by
  induction l generalizing n with
  | nil =>
    obtain rfl : n = q := by simpa using h
    simp
  | cons c l ih =>
    rw [List.foldl_cons, Option.bind_some] at h
    cases hc : c.2 with
    | none =>
      rw [hc, Option.map_none, List.foldl_fixed' fun _ => rfl] at h
      contradiction
    | some w =>
      rw [hc, Option.map_some] at h
      obtain ⟨hle, hall, hex⟩ := ih h
      have hmax : max n (late c w) ≤ q := hle
      refine ⟨by omega, ?_, ?_⟩
      · rintro d hd
        rcases List.mem_cons.mp hd with rfl | hd
        · exact ⟨w, hc, by omega⟩
        · exact hall d hd
      · rcases hex with heq | ⟨d, hd, v, hv, hq⟩
        · replace heq : q = max n (late c w) := heq
          by_cases hn : late c w ≤ n
          · exact .inl (by omega)
          · exact .inr ⟨c, by simp, w, hc, by omega⟩
        · exact .inr ⟨d, by simp [hd], v, hv, hq⟩

theorem Pitch.holdBase_eq (p : Pitch) (stop : Nat) : p.holdBase stop =
    ((p.tiles.find? fun t => t.mode == .run && t.tl == stop).map fun t => t.reach - p.off t).getD 0 := by
  unfold Pitch.holdBase
  rw [show Pitch.standsAt stop = fun t => t.mode == .run && t.tl == stop from rfl]
  split
  · next h => rw [h]; rfl
  · next h => rw [h]; rfl

/-- A SAFE's conditions as a tile finds them at its look (R46). -/
def Pitch.meetsSafe (p : Pitch) (s : State) (t : Tile) : Bool :=
  decide (p.postedP ≤ t.tl) &&
    decide (s.tick ≤ p.postedAt + ((s.slice? p.slice).elim 0 fun sl => usTicks sl.graceUs)) &&
    t.xs.slots == 0 && t.xs.copies.isEmpty && t.xs.asks.isEmpty

theorem Pitch.meetsSafe_iff (p : Pitch) (s : State) (t : Tile) : p.meetsSafe s t = true ↔
    p.postedP ≤ t.tl ∧ s.tick ≤ p.postedAt + ((s.slice? p.slice).elim 0 fun sl => sl.graceUs * 2000) ∧
      t.xs.slots = 0 ∧ t.xs.copies = [] ∧ t.xs.asks = [] := by
  simp only [Pitch.meetsSafe, Bool.and_eq_true, decide_eq_true_eq, beq_iff_eq, List.isEmpty_iff, and_assoc]
  rfl

section
variable {s : State} {p : Pitch} {t : Tile} {k : Nat}

theorem execLookahead_of_not_live (hp : s.pitch? p.id = some p) (ht : s.tile? p.id k = some t) (h : t.live = false) :
    execLookahead p.id k s = .next s := by
  simp [execLookahead, hp, ht, h]

theorem execLookahead_of_not_safe (hp : s.pitch? p.id = some p) (ht : s.tile? p.id k = some t) (h : t.live = true)
    (hsafe : ¬ (p.wantsSafe = true ∧ safeAhead (s.envOf p k) t = true)) :
    execLookahead p.id k s =
      .next (s.putPitch (p.onTile k fun _ => lookFor (s.envOf p k) (s.envOf p k).holdLead t)) := by
  rw [← Bool.and_eq_true, Bool.not_eq_true] at hsafe
  simp [execLookahead, hp, ht, h, hsafe]

theorem execLookahead_of_safe (hp : s.pitch? p.id = some p) (ht : s.tile? p.id k = some t) (h : t.live = true)
    (hsafe : p.wantsSafe = true ∧ safeAhead (s.envOf p k) t = true) :
    execLookahead p.id k s = .next (s.putPitch ((p.onTile k fun _ =>
      lookFor (s.envOf p k) (s.envOf p k).holdLead t).addSafe (t.tl + p.img.lead) (p.meetsSafe s t))) := by
  simp only [execLookahead, hp, ht, h, hsafe, Pitch.meetsSafe, Bool.not_true, Bool.and_self, Bool.false_eq_true, if_false]
  cases s.slice? p.slice <;> rfl

end

theorem execHoldRelease_eq {s : State} {p : Pitch} (hp : s.pitch? p.id = some p) (stop : Nat) :
    execHoldRelease p.id stop s = .next (s.putPitch { p with holds := p.holds.map fun h =>
      if h.stop = stop ∧ h.q = none then { h with q := p.holdQ stop } else h }) := by
  simp only [execHoldRelease, hp, mapIf, Bool.and_eq_true, beq_iff_eq, Option.isNone_iff_eq_none]

end Sys2Proof.Machine

/-! The rendezvous (R32, R44) and the end of a hard clear (R97). -/

namespace Sys2Proof.Machine

/-- The lookaheads of a whole span change nothing of a pitch's tiles but their lookaheads. -/
theorem State.mem_firstLooks {s : State} {p : Pitch} {u : Tile} (h : u ∈ (s.firstLooks p).tiles) :
    ∃ t ∈ p.tiles, ∃ l, u = { t with looks := l } := by
  replace h : u ∈ p.tiles.mapIdx fun k t => if Pitch.waits t then t else lookSpan (s.envOf p k) t p.img.lead := h
  obtain ⟨k, hk, rfl⟩ := List.mem_mapIdx.mp h
  refine ⟨p.tiles[k], List.getElem_mem _, ?_⟩
  split
  · exact ⟨_, rfl⟩
  · exact Tile.lookSpan_eq _ _ _

theorem State.firstLooks_tiles_ne_nil {s : State} {p : Pitch} (h : p.tiles ≠ []) : (s.firstLooks p).tiles ≠ [] := by
  have : (s.firstLooks p).tiles.length = p.tiles.length := by
    simp [State.firstLooks, Pitch.gatherHolds, Pitch.mapTiles]
  exact List.ne_nil_of_length_pos (by rw [this]; exact List.length_pos_iff.mpr h)

/-- Every tile of the pitch waits, after a re-anchor, to issue cycle `a`. -/
def Pitch.AnchoredAt (p : Pitch) (a : Nat) : Prop := ∀ t ∈ p.tiles, t.tl = a ∧ ∃ n, t.mode = .anchor n

theorem State.firstLooks_reanchored (s : State) (p : Pitch) : (s.firstLooks p.reanchored).AnchoredAt p.anchor := by
  intro u hu
  obtain ⟨t, ht, l, rfl⟩ := State.mem_firstLooks hu
  obtain ⟨t0, -, rfl⟩ := List.mem_map.mp ht
  exact ⟨rfl, _, rfl⟩

theorem Pitch.origin_mem {p : Pitch} (h : p.tiles ≠ []) : p.origin ∈ p.tiles := by
  obtain ⟨t, l, hl⟩ := List.exists_cons_of_ne_nil h
  simp [Pitch.origin, hl]

/-- A freeze that finds the origin before its restart takes effect at the cycle that it would issue (R44). -/
theorem Pitch.freezePoint_of_anchor {p : Pitch} {n : Nat} (h : p.origin.mode = .anchor n) (hf : p.freezePoint ≠ none) :
    p.freezePoint = some p.origin.tl := by
  simp only [Pitch.freezePoint, h] at hf ⊢
  split at hf
  · contradiction
  · rfl

/-- A freeze stops every tile of a pitch that has just re-anchored. -/
theorem Pitch.stopTiles_of_anchored {p : Pitch} {a : Nat} (hne : p.tiles ≠ []) (h : p.AnchoredAt a)
    (hf : p.freezePoint ≠ none) : p.stopTiles = { p with tiles := p.tiles.map fun t => { t with mode := .frozen } } := by
  obtain ⟨htl, n, hmode⟩ := h _ (Pitch.origin_mem hne)
  simp only [Pitch.stopTiles, Pitch.freezePoint_of_anchor hmode hf, Pitch.mapTiles, htl]
  congr 1
  refine List.ext_getElem (by simp) fun k hk hk' => ?_
  have hlt : k < p.tiles.length := by simpa using hk'
  obtain ⟨htk, m, hm⟩ := h p.tiles[k] (List.getElem_mem hlt)
  simp [hm, htk]

theorem Pitch.stopTiles_of_none {p : Pitch} (h : p.freezePoint = none) : p.stopTiles = p := by
  simp only [Pitch.stopTiles, h]

theorem Pitch.tiles_ne_nil_of_rdvReady {p : Pitch} (h : p.rdvReady = true) : p.tiles ≠ [] := by
  intro hnil
  simp [Pitch.rdvReady, hnil] at h

section
variable {s : State} {p : Pitch}

theorem execRendezvousResume_of_not_ready (hp : s.pitch? p.id = some p) (h : p.rdvReady = false) :
    execRendezvousResume p.id s = .next s := by
  simp [execRendezvousResume, hp, h]

theorem execRendezvousResume_of_ready (hp : s.pitch? p.id = some p) (h : p.rdvReady = true) :
    let q := s.firstLooks p.reanchored
    (q.freezePoint = none → execRendezvousResume p.id s = .next (s.putPitch q)) ∧
      (q.freezePoint ≠ none → execRendezvousResume p.id s =
        .next (s.putPitch { q with tiles := q.tiles.map fun t => { t with mode := .frozen } })) := by
  have hrun : execRendezvousResume p.id s = .next (s.putPitch (s.firstLooks p.reanchored).stopTiles) := by
    simp only [execRendezvousResume, hp, h, if_true]
  have hne : p.reanchored.tiles ≠ [] := by simpa [Pitch.reanchored] using Pitch.tiles_ne_nil_of_rdvReady h
  refine ⟨fun hf => ?_, fun hf => ?_⟩
  · rw [hrun, Pitch.stopTiles_of_none hf]
  · rw [hrun, Pitch.stopTiles_of_anchored (State.firstLooks_tiles_ne_nil hne) (s.firstLooks_reanchored p) hf]

end

/-- A hard clear that has run its cycles is over (R97); any other tile stays as it is. -/
theorem execHardClearDone_eq (pid k : Nat) (s : State) : execHardClearDone pid k s = .next (s.onTile pid k fun t =>
    if ∃ n, t.clearing = some n ∧ n ≤ 1 then
      { t with clearing := none, cleared := true, gen := 1, maxGen := max t.maxGen 1 } else t) := by
  unfold execHardClearDone
  congr 2
  funext t
  cases h : t.clearing with
  | none => simp
  | some n => by_cases hn : n ≤ 1 <;> simp [hn, Tile.clearEnd]

theorem saysPitchClocks_holds : saysPitchClocks := by
  intro s p k stop hp out f
  refine ⟨fun t ht => ?_, execHoldRelease_eq hp stop, fun q hq => ?_, execRendezvousResume_of_not_ready hp,
    execRendezvousResume_of_ready hp, execHardClearDone_eq p.id k s⟩
  · refine ⟨execLookahead_of_not_live hp ht, execLookahead_of_not_safe hp ht, fun hlive hsafe =>
      ⟨_, p.meetsSafe_iff s t, execLookahead_of_safe hp ht hlive hsafe⟩, ?_⟩
    obtain ⟨l, hl, hat⟩ := Tile.lookFor_looksOn (s.envOf p k) (s.envOf p k).holdLead t
    intro x hx
    rw [hl] at hx
    exact (List.mem_append.mp hx).imp_right (hat x)
  · rw [Pitch.holdQ_eq, Pitch.holdBase_eq] at hq
    exact foldl_max_spec (late := fun c w => w + f - (_ + c.1)) hq

end Sys2Proof.Machine

/-! Freeze requests, moves and quanta (R41, R42, R46, R47, R385, R386). -/

namespace Sys2Proof.Machine

/-- What a request leaves in a pitch, by whether it freezes already and whether it may wait for a SAFE (R46). -/
theorem Pitch.post_eq (p : Pitch) (why : FreezeWhy) (grace tick : Nat) : p.post why grace tick =
    if p.reqs ≠ [] then { p with reqs := p.reqs ++ [why] }
    else { p with
      reqs := [why], postedP := p.origin.tl, postedAt := tick
      tauR := if p.img.safeGap ≠ 0 ∧ grace ≠ 0 then p.tauR else some p.origin.tl } := by
  by_cases hr : p.reqs = []
  · by_cases hs : p.img.safeGap ≠ 0 ∧ grace ≠ 0
    · simp [Pitch.post, hr, hs]
    · have hb : (p.img.safeGap != 0 && grace != 0) = false := by simpa using hs
      simp only [Pitch.post, hr, hb, hs, List.isEmpty_nil, Bool.not_true, Bool.false_eq_true, if_false, ne_eq,
        not_true_eq_false]
  · simp [Pitch.post, hr]

theorem Pitch.expire_eq (p : Pitch) : p.expire =
    if p.reqs ≠ [] ∧ p.tauR = none ∧ p.safeAt = none then { p with tauR := some p.origin.tl } else p := by
  have hcond : (p.reqs.isEmpty || p.tauR.isSome || p.safeAt.isSome) = true ↔
      ¬ (p.reqs ≠ [] ∧ p.tauR = none ∧ p.safeAt = none) := by
    simp only [Bool.or_eq_true, List.isEmpty_iff, Option.isSome_iff_ne_none]
    tauto
  by_cases h : p.reqs ≠ [] ∧ p.tauR = none ∧ p.safeAt = none
  · rw [Pitch.expire, if_neg (mt hcond.mp (not_not.mpr h)), if_pos h]
  · rw [Pitch.expire, if_pos (hcond.mpr h), if_neg h]

section
variable {s : State} {p : Pitch} {sl : Slice} {l : Launch}

theorem execFreezeRequestPost_eq (hp : s.pitch? p.id = some p) (hsl : s.slice? p.slice = some sl) (why : FreezeWhy) :
    execFreezeRequestPost p.id why s = .next (s.putPitch (p.post why sl.graceUs s.tick)) := by
  simp only [execFreezeRequestPost, hp, hsl]

theorem execGraceWindowExpiry_eq (hp : s.pitch? p.id = some p) :
    execGraceWindowExpiry p.id s = .next (s.putPitch p.expire) := by
  simp only [execGraceWindowExpiry, hp]

theorem execPitchMove_eq (hp : s.pitch? p.id = some p) (hsl : s.slice? p.slice = some sl) (hl : s.launch? p.id = some l)
    (hid : l.id = p.id) : execPitchMove p.id s =
      .next (if p.moved = true then s else s.putPitch { p.post .move sl.graceUs s.tick with moved := true }) := by
  simp only [execPitchMove, hl, hid, hp, hsl]
  split <;> rfl

theorem execQuantumEnd_eq (hp : s.pitch? p.id = some p) : execQuantumEnd p.id s =
    .next (((s.putPitch { p with fullQuantum := true, moved := false }).onLaunch p.launch
      fun m => { m with moved := false }).schedule p.slice) := by
  simp only [execQuantumEnd, hp]

end

theorem saysFreezeRequests_holds : saysFreezeRequests := by
  intro s p sl l why hp hsl hl hid out posted waits
  have hpost (w : FreezeWhy) : p.post w sl.graceUs s.tick = posted w := p.post_eq w _ _
  refine ⟨?_, ?_, ?_, ?_⟩
  · rw [← hpost]
    exact execFreezeRequestPost_eq hp hsl why
  · exact (execGraceWindowExpiry_eq hp).trans (by rw [p.expire_eq])
  · rw [← hpost]
    exact execPitchMove_eq hp hsl hl hid
  · exact ⟨_, execQuantumEnd_eq hp, State.scheduled_schedule _ _⟩

/-- Settles O55: the clocks of a pitch, and its freeze requests, one lemma for each. -/
theorem pitchClocksAndFreezes : Obligations.PitchClocksAndFreezes :=
  ⟨saysPitchClocks_holds, saysFreezeRequests_holds⟩

end Sys2Proof.Machine

/-! Look-ups after an item is replaced or removed. -/

namespace Sys2Proof.Machine

/-- A look-up by key after the items with that key have been replaced. -/
theorem find?_mapIf_same {α : Type} {key : α → Nat} {l : List α} {n : Nat} {x v : α}
    (h : l.find? (fun q => key q == n) = some x) (hv : key v = n) :
    (mapIf (fun q => key q == n) (fun _ => v) l).find? (fun q => key q == n) = some v := by
  have hkey : (fun q => key q == n) ∘ (fun q => if key q == n then v else q) = fun q => key q == n := by
    funext q
    by_cases hq : key q = n <;> simp [hq, hv]
  have hx : (key x == n) = true := List.find?_some (p := fun q => key q == n) h
  simp only [mapIf, List.find?_map, hkey, h, Option.map_some, hx, if_true]

theorem State.launch?_id {s : State} {n : Nat} {l : Launch} (h : s.launch? n = some l) : l.id = n := by
  simpa using List.find?_some h

theorem State.pitch?_id {s : State} {n : Nat} {p : Pitch} (h : s.pitch? n = some p) : p.id = n := by
  simpa using List.find?_some h

theorem State.slice?_id {s : State} {n : Nat} {sl : Slice} (h : s.slice? n = some sl) : sl.id = n := by
  simpa using List.find?_some h

theorem State.launch?_putLaunch {s : State} {l m : Launch} {n : Nat} (h : s.launch? n = some l) (hm : m.id = n) :
    (s.putLaunch m).launch? n = some m := by
  subst hm
  exact find?_mapIf_same h rfl

theorem State.pitch?_putPitch {s : State} {p q : Pitch} {n : Nat} (h : s.pitch? n = some p) (hq : q.id = n) :
    (s.putPitch q).pitch? n = some q := by
  subst hq
  exact find?_mapIf_same h rfl

theorem State.slice?_putSlice {s : State} {v w : Slice} {n : Nat} (h : s.slice? n = some v) (hw : w.id = n) :
    (s.putSlice w).slice? n = some w := by
  subst hw
  exact find?_mapIf_same h rfl

theorem State.pitch?_dropPitch_self (s : State) (n : Nat) : (s.dropPitch n).pitch? n = none := by
  simp [State.pitch?, State.dropPitch]

/-- The scheduler keeps every launch but for its area. -/
theorem State.Scheduled.launch? {s t : State} {n : Nat} {l : Launch} (h : s.Scheduled t) (hl : s.launch? n = some l) :
    ∃ a, t.launch? n = some { l with area := a } := by
  obtain ⟨more, area, rfl⟩ := h
  refine ⟨area l, ?_⟩
  have hkey : (fun q : Launch => q.id == n) ∘ (fun q : Launch => { q with area := area q }) = fun q => q.id == n := rfl
  replace hl : s.launches.find? (fun q => q.id == n) = some l := hl
  simp only [State.launch?, List.find?_map, hkey, hl, Option.map_some]

end Sys2Proof.Machine

/-! What the end of a pitch or launch writes, and what of the device's books it leaves (R383, R387). -/

namespace Sys2Proof.Machine

/-- Mailbox, receipts, package, pitches and launches: what no write of memory touches. -/
def State.books (s : State) : Mailbox × Receipts × Dev × List Pitch × List Launch :=
  (s.mb, s.rc, s.dev, s.pitches, s.launches)

@[simp] theorem State.onSlice_books (s : State) (n : Nat) (f : Slice → Slice) : (s.onSlice n f).books = s.books := rfl
@[simp] theorem State.unpin_books (s : State) (n : Nat) : (s.unpin n).books = s.books := rfl
@[simp] theorem State.signal_books (s : State) (f v : Nat) : (s.signal f v).books = s.books := rfl
@[simp] theorem State.dropQueue_books (s : State) (n : Nat) : (s.dropQueue n).books = s.books := rfl
@[simp] theorem State.detach_books (s : State) (p : Pitch) : (s.detach p).books = s.books := rfl

theorem State.dropPitch_books_congr {s u : State} (h : s.books = u.books) (n : Nat) :
    (s.dropPitch n).books = (u.dropPitch n).books := by
  simp only [State.books, Prod.mk.injEq] at h
  obtain ⟨hmb, hrc, hdev, hpit, hlau⟩ := h
  simp only [State.books, State.dropPitch, hmb, hrc, hdev, hpit, hlau]

theorem State.putLaunch_books_congr {s u : State} (h : s.books = u.books) (m : Launch) :
    (s.putLaunch m).books = (u.putLaunch m).books := by
  simp only [State.books, Prod.mk.injEq] at h
  obtain ⟨hmb, hrc, hdev, hpit, hlau⟩ := h
  simp only [State.books, State.putLaunch, hmb, hrc, hdev, hpit, hlau]

@[simp] theorem State.writeVa_books (s : State) (sl : Slice) (va : Nat) (b : List Byte) :
    (s.writeVa sl va b).books = s.books := by
  refine List.foldlRecOn (motive := fun z => State.books z = s.books) _ _ rfl fun z hz i _ => ?_
  dsimp only
  split
  · exact hz
  · exact hz

@[simp] theorem State.storeHamper_books (s : State) (l : Launch) (p : Pitch) : (s.storeHamper l p).books = s.books := by
  unfold State.storeHamper
  split
  · rfl
  · exact State.writeVa_books _ _ _ _

@[simp] theorem State.keepPhys_books (s : State) (p : Pitch) : (s.keepPhys p).books = s.books :=
  List.foldlRecOn (motive := fun z => State.books z = s.books) _ _ rfl fun _ hz _ _ => hz

@[simp] theorem State.pinCode_books (s : State) (sl : Slice) (p : Pitch) : (s.pinCode sl p).books = s.books := by
  unfold State.pinCode
  split
  · rfl
  · refine List.foldlRecOn (motive := fun z => State.books z = s.books) _ _ rfl fun z hz k _ => ?_
    dsimp only
    split
    · exact hz
    · exact hz

@[simp] theorem State.ringWrite_books (s : State) (sl : Slice) (loc : Bool) (a : Nat) (b : List Byte) :
    (s.ringWrite sl loc a b).books = s.books := by
  cases loc
  · rfl
  · exact State.writeVa_books _ _ _ _

@[simp] theorem State.writeRecord_books (s : State) (l : Launch) (r : Rec) : (s.writeRecord l r).books = s.books := by
  unfold State.writeRecord
  split
  · rfl
  · dsimp only
    split
    · rfl
    · simp

/-- A launch that has ended with a record, which may still be owed. -/
def Launch.over (l : Launch) (o : Option Rec) : Launch :=
  { l with done := true, ready := false, placed := false, wrapping := false, owed := o }

theorem State.endLaunch_of_hostWrites {s : State} {l : Launch} (h : s.hostWrites l = true) (r : Rec) :
    s.endLaunch l r = s.putLaunch (l.over (some r)) := by
  simp only [State.endLaunch, h, if_true, Launch.over]

theorem State.endLaunch_of_no_hostWrites {s : State} {l : Launch} (h : s.hostWrites l = false) (r : Rec) :
    s.endLaunch l r = (s.writeRecord l r).putLaunch (l.over l.owed) := by
  simp only [State.endLaunch, h, Bool.false_eq_true, if_false, Launch.over]

/-- Whether its record waits or not, a launch that ends is over, and the books keep all else. -/
theorem State.endLaunch_books (s : State) (l : Launch) (r : Rec) :
    ∃ o, (s.endLaunch l r).books = (s.putLaunch (l.over o)).books := by
  cases h : s.hostWrites l
  · exact ⟨_, by rw [State.endLaunch_of_no_hostWrites h, State.putLaunch_books_congr (s.writeRecord_books l r)]⟩
  · exact ⟨_, by rw [State.endLaunch_of_hostWrites h]⟩

/-- A launch with its hamper as the fault image, whose plaintext is `b` (R37, R397). -/
def Launch.faulted (l : Launch) (p : Pitch) (b : List Byte) : Launch :=
  { l with kind := 2, hamper := some p, coolBox := false, plain := b }

theorem State.faultImage_eq (s : State) (l : Launch) (p : Pitch) (r : Rec) : ∃ b, s.faultImage l p r =
    (((s.storeHamper (l.faulted p b) p).unpin l.id).endLaunch (l.faulted p b) r).dropQueue p.id := ⟨_, rfl⟩

/-- A launch that ends with its hamper as the fault image is over (R37, R384). -/
theorem State.faultImage_books (s : State) (l : Launch) (p : Pitch) (r : Rec) :
    ∃ b o, (s.faultImage l p r).books = (s.putLaunch ((l.faulted p b).over o)).books := by
  obtain ⟨b, hb⟩ := s.faultImage_eq l p r
  obtain ⟨o, ho⟩ := State.endLaunch_books ((s.storeHamper (l.faulted p b) p).unpin l.id) (l.faulted p b) r
  exact ⟨b, o, by rw [hb, State.dropQueue_books, ho, State.putLaunch_books_congr (u := s) (by simp)]⟩

/-- A frozen launch keeps its hamper, in the cool box or in the hamper space (R387). -/
theorem State.keepHamper_books (s : State) (sl : Slice) (l : Launch) (p : Pitch) :
    ∃ b, (s.keepHamper sl l p).books = (s.putLaunch { l with hamper := some p, coolBox := b }).books := by
  unfold State.keepHamper
  dsimp only
  split
  · exact ⟨true, rfl⟩
  · exact ⟨false, State.putLaunch_books_congr (State.storeHamper_books _ _ _) _⟩

/-- The record of a launch in host memory, and its interrupt (R383). -/
theorem State.writeRecord_host {s : State} {l : Launch} {sl : Slice} (r : Rec) (hsl : s.slice? l.slice = some sl)
    (ha : sl.active = true) (hloc : (sl.chain l.chain).loc = false) :
    let c := sl.chain l.chain
    (s.writeRecord l r).host = s.host.writeAll (c.recBase + 64 * (l.index % 2 ^ c.log2n))
        (r.bytes l.index (l.field 0 32 32)) ∧
      (s.writeRecord l r).msi = s.msi ++ [(l.slice + 1, 0)] := by
  simp only [State.writeRecord, hsl, ha, hloc, State.ringWrite, Bool.not_true, Bool.false_eq_true, if_false,
    State.onSlice_host, State.onSlice_msi, State.signal_host, State.signal_msi, and_self]

end Sys2Proof.Machine

/-! The charges of a pitch reach the till (R427, R432). -/

namespace Sys2Proof.Machine

/-- A pitch whose tiles have sent what their meters held. -/
def Pitch.billed (p : Pitch) : Pitch := p.mapTiles fun _ t => { t with unsent := Vector.replicate 7 0 }

theorem State.ifExhausted_eq (s : State) (n : Nat) (b : Bool) : ∃ more, s.ifExhausted n b = s.later more := by
  have hnone : s = s.later [] := by simp [State.later]
  unfold State.ifExhausted
  split
  · exact ⟨[], hnone⟩
  · split
    · exact ⟨_, rfl⟩
    · exact ⟨[], hnone⟩

/-- A pitch without a slice is not billed. -/
theorem State.flush_of_no_slice {s : State} {p : Pitch} {n : Nat} (hp : s.pitch? n = some p)
    (hsl : s.slice? p.slice = none) : s.flush n = s := by
  simp only [State.flush, hp, hsl]

theorem State.flush_of_no_pitch {s : State} {n : Nat} (hp : s.pitch? n = none) : s.flush n = s := by
  simp only [State.flush, hp]

/-- A debit touches the level and whether the slice is exhausted. -/
theorem Slice.debit_eq (sl : Slice) (j : Int) : ∃ v b, sl.debit j = { sl with level := v, exhausted := b } := ⟨_, _, rfl⟩

theorem Slice.charged_id_serial (sl : Slice) (e : Vector Int 10) (d : List (Nat × Nat × Nat × Nat)) (j : Int) :
    (Slice.debit { sl with energy := e, dyn := d } j).id = sl.id ∧
      (Slice.debit { sl with energy := e, dyn := d } j).serial = sl.serial := by
  obtain ⟨v, b, h⟩ := Slice.debit_eq { sl with energy := e, dyn := d } j
  rw [h]
  exact ⟨rfl, rfl⟩

/-- The till's books, the slice's accounts and the tiles' meters are all that a flush changes. -/
theorem State.flush_of_slice {s : State} {p : Pitch} {n : Nat} {sl : Slice} (hp : s.pitch? n = some p)
    (hsl : s.slice? p.slice = some sl) : ∃ j v more, s.flush n = (((s.bill j).putSlice v).putPitch p.billed).later more ∧
      v.id = sl.id ∧ v.serial = sl.serial := by
  have hflush : ∃ j v, s.flush n = (((s.bill j).putSlice v).putPitch p.billed).ifExhausted p.slice sl.exhausted ∧
      v.id = sl.id ∧ v.serial = sl.serial := by
    simp only [State.flush, hp, hsl]
    exact ⟨_, _, rfl, Slice.charged_id_serial sl _ _ _⟩
  obtain ⟨j, v, h, hid, hserial⟩ := hflush
  obtain ⟨more, hmore⟩ := State.ifExhausted_eq (((s.bill j).putSlice v).putPitch p.billed) p.slice sl.exhausted
  exact ⟨j, v, more, h.trans hmore, hid, hserial⟩

/-- What a flush keeps of a placed pitch and its launch, with or without a slice. -/
theorem State.flush_spec {s : State} {p : Pitch} {n : Nat} (hp : s.pitch? n = some p) :
    (s.flush n).mb = s.mb ∧ (s.flush n).dev = s.dev ∧ (s.flush n).launches = s.launches ∧
      ∃ q, (s.flush n).pitch? n = some q ∧ (q = p ∨ q = p.billed) := by
  cases hsl : s.slice? p.slice with
  | none =>
    rw [State.flush_of_no_slice hp hsl]
    exact ⟨rfl, rfl, rfl, p, hp, .inl rfl⟩
  | some sl =>
    obtain ⟨j, v, more, h, -, -⟩ := State.flush_of_slice hp hsl
    rw [h]
    have hp' : (((s.bill j).putSlice v)).pitch? n = some p := hp
    exact ⟨rfl, rfl, rfl, p.billed, State.pitch?_putPitch hp' (State.pitch?_id (p := p) hp), .inr rfl⟩

theorem State.slice?_flush {s : State} {p : Pitch} {n : Nat} {sl : Slice} (hp : s.pitch? n = some p)
    (hsl : s.slice? p.slice = some sl) : ∃ v, (s.flush n).slice? p.slice = some v ∧ v.serial = sl.serial := by
  obtain ⟨j, v, more, h, hid, hserial⟩ := State.flush_of_slice hp hsl
  have hsl' : (s.bill j).slice? p.slice = some sl := hsl
  rw [h]
  exact ⟨v, State.slice?_putSlice hsl' (hid.trans (State.slice?_id hsl)), hserial⟩

theorem State.flush_rc (s : State) (n : Nat) : ∃ j, (s.flush n).rc = { s.rc with billed := s.rc.billed + j } := by
  cases hp : s.pitch? n with
  | none => exact ⟨0, congrArg State.rc (State.flush_of_no_pitch hp)⟩
  | some p =>
    cases hsl : s.slice? p.slice with
    | none => exact ⟨0, congrArg State.rc (State.flush_of_no_slice hp hsl)⟩
    | some sl =>
      obtain ⟨j, v, more, h, -, -⟩ := State.flush_of_slice hp hsl
      exact ⟨j, congrArg State.rc h⟩

theorem Pitch.billed_allTraps (p : Pitch) : p.billed.allTraps = p.allTraps := by
  have hlen : p.billed.tiles.length = p.tiles.length := List.length_mapIdx
  simp only [Pitch.allTraps, hlen]
  refine List.flatMap_congr fun k hk => ?_
  have hk' : k < p.tiles.length := List.mem_range.mp hk
  simp [Pitch.billed, Pitch.mapTiles, List.getD_eq_getElem?_getD, hk']

theorem Pitch.billed_trapped (p : Pitch) : p.billed.trapped = p.trapped := by
  simp only [Pitch.trapped, p.billed_allTraps]

end Sys2Proof.Machine

/-! A freeze takes effect, or a pitch completes (R37, R43, R44, R48, R384, R387). -/

namespace Sys2Proof.Machine

/-- What is left of a pitch `pid` and its launch once the pitch is gone: `m` is the launch but for the area that the scheduler may
give it. -/
structure State.Gone (s t : State) (pid : Nat) (m : Launch) : Prop where
  pitch : t.pitch? pid = none
  launch : ∃ a, t.launch? m.id = some { m with area := a }
  mb : t.mb = s.mb
  rc : t.rc = s.rc
  dev : t.dev = s.dev

/-- The end of a pitch: its slot is dropped, its launch replaced, and the scheduler looks on. -/
theorem State.gone_schedule {s u : State} {l m : Launch} {pid : Nat} (hl : s.launch? m.id = some l)
    (hu : u.books = ((s.dropPitch pid).putLaunch m).books) (more : List Slot) (n : Nat) :
    s.Gone ((u.later more).schedule n) pid m := by
  simp only [State.books, Prod.mk.injEq] at hu
  obtain ⟨hmb, hrc, hdev, hpit, hlau⟩ := hu
  have hsched := State.scheduled_schedule (u.later more) n
  have hul : (u.later more).launch? m.id = some m := by
    have hm : ((s.dropPitch pid).putLaunch m).launch? m.id = some m := State.launch?_putLaunch hl rfl
    simpa only [State.launch?, State.later, hlau] using hm
  refine ⟨?_, hsched.launch? hul, ?_, ?_, ?_⟩
  all_goals obtain ⟨more', area, h⟩ := hsched
  all_goals rw [h]
  · have hp : ((s.dropPitch pid).putLaunch m).pitch? pid = none := State.pitch?_dropPitch_self s pid
    simpa only [State.pitch?, State.later, hpit] using hp
  · exact hmb
  · exact hrc
  · exact hdev

/-- A launch whose pitch has been frozen (R387). -/
def Launch.frozen (l : Launch) (p : Pitch) (serial tick : Nat) : Launch :=
  { l with placed := false, serial := serial + 1, kind := b2n p.safeAt.isSome, since := tick
           moved := l.moved || p.reqs.contains .move }

/-- A freeze leaves a fault image where a trap is registered or the launch was to end, and else a hamper. -/
theorem State.freezeNow_eq {s : State} {p q : Pitch} {v : Slice} {l : Launch} (hq : (s.flush p.id).pitch? p.id = some q)
    (hv : (s.flush p.id).slice? p.slice = some v) (hl : (s.flush p.id).launch? p.launch = some l) :
    ∃ (u : State) (more : List Slot) (s1 : State), s.freezeNow p = (u.later more).schedule q.slice ∧
      s1.books = ((s.flush p.id).dropPitch q.id).books ∧
      ((q.trapped = true ∨ l.ending = true) → ∃ h r, u = s1.faultImage (l.frozen q v.serial s.tick) h r) ∧
      (q.trapped = false → l.ending = false →
        ∃ h, u = s1.keepHamper v { l.frozen q v.serial s.tick with ready := true } h) := by
  have hleft : (((s.flush p.id).detach q).keepPhys q).books = (s.flush p.id).books := by simp
  have hdrop := State.dropPitch_books_congr hleft q.id
  simp only [State.freezeNow, hq, hv, hl]
  by_cases ht : q.trapped = true
  · rw [if_pos ht]
    refine ⟨_, _, _, rfl, ?_, fun _ => ⟨_, _, rfl⟩, fun h => absurd ht (by simp [h])⟩
    exact hdrop
  · by_cases he : l.ending = true
    · rw [if_neg ht, if_pos he]
      refine ⟨_, _, _, rfl, ?_, fun _ => ⟨_, _, rfl⟩, fun _ h => absurd he (by simp [h])⟩
      exact hdrop
    · rw [if_neg ht, if_neg he]
      refine ⟨_, _, _, rfl, ?_, fun h => absurd h (by simp [ht, he]), fun _ _ => ⟨_, rfl⟩⟩
      split
      · exact hdrop
      · exact (State.pinCode_books _ _ _).trans hdrop

/-- What a freeze leaves of a pitch and its launch. -/
theorem State.freezeNow_gone {s : State} {p : Pitch} {sl : Slice} {l : Launch} (hp : s.pitch? p.id = some p)
    (hsl : s.slice? p.slice = some sl) (hl : s.launch? p.launch = some l) :
    ∃ m, (s.flush p.id).Gone (s.freezeNow p) p.id m ∧ m.id = p.launch ∧ m.placed = false ∧ m.hamper ≠ none ∧
      m.serial = sl.serial + 1 ∧
      ((p.trapped = true ∨ l.ending = true) → m.done = true ∧ m.ready = false ∧ m.kind = 2) ∧
      (p.trapped = false → l.ending = false →
        m.done = l.done ∧ m.ready = true ∧ m.since = s.tick ∧ m.kind = if p.safeAt = none then 0 else 1) := by
  obtain ⟨-, -, hlau, q, hq, hqp⟩ := State.flush_spec hp
  obtain ⟨v, hv, hserial⟩ := State.slice?_flush hp hsl
  have hl0 : (s.flush p.id).launch? p.launch = some l := by simpa only [State.launch?, hlau] using hl
  have hid : l.id = p.launch := State.launch?_id hl
  have hqid : q.id = p.id := State.pitch?_id hq
  have htrap : q.trapped = p.trapped := by rcases hqp with rfl | rfl; rfl; exact p.billed_trapped
  have hsafe : q.safeAt = p.safeAt := by rcases hqp with rfl | rfl <;> rfl
  obtain ⟨u, more, s1, hrun, hbooks, hfault, hhamper⟩ := State.freezeNow_eq hq hv hl0
  rw [hqid] at hbooks
  rw [hrun]
  by_cases hend : p.trapped = true ∨ l.ending = true
  · obtain ⟨h, r, rfl⟩ := hfault (htrap ▸ hend)
    obtain ⟨b, o, hm⟩ := s1.faultImage_books (l.frozen q v.serial s.tick) h r
    refine ⟨_, State.gone_schedule (l := l) (by rw [← hl0, ← hid]; rfl)
      (hm.trans (State.putLaunch_books_congr hbooks _)) more _, hid, rfl, by simp [Launch.over, Launch.faulted], ?_,
      fun _ => ⟨rfl, rfl, rfl⟩, fun htr hen => ?_⟩
    · rw [← hserial]
      rfl
    · simp [htr, hen] at hend
  · obtain ⟨htr, hen⟩ : p.trapped = false ∧ l.ending = false := by simpa using hend
    obtain ⟨h, rfl⟩ := hhamper (htrap.trans htr) hen
    obtain ⟨b, hm⟩ := s1.keepHamper_books v { l.frozen q v.serial s.tick with ready := true } h
    refine ⟨_, State.gone_schedule (l := l) (by rw [← hl0, ← hid]; rfl)
      (hm.trans (State.putLaunch_books_congr hbooks _)) more _, hid, rfl, by simp, ?_, fun h => absurd h hend,
      fun _ _ => ⟨rfl, rfl, rfl, ?_⟩⟩
    · rw [← hserial]
      rfl
    · simp only [Launch.frozen, hsafe]
      cases p.safeAt <;> rfl

/-- A completion drops the pitch and ends its launch, with a record that may be owed. -/
theorem State.completeNow_eq {s : State} {p q : Pitch} {l : Launch} (hq : (s.flush p.id).pitch? p.id = some q)
    (hl : (s.flush p.id).launch? p.launch = some l) :
    ∃ (s2 : State) (r : Rec) (more : List Slot), s.completeNow p = ((s2.endLaunch l r).later more).schedule q.slice ∧
      s2.books = ((s.flush p.id).dropPitch q.id).books := by
  simp only [State.completeNow, hq, hl]
  exact ⟨_, _, _, rfl, State.dropPitch_books_congr (u := s.flush p.id) (State.keepPhys_books _ _) q.id⟩

/-- What the completion of a pitch leaves of it and its launch. -/
theorem State.completeNow_gone {s : State} {p : Pitch} {l : Launch} (hp : s.pitch? p.id = some p)
    (hl : s.launch? p.launch = some l) :
    ∃ m, (s.flush p.id).Gone (s.completeNow p) p.id m ∧ m.id = p.launch ∧ m.done = true ∧ m.placed = false := by
  obtain ⟨-, -, hlau, q, hq, -⟩ := State.flush_spec hp
  have hl0 : (s.flush p.id).launch? p.launch = some l := by simpa only [State.launch?, hlau] using hl
  have hid : l.id = p.launch := State.launch?_id hl
  have hqid : q.id = p.id := State.pitch?_id hq
  obtain ⟨s2, r, more, hrun, hbooks⟩ := State.completeNow_eq hq hl0
  obtain ⟨o, hm⟩ := State.endLaunch_books s2 l r
  rw [hqid] at hbooks
  rw [hrun]
  exact ⟨_, State.gone_schedule (l := l) (by rw [← hl0, ← hid]; rfl)
    (hm.trans (State.putLaunch_books_congr hbooks _)) more _, hid, rfl, rfl⟩

/-- Settles O56: a freeze and a completion leave the pitch gone and its launch as `Gone` says; the record goes through `endLaunch`. -/
theorem pitchEnds : Obligations.PitchEnds := by
  unfold Obligations.PitchEnds
  intro s p l hp hl
  obtain ⟨hmb, hdev, -, -⟩ := State.flush_spec hp
  refine ⟨fun hstop => ?_, fun sl hsl hstop => ?_, fun hdone => ?_, fun hdone => ?_, s.flush_rc,
    fun r h => State.endLaunch_of_hostWrites h r, fun sl r h hsl ha hloc => ?_⟩
  · simp [exec, execFreeze, hp, hstop]
  · obtain ⟨m, hgone, hid, hplaced, hhamper, hserial, hfault, hkept⟩ := State.freezeNow_gone hp hsl hl
    obtain ⟨a, ha⟩ := hgone.launch
    refine ⟨s.freezeNow p, { m with area := a }, by simp [exec, execFreeze, hp, hstop], hgone.pitch, hid ▸ ha, hplaced,
      hhamper, hserial, hfault, hkept, hgone.mb.trans hmb, hgone.rc, hgone.dev.trans hdev⟩
  · simp [exec, execPitchComplete, hp, hdone]
  · obtain ⟨m, hgone, hid, hover, hplaced⟩ := State.completeNow_gone hp hl
    obtain ⟨a, ha⟩ := hgone.launch
    exact ⟨s.completeNow p, { m with area := a }, by simp [exec, execPitchComplete, hp, hdone], hgone.pitch, hid ▸ ha, hover,
      hplaced, hgone.mb.trans hmb, hgone.rc, hgone.dev.trans hdev⟩
  · rw [State.endLaunch_of_no_hostWrites h]
    exact State.writeRecord_host r hsl ha hloc

end Sys2Proof.Machine

/-! A tile at a launch placement (R161, R369, R382): its registers hold the argument words, and all else its first values. -/

namespace Sys2Proof.Machine

theorem at'_setIfInBounds {α : Type} {n : Nat} (d : α) (v : Vector α n) {i j : Nat} (x : α) (hi : i < n) :
    at' d (v.setIfInBounds i x) j = if j = i then x else at' d v j := by
  simp only [at', Vector.getElem?_setIfInBounds]
  by_cases h : i = j
  · subst h
    simp [hi]
  · simp [h, Ne.symm h]

/-- Argument word `i` goes to g register `i`, and from word 32 on to x register `i - 32` (R382). -/
def Tile.loadArg (args : List Word) (t : Tile) (i : Nat) : Tile :=
  if i < 32 then t.setG i (args.getD i 0) else t.setX (i - 32) (args.getD i 0)

/-- Loading the first `n` argument words changes the registers that they go to, and nothing else. -/
theorem Tile.foldl_loadArg (args : List Word) (t : Tile) {n : Nat} (hn : n ≤ 48) :
    ∃ g xr, (List.range n).foldl (Tile.loadArg args) t = { t with g := g, xr := xr } ∧
      (∀ r < 32, at' {} g r = if r < n then ⟨args.getD r 0, t.gen⟩ else at' {} t.g r) ∧
      ∀ r < 16, at' {} xr r = if 32 + r < n then ⟨args.getD (32 + r) 0, t.gen⟩ else at' {} t.xr r := by
  induction n with
  | zero => exact ⟨t.g, t.xr, rfl, by simp, by simp⟩
  | succ n ih =>
    obtain ⟨g, xr, hfold, hg, hxr⟩ := ih (by omega)
    rw [List.range_succ, List.foldl_append, hfold]
    simp only [List.foldl_cons, List.foldl_nil, Tile.loadArg]
    by_cases h32 : n < 32
    · rw [if_pos h32]
      refine ⟨g.setIfInBounds n ⟨args.getD n 0, t.gen⟩, xr, rfl, fun r hr => ?_, fun r hr => ?_⟩
      · rw [at'_setIfInBounds _ _ _ h32, hg r hr]
        by_cases hrn : r = n
        · subst hrn
          simp
        · simp only [hrn, if_false, show r < n + 1 ↔ r < n by omega]
      · rw [hxr r hr, if_neg (by omega), if_neg (by omega)]
    · rw [if_neg h32]
      refine ⟨g, xr.setIfInBounds (n - 32) ⟨args.getD n 0, t.gen⟩, rfl, fun r hr => ?_, fun r hr => ?_⟩
      · rw [hg r hr, if_pos (by omega), if_pos (by omega)]
      · rw [at'_setIfInBounds _ _ _ (by omega), hxr r hr]
        by_cases hrn : r = n - 32
        · simp only [hrn, if_true, show 32 + (n - 32) = n by omega, Nat.lt_succ_self]
        · simp only [hrn, if_false, show 32 + r < n + 1 ↔ 32 + r < n by omega]

/-- Records of an image written to the scratchpad change the scratchpad alone. -/
theorem Tile.foldl_spmWrite_frame (recs : List (Nat × List Byte)) (t : Tile) :
    ∃ m tags, recs.foldl (fun (t : Tile) r => t.spmWrite (recordWrites r)) t = { t with spm := m, spmTag := tags } :=
  List.foldlRecOn (motive := fun z : Tile => ∃ m tags, z = { t with spm := m, spmTag := tags }) _ _
    ⟨t.spm, t.spmTag, rfl⟩ fun _ ⟨_, _, hz⟩ _ _ => hz ▸ ⟨_, _, rfl⟩

/-- A tile before its data and arguments are written. -/
def blankTile (i : Image) (g k lag : Nat) (ph : Phys) (args : List Word) : Tile :=
  { x := k % i.w, y := k / i.w, cls := i.classOf.getD k 0, gen := g, pitchGen := g, maxGen := g,
    staleTrap := i.stale, epoch := ph.epoch.map nextEpoch, mode := .pulse lag,
    blk := if i.block then some (i.firstBlock (i.classOf.getD k 0) args) else none }

theorem launchTile_eq (i : Image) (g k lag : Nat) (ph : Phys) {args : List Word} (hargs : args.length ≤ 48) :
    ∃ m tags gs xs, launchTile i g k lag ph args =
        { blankTile i g k lag ph args with spm := m, spmTag := tags, g := gs, xr := xs } ∧
      (∀ r < 32, at' {} gs r = if r < args.length then ⟨args.getD r 0, g⟩ else {}) ∧
      ∀ r < 16, at' {} xs r = if 32 + r < args.length then ⟨args.getD (32 + r) 0, g⟩ else {} := by
  obtain ⟨m, tags, hspm⟩ := Tile.foldl_spmWrite_frame
    (i.const ++ (i.data.filter fun d => d.1 == i.classOf.getD k 0).map fun d => d.2) (blankTile i g k lag ph args)
  obtain ⟨gs, xs, hfold, hg, hx⟩ := Tile.foldl_loadArg args
    { blankTile i g k lag ph args with spm := m, spmTag := tags } hargs
  refine ⟨m, tags, gs, xs, ?_, fun r hr => (hg r hr).trans ?_, fun r hr => (hx r hr).trans ?_⟩
  · rw [← hfold, ← hspm]
    rfl
  · simp [blankTile, at', hr]
  · simp [blankTile, at', hr]

/-- A register that holds the argument word `v i` where there is one, and is stale otherwise, reads as that word or 0. -/
theorem argReg_read {g i : Nat} {args : List Word} {q : Reg} (hg : 0 < g)
    (hq : q = if i < args.length then ⟨args.getD i 0, g⟩ else {}) :
    (if !(q.tag == g && g != 0) then 0 else q.val) = args.getD i 0 := by
  subst hq
  by_cases hi : i < args.length
  · simp [hi, Nat.pos_iff_ne_zero.mp hg]
  · simp [hi, (Nat.pos_iff_ne_zero.mp hg).symm]

theorem launchTile_spec (i : Image) (g k lag : Nat) (ph : Phys) (args : List Word) (hg : 0 < g) (hargs : args.length ≤ 48) :
    let t := launchTile i g k lag ph args
    t.gen = g ∧ t.pitchGen = g ∧ t.x = k % i.w ∧ t.y = k / i.w ∧ t.cls = i.classOf.getD k 0 ∧ t.mode = .pulse lag ∧
      t.staleTrap = i.stale ∧ (i.block = false → t.blk = none) ∧
      (i.block = true → ∃ b, t.blk = some b ∧ b.op = 0 ∧ ∀ r < 256, at' 0 b.live r = args.getD r 0) ∧
      (∀ r < 32, t.reg .C r = args.getD r 0) ∧ ∀ r < 16, t.reg .X r = args.getD (32 + r) 0 := by
  obtain ⟨m, tags, gs, xs, h, hgs, hxs⟩ := launchTile_eq i g k lag ph hargs
  simp only [h]
  refine ⟨rfl, rfl, rfl, rfl, rfl, rfl, rfl, fun hb => by simp [blankTile, hb],
    fun hb => ⟨i.firstBlock (i.classOf.getD k 0) args, by simp [blankTile, hb], rfl, fun r hr => ?_⟩,
    fun r hr => argReg_read hg (hgs r hr), fun r hr => argReg_read hg (hxs r hr)⟩
  simp [Image.firstBlock, at', hr]

end Sys2Proof.Machine

/-! Placement, resumption and generation wraps (R93, R96, R387). -/

namespace Sys2Proof.Machine

/-- A launch that would pass its largest generation waits for the hard clears of a wrap (R93). -/
theorem State.wrapOr_of_lt {s : State} {l : Launch} {ks : List Nat} (k : Nat → State)
    (h : (if l.strict then 2048 else 4095) < s.nextGen ks) : s.wrapOr l ks k = s.putLaunch { l with wrapping := true } :=
  if_pos h

theorem State.wrapOr_of_le {s : State} {l : Launch} {ks : List Nat} (k : Nat → State)
    (h : s.nextGen ks ≤ if l.strict then 2048 else 4095) : s.wrapOr l ks k = k (s.nextGen ks) :=
  if_neg (Nat.not_lt.mpr h)

/-- A launch without a place is neither placed nor resumed. -/
theorem State.place_of_not_chosen {s : State} {l : Launch} (h : s.chosen l = none) : s.place l = s := by
  simp only [State.place, h]

theorem State.resume_of_not_chosen {s : State} {l : Launch} (h : s.chosen l = none) : s.resume l = s := by
  simp only [State.resume, h]

/-- A chosen place, once what stood in its way has been evicted, and, where it is not the place that the hamper left, with the
launch's pinned code dropped (R361). -/
def State.cleared (s : State) (sl : Slice) (l : Launch) (q : Place) (h : Pitch) : State :=
  if h.ox = q.ox ∧ h.oy = q.oy ∧ h.orient = q.o then s.evict sl l q else (s.evict sl l q).unpin l.id

theorem State.cleared_nextGen (s : State) (sl : Slice) (l : Launch) (q : Place) (h : Pitch) (ks : List Nat) :
    (s.cleared sl l q h).nextGen ks = (s.evict sl l q).nextGen ks := by
  unfold State.cleared
  split <;> rfl

/-- The pitch that a hamper is restored to under generation `g`, before its first looks (R45, R93). -/
def State.restoredPitch (s : State) (l : Launch) (i : Image) (q : Place) (ks : List Nat) (h : Pitch) (g tick : Nat) : Pitch :=
  let p0 := newPitch l i q g tick
  { p0 with
    cEnded := h.cEnded, links := h.links
    tiles := h.tiles.mapIdx fun k t =>
      (resumeTile t g (p0.off t) (s.physOf (ks.getD k 0))).keepCopies fun c => (s.copy? c).isSome }

/-- The state with a hamper's pitch restored, its copies and messages under the new generation. -/
def State.restored (s : State) (l : Launch) (p : Pitch) (g : Nat) : State :=
  State.putLaunch { s with
    pitches := s.pitches ++ [s.firstLooks p]
    copies := s.copies.map fun c => if c.pitch = l.id ∧ c.left = [] then { c with pgen := g } else c
    msgs := s.msgs.map fun m => if m.pitch = l.id then { m with pgen := g } else m }
    { l with placed := true, wrapping := false, hamper := none, area := [] }

section Resume
variable {s : State} {l : Launch} {sl : Slice} {i : Image} {q : Place} {ks : List Nat} {h : Pitch}

/-- A hamper whose tag fails ends the launch with MEMORY_ERROR (R388). -/
theorem State.resume_of_bad {k : Nat} (hc : s.chosen l = some (sl, i, q, ks)) (hh : l.hamper = some h)
    (hbad : (if l.coolBox then none else s.hamperBad l h) = some k) :
    s.resume l = ((((s.unpin l.id).onSlice l.slice fun v => { v with faults := v.faults + 1 }).endLaunch
      { l with hamper := none } { status := 1, code := trapMemory, party1 := partyWord i k .C 0, stale := h.staleSum,
                                  energy := h.energyUj }).dropQueue l.id) := by
  simp only [State.resume, hc, hh, hbad]

/-- A hamper whose tag holds is restored, where its code still stands, under a generation that needs no wrap first. -/
theorem State.resume_of_good (hc : s.chosen l = some (sl, i, q, ks)) (hh : l.hamper = some h)
    (hbad : (if l.coolBox then none else s.hamperBad l h) = none) :
    let s2 := s.cleared sl l q h
    s.resume l = if s2.reloadOk sl l i ks = false then
        ((s2.unpin l.id).endLaunch { l with hamper := none }
          { status := 2, code := 1, stale := h.staleSum, energy := h.energyUj }).dropQueue l.id
      else s2.wrapOr l ks fun g => (s2.restored l (s2.restoredPitch l i q ks h g s.tick) g).schedule l.slice := by
  have hcleared : (if h.ox == q.ox && h.oy == q.oy && h.orient == q.o then s.evict sl l q
      else (s.evict sl l q).unpin l.id) = s.cleared sl l q h := if_congr (by simp [and_assoc]) rfl rfl
  have hcopies (g : Nat) : (fun c : CopyRec => if c.pitch == l.id && c.left.isEmpty then { c with pgen := g } else c) =
      fun c => if c.pitch = l.id ∧ c.left = [] then { c with pgen := g } else c :=
    funext fun c => if_congr (by simp) rfl rfl
  have hmsgs (g : Nat) : (fun m : Msg => if m.pitch == l.id then { m with pgen := g } else m) =
      fun m => if m.pitch = l.id then { m with pgen := g } else m :=
    funext fun m => if_congr (by simp) rfl rfl
  simp only [State.resume, hc, hh, hbad, hcleared, hcopies, hmsgs]
  exact if_congr (by simp) rfl rfl

end Resume

/-- Settles O57: `place`, `resume` and `wrapClear` by their branches, and a tile at its launch by `launchTile_spec`. -/
theorem pitchPlacement : Obligations.PitchPlacement := by
  unfold Obligations.PitchPlacement
  intro s l hl
  dsimp only
  have hplace (h : l.hamper = none) : exec (.pitchPlacement l.id) s = .next (s.place l) := by
    simp [exec, execPitchPlacement, hl, h]
  have hresume : exec (.pitchResume l.id) s = .next (s.resume l) := by simp [exec, execPitchResume, hl]
  have hclear : exec (.generationWrapClear l.id) s = if l.wrapping then .next (s.wrapClear l) else .next s := by
    simp [exec, execGenerationWrapClear, hl]
  refine ⟨fun hc => ⟨?_, ?_⟩, fun sl i q ks hc => ⟨fun hh hg => ?_, fun hh hg => ?_, fun h hh => ⟨fun k hbad => ?_,
    fun hbad hcode => ?_, fun hbad hcode hg => ?_, fun hbad hcode hg => ?_⟩⟩, fun hw => ?_, fun hw => ⟨fun hc => ?_,
    fun sl i q ks hc => ⟨fun hto => ?_, fun hto => ?_⟩⟩, launchTile_spec⟩
  · cases hh : l.hamper with
    | none => rw [hplace hh, State.place_of_not_chosen hc]
    | some h => simp [exec, execPitchPlacement, hl, hh]
  · rw [hresume, State.resume_of_not_chosen hc]
  · rw [hplace hh]
    simp only [State.place, hc, State.wrapOr_of_lt _ hg]
  · refine ⟨s.place l, hplace hh, ?_⟩
    simp only [State.place, hc, State.wrapOr_of_le _ hg]
    rw [hh]
    exact State.scheduled_schedule _ _
  · rw [hresume, State.resume_of_bad hc hh hbad]
  · replace hcode : (s.cleared sl l q h).reloadOk sl l i ks = false := hcode
    rw [hresume, State.resume_of_good hc hh hbad, if_pos hcode]
    rfl
  · replace hcode : (s.cleared sl l q h).reloadOk sl l i ks = true := hcode
    rw [hresume, State.resume_of_good hc hh hbad, if_neg (by simp [hcode]),
      State.wrapOr_of_lt _ (by rw [State.cleared_nextGen]; exact hg)]
    rfl
  · replace hcode : (s.cleared sl l q h).reloadOk sl l i ks = true := hcode
    refine ⟨s.resume l, hresume, ?_⟩
    change ((s.cleared sl l q h).restored l ((s.cleared sl l q h).restoredPitch l i q ks h ((s.evict sl l q).nextGen ks) s.tick)
      ((s.evict sl l q).nextGen ks)).Scheduled _
    rw [State.resume_of_good hc hh hbad, if_neg (by simp [hcode]),
      State.wrapOr_of_le _ (by rw [State.cleared_nextGen]; exact hg), State.cleared_nextGen]
    exact State.scheduled_schedule _ _
  · rw [hclear, hw]
    rfl
  · rw [hclear, hw]
    simp only [State.wrapClear, hc, if_true]
  · rw [hclear, hw]
    simp only [State.wrapClear, hc, hto, if_true]
  · rw [hclear, hw]
    simp only [State.wrapClear, hc, hto, Bool.false_eq_true, if_false, if_true, ← Option.isSome_iff_ne_none]

end Sys2Proof.Machine

/-! Bytes of a store under masked writes: what a read gives after them, for any store in canonical form (R90, R91). -/

namespace Sys2Proof.Machine

/-- A table entry after a write of a tag that is not 0, whether or not the table is canonical. -/
theorem Tab.read_write_of_ne_zero (m : Tab) (k : Nat) {v : Nat} (hv : v ≠ 0) (j : Nat) :
    (m.write k v).read j = if j = k then v else m.read j := by
  induction m with
  | nil => by_cases hjk : j = k <;> simp [Tab.write, Tab.read, hv, hjk]
  | cons e m ih =>
    obtain ⟨a, u⟩ := e
    rcases Nat.lt_trichotomy k a with hka | rfl | hak
    · have hw : Tab.write ((a, u) :: m) k v = (k, v) :: (a, u) :: m := by simp [Tab.write, hka, hv]
      rw [hw]
      simp only [Tab.read, beq_iff_eq]
      split_ifs <;> omega
    · have hw : Tab.write ((k, u) :: m) k v = (k, v) :: m := by simp [Tab.write, hv]
      rw [hw]
      simp only [Tab.read, beq_iff_eq]
      split_ifs <;> rfl
    · have hw : Tab.write ((a, u) :: m) k v = (a, u) :: Tab.write m k v := by
        simp [Tab.write, Nat.not_lt.mpr hak.le, hak.ne']
      rw [hw]
      simp only [Tab.read, beq_iff_eq, ih]
      split_ifs <;> omega

theorem writtenByte_nil (old k : Nat) : writtenByte old [] k = old := rfl

theorem writtenByte_cons (old : Nat) (b : MByte) (l : List MByte) (k : Nat) : writtenByte old (b :: l) k =
    writtenByte (if k = b.addr then (old &&& (255 - b.mask)) ||| (b.val &&& b.mask) else old) l k := by
  by_cases h : k = b.addr
  · simp [writtenByte, h]
  · simp [writtenByte, h, Ne.symm h]

theorem writtenByte_append (old : Nat) (l m : List MByte) (k : Nat) :
    writtenByte old (l ++ m) k = writtenByte (writtenByte old l k) m k := by
  simp only [writtenByte, List.filter_append, List.foldl_append]

/-- Writes to other addresses leave a byte as it was. -/
theorem writtenByte_of_forall_ne (old : Nat) {l : List MByte} {k : Nat} (h : ∀ b ∈ l, b.addr ≠ k) :
    writtenByte old l k = old := by
  have hl : l.filter (fun b => b.addr == k) = [] := by simpa using h
  simp only [writtenByte, hl, List.foldl_nil]

/-- Of the writes that touch an item, all that reach a byte of the item are among them. -/
theorem writtenByte_filter_item (old : Nat) (l : List MByte) (sz k : Nat) :
    writtenByte old (l.filter fun b => b.addr / sz == k / sz) k = writtenByte old l k := by
  have hl : (l.filter fun b => b.addr / sz == k / sz).filter (fun b => b.addr == k) = l.filter fun b => b.addr == k := by
    rw [List.filter_filter]
    refine List.filter_congr fun b _ => ?_
    by_cases h : b.addr = k <;> simp [h]
  simp only [writtenByte, hl]

/-- Whole bytes written in a row leave a byte of the row with its value, and every other byte as it was. -/
theorem writtenByte_row (old a n : Nat) {f : Nat → Nat} (hf : ∀ i, f i < 256) (k : Nat) :
    writtenByte old ((List.range n).map fun i => { addr := a + i, val := f i }) k =
      if a ≤ k ∧ k < a + n then f (k - a) else old := by
  induction n with
  | zero => simp [writtenByte]
  | succ n ih =>
    rw [List.range_succ, List.map_append, writtenByte_append, ih, List.map_singleton, writtenByte_cons, writtenByte_nil]
    have hbyte : f n &&& 255 = f n := Nat.and_two_pow_sub_one_of_lt_two_pow (n := 8) (hf n)
    by_cases hk : k = a + n
    · simp [hk, hbyte]
    · simp only [hk, if_false, show k < a + (n + 1) ↔ k < a + n by omega]

/-- Bits of a row's writes, counted from the start of the grid. -/
theorem writtenByte_shift (old base : Nat) (l : List MByte) (k : Nat) :
    writtenByte old (l.map fun b => { b with addr := base + b.addr }) (base + k) = writtenByte old l k := by
  induction l generalizing old with
  | nil => rfl
  | cons b l ih => simp only [List.map_cons, writtenByte_cons, ih, Nat.add_left_cancel_iff]

/-- A masked write of a byte into a canonical store. -/
theorem Mem.read_writeMasked {m : Mem} (hm : m.wf = true) {b : MByte} (hb : b.mask < 256) (k : Nat) :
    ((m.writeMasked b).read k).toNat =
      if k = b.addr then ((m.read k).toNat &&& (255 - b.mask)) ||| (b.val &&& b.mask) else (m.read k).toNat := by
  have hlow : ((m.read b.addr).toNat &&& (255 - b.mask)) ||| (b.val &&& b.mask) < 2 ^ 8 :=
    Nat.or_lt_two_pow (Nat.and_lt_two_pow _ (by omega)) (Nat.and_lt_two_pow _ hb)
  rw [Mem.writeMasked, Mem.read_write hm]
  by_cases hk : k = b.addr
  · rw [if_pos hk, if_pos hk, hk, BitVec.toNat_ofNat, Nat.mod_eq_of_lt hb, Nat.mod_eq_of_lt hlow]
  · rw [if_neg hk, if_neg hk]

theorem Mem.read_foldl_writeMasked {l : List MByte} (hl : ∀ b ∈ l, b.mask < 256) {m : Mem} (hm : m.wf = true) (k : Nat) :
    ((l.foldl Mem.writeMasked m).read k).toNat = writtenByte (m.read k).toNat l k := by
  induction l generalizing m with
  | nil => rfl
  | cons b l ih =>
    obtain ⟨hb, hl⟩ := List.forall_mem_cons.mp hl
    rw [List.foldl_cons, ih hl (Mem.wf_writeMasked b hm), Mem.read_writeMasked hm hb, writtenByte_cons]

/-- A stretch of a store filled with zeros. -/
theorem Mem.read_writeAll_zeros {m : Mem} (hm : m.wf = true) (a n j : Nat) :
    (m.writeAll a (List.replicate n 0)).read j = if a ≤ j ∧ j < a + n then 0 else m.read j := by
  induction n generalizing m a with
  | zero => simp [Mem.writeAll]
  | succ n ih =>
    have hrange : (a ≤ j ∧ j < a + (n + 1)) ↔ (a + 1 ≤ j ∧ j < a + 1 + n) ∨ j = a := by omega
    rw [List.replicate_succ, Mem.writeAll, ih (Mem.wf_write hm), Mem.read_write hm]
    simp only [hrange, ite_or]

end Sys2Proof.Machine

/-! Stores with one tag per item: a write makes its item current, over zeros where it was stale (R90). -/

namespace Sys2Proof.Machine

/-- Byte `k` of a store as a read returns it where `tag` makes items current: zero in a stale item (R90). -/
def TagStore.byte (st : TagStore) (sz tag k : Nat) : Nat :=
  if st.tags.read (k / sz) = tag ∧ tag ≠ 0 then (st.mem.read k).toNat else 0

section Write
variable {st : TagStore} {sz item tag : Nat} {l : List MByte}

/-- A write to an item: its bytes take the bits written over what a read gave. -/
theorem TagStore.byte_write_self (hsz : 0 < sz) (htag : tag ≠ 0) (hst : st.mem.wf = true) (hl : ∀ b ∈ l, b.mask < 256)
    {k : Nat} (hk : k / sz = item) :
    (st.write sz (item * sz) item tag l).byte sz tag k = writtenByte (st.byte sz tag k) l k := by
  have hin : item * sz ≤ k ∧ k < item * sz + sz := by
    rw [← hk, Nat.mul_comm]
    exact ⟨Nat.mul_div_le k sz, Nat.lt_mul_div_succ k hsz⟩
  simp only [TagStore.byte, TagStore.write, hk, Tab.read_write_of_ne_zero _ _ htag, if_true, htag, ne_eq, not_false_eq_true,
    and_true, Bool.and_eq_true, beq_iff_eq, bne_iff_ne]
  by_cases hcur : st.tags.read item = tag
  · simp only [hcur, if_true, Mem.read_foldl_writeMasked hl hst]
  · simp only [hcur, if_false, Mem.read_foldl_writeMasked hl (Mem.wf_writeAll _ _ hst), Mem.read_writeAll_zeros hst,
      if_pos hin]
    rfl

/-- A write to another item leaves a byte as a read gave it, whatever tag makes its own item current. -/
theorem TagStore.byte_write_other (htag : tag ≠ 0) (hst : st.mem.wf = true) (hl : ∀ b ∈ l, b.mask < 256)
    (hitem : ∀ b ∈ l, b.addr / sz = item) {k : Nat} (hk : k / sz ≠ item) (tag' : Nat) :
    (st.write sz (item * sz) item tag l).byte sz tag' k = st.byte sz tag' k := by
  have hout : ¬ (item * sz ≤ k ∧ k < item * sz + sz) := fun h =>
    hk (Nat.div_eq_of_lt_le h.1 (by rw [Nat.succ_mul]; exact h.2))
  have hfar : ∀ b ∈ l, b.addr ≠ k := fun b hb h => hk (h ▸ hitem b hb)
  have hmem : ((if st.tags.read item == tag && tag != 0 then st.mem else st.mem.writeAll (item * sz) (List.replicate sz 0)).read
      k) = st.mem.read k := by
    split
    · rfl
    · rw [Mem.read_writeAll_zeros hst, if_neg hout]
  have hwf : (if st.tags.read item == tag && tag != 0 then st.mem else
      st.mem.writeAll (item * sz) (List.replicate sz 0)).wf = true := by
    split
    · exact hst
    · exact Mem.wf_writeAll _ _ hst
  simp only [TagStore.byte, TagStore.write, Tab.read_write_of_ne_zero _ _ htag, hk, if_false,
    Mem.read_foldl_writeMasked hl hwf, hmem, writtenByte_of_forall_ne _ hfar]

end Write

/-- The items that writes touch, each once. -/
theorem itemsOf_spec (sz : Nat) (l : List MByte) :
    (itemsOf sz l).Nodup ∧ ∀ x, x ∈ itemsOf sz l ↔ ∃ b ∈ l, b.addr / sz = x := by
  induction l using List.reverseRecOn with
  | nil => simp [itemsOf]
  | append_singleton l b ih =>
    obtain ⟨hnodup, hmem⟩ := ih
    have hstep : itemsOf sz (l ++ [b]) =
        if (itemsOf sz l).contains (b.addr / sz) then itemsOf sz l else itemsOf sz l ++ [b.addr / sz] := by
      rw [itemsOf, List.foldl_append]
      rfl
    rw [hstep]
    by_cases hb : b.addr / sz ∈ itemsOf sz l
    · rw [if_pos (List.contains_iff_mem.mpr hb)]
      refine ⟨hnodup, fun x => ?_⟩
      simp only [hmem, List.mem_append, List.mem_singleton, or_and_right, exists_or, exists_eq_left, iff_self_or]
      rintro rfl
      exact (hmem _).mp hb
    · rw [if_neg (by simpa using hb)]
      refine ⟨hnodup.append (List.nodup_singleton _) (by simpa using hb), fun x => ?_⟩
      simp only [List.mem_append, hmem, List.mem_singleton, or_and_right, exists_or, exists_eq_left, eq_comm (a := x)]

/-- Writes that may touch several items, each judged separately: every byte takes the bits written over what a read gave. -/
theorem TagStore.byte_writeItems {st : TagStore} {sz tag : Nat} {l : List MByte} (hsz : 0 < sz) (htag : tag ≠ 0)
    (hst : st.mem.wf = true) (hl : ∀ b ∈ l, b.mask < 256) (k : Nat) :
    (st.writeItems sz tag l).byte sz tag k = writtenByte (st.byte sz tag k) l k := by
  have hfold (is : List Nat) (hnodup : is.Nodup) (s : TagStore) (hs : s.mem.wf = true) :
      (is.foldl (fun s it => s.write sz (it * sz) it tag (l.filter fun b => b.addr / sz == it)) s).byte sz tag k =
        if k / sz ∈ is then writtenByte (s.byte sz tag k) l k else s.byte sz tag k := by
    induction is generalizing s with
    | nil => rfl
    | cons it is ih =>
      obtain ⟨hit, hnodup⟩ := List.nodup_cons.mp hnodup
      have hl' : ∀ b ∈ l.filter (fun b => b.addr / sz == it), b.mask < 256 := fun b hb => hl b (List.mem_of_mem_filter hb)
      rw [List.foldl_cons, ih hnodup _ (TagStore.wf_write _ _ _ _ _ hs)]
      by_cases hk : k / sz = it
      · subst hk
        rw [if_neg hit, if_pos List.mem_cons_self, TagStore.byte_write_self hsz htag hs hl' rfl, writtenByte_filter_item]
      · have hother := TagStore.byte_write_other htag hs hl' (by simp) hk tag
        simp only [hother, List.mem_cons, hk, false_or]
  obtain ⟨hnodup, hmem⟩ := itemsOf_spec sz l
  rw [TagStore.writeItems, hfold _ hnodup st hst]
  split_ifs with hk
  · rfl
  · rw [writtenByte_of_forall_ne _ fun b hb h => hk ((hmem _).mpr ⟨b, hb, h ▸ rfl⟩)]

end Sys2Proof.Machine

/-! Registers and memories of a tile as reads see them, after a write (R83, R88, R90, R220, R225). -/

namespace Sys2Proof.Machine

/-- A g register is current once written, and the other g registers read as before. -/
theorem Tile.reg_setG {t : Tile} (hgen : t.gen ≠ 0) {r : Nat} (hr : r < 32) (v : Word) (k : Nat) :
    (t.setG r v).reg .C k = if k = r then v else t.reg .C k := by
  have hreg : (t.setG r v).regOf .C k = if k = r then ⟨v, t.gen⟩ else t.regOf .C k := at'_setIfInBounds _ _ _ hr
  simp only [Tile.reg, Tile.regStale, hreg, Tile.setG_gen]
  by_cases hk : k = r <;> simp [hk, hgen]

theorem Tile.reg_setX {t : Tile} (hgen : t.gen ≠ 0) {r : Nat} (hr : r < 16) (v : Word) (k : Nat) :
    (t.setX r v).reg .X k = if k = r then v else t.reg .X k := by
  have hreg : (t.setX r v).regOf .X k = if k = r then ⟨v, t.gen⟩ else t.regOf .X k := at'_setIfInBounds _ _ _ hr
  simp only [Tile.reg, Tile.regStale, hreg, Tile.setX_gen]
  by_cases hk : k = r <;> simp [hk, hgen]

theorem Tile.maskVal_setMask {t : Tile} (hgen : t.gen ≠ 0) {r : Nat} (hr : r < 8) (v : Word) (k : Nat) :
    (t.setMask r v).maskVal k = if k = r then v else t.maskVal k := by
  have hmask : at' {} (t.setMask r v).m k = if k = r then ⟨v, t.gen⟩ else at' {} t.m k := at'_setIfInBounds _ _ _ hr
  simp only [Tile.maskVal, Tile.maskStale, hmask, Tile.setMask_gen]
  by_cases hk : k = r <;> simp [hk, hgen]

theorem Tile.spmByte_eq (t : Tile) (k : Nat) : (t.spmByte k).toNat = TagStore.byte ⟨t.spm, t.spmTag⟩ 64 t.gen k := by
  simp only [Tile.spmByte, Tile.spmCur, TagStore.byte, Bool.and_eq_true, beq_iff_eq, bne_iff_ne]
  split <;> rfl

theorem Tile.sideByte_eq (t : Tile) (k : Nat) : t.sideByte k = TagStore.byte ⟨t.side, t.sideTag⟩ 64 t.gen k := by
  simp only [Tile.sideByte, Tile.sideCur, TagStore.byte, Bool.and_eq_true, beq_iff_eq, bne_iff_ne]

theorem Tile.gridByte_eq (t : Tile) {r row k : Nat} (hd : t.descCur r = true) (hk : k < 128) :
    t.gridByte r row k = TagStore.byte ⟨t.grid, t.gridTag⟩ 128 (at' 1 t.epoch r) (r * 8192 + row * 128 + k) := by
  have hitem : (r * 8192 + row * 128 + k) / 128 = r * 64 + row := by omega
  simp only [Tile.gridByte, Tile.rowCur, hd, TagStore.byte, hitem, Bool.true_and, Bool.and_eq_true, beq_iff_eq, bne_iff_ne]

/-- A byte of a register whose descriptor is stale reads as zero. -/
theorem Tile.gridByte_of_stale {t : Tile} {r : Nat} (hd : t.descCur r = false) (row k : Nat) : t.gridByte r row k = 0 := by
  simp [Tile.gridByte, Tile.rowCur, hd]

section Writes
variable {t : Tile} {l : List MByte}

theorem Tile.spmByte_spmWrite (hgen : t.gen ≠ 0) (hwf : t.spm.wf = true) (hl : ∀ b ∈ l, b.mask < 256) (k : Nat) :
    ((t.spmWrite l).spmByte k).toNat = writtenByte (t.spmByte k).toNat l k := by
  rw [Tile.spmByte_eq, Tile.spmByte_eq]
  exact TagStore.byte_writeItems (by decide) hgen hwf hl k

theorem Tile.sideByte_sideWrite (hgen : t.gen ≠ 0) (hwf : t.side.wf = true) (hl : ∀ b ∈ l, b.mask < 256) (k : Nat) :
    (t.sideWrite l).sideByte k = writtenByte (t.sideByte k) l k := by
  rw [Tile.sideByte_eq, Tile.sideByte_eq]
  exact TagStore.byte_writeItems (by decide) hgen hwf hl k

/-- A row write changes the grid and its row tags alone. -/
theorem Tile.gridWrite_frame (t : Tile) (r row : Nat) (l : List MByte) :
    ∃ m tags, t.gridWrite r row l = { t with grid := m, gridTag := tags } := by
  unfold Tile.gridWrite
  split
  · exact ⟨_, _, rfl⟩
  · exact ⟨t.grid, t.gridTag, rfl⟩

/-- A row write: the row's bytes take the bits written over what a read gave, and every other row reads as before. -/
theorem Tile.gridByte_gridWrite {r row : Nat} (hwf : t.grid.wf = true) (hd : t.descCur r = true)
    (hepoch : 1 ≤ at' 1 t.epoch r) (hl : ∀ b ∈ l, b.mask < 256) (haddr : ∀ b ∈ l, b.addr < 128) (hrow : row < 64)
    {r' row' k : Nat} (hrow' : row' < 64) (hk : k < 128) :
    (t.gridWrite r row l).gridByte r' row' k =
      if r' = r ∧ row' = row then writtenByte (t.gridByte r' row' k) l k else t.gridByte r' row' k := by
  cases l with
  | nil => simp [Tile.gridWrite, writtenByte_nil]
  | cons b l =>
    have hbase : r * 8192 + row * 128 = (r * 64 + row) * 128 := by omega
    have hwrite : t.gridWrite r row (b :: l) =
        let st := TagStore.write ⟨t.grid, t.gridTag⟩ 128 ((r * 64 + row) * 128) (r * 64 + row) (at' 1 t.epoch r)
          ((b :: l).map fun b => { b with addr := (r * 64 + row) * 128 + b.addr })
        { t with grid := st.mem, gridTag := st.tags } := by
      simp [Tile.gridWrite, hd, hbase]
    generalize b :: l = bytes at *
    have hmask : ∀ c ∈ bytes.map fun b : MByte => { b with addr := (r * 64 + row) * 128 + b.addr }, c.mask < 256 := by
      simpa using hl
    have hitem : ∀ c ∈ bytes.map fun b : MByte => { b with addr := (r * 64 + row) * 128 + b.addr }, c.addr / 128 = r * 64 + row := by
      simp only [List.mem_map, forall_exists_index, and_imp, forall_apply_eq_imp_iff₂]
      intro c hc
      have := haddr c hc
      omega
    rw [hwrite]
    by_cases hd' : t.descCur r' = true
    · rw [Tile.gridByte_eq _ (by exact hd') hk, Tile.gridByte_eq t hd' hk]
      by_cases hsame : r' = r ∧ row' = row
      · obtain ⟨rfl, rfl⟩ := hsame
        rw [if_pos ⟨rfl, rfl⟩, hbase, ← writtenByte_shift _ ((r' * 64 + row') * 128)]
        exact TagStore.byte_write_self (by decide) (by omega) hwf hmask (by omega)
      · rw [if_neg hsame]
        exact TagStore.byte_write_other (by omega) hwf hmask hitem (by omega) _
    · replace hd' : t.descCur r' = false := by simpa using hd'
      rw [if_neg (fun h => by simp [h.1, hd] at hd'), Tile.gridByte_of_stale hd', Tile.gridByte_of_stale (by exact hd')]

end Writes

end Sys2Proof.Machine

/-! Results and memory effects in their cycle (R204, R220, R225). -/

namespace Sys2Proof.Machine

/-- A list of bytes, as a number, has no more digits than the list has bytes. -/
theorem leNat_lt (l : List Byte) : leNat l < 256 ^ l.length := by
  induction l with
  | nil => simp [leNat]
  | cons b l ih =>
    have hb := b.isLt
    rw [leNat, List.length_cons, Nat.pow_succ]
    omega

/-- The two's-complement reading of a value that fits (R204). -/
theorem sgnOf_of_lt {w n : Nat} (hn : n < 2 ^ w) : sgnOf w n = if 2 ^ (w - 1) ≤ n then (n : Int) - 2 ^ w else n := by
  simp only [sgnOf, Nat.mod_eq_of_lt hn, ← Nat.not_le, ite_not]
  push_cast
  rfl

/-- The value that a load gives its register (R204). -/
theorem ldValue_eq {l : List Byte} {sz : Nat} (hl : l.length = 2 ^ sz) (sx : Bool) :
    ldValue l sz sx = BitVec.ofInt 64 (if sx = true ∧ 2 ^ (8 * 2 ^ sz - 1) ≤ leNat l then
      (leNat l : Int) - 2 ^ (8 * 2 ^ sz) else leNat l) := by
  have hlt : leNat l < 2 ^ (8 * 2 ^ sz) := by
    rw [Nat.pow_mul, ← hl]
    exact leNat_lt l
  cases sx
  · simp [ldValue]
  · simp [ldValue, wrap64, sgnOf_of_lt hlt]

/-- A C store in its bank cycle (R204). -/
theorem cAccess_st (t : Tile) (c : Ctx) (p : Pre) (r ga sz : Nat) (off : Int) (a : Nat) (v : Word) :
    cAccess (.st p r ga sz off) a v t c = (t.charge c.env 1 1).spmWrite (storeBytes a sz v) := rfl

/-- A C load in its bank cycle (R90, R204). -/
theorem cAccess_ld (t : Tile) (c : Ctx) (p : Pre) (r ga sz : Nat) (sx : Bool) (off : Int) (a : Nat) (v : Word) :
    cAccess (.ld p r ga sz sx off) a v t c = if t.staleTrap && !t.spmCur (a / 64) then
        (t.charge c.env 1 1).trapAny (Tile.own c) c.iss t.tl trapStale
      else (t.charge c.env 1 1).stage c (c.iss + 8) 0 (.g r (ldValue (t.spmBytes a (2 ^ sz)) sz sx) true) := rfl

theorem registerResults : saysRegisterResults := by
  intro env t own at_ iss r v byC hgen
  refine ⟨fun hr => ⟨Tile.reg_setG hgen hr v, ?_⟩, fun hr => ?_, fun hr => ⟨Tile.maskVal_setMask hgen hr v, ?_⟩⟩
  · simp [applyEff]
  · dsimp only [applyEff]
    split
    · exact ⟨Tile.reg_setX hgen hr v, by simp⟩
    · exact ⟨Tile.reg_setX hgen hr v, by simp⟩
  · simp [applyEff]

theorem storesLand : saysStoresLand := by
  intro env t own at_ iss p r ga sz a row off v sx src l hgen hspm hgrid hside _ hl
  dsimp only [applyEff]
  refine ⟨fun _ _ => ⟨fun k => ?_, ?_⟩, ⟨fun hcur => ?_, fun htrap hstale => ?_⟩, ⟨Tile.spmByte_spmWrite hgen hspm hl, ?_⟩,
    fun _ => ⟨Tile.sideByte_sideWrite hgen hside hl, ?_⟩, fun hsrc hcan => ?_, fun hcan _ hrow hd hepoch haddr => ?_⟩
  · rw [cAccess_st, Tile.spmByte_spmWrite (t := t.charge _ 1 1) hgen hspm (by simp [storeBytes])]
    exact writtenByte_row _ a _ (fun i => Nat.mod_lt _ (by decide)) k
  · simp [cAccess_st, ctxOf]
  · have hno : ¬ (t.staleTrap && !t.spmCur (a / 64)) = true := by rcases hcur with h | h <;> simp [h]
    rw [cAccess_ld, if_neg hno, ldValue_eq (by simp [Tile.spmBytes])]
    rfl
  · rw [cAccess_ld, if_pos (by simp [htrap, hstale])]
    rfl
  · simp
  · simp
  · simp [hsrc, hcan]
  · have hrun : (src != .plane && t.cancelled r iss own.gid) = false := by rcases hcan with h | h <;> simp [h]
    simp only [hrun, Bool.false_eq_true, if_false]
    refine ⟨fun r' _ row' hrow' k hk => Tile.gridByte_gridWrite hgrid hd hepoch hl haddr hrow hrow' hk, ?_⟩
    obtain ⟨m, tags, hframe⟩ := t.gridWrite_frame r row l
    simp [hframe]

/-- Settles O38: register results by their files' rules, memory effects by the byte rules of the stores. -/
theorem resultsLand : Obligations.ResultsLand := ⟨registerResults, storesLand⟩

end Sys2Proof.Machine

/-! The issue of an instruction of C or X: what its body finds, and the address of a scalar access (R188, R203). -/

namespace Sys2Proof.Machine

/-- A tile once the dependency bits and the step of an instruction are staged, as the instruction's body finds it. -/
def Tile.begun (t : Tile) (p : Pre) (c : Ctx) : Tile := { t with pend := t.pend ++ c.ends t (p.tail c) }

/-- What an instruction does at the machine is what its body does in the tile at the cursor. -/
theorem exec_eq_of_issue {s : State} {pit : Pitch} {t : Tile} (hat : s.At pit t) {i : Instr} {n : Nat} {p : Pre}
    {body : Ctx → Tile → Tile} (hexec : exec i s = s.atTile n (issueOf i))
    (hissue : ∀ c, issueOf i t c = issue p t c (body c)) :
    exec i s = .next (s.become pit (body (s.ctxAt pit n) (t.begun p (s.ctxAt pit n)))) := by
  rw [hexec, State.atTile_eq hat, hissue, issue_eq]
  rfl

@[simp] theorem Tile.begun_trap (t : Tile) (p : Pre) (c : Ctx) (code : Nat) : (t.begun p c).trap c code = t.trap c code :=
  t.trapWith_ends c _ code c.gpc 0

@[simp] theorem Tile.begun_issued1 (t : Tile) (p : Pre) (c : Ctx) (l : List Pend) :
    (t.begun p c).issued1 c l = t.issued1 c (c.ends t (p.tail c) ++ l) := t.issued1_pend c _ l

@[simp] theorem Tile.begun_reg (t : Tile) (p : Pre) (c : Ctx) : (t.begun p c).reg = t.reg := rfl

theorem Tile.begun_withRegs {t : Tile} {c : Ctx} {rs : List Nat} (h : t.Readable c.eng rs) (p : Pre) (k : Tile → Tile) :
    (t.begun p c).withRegs c rs k = k (t.begun p c) := Tile.withRegs_eq (t := t.begun p c) h k

/-- A body that has only its CTL charge to make before it stages its effects. -/
theorem chargeCtl_eq_issued1 (t : Tile) (c : Ctx) : chargeCtl t c = t.issued1 c [] := by
  simpa using chargeCtl_pend t c []

theorem Tile.result_issued1 (t : Tile) (c : Ctx) (l : List Pend) (r : Nat) (v : Word) :
    (t.issued1 c l).result c r 1 v = t.issued1 c (l ++ c.result t r v) := by
  by_cases hx : c.eng = .X <;> simp [Tile.result, Ctx.result, Ctx.at, hx, Tile.stage_issued1, Ctx.one] <;> rfl

/-- An operand that is not readable is one that traps. -/
theorem Tile.withRegs_of_not_readable {t : Tile} {c : Ctx} {rs : List Nat} (h : ¬ t.Readable c.eng rs) (k : Tile → Tile) :
    t.withRegs c rs k = t.trap c trapStale := by
  have hstale : (t.staleTrap && t.anyStale c.eng rs) = true := by
    simpa [Tile.Readable, Tile.anyStale, not_or] using h
  rw [Tile.withRegs, if_pos hstale]

/-- The address of a scalar access as the statements write it (R203). -/
theorem lsAddr_eq (b : Word) (sz : Nat) (off : Int) : lsAddr b sz off = (b + BitVec.ofInt 64 (off * 2 ^ sz)).toNat := by
  simp [lsAddr, wrap64, BitVec.ofInt_add]

theorem lsBad_iff (a sz : Nat) : lsBad a sz = false ↔ a + 2 ^ sz ≤ 0xC0000 ∧ a % 2 ^ sz = 0 := by
  have hsize : Config.spmSize = 0xC0000 := rfl
  simp only [lsBad, Bool.or_eq_false_iff, decide_eq_false_iff_not, bne_eq_false_iff_eq, hsize, Nat.not_lt]

end Sys2Proof.Machine

/-! LD and ST in X (R90, R91, R204, R206). -/

namespace Sys2Proof.Machine

/-- The bytes of a store in the scratchpad (R91, R204). -/
theorem Tile.spmByte_store {t : Tile} (hgen : t.gen ≠ 0) (hwf : t.spm.wf = true) (a sz : Nat) (v : Word) (k : Nat) :
    (t.spmWrite (storeBytes a sz v)).spmByte k =
      if a ≤ k ∧ k < a + 2 ^ sz then BitVec.ofNat 8 (v.toNat / 256 ^ (k - a)) else t.spmByte k := by
  apply BitVec.eq_of_toNat_eq
  rw [Tile.spmByte_spmWrite hgen hwf (by simp [storeBytes]), storeBytes,
    writtenByte_row _ a _ (fun i => Nat.mod_lt _ (by decide))]
  split <;> simp

theorem Tile.spmByte_congr {t u : Tile} (hspm : t.spm = u.spm) (htag : t.spmTag = u.spmTag) (hgen : t.gen = u.gen) (k : Nat) :
    t.spmByte k = u.spmByte k := by
  rw [Tile.spmByte, Tile.spmByte, Tile.spmCur, Tile.spmCur, hspm, htag, hgen]

section
variable {t : Tile} {c : Ctx} {r ga sz a : Nat} {off : Int}

/-- ST of X with readable operands and a good address. -/
theorem stIssueX_of_good (h : t.Readable c.eng [r, ga]) (ha : lsAddr (t.reg .X ga) sz off = a) (hgood : lsBad a sz = false) :
    let u := ((t.issued1 c []).charge c.env 1 1).spmWrite (storeBytes a sz (t.reg .X r))
    stIssueX r ga sz off t c = { u with banksNow := a / 64 % 16 :: u.banksNow, xs := { u.xs with tryAt := none } } := by
  simp only [stIssueX, Tile.withRegs_eq h, ha, hgood, Bool.false_eq_true, if_false, chargeCtl_eq_issued1]

/-- LD of X with a readable operand and a good address. -/
theorem ldIssueX_of_good {sx : Bool} (h : t.Readable c.eng [ga]) (ha : lsAddr (t.reg .X ga) sz off = a)
    (hgood : lsBad a sz = false) :
    ldIssueX r ga sz sx off t c = if t.staleTrap && !t.spmCur (a / 64) then t.trap c trapStale else
      let u := ((t.issued1 c []).charge c.env 1 1).stage c (c.env.wall + 8) 0 (.x r (ldValue (t.spmBytes a (2 ^ sz)) sz sx))
      { u with banksNow := a / 64 % 16 :: u.banksNow, xs := { u.xs with busyRegs := r :: u.xs.busyRegs, tryAt := none } } := by
  simp only [ldIssueX, Tile.withRegs_eq h, ha, hgood, Bool.false_eq_true, if_false, chargeCtl_eq_issued1]

end

/-- Settles O8: the bytes by `Tile.spmByte_store`, the rest by the frame of a scratchpad write. -/
theorem storeInX : Obligations.StoreInX := by
  unfold Obligations.StoreInX
  intro p r ga sz off s pit t hat hx hreads hwf hgen hsz a hin hal
  have hrun := exec_eq_of_issue hat (i := .st p r ga sz off) (n := 1) (p := p) (body := fun c q => if c.eng == .X then
    stIssueX r ga sz off q c else lsIssueC (.st p r ga sz off) [r, ga] ga sz off r q c) rfl fun _ => rfl
  generalize hc : s.ctxAt pit 1 = c at hrun
  replace hx : c.eng = .X := hc ▸ hx
  rw [← hx] at hreads
  have ha : lsAddr ((t.begun p c).reg .X ga) sz off = a := lsAddr_eq _ _ _
  rw [if_pos (beq_iff_eq.mpr hx), stIssueX_of_good (t := t.begun p c) hreads ha ((lsBad_iff a sz).mpr ⟨hin, hal⟩)] at hrun
  obtain ⟨u, hu⟩ : ∃ u, u = ((t.begun p c).issued1 c []).charge c.env 1 1 := ⟨_, rfl⟩
  have hspm : u.spm = t.spm := by simp [hu, Tile.begun, Tile.issued1]
  have htag : u.spmTag = t.spmTag := by simp [hu, Tile.begun, Tile.issued1]
  have hsame : u.gen = t.gen := by simp [hu, Tile.begun, Tile.issued1]
  rw [← hu] at hrun
  refine ⟨_, hrun, fun k => ?_, Tile.wf_spmWrite _ _ (hspm ▸ hwf), ?_⟩
  · rw [← Tile.spmByte_congr hspm htag hsame]
    exact (Tile.spmByte_congr rfl rfl rfl k).trans (Tile.spmByte_store (hsame ▸ hgen) (hspm ▸ hwf) a sz _ k)
  · simp [hu, Tile.begun, Tile.issued1]

/-- Settles O9: the value by `ldValue_eq`, the rest by the frame of a staged result. -/
theorem loadInX : Obligations.LoadInX := by
  unfold Obligations.LoadInX
  intro p r ga sz sx off s pit t hat hx hreads hsz a hin hal c n v
  have hrun := exec_eq_of_issue hat (i := .ld p r ga sz sx off) (n := 1) (p := p) (body := fun c q => if c.eng == .X then
    ldIssueX r ga sz sx off q c else lsIssueC (.ld p r ga sz sx off) [ga] ga sz off ga q c) rfl fun _ => rfl
  have hval : ldValue ((t.begun p c).spmBytes a (2 ^ sz)) sz sx = BitVec.ofInt 64 v := ldValue_eq (by simp [Tile.spmBytes]) sx
  have hstale : ((t.begun p c).staleTrap && !(t.begun p c).spmCur (a / 64)) = (t.staleTrap && !t.spmCur (a / 64)) := rfl
  replace hx : c.eng = .X := hx
  rw [← hx] at hreads
  have ha : lsAddr ((t.begun p c).reg .X ga) sz off = a := lsAddr_eq _ _ _
  rw [if_pos (beq_iff_eq.mpr hx), ldIssueX_of_good (t := t.begun p c) hreads ha ((lsBad_iff a sz).mpr ⟨hin, hal⟩), hstale,
    hval] at hrun
  refine ⟨fun htrap hcur => ?_, fun hcur => ?_⟩
  · rw [hrun, if_pos (by simp [htrap, hcur]), Tile.begun_trap]
  · rw [if_neg (by rcases hcur with h | h <;> simp [h])] at hrun
    refine ⟨_, hrun, ?_⟩
    simp [Tile.begun, Tile.issued1, Ctx.one, Tile.own, c, State.ctxAt, State.envOf]

end Sys2Proof.Machine

/-! LD and ST in C and the choice of their bank cycle (R99, R204). -/

namespace Sys2Proof.Machine

/-- No cycle of the span leaves the bank free. -/
theorem firstFree_eq_none {l : List BankUse} {bank n k : Nat}
    (h : ∀ j, k ≤ j → j < k + n → ∃ u ∈ l, u.at_ = j ∧ u.bank = bank) : firstFree l bank n k = none := by
  induction n generalizing k with
  | zero => rfl
  | succ n ih =>
    have htaken : (l.any fun u => u.at_ == k && u.bank == bank) = true := by
      simpa [List.any_eq_true] using h k le_rfl (by omega)
    rw [firstFree, if_pos htaken]
    exact ih fun j hj hjn => h j (by omega) (by omega)

/-- The first cycle of the span that leaves the bank free. -/
theorem firstFree_eq_some {l : List BankUse} {bank n k j : Nat} (hkj : k ≤ j) (hjn : j < k + n)
    (hfree : ¬ ∃ u ∈ l, u.at_ = j ∧ u.bank = bank) (h : ∀ i, k ≤ i → i < j → ∃ u ∈ l, u.at_ = i ∧ u.bank = bank) :
    firstFree l bank n k = some j := by
  induction n generalizing k with
  | zero => omega
  | succ n ih =>
    rcases Nat.eq_or_lt_of_le hkj with rfl | hlt
    · have hopen : ¬ (l.any fun u => u.at_ == k && u.bank == bank) = true := by
        simpa [List.any_eq_true] using hfree
      rw [firstFree, if_neg hopen]
    · have htaken : (l.any fun u => u.at_ == k && u.bank == bank) = true := by
        simpa [List.any_eq_true] using h k le_rfl hlt
      rw [firstFree, if_pos htaken]
      exact ih hlt (by omega) fun i hi hij => h i (by omega) hij

section
variable {t : Tile} {c : Ctx} {srcs : List Nat} {ga sz gs : Nat} {off : Int} {i : Instr}

/-- An access of C at a bad address. -/
theorem lsIssueC_of_bad (h : t.Readable c.eng srcs) (hbad : lsBad (lsAddr (t.reg c.eng ga) sz off) sz = true) :
    lsIssueC i srcs ga sz off gs t c = t.trap c trapBounds := by
  simp only [lsIssueC, Tile.withRegs_eq h, hbad, if_true]

variable {a : Nat} (h : t.Readable c.eng srcs) (ha : lsAddr (t.reg c.eng ga) sz off = a) (hgood : lsBad a sz = false)
include h ha hgood

/-- An access of C that finds no bank cycle. -/
theorem lsIssueC_of_no_cycle (hpick : bankPick t c (a / 64 % 16) = none) :
    lsIssueC i srcs ga sz off gs t c = t.trap c trapBank := by
  simp only [lsIssueC, Tile.withRegs_eq h, ha, hgood, hpick, Bool.false_eq_true, if_false]

/-- An access of C in the bank cycle that it takes, which it reserves where the group's admission has not. -/
theorem lsIssueC_of_cycle {b : Nat} (hpick : bankPick t c (a / 64 % 16) = some b) :
    lsIssueC i srcs ga sz off gs t c =
      (chargeCtl (if t.banks.any fun u => u.own == Tile.own c then t else t.useBank c b (a / 64 % 16)) c).stage c b 1
        (.access i a (t.reg c.eng gs)) := by
  simp only [lsIssueC, Tile.withRegs_eq h, ha, hgood, hpick, Bool.false_eq_true, if_false]

end

theorem chargeCtl_begun_stage (t : Tile) (p : Pre) (c : Ctx) (k ph : Nat) (e : Eff) :
    (chargeCtl (t.begun p c) c).stage c k ph e = t.issued1 c (c.ends t (p.tail c) ++ c.one k ph e) := by
  rw [chargeCtl_eq_issued1, Tile.begun_issued1, Tile.stage_issued1, List.append_nil]

/-- An access that reserves its bank cycle as it issues. -/
theorem chargeCtl_begun_useBank_stage (t : Tile) (p : Pre) (c : Ctx) (b bank k ph : Nat) (e : Eff) :
    (chargeCtl ((t.begun p c).useBank c b bank) c).stage c k ph e =
      { t.issued1 c (c.ends t (p.tail c) ++ c.one k ph e) with banks := t.banks ++ [⟨b, bank, Tile.own c, c.iss⟩] } := by
  simp [chargeCtl, Tile.charge, Tile.useBank, Tile.stage, Tile.begun, Tile.issued1, Ctx.one]

/-- Settles O7: the bank cycle by `firstFree_eq_some` and `firstFree_eq_none`, for LD and ST alike. -/
theorem scalarAccessInC : Obligations.ScalarAccessInC := by
  unfold Obligations.ScalarAccessInC
  intro p r ga sz sx off s pit t hat hC hreads c a good bank fixed open_ taken out bad q hq
  obtain ⟨srcs, gs, hsrcs, hval, hrun⟩ : ∃ srcs gs, (∀ k ∈ srcs, k ∈ [r, ga]) ∧ q.2 = t.reg .C gs ∧
      exec q.1 s = .next (s.become pit (lsIssueC q.1 srcs ga sz off gs (t.begun p c) c)) := by
    have hnx : ¬ ((s.ctxAt pit 1).eng == .X) = true := by simp [State.ctxAt, hC]
    simp only [List.mem_cons, List.not_mem_nil, or_false] at hq
    rcases hq with rfl | rfl
    · have hld := exec_eq_of_issue hat (i := .ld p r ga sz sx off) (n := 1) (p := p) (body := fun c q => if c.eng == .X then
        ldIssueX r ga sz sx off q c else lsIssueC (.ld p r ga sz sx off) [ga] ga sz off ga q c) rfl fun _ => rfl
      rw [if_neg hnx] at hld
      exact ⟨[ga], ga, by simp, rfl, hld⟩
    · have hst := exec_eq_of_issue hat (i := .st p r ga sz off) (n := 1) (p := p) (body := fun c q => if c.eng == .X then
        stIssueX r ga sz off q c else lsIssueC (.st p r ga sz off) [r, ga] ga sz off r q c) rfl fun _ => rfl
      rw [if_neg hnx] at hst
      exact ⟨[r, ga], r, by simp, rfl, hst⟩
  have hc : c.eng = .C := hC
  have hreads' : (t.begun p c).Readable c.eng srcs := hc ▸ hreads.mono hsrcs
  have ha : lsAddr ((t.begun p c).reg c.eng ga) sz off = a := by
    rw [hc]
    exact lsAddr_eq _ _ _
  have hgood (h : good) : lsBad a sz = false := (lsBad_iff a sz).mpr h
  have hopen (h : open_) : ((t.begun p c).banks.any fun u => u.own == Tile.own c) = false := by
    simpa [Tile.begun] using h
  have hpick (h : open_) : bankPick (t.begun p c) c bank = firstFree t.banks bank 6 (t.tl + 1) := by
    have hnone : (t.begun p c).banks.find? (fun u => u.own == Tile.own c) = none := by simpa [Tile.begun] using h
    simp only [bankPick, hnone]
    rfl
  refine ⟨fun h k hk => ?_, fun h hfree k hlo hhi hk hbefore => ?_, fun h hfree hall => ?_, fun h => ?_⟩
  · obtain ⟨u, hfind, huk⟩ := Option.map_eq_some_iff.mp hk
    have hpicked : bankPick (t.begun p c) c bank = some k := by
      have hfind' : (t.begun p c).banks.find? (fun u => u.own == Tile.own c) = some u := hfind
      simp only [bankPick, hfind', huk]
    have hany : ((t.begun p c).banks.any fun u => u.own == Tile.own c) = true :=
      List.any_eq_true.mpr ⟨u, List.mem_of_find?_eq_some hfind, List.find?_some (p := fun u : BankUse => u.own == Tile.own c) hfind⟩
    rw [hrun, lsIssueC_of_cycle hreads' ha (hgood h) hpicked, hval, ← hc, if_pos hany, chargeCtl_begun_stage]
    simp only [Tile.begun_reg, out, List.append_nil]
    rfl
  · have hpicked := (hpick hfree).trans (firstFree_eq_some hlo (by omega) hk hbefore)
    rw [hrun, lsIssueC_of_cycle hreads' ha (hgood h) hpicked, hval, ← hc, if_neg (by simp [hopen hfree]),
      chargeCtl_begun_useBank_stage]
    rfl
  · have hpicked := (hpick hfree).trans (firstFree_eq_none fun j hlo hhi => hall j hlo (by omega))
    rw [hrun, lsIssueC_of_no_cycle hreads' ha (hgood h) hpicked, Tile.begun_trap]
  · rw [hrun, lsIssueC_of_bad hreads' (by rw [ha, ← Bool.not_eq_false, lsBad_iff]; exact h), Tile.begun_trap]

end Sys2Proof.Machine

/-! Configuration of streams, descriptors and control registers (R81, R82, R87, R210 to R217, R304, R307, R309). -/

namespace Sys2Proof.Machine

/-- The table of formats, by their codes (R81). -/
theorem formatCodes_getElem? (k : Nat) :
    formatCodes[k]? = (Fmt.ofCode k).map fun f => (f, f.colsLimit, f.scaled) := by
  by_cases hk : k < 10
  · interval_cases k <;> rfl
  · have hcode : Fmt.ofCode k = none := by
      unfold Fmt.ofCode
      split
      on_goal 11 => rfl
      all_goals omega
    rw [hcode, List.getElem?_eq_none (by simp only [formatCodes, List.length_cons, List.length_nil]; omega)]
    rfl

theorem wfld_one (v : Word) (k : Nat) : (wfld v k 1 == 1) = v.getLsbD k := by
  simp [wfld, fld, BitVec.getLsbD, Nat.testBit_eq_decide_div_mod_eq]
  rfl

/-- The bank phase of a base, as a field of word 0 (R87). -/
theorem wfld_phase (v : Word) : wfld v 0 20 / 64 % 16 = wfld v 6 4 := by
  simp only [wfld, fld]
  omega

theorem TDesc.illegal_of_none {d : TDesc} (h : Fmt.ofCode d.fmt = none) : d.illegal = true := by
  simp only [TDesc.illegal, h]

theorem TDesc.illegal_iff {d : TDesc} {f : Fmt} (h : Fmt.ofCode d.fmt = some f) : d.illegal = true ↔
    64 < d.rows ∨ (d.cols = 0 ∧ d.rows ≠ 0) ∨ f.colsLimit < d.cols ∨ 5 < d.scaleA ∨ (d.scaleOn = true ∧ f.scaled = false) := by
  simp [TDesc.illegal, h, or_assoc]

theorem TDesc.sideOver_iff (d : TDesc) : d.sideOver = true ↔ d.scaleOn = true ∧ 4096 < d.sslice * 64 +
    (d.kext + 2 ^ d.scaleA - 1) / 2 ^ d.scaleA * ((d.oext + 32 / 2 ^ d.scaleA - 1) / (32 / 2 ^ d.scaleA)) := by
  have hno : d.no = (d.oext + 32 / 2 ^ d.scaleA - 1) / (32 / 2 ^ d.scaleA) := by
    by_cases hb : 32 / 2 ^ d.scaleA = 0 <;> simp [TDesc.no, hb]
  simp [TDesc.sideOver, TDesc.nk, hno]

section
variable {s : State} {pit : Pitch} {t : Tile} (hat : s.At pit t) (p : Pre)
include hat

theorem exec_scfg (r str wsel : Nat) : exec (.scfg p r str wsel) s =
    .next (s.become pit (scfgIssue r str wsel (t.begun p (s.ctxAt pit 1)) (s.ctxAt pit 1))) :=
  exec_eq_of_issue hat (body := fun c q => scfgIssue r str wsel q c) rfl fun _ => rfl

theorem exec_sget (r str wsel : Nat) : exec (.sget p r str wsel) s =
    .next (s.become pit (sgetIssue r str wsel (t.begun p (s.ctxAt pit 1)) (s.ctxAt pit 1))) :=
  exec_eq_of_issue hat (body := fun c q => sgetIssue r str wsel q c) rfl fun _ => rfl

theorem exec_srst (str : Nat) : exec (.srst p str) s = .next (s.become pit
    ((chargeCtl (t.begun p (s.ctxAt pit 1)) (s.ctxAt pit 1)).stage (s.ctxAt pit 1) t.tl 2 (.srst str))) :=
  exec_eq_of_issue hat (body := fun c q => (chargeCtl q c).stage c q.tl 2 (.srst str)) rfl fun _ => rfl

theorem exec_ldel (eng lvl str : Nat) (delta : Int) : exec (.ldel p eng lvl str delta) s = .next (s.become pit
    ((chargeCtl (t.begun p (s.ctxAt pit 2)) (s.ctxAt pit 2)).stage (s.ctxAt pit 2) t.tl 2 (.ldel eng lvl str delta))) :=
  exec_eq_of_issue hat (body := fun c q => (chargeCtl q c).stage c q.tl 2 (.ldel eng lvl str delta)) rfl fun _ => rfl

theorem exec_tcfg (r n : Nat) : exec (.tcfg p r n) s =
    .next (s.become pit (tcfgIssue r n (t.begun p (s.ctxAt pit 1)) (s.ctxAt pit 1))) :=
  exec_eq_of_issue hat (body := fun c q => tcfgIssue r n q c) rfl fun _ => rfl

theorem exec_tget (r n : Nat) : exec (.tget p r n) s =
    .next (s.become pit (tgetIssue r n (t.begun p (s.ctxAt pit 1)) (s.ctxAt pit 1))) :=
  exec_eq_of_issue hat (body := fun c q => tgetIssue r n q c) rfl fun _ => rfl

theorem exec_setc (r n sub : Nat) : exec (.setc p r n sub) s =
    .next (s.become pit (setcIssue r n sub (t.begun p (s.ctxAt pit 1)) (s.ctxAt pit 1))) :=
  exec_eq_of_issue hat (body := fun c q => setcIssue r n sub q c) rfl fun _ => rfl

theorem exec_genclr : exec (.genclr p) s =
    .next (s.become pit (genclrIssue (t.begun p (s.ctxAt pit 1)) (s.ctxAt pit 1))) :=
  exec_eq_of_issue hat (body := fun c q => genclrIssue q c) rfl fun _ => rfl

theorem exec_rdvP (n : Nat) : exec (.rdvP p n) s =
    .next (s.become pit (rdvpIssue n (t.begun p (s.ctxAt pit 1)) (s.ctxAt pit 1))) :=
  exec_eq_of_issue hat (body := fun c q => rdvpIssue n q c) rfl fun _ => rfl

end

section
variable {t : Tile} {c : Ctx} {r : Nat} {v : Word} (h : t.Readable c.eng [r]) (hv : t.reg c.eng r = v) (p : Pre)
include h hv

/-- SCFG that reads its register (R87, R210): the checks of word 0, then the write. -/
theorem scfgIssue_begun (str wsel : Nat) : scfgIssue r str wsel (t.begun p c) c =
    if wsel = 0 ∧ (1 < wfld v 24 2 ∨ 9 < wfld v 20 4) then t.trap c trapIllegal
    else if wsel = 0 ∧ (at' {} t.s str).inUse = true ∧
        (wfld v 6 4 ≠ (t.streamOf str).base / 64 % 16 ∨ wfld v 6 4 ≠ (t.streamOf str).cur / 64 % 16) then
      t.trap c trapStreamPhase
    else t.issued1 c (c.ends t (p.tail c) ++ c.one t.tl 2 (.scfg str wsel v)) := by
  simp only [scfgIssue, Tile.begun_withRegs h, Tile.begun_reg, hv, Tile.begun_trap, chargeCtl_begun_stage, wfld_phase,
    Bool.and_eq_true, Bool.or_eq_true, beq_iff_eq, decide_eq_true_eq, bne_iff_ne, and_assoc]
  rfl

/-- TCFG that reads its register (R215): the checks of R81 and R82, then the write and the new EPOCH. -/
theorem tcfgIssue_begun (n : Nat) : tcfgIssue r n (t.begun p c) c =
    if (TDesc.ofWord v).illegal = true ∨ wfld v 4 6 ≠ 0 ∨ wfld v 49 15 ≠ 0 then t.trap c trapIllegal
    else if (TDesc.ofWord v).sideOver = true then t.trap c trapBounds
    else t.issued1 c (c.ends t (p.tail c) ++ c.one t.tl 2 (.tdesc n (TDesc.ofWord v)) ++ c.one t.tl 2 (.epoch n)) := by
  simp only [tcfgIssue, Tile.begun_withRegs h, Tile.begun_reg, hv, Tile.begun_trap, chargeCtl_begun_stage,
    Tile.stage_issued1, Bool.or_eq_true, bne_iff_ne, or_assoc]
  rfl

theorem setcIssue_begun (n sub : Nat) : setcIssue r n sub (t.begun p c) c =
    t.issued1 c (c.ends t (p.tail c) ++ c.one t.tl 2 (.csr n sub v)) := by
  simp only [setcIssue, Tile.begun_withRegs h, Tile.begun_reg, hv, chargeCtl_begun_stage]
  rfl

end

/-- An effect that a static engine stages for the end of its issue cycle. -/
theorem Ctx.one_eq_ends {c : Ctx} (hc : c.eng = .C) (t : Tile) (e : Eff) : c.one t.tl 2 e = c.ends t [e] := by
  simp [Ctx.one, Ctx.ends, Tile.now, hc]

theorem sgetIssue_begun {t : Tile} {c : Ctx} (p : Pre) (r str wsel : Nat) : sgetIssue r str wsel (t.begun p c) c =
    if (t.staleTrap && t.streamStale str) = true then t.trap c trapStale
    else t.issued1 c (c.ends t (p.tail c) ++ c.result t r ((t.streamOf str).word wsel)) := by
  simp only [sgetIssue, Tile.begun_trap, chargeCtl_eq_issued1, Tile.begun_issued1, Tile.result_issued1, List.append_nil]
  rfl

theorem tgetIssue_begun {t : Tile} {c : Ctx} (p : Pre) (r n : Nat) : tgetIssue r n (t.begun p c) c =
    if (t.staleTrap && !t.descCur n) = true then t.trap c trapStale
    else t.issued1 c (c.ends t (p.tail c) ++
      c.result t r (if t.descCur n then (t.descOf n).toWord (at' 1 t.epoch n) else 0)) := by
  simp only [tgetIssue, Tile.begun_trap, chargeCtl_eq_issued1, Tile.begun_issued1, Tile.result_issued1, List.append_nil]
  rfl

theorem genclrIssue_begun (t : Tile) (c : Ctx) (p : Pre) :
    genclrIssue (t.begun p c) c = t.issued1 c (c.ends t (p.tail c) ++ c.one t.tl 2 .genclr) :=
  chargeCtl_begun_stage t p c t.tl 2 .genclr

theorem rdvpIssue_begun (t : Tile) (c : Ctx) (p : Pre) (n : Nat) : rdvpIssue n (t.begun p c) c =
    { t.issued1 c (c.ends t (p.tail c) ++ c.one t.tl 2 (.rdv n)) with rdvEng := t.engOf c.eng } := by
  rw [rdvpIssue, chargeCtl_begun_stage]
  rfl

/-- Settles O5, instruction by instruction, with `scfgIssue_begun` and `tcfgIssue_begun` for the two that make checks. -/
theorem configuration : Obligations.Configuration := by
  unfold Obligations.Configuration
  intro p r str wsel eng lvl sub n delta s pit t hat hC c c2 v fmt rows cols a d kext oext beyond st out bad reads noWord
    phase noDesc
  have hc : c.eng = .C := hC
  have hv : t.reg c.eng r = v := by rw [hc]
  have hreads (h : reads) : t.Readable c.eng [r] := hc ▸ h
  have hone (e : Eff) : c.one t.tl 2 e = c.ends t [e] := Ctx.one_eq_ends hc t e
  have hd : TDesc.ofWord v = d := by simp only [TDesc.ofWord, wfld_one, d, fmt, rows, cols]
  have hillegal : (d.illegal = true ∨ wfld v 4 6 ≠ 0 ∨ wfld v 49 15 ≠ 0) ↔ noDesc := by
    simp only [noDesc, formatCodes_getElem?]
    cases hf : Fmt.ofCode fmt with
    | none => simp [TDesc.illegal_of_none (d := d) hf]
    | some f =>
      rw [TDesc.illegal_iff (d := d) hf]
      simp only [Option.map_some]
      tauto
  have hbeyond : d.sideOver = true ↔ beyond := TDesc.sideOver_iff d
  have hout (l : List Eff) : .next (s.become pit (t.issued1 c (c.ends t (p.tail c) ++ c.ends t l))) = out l [] := by
    simp only [out, Ctx.ends_append, List.append_nil]
  refine ⟨fun h hw => ?_, fun h hw hph => ?_, fun h hw hph => ?_, fun h i hi => ?_, fun h => ?_, fun htrap hst => ?_, ?_, ?_,
    fun h hno => ?_, fun h hno hb => ?_, fun h hno hb => ?_, fun h => ?_, fun htrap hcur => ?_, fun h => ?_, ?_, ?_⟩
  · rw [exec_scfg hat, scfgIssue_begun (hreads h) hv, if_pos hw]
  · rw [exec_scfg hat, scfgIssue_begun (hreads h) hv, if_neg hw, if_pos hph]
  · rw [exec_scfg hat, scfgIssue_begun (hreads h) hv, if_neg hw, if_neg hph, hone]
    exact hout _
  · have hno (k : Tile → Tile) : (t.begun p c).withRegs c [r] k = t.trap c trapStale := by
      rw [Tile.withRegs_of_not_readable (t := t.begun p c) (by rw [hc]; exact h), Tile.begun_trap]
    simp only [List.mem_cons, List.not_mem_nil, or_false] at hi
    rcases hi with rfl | rfl | rfl
    · rw [exec_scfg hat, scfgIssue, hno]
    · rw [exec_tcfg hat, tcfgIssue, hno]
    · rw [exec_setc hat, setcIssue, hno]
  · rw [exec_sget hat, sgetIssue_begun, if_neg (by rcases h with h | h <;> simp [h])]
    simp only [out, List.append_nil]
    rfl
  · rw [exec_sget hat, sgetIssue_begun, if_pos (by simp [htrap, hst])]
  · rw [exec_srst hat, chargeCtl_begun_stage, hone]
    exact hout _
  · rw [exec_ldel hat, chargeCtl_begun_stage, Ctx.one_eq_ends hC, ← Ctx.ends_append]
  · rw [exec_tcfg hat, tcfgIssue_begun (hreads h) hv, hd, if_pos (hillegal.mpr hno)]
  · rw [exec_tcfg hat, tcfgIssue_begun (hreads h) hv, hd, if_neg (mt hillegal.mp hno), if_pos (hbeyond.mpr hb)]
  · rw [exec_tcfg hat, tcfgIssue_begun (hreads h) hv, hd, if_neg (mt hillegal.mp hno), if_neg (mt hbeyond.mp hb), hone, hone,
      List.append_assoc, ← Ctx.ends_append]
    exact hout _
  · have hval : (if t.descCur n then (t.descOf n).toWord (at' 1 t.epoch n) else 0) =
        if t.descCur n then (at' {} t.desc n).toWord (at' 1 t.epoch n) else 0 := by
      split <;> simp [Tile.descOf, *]
    rw [exec_tget hat, tgetIssue_begun, if_neg (by rcases h with h | h <;> simp [h]), hval]
    simp only [out, List.append_nil]
    rfl
  · rw [exec_tget hat, tgetIssue_begun, if_pos (by simp [htrap, hcur])]
  · rw [exec_setc hat, setcIssue_begun (hreads h) hv, hone]
    exact hout _
  · rw [exec_genclr hat, genclrIssue_begun, hone]
    exact hout _
  · rw [exec_rdvP hat, rdvpIssue_begun, hone, ← Ctx.ends_append, hc]

end Sys2Proof.Machine

/-! CTT, CBC and CFB: their descriptors, their checks and the copy they command (R122, R125, R283, R289 to R291). -/

namespace Sys2Proof.Machine

/-- A granule of the scratchpad is stale as a range when it is stale. -/
theorem Tile.spmStale_granule (t : Tile) {k : Nat} (hk : k % 64 = 0) : t.spmStale k 64 = !t.spmCur (k / 64) := by
  have hspan : (k + 63) / 64 - k / 64 + 1 = 1 := by omega
  simp [Tile.spmStale, hspan]

/-- The trap of a descriptor's read, or what it reads (R122, R283). -/
theorem readDesc_of_bounds {t : Tile} {v : Word} (h : ¬ Fits v.toNat 64 64) : readDesc t v 0 false = .error trapBounds := by
  have hbad : (v.toNat % 64 != 0 || decide (Config.spmSize < v.toNat + 64)) = true := by
    have hsize : Config.spmSize = 0xC0000 := rfl
    simp only [Fits] at h
    simp only [Bool.or_eq_true, bne_iff_ne, decide_eq_true_eq, hsize]
    omega
  simp [readDesc, hbad]

theorem readDesc_of_fits {t : Tile} {v : Word} (h : Fits v.toNat 64 64) : readDesc t v 0 false =
    if t.staleTrap && !t.spmCur (v.toNat / 64) then .error trapStale
    else .ok (RegionDesc.ofBytes (t.spmBytes v.toNat 64), []) := by
  obtain ⟨hal, hin⟩ := h
  have hgood : (v.toNat % 64 != 0 || decide (Config.spmSize < v.toNat + 64)) = false := by
    have hsize : Config.spmSize = 0xC0000 := rfl
    simp [hal, hsize, hin]
  simp [readDesc, hgood, t.spmStale_granule hal]

/-- A descriptor in a granule that can be read. -/
theorem readDesc_ok {t : Tile} {v : Word}
    (h : Fits v.toNat 64 64 ∧ (t.staleTrap = false ∨ t.spmCur (v.toNat / 64) = true)) :
    readDesc t v 0 false = .ok (RegionDesc.ofBytes (t.spmBytes v.toNat 64), []) := by
  obtain ⟨hfits, hcur⟩ := h
  rw [readDesc_of_fits hfits, if_neg (by rcases hcur with h | h <;> simp [h])]

/-- A descriptor in a granule that cannot. -/
theorem readDesc_error {t : Tile} {v : Word} {code : Nat} (h : (¬ Fits v.toNat 64 64 ∧ code = trapBounds) ∨
      (Fits v.toNat 64 64 ∧ t.staleTrap = true ∧ t.spmCur (v.toNat / 64) = false ∧ code = trapStale)) :
    readDesc t v 0 false = .error code := by
  rcases h with ⟨hbad, rfl⟩ | ⟨hfits, htrap, hcur, rfl⟩
  · exact readDesc_of_bounds hbad
  · rw [readDesc_of_fits hfits, if_pos (by simp [htrap, hcur])]

theorem xcOpD_eq (t : Tile) (o : XcOps) : xcOpD t o = opDst t o := by
  simp [xcOpD, opDst, wrap64, BitVec.ofInt_add]

theorem xcOpS_eq (t : Tile) (o : XcOps) : xcOpS t o = opSrc t o := by
  simp [xcOpS, opSrc, wrap64, BitVec.ofInt_add]

/-- A copy whose checks passed leaves its command, as the statements write it. -/
theorem emitCopy_eq (p : Pre) (i : Instr) (o : XcOps) (g : Nat) (src dst : Side) (n z : Nat) (tiles : List Nat) (t : Tile)
    (c : Ctx) : emitCopy p i o g src dst n z (copyPosts tiles o) t c =
      commanded p t c g (.copy i (opDst t o) (opSrc t o) src dst n z (tiles.map (target o)) c.gpc) := by
  rw [emitCopy, issue_eq]
  simp only [xcOpD_eq, xcOpS_eq]
  rfl

theorem spmSideOk_iff (off n z : Nat) : spmSideOk off n z = true ↔ Fits off (n * z) z := by
  have hsize : Config.spmSize = 0xC0000 := rfl
  simp [spmSideOk, Fits, hsize]

section
variable {t : Tile} {c : Ctx} {p : Pre} {i : Instr} {o : XcOps} {code : Nat} {sd dd : RegionDesc × List Int}
variable (h : t.Readable c.eng [o.xd, o.xs])
include h

theorem cttIssue_of_source_error (hs : readDesc t (opSrc t o) 0 false = .error code) :
    cttIssue p i o t c = t.trap c code := by
  simp only [cttIssue, Tile.withRegs_eq h, xcOpS_eq, hs]

theorem cttIssue_of_target_error (hs : readDesc t (opSrc t o) 0 false = .ok sd)
    (hd : readDesc t (opDst t o) 0 false = .error code) : cttIssue p i o t c = t.trap c code := by
  simp only [cttIssue, Tile.withRegs_eq h, xcOpS_eq, xcOpD_eq, hs, hd]

/-- CTT on two descriptors that it has read (R125, R291). -/
theorem cttIssue_of_read (hs : readDesc t (opSrc t o) 0 false = .ok sd) (hd : readDesc t (opDst t o) 0 false = .ok dd) :
    let es := tensorOf c.env.tensors sd.1.handle
    let ed := tensorOf c.env.tensors dd.1.handle
    cttIssue p i o t c =
      if regionOk sd.1 [] false false es = true ∧ regionOk dd.1 [] false true ed = true ∧
          dd.1.count [] false = sd.1.count [] false ∧ sd.1.esize = dd.1.esize ∧ ¬ (entLoc es = 2 ∧ entLoc ed = 2) then
        emitCopy p i o 2 (.region sd.1 [] es) (.region dd.1 [] ed) (sd.1.count [] false) sd.1.z
          (copyPosts [c.env.tileIdx t.x t.y] o) t c
      else t.trap c trapTensor := by
  simp only [cttIssue, Tile.withRegs_eq h, xcOpS_eq, xcOpD_eq, hs, hd]
  rw [← ite_not]
  refine if_congr ?_ rfl rfl
  simp only [Bool.or_eq_true, Bool.and_eq_true, Bool.not_eq_true', bne_iff_ne, beq_iff_eq, not_or, ne_eq, not_not,
    Bool.not_eq_false, and_assoc]

theorem cbcIssue_of_error (hs : readDesc t (opSrc t o) 0 false = .error code) : cbcIssue p i o t c = t.trap c code := by
  simp only [cbcIssue, Tile.withRegs_eq h, xcOpS_eq, hs]

/-- CBC on a descriptor that it has read (R289). -/
theorem cbcIssue_of_read (hs : readDesc t (opSrc t o) 0 false = .ok sd) :
    let e := tensorOf c.env.tensors sd.1.handle
    let n := sd.1.count [] false
    let d := (opDst t o).toNat
    let x := d / 2 ^ 20 % 64
    let y := d / 2 ^ 26 % 64
    let w := o.aux / 64 + 1
    let h := o.aux % 64 + 1
    let tiles := (List.range h).flatMap fun r => (List.range w).map fun k => (y + r) * c.env.w + (x + k)
    cbcIssue p i o t c =
      if regionOk sd.1 [] false false e = false then t.trap c trapTensor
      else if spmSideOk (d % 2 ^ 20) n sd.1.z = true ∧ x + w ≤ c.env.w ∧ y + h ≤ c.env.h then
        emitCopy p i o 1 (.region sd.1 [] e) (.spm tiles (d % 2 ^ 20)) n sd.1.z (copyPosts tiles o) t c
      else t.trap c trapBounds := by
  simp only [cbcIssue, Tile.withRegs_eq h, xcOpS_eq, xcOpD_eq, hs, wfld, fld, pow_zero, Nat.div_one,
    show 2 ^ 6 = 64 from rfl]
  refine if_congr (by simp) rfl ?_
  rw [← ite_not]
  refine if_congr ?_ rfl rfl
  simp only [Bool.or_eq_true, Bool.not_eq_true', decide_eq_true_eq, not_or, Nat.not_lt, Bool.not_eq_false, and_assoc]

theorem cfbIssue_of_error (hd : readDesc t (opDst t o) 0 false = .error code) : cfbIssue p i o t c = t.trap c code := by
  simp only [cfbIssue, Tile.withRegs_eq h, xcOpD_eq, hd]

/-- CFB on a descriptor that it has read (R290). -/
theorem cfbIssue_of_read (hd : readDesc t (opDst t o) 0 false = .ok dd) :
    let e := tensorOf c.env.tensors dd.1.handle
    cfbIssue p i o t c =
      if regionOk dd.1 [] false true e = true then
        emitCopy p i o 1 (.pattern (t.reg .X o.xs).toNat) (.region dd.1 [] e) (dd.1.count [] false) dd.1.z
          (copyPosts [c.env.tileIdx t.x t.y] o) t c
      else t.trap c trapTensor := by
  simp only [cfbIssue, Tile.withRegs_eq h, xcOpD_eq, hd]
  rw [← ite_not]
  exact if_congr (by simp) rfl rfl

end

/-- Settles O13: each form on descriptors that it can read, by its checks, and on those that it cannot. -/
theorem copyTensorForms : Obligations.CopyTensorForms := by
  unfold Obligations.CopyTensorForms
  intro p o s pit t hat hx hreads c a b reads fails sd dd es ed me x y w h tiles bad out pair rect
  have hregs : t.Readable c.eng [o.xd, o.xs] := by
    rw [show c.eng = .X from hx]
    exact hreads
  have hctt : exec (.ctt p o) s = .next (s.become pit (cttIssue p (.ctt p o) o t c)) := State.atTile_eq hat 3 _
  have hcbc : exec (.cbc p o) s = .next (s.become pit (cbcIssue p (.cbc p o) o t c)) := State.atTile_eq hat 3 _
  have hcfb : exec (.cfb p o) s = .next (s.become pit (cfbIssue p (.cfb p o) o t c)) := State.atTile_eq hat 3 _
  have hrect : spmSideOk (b % 2 ^ 20) (sd.count [] false) sd.z = true ∧ x + w ≤ pit.img.w ∧ y + h ≤ pit.img.h ↔ rect :=
    and_congr_left' (spmSideOk_iff _ _ _)
  refine ⟨fun code ha => ⟨?_, fun _ => ?_⟩, fun code hb => ⟨?_, fun ha => ?_⟩, fun ha hb => ⟨fun hp => ?_, fun hp => ?_⟩,
    fun ha => ⟨fun hok => ?_, fun hok hr => ?_, fun hok hr => ?_⟩, fun hb => ⟨fun hok => ?_, fun hok => ?_⟩⟩
  · rw [hcbc, cbcIssue_of_error hregs (readDesc_error ha)]
  · rw [hctt, cttIssue_of_source_error hregs (readDesc_error ha)]
  · rw [hcfb, cfbIssue_of_error hregs (readDesc_error hb)]
  · rw [hctt, cttIssue_of_target_error hregs (readDesc_ok ha) (readDesc_error hb)]
  · rw [hctt, cttIssue_of_read hregs (readDesc_ok ha) (readDesc_ok hb), if_pos hp, emitCopy_eq]
    rfl
  · rw [hctt, cttIssue_of_read hregs (readDesc_ok ha) (readDesc_ok hb), if_neg hp]
  · rw [hcbc, cbcIssue_of_read hregs (readDesc_ok ha), if_pos hok]
  · rw [hcbc, cbcIssue_of_read hregs (readDesc_ok ha), if_neg (by simpa using hok), emitCopy_eq]
    exact congrArg (fun u => Host.Outcome.next (s.become pit u)) (if_pos (hrect.mpr hr))
  · rw [hcbc, cbcIssue_of_read hregs (readDesc_ok ha), if_neg (by simpa using hok)]
    exact congrArg (fun u => Host.Outcome.next (s.become pit u)) (if_neg (mt hrect.mp hr))
  · rw [hcfb, cfbIssue_of_read hregs (readDesc_ok hb), if_pos hok, emitCopy_eq]
    rfl
  · rw [hcfb, cfbIssue_of_read hregs (readDesc_ok hb), if_neg (by simpa using hok)]

end Sys2Proof.Machine

/-! COUNT stays within CEILING outside ARRIVE mode (R106, R108). -/

namespace Sys2Proof.Machine

/-- Outside ARRIVE mode COUNT is at most CEILING (R106). -/
def Sem.Within (s : Sem) : Prop := s.arrive = false → s.count ≤ s.ceiling

/-- The same of every semaphore of a tile. -/
def SyncState.Within (z : SyncState) : Prop := ∀ k, (z.s k).Within

theorem Sem.within_default : Sem.Within {} := fun _ => Nat.zero_le _

theorem Sem.take_within {s : Sem} (h : s.Within) (n : Nat) : (s.take n).1.Within := by
  unfold Sem.take
  split_ifs
  · exact h
  · exact h
  · exact h
  · exact fun ha => (Nat.sub_le _ _).trans (h ha)

theorem Sem.post_within {s : Sem} (h : s.Within) (n : Nat) : (s.post n).1.Within := by
  unfold Sem.post
  split_ifs with hc
  · exact h
  · exact fun _ => Nat.le_of_not_lt hc

theorem Sem.config_within (n m : Nat) (arrive : Bool) : (Sem.config n m arrive).1.Within := by
  unfold Sem.config
  split_ifs with hc
  · exact Sem.within_default
  · exact fun _ => Nat.le_of_not_lt hc

theorem Sem.fadd_within {s : Sem} (h : s.Within) (d : Int) : (s.fadd d).1.Within := by
  unfold Sem.fadd
  dsimp only
  split_ifs with hc
  · exact h
  · simp only [Bool.or_eq_true, decide_eq_true_eq, not_or, not_lt] at hc
    exact fun _ => Int.toNat_le.mpr hc.2

theorem Sem.cas_within {s : Sem} (h : s.Within) (e v : Nat) : (s.cas e v).1.Within := by
  unfold Sem.cas
  split_ifs with he hc
  · exact h
  · exact fun _ => Nat.le_of_not_lt hc
  · exact h

theorem Sem.exp_within {s : Sem} (h : s.Within) (e : Nat) : (s.exp e).1.Within := by
  unfold Sem.exp
  dsimp only
  split_ifs <;> exact h

theorem Sem.complete_within {s : Sem} (h : s.Within) : s.complete.Within := by
  unfold Sem.complete
  split
  · exact fun ha => (Nat.sub_le _ _).trans (h ha)
  · exact h

/-- A semaphore after a write is the one written or what it was. -/
theorem SyncState.s_setS_cases (z : SyncState) (k j : Nat) (v : Sem) : (z.setS k v).s j = v ∨ (z.setS k v).s j = z.s j := by
  by_cases hk : k < 64
  · simp only [SyncState.s, SyncState.setS, at'_setIfInBounds {} z.sem v hk]
    split
    · exact .inl rfl
    · exact .inr rfl
  · exact .inr (by simp only [SyncState.s, SyncState.setS, Vector.setIfInBounds_eq_of_size_le (Nat.le_of_not_lt hk)])

section
variable {z : SyncState} (h : z.Within)
include h

theorem SyncState.Within.setS (k : Nat) {v : Sem} (hv : v.Within) : (z.setS k v).Within := by
  intro j
  rcases z.s_setS_cases k j v with heq | heq
  · rw [heq]
    exact hv
  · rw [heq]
    exact h j

theorem SyncState.Within.setR (k : Nat) (g : Ring) : (z.setR k g).Within := h

theorem SyncState.Within.put (k : Nat) {o : Sem × SemOut} (ho : o.1.Within) : (z.put k o).1.Within := by
  unfold SyncState.put
  split
  · exact h.setS k ho
  · exact h
  · exact h

theorem SyncState.Within.ringConfig (k : Nat) (v : Word) : (z.ringConfig k v).1.Within := by
  unfold SyncState.ringConfig
  dsimp only
  split
  · exact h
  · exact ((h.setS _ fun _ => le_rfl).setS _ fun _ => Nat.zero_le _).setR k _

theorem SyncState.Within.claim (k : Nat) (producer : Bool) : (z.claim k producer).1.Within := by
  unfold SyncState.claim
  dsimp only
  split
  · exact h
  · split
    · exact (h.setS _ (Sem.take_within (h _) 1)).setR k _
    · exact h
    · exact h

theorem SyncState.Within.give (k : Nat) (producer : Bool) : (z.give k producer).1.Within := by
  unfold SyncState.give
  dsimp only
  split
  · exact h
  · split
    · exact (h.setS _ (Sem.post_within (h _) 1)).setR k _
    · exact h
    · exact h

/-- An operation keeps COUNT within CEILING outside ARRIVE mode: where it would not, it is refused. -/
theorem SyncState.Within.apply (op : SemDo) : (z.apply op).1.Within := by
  cases op with
  | config k n c a => exact h.put k (Sem.config_within n c a)
  | take k n => exact h.put k (Sem.take_within (h k) n)
  | phaseWait k p => exact h
  | post k n => exact h.put k (Sem.post_within (h k) n)
  | fadd k d => exact h.put k (Sem.fadd_within (h k) d)
  | cas k e v => exact h.put k (Sem.cas_within (h k) e v)
  | exp k e => exact h.put k (Sem.exp_within (h k) e)
  | arrive k n =>
    by_cases ha : (z.s k).arrive = true
    · rw [SyncState.apply, if_pos ha]
      exact h.setS k fun hf => absurd (ha.symm.trans hf) (by decide)
    · rw [SyncState.apply, if_neg ha]
      exact h
  | lost k => exact h.setS k (h k)
  | ringConfig k v => exact h.ringConfig k v
  | claim k p => exact h.claim k p
  | give k p => exact h.give k p
  | read k w => exact h
  | ringRead k w => exact h

theorem SyncState.Within.complete : SyncState.Within { z with sem := z.sem.map Sem.complete } := by
  intro k
  have hk := h k
  simp only [SyncState.s, at', Vector.getElem?_map] at hk ⊢
  cases hs : z.sem[k]? with
  | none => exact Sem.within_default
  | some s =>
    rw [hs] at hk
    exact Sem.complete_within hk

end

theorem applyOps_append (z : SyncState) (l : List SemOp) (o : SemOp) :
    applyOps z (l ++ [o]) = (((applyOps z l).1.apply o.op).1, (applyOps z l).2 ++ [(o, ((applyOps z l).1.apply o.op).2)]) := by
  simp only [applyOps, List.foldl_append, List.foldl_cons, List.foldl_nil]

theorem SyncState.Within.applyOps {z : SyncState} (h : z.Within) (l : List SemOp) : (applyOps z l).1.Within := by
  induction l using List.reverseRecOn with
  | nil => exact h
  | append_singleton l o ih =>
    rw [applyOps_append]
    exact ih.apply o.op

/-- Settles O41: every operation keeps the invariant, and so does the completion check between them. -/
theorem countsStayUnderCeilings : Obligations.CountsStayUnderCeilings := fun z _ h =>
  ((show z.Within from h).applyOps _).complete.applyOps _

end Sys2Proof.Machine

/-! The operations on one semaphore and on one ring (R103 to R113, R303, R448). -/

namespace Sys2Proof.Machine

theorem data64_eq (z : Int) : data64 z = (z % 2 ^ 64).toNat := by
  simp [data64, BitVec.toNat_ofInt]

theorem data64_natCast (n : Nat) : data64 (n : Int) = n % 2 ^ 64 := by
  rw [data64_eq]
  omega

theorem saysSemaphore_holds : saysSemaphore := by
  intro z n m d arrive
  refine ⟨fun h => ?_, fun h => ?_, fun h => ?_, fun h => ⟨fun hn => ?_, fun hn hc => ?_, fun hn hc => ?_, ?_⟩, fun h => ?_,
    fun h => ?_, fun h0 hc => ?_, fun h => ?_, fun he hm => ?_, fun he hm => ?_, fun he => ?_, fun hv he => ?_, fun hv he => ?_,
    fun hv he => ?_, fun hv he => ?_, ?_⟩
  · rw [Sem.config, if_pos h]
  · rw [Sem.config, if_neg (Nat.not_lt.mpr h)]
  · simp only [Sem.take, Sem.phaseWait, h, if_true, and_self]
  · simp only [Sem.take, h, Bool.false_eq_true, if_false, hn, if_true]
  · simp only [Sem.take, h, Bool.false_eq_true, if_false, Nat.not_lt.mpr hn, hc, if_true]
  · simp only [Sem.take, h, Bool.false_eq_true, if_false, Nat.not_lt.mpr hn, Nat.not_lt.mpr hc]
  · simp only [Sem.phaseWait, h, Bool.false_eq_true, if_false, beq_iff_eq]
  · rw [Sem.post, if_neg (Nat.not_lt.mpr h)]
  · rw [Sem.post, if_pos h, data64_natCast]
  · rw [Sem.fadd, if_neg (by simp only [Bool.or_eq_true, decide_eq_true_eq]; omega)]
  · rw [Sem.fadd, if_pos (by simpa using h), data64_eq]
  · rw [Sem.cas, if_pos (beq_iff_eq.mpr he), if_neg (Nat.not_lt.mpr hm)]
  · rw [Sem.cas, if_pos (beq_iff_eq.mpr he), if_pos hm]
  · rw [Sem.cas, if_neg (by simpa using he)]
  · simp only [Sem.exp, hv, Bool.false_eq_true, if_false, he, if_true, data64_natCast]
  · simp only [Sem.exp, hv, he, if_true, data64_natCast]
  · simp only [Sem.exp, hv, Bool.false_eq_true, if_false, Nat.not_le.mpr he]
  · simp only [Sem.exp, hv, if_true, Nat.not_le.mpr he, if_false]
  · simp only [Sem.complete, Bool.and_eq_true, decide_eq_true_eq, and_assoc]

theorem SyncState.s_setS (z : SyncState) {k : Nat} (hk : k < 64) (v : Sem) (j : Nat) :
    (z.setS k v).s j = if j = k then v else z.s j := by
  simp only [SyncState.s, SyncState.setS, at'_setIfInBounds _ z.sem v hk]

theorem SyncState.r_setR (z : SyncState) {k : Nat} (hk : k < 16) (g : Ring) (j : Nat) :
    (z.setR k g).r j = if j = k then g else z.r j := by
  simp only [SyncState.r, SyncState.setR, at'_setIfInBounds _ z.ring g hk]

theorem SyncState.s_setR (z : SyncState) (k : Nat) (g : Ring) (j : Nat) : (z.setR k g).s j = z.s j := rfl

theorem SyncState.r_setS (z : SyncState) (k : Nat) (v : Sem) (j : Nat) : (z.setS k v).r j = z.r j := rfl

/-- A ring operation leaves every semaphore but the one it moves, and every other ring. -/
theorem SyncState.setS_setR_spec (z : SyncState) {q k : Nat} (hq : q < 64) (hk : k < 16) (v : Sem) (g : Ring) :
    ((z.setS q v).setR k g).s q = v ∧
      ((∀ j, j ≠ q → ((z.setS q v).setR k g).s j = z.s j) ∧ ∀ j, j ≠ k → ((z.setS q v).setR k g).r j = z.r j) ∧
      ((z.setS q v).setR k g).r k = g := by
  refine ⟨?_, ⟨fun j hj => ?_, fun j hj => ?_⟩, ?_⟩
  · rw [SyncState.s_setR, SyncState.s_setS z hq, if_pos rfl]
  · rw [SyncState.s_setR, SyncState.s_setS z hq, if_neg hj]
  · rw [SyncState.r_setR _ hk, if_neg hj, SyncState.r_setS]
  · rw [SyncState.r_setR _ hk, if_pos rfl]

/-- RCFG by whether its base, size, slots and semaphores are allowed (R111). -/
theorem SyncState.ringConfig_eq (z : SyncState) (k : Nat) (v : Word) :
    let base := wfld v 0 20
    let size := wfld v 20 13
    let slots := wfld v 37 9
    let free := wfld v 46 6
    let filled := wfld v 52 6
    z.ringConfig k v = if base % 64 ≠ 0 ∨ 0xC0000 < base + slots * size * 64 ∨ slots = 0 ∨ 256 < slots ∨ size = 0 ∨
        4096 < size ∨ free = filled then (z, .trap trapBounds 0)
      else (((z.setS free { count := slots, ceiling := slots }).setS filled { ceiling := slots }).setR k
        { base := base, slotSize := size, slots := slots, freeSem := free, filledSem := filled }, .done none) := by
  have hsize : Config.spmSize = 0xC0000 := rfl
  simp only [SyncState.ringConfig, hsize, Bool.or_eq_true, bne_iff_ne, beq_iff_eq, decide_eq_true_eq, or_assoc]

section
variable {z : SyncState} {k : Nat} {producer : Bool} {g : Ring} (hg : z.r k = g)
include hg

/-- A claim on a ring with slots, by what the take of its semaphore answers (R112). -/
theorem SyncState.claim_of_slots (hs : g.slots ≠ 0) : z.claim k producer =
    let q := if producer then g.freeSem else g.filledSem
    if ((z.s q).take 1).2 = .done none then
      ((z.setS q ((z.s q).take 1).1).setR k (if producer then
          { g with tail := (g.tail + 1) % g.slots, claimedP := (g.claimedP + 1) % 512 }
        else { g with head := (g.head + 1) % g.slots, claimedC := (g.claimedC + 1) % 512 }),
        .done (some (BitVec.ofNat 64 (g.base + (if producer then g.tail else g.head) * g.slotSize * 64))))
    else (z, ((z.s q).take 1).2) := by
  have hs' : (g.slots == 0) = false := by simpa using hs
  simp only [SyncState.claim, hg, hs', Bool.false_eq_true, if_false]
  generalize z.s (if producer = true then g.freeSem else g.filledSem) = u
  unfold Sem.take
  split_ifs <;> simp_all

/-- A release on a ring with slots, by what the post of its semaphore answers (R112). -/
theorem SyncState.give_of_slots (hs : g.slots ≠ 0) : z.give k producer =
    let q := if producer then g.filledSem else g.freeSem
    if ((z.s q).post 1).2 = .done none then
      ((z.setS q ((z.s q).post 1).1).setR k (if producer then { g with claimedP := g.claimedP - 1 }
        else { g with claimedC := g.claimedC - 1 }), .done none)
    else (z, ((z.s q).post 1).2) := by
  have hs' : (g.slots == 0) = false := by simpa using hs
  simp only [SyncState.give, hg, hs', Bool.false_eq_true, if_false]
  generalize z.s (if producer = true then g.filledSem else g.freeSem) = u
  unfold Sem.post
  split_ifs <;> simp_all

end

theorem saysRing_holds : saysRing := by
  intro z k v producer w hk base size slots free filled bad g from' into only
  have hconfig := z.ringConfig_eq k v
  have hfl : free < 64 ∧ filled < 64 := ⟨Nat.mod_lt _ (by decide), Nat.mod_lt _ (by decide)⟩
  refine ⟨fun h => ?_, fun h => ?_, fun h => ⟨?_, ?_, ?_⟩, fun h hfree hfilled => ?_⟩
  · rw [hconfig]
    exact if_pos h
  · have hok : z.ringConfig k v = _ := hconfig.trans (if_neg h)
    have hne : free ≠ filled := fun he => h (by simp [bad, he])
    simp only [hok]
    refine ⟨trivial, ?_, ?_, fun j hjf hjl => ?_, fun j hj => ?_, ?_⟩
    · rw [SyncState.s_setR, SyncState.s_setS _ hfl.2, if_neg hne, SyncState.s_setS _ hfl.1, if_pos rfl]
    · rw [SyncState.s_setR, SyncState.s_setS _ hfl.2, if_pos rfl]
    · rw [SyncState.s_setR, SyncState.s_setS _ hfl.2, if_neg hjl, SyncState.s_setS _ hfl.1, if_neg hjf]
    · rw [SyncState.r_setR _ hk, if_neg hj, SyncState.r_setS, SyncState.r_setS]
    · rw [SyncState.r_setR _ hk, if_pos rfl]
  · simp [SyncState.claim, show (z.r k).slots = 0 from h]
  · simp [SyncState.give, show (z.r k).slots = 0 from h]
  · simp [SyncState.apply, show (z.r k).slots = 0 from h]
  · have hclaim : z.claim k producer = _ := SyncState.claim_of_slots rfl h
    have hgive : z.give k producer = _ := SyncState.give_of_slots rfl h
    have hfrom : from' < 64 := by
      simp only [from']
      split <;> assumption
    have hinto : into < 64 := by
      simp only [into]
      split <;> assumption
    have hnotTrap {c d : Nat} : ¬ SemOut.trap c d = .done none := SemOut.noConfusion
    refine ⟨fun c d hq => ?_, fun hq => ?_, fun hq => ?_, fun c d hq => ?_, fun hq => ?_, ?_⟩
    · rw [hclaim]
      exact (if_neg (hq ▸ hnotTrap)).trans (by rw [hq])
    · rw [hclaim]
      exact (if_neg (hq ▸ SemOut.noConfusion)).trans (by rw [hq])
    · have hrun := hclaim.trans (if_pos hq)
      simp only [hrun]
      exact ⟨rfl, z.setS_setR_spec hfrom hk _ _⟩
    · rw [hgive]
      exact (if_neg (hq ▸ hnotTrap)).trans (by rw [hq])
    · have hrun := hgive.trans (if_pos hq)
      simp only [hrun]
      exact ⟨trivial, z.setS_setR_spec hinto hk _ _⟩
    · have hs : ((z.r k).slots == 0) = false := by simpa using h
      simp only [SyncState.apply, hs, Bool.false_eq_true, if_false, Ring.word, beq_iff_eq, g]
      congr 5
      all_goals omega

end Sys2Proof.Machine

/-! One cycle of semaphore operations: the order of R108 as a stable sort, and what a cycle leaves (R37, R107, R108). -/

namespace Sys2Proof.Machine

section
variable {α : Type} {key : α → Nat}

/-- The elements of a list, those of one key after those of another, in the order of `ks`. -/
def buckets (key : α → Nat) (ks : List Nat) (l : List α) : List α := ks.flatMap fun k => l.filter fun x => key x == k

theorem mem_buckets {ks : List Nat} {l : List α} {x : α} : x ∈ buckets key ks l ↔ x ∈ l ∧ key x ∈ ks := by
  simp [buckets, and_comm]

theorem buckets_append (ks ks' : List Nat) (l : List α) : buckets key (ks ++ ks') l = buckets key ks l ++ buckets key ks' l :=
  List.flatMap_append

theorem insertBy_append_of_le {a : List α} {x : α} (h : ∀ y ∈ a, key y ≤ key x) (b : List α) :
    insertBy (fun y z => decide (key y ≤ key z)) x (a ++ b) = a ++ insertBy (fun y z => decide (key y ≤ key z)) x b := by
  induction a with
  | nil => rfl
  | cons y a ih =>
    obtain ⟨hy, ha⟩ := List.forall_mem_cons.mp h
    rw [List.cons_append, insertBy, if_pos (decide_eq_true hy), ih ha, List.cons_append]

theorem insertBy_of_lt {b : List α} {x : α} (h : ∀ y ∈ b, key x < key y) :
    insertBy (fun y z => decide (key y ≤ key z)) x b = x :: b := by
  cases b with
  | nil => rfl
  | cons y b => rw [insertBy, if_neg (by simpa using h y List.mem_cons_self)]

/-- A further element goes to the end of its bucket. -/
theorem insertBy_buckets {ks : List Nat} (hks : ks.Pairwise (· < ·)) (l : List α) {x : α} (hx : key x ∈ ks) :
    insertBy (fun y z => decide (key y ≤ key z)) x (buckets key ks l) = buckets key ks (l ++ [x]) := by
  induction ks with
  | nil => exact absurd hx List.not_mem_nil
  | cons k ks ih =>
    obtain ⟨hk, hks⟩ := List.pairwise_cons.mp hks
    have hsplit (l : List α) : buckets key (k :: ks) l = (l.filter fun y => key y == k) ++ buckets key ks l := rfl
    rw [hsplit, hsplit, List.filter_append]
    by_cases hxk : key x = k
    · have hkept : buckets key ks (l ++ [x]) = buckets key ks l := by
        have hnone (j : Nat) (hj : j ∈ ks) : key x ≠ j := by
          have := hk j hj
          omega
        simp only [buckets, List.filter_append]
        refine List.flatMap_congr fun j hj => ?_
        simp [hnone j hj]
      have hlater : ∀ y ∈ buckets key ks l, key x < key y := fun y hy => hxk ▸ hk _ (mem_buckets.mp hy).2
      rw [insertBy_append_of_le (by simp only [List.mem_filter, beq_iff_eq]; omega), insertBy_of_lt hlater, hkept]
      simp [hxk]
    · have hxks : key x ∈ ks := (List.mem_cons.mp hx).resolve_left hxk
      have hlt := hk _ hxks
      rw [insertBy_append_of_le (by simp only [List.mem_filter, beq_iff_eq]; omega), ih hks hxks]
      simp [hxk]

/-- A stable sort puts the elements into their buckets. -/
theorem sortOn_eq_buckets {ks : List Nat} (hks : ks.Pairwise (· < ·)) {l : List α} (hl : ∀ x ∈ l, key x ∈ ks) :
    sortOn key l = buckets key ks l := by
  induction l using List.reverseRecOn with
  | nil => simp [sortOn, buckets]
  | append_singleton l x ih =>
    simp only [List.mem_append, List.mem_singleton] at hl
    rw [← insertBy_buckets hks l (hl x (.inr rfl)), ← ih fun y hy => hl y (.inl hy), sortOn, List.foldl_append]
    rfl

theorem sortOn_eq_nil {l : List α} : sortOn key l = [] ↔ l = [] := by
  refine ⟨fun h => ?_, fun h => by rw [h]; rfl⟩
  cases l using List.reverseRecOn with
  | nil => rfl
  | append_singleton l x =>
    rw [sortOn, List.foldl_append, List.foldl_cons, List.foldl_nil] at h
    revert h
    cases List.foldl (fun acc x => insertBy (fun y z => decide (key y ≤ key z)) x acc) [] l with
    | nil => exact fun h => absurd h (List.cons_ne_nil _ _)
    | cons y m =>
      rw [insertBy]
      split
      · exact fun h => absurd h (List.cons_ne_nil _ _)
      · exact fun h => absurd h (List.cons_ne_nil _ _)

end

/-- A source inside a pitch: a remote tile has coordinates below 64. -/
def SemSrc.Near (q : SemSrc) : Prop := ∀ y x, q = .remote y x → y < 64 ∧ x < 64

theorem SemSrc.Near.rank_lt {q : SemSrc} (h : q.Near) : q.rank < 8192 := by
  cases q with
  | c => decide
  | x => decide
  | copy => decide
  | remote y x =>
    obtain ⟨hy, hx⟩ := h y x rfl
    simp only [SemSrc.rank]
    omega

/-- The source of a rank. -/
def SemSrc.ofRank (r : Nat) : SemSrc :=
  if r = 0 then .c else if r = 1 then .x else if r = 2 + 64 * 64 then .copy else .remote ((r - 2) / 64) ((r - 2) % 64)

theorem SemSrc.Near.ofRank_rank {q : SemSrc} (h : q.Near) : SemSrc.ofRank q.rank = q := by
  cases q with
  | c => rfl
  | x => rfl
  | copy => rfl
  | remote y x =>
    obtain ⟨hy, hx⟩ := h y x rfl
    have h0 : ¬ 2 + y * 64 + x = 0 := by omega
    have h1 : ¬ 2 + y * 64 + x = 1 := by omega
    have hc : ¬ 2 + y * 64 + x = 2 + 64 * 64 := by omega
    have hy' : (2 + y * 64 + x - 2) / 64 = y := by omega
    have hx' : (2 + y * 64 + x - 2) % 64 = x := by omega
    rw [SemSrc.rank, SemSrc.ofRank, if_neg h0, if_neg h1, if_neg hc, hy', hx']

theorem SemSrc.Near.rank_inj {q q' : SemSrc} (h : q.Near) (h' : q'.Near) (hr : q.rank = q'.rank) : q = q' := by
  rw [← h.ofRank_rank, hr, h'.ofRank_rank]

/-- The ranks of sources in a pitch, in the order of R108. -/
def semRanks : List Nat :=
  [0] ++ [1] ++ ((List.range 64).flatMap fun y => (List.range 64).map fun x => 2 + y * 64 + x) ++ [2 + 64 * 64]

/-- The keys of operations in steps `ns`. -/
def semKeys (ns : List Nat) : List Nat := ns.flatMap fun n => semRanks.map fun r => n * 8192 + r

theorem mem_semRanks {q : SemSrc} (h : q.Near) : q.rank ∈ semRanks := by
  simp only [semRanks, List.mem_append, List.mem_singleton, List.mem_flatMap, List.mem_range, List.mem_map]
  cases q with
  | c => exact .inl (.inl (.inl rfl))
  | x => exact .inl (.inl (.inr rfl))
  | copy => exact .inr rfl
  | remote y x => exact .inl (.inr ⟨y, (h y x rfl).1, x, (h y x rfl).2, rfl⟩)

theorem semRanks_lt {r : Nat} (h : r ∈ semRanks) : r < 8192 := by
  simp only [semRanks, List.mem_append, List.mem_singleton, List.mem_flatMap, List.mem_range, List.mem_map] at h
  rcases h with ((rfl | rfl) | ⟨y, hy, x, hx, rfl⟩) | rfl <;> omega

theorem semRanks_pairwise : semRanks.Pairwise (· < ·) := by
  have hrow (y : Nat) : ((List.range 64).map fun x => 2 + y * 64 + x).Pairwise (· < ·) :=
    List.pairwise_map.mpr (List.pairwise_lt_range.imp fun h => by omega)
  have hrows : ((List.range 64).flatMap fun y => (List.range 64).map fun x => 2 + y * 64 + x).Pairwise (· < ·) := by
    refine List.pairwise_flatMap.mpr ⟨fun y _ => hrow y, List.pairwise_lt_range.imp fun h => ?_⟩
    simp only [List.mem_map, List.mem_range]
    omega
  simp only [semRanks, List.pairwise_append, List.mem_append, List.mem_singleton, List.mem_flatMap, List.mem_range,
    List.mem_map, List.pairwise_singleton, hrows, true_and]
  refine ⟨⟨by omega, ?_⟩, ?_⟩
  · rintro _ (rfl | rfl) _ ⟨y, hy, x, hx, rfl⟩ <;> omega
  · rintro _ ((rfl | rfl) | ⟨y, hy, x, hx, rfl⟩) _ rfl <;> omega

theorem semKeys_append (ns ns' : List Nat) : semKeys (ns ++ ns') = semKeys ns ++ semKeys ns' := List.flatMap_append

theorem mem_semKeys {ns : List Nat} {o : SemOp} (h : o.src.Near) (hn : o.op.step ∈ ns) : o.key ∈ semKeys ns :=
  List.mem_flatMap.mpr ⟨o.op.step, hn, List.mem_map.mpr ⟨o.src.rank, mem_semRanks h, rfl⟩⟩

theorem step_mem_of_key_mem {ns : List Nat} {o : SemOp} (h : o.src.Near) (hk : o.key ∈ semKeys ns) : o.op.step ∈ ns := by
  obtain ⟨n, hn, hm⟩ := List.mem_flatMap.mp hk
  obtain ⟨r, hr, heq⟩ := List.mem_map.mp hm
  have hlt := h.rank_lt
  have hr := semRanks_lt hr
  rw [SemOp.key] at heq
  rwa [show o.op.step = n by omega]

theorem semKeys_pairwise {ns : List Nat} (h : ns.Pairwise (· < ·)) : (semKeys ns).Pairwise (· < ·) := by
  refine List.pairwise_flatMap.mpr ⟨fun n _ => List.pairwise_map.mpr (semRanks_pairwise.imp fun h => by omega), h.imp fun h => ?_⟩
  simp only [List.mem_map]
  rintro _ ⟨r, hr, rfl⟩ _ ⟨r', hr', rfl⟩
  have := semRanks_lt hr
  omega

theorem step_mem (o : SemDo) : o.step ∈ [0, 1, 2, 3, 5] := by
  cases o <;> simp [SemDo.step]

/-- The operations of a cycle before the completion check, and those after it (R108). -/
theorem sortOn_key_filter {l : List SemOp} (h : ∀ o ∈ l, o.src.Near) :
    (sortOn SemOp.key l).filter (fun o => decide (o.op.step < 5)) = buckets SemOp.key (semKeys [0, 1, 2, 3]) l ∧
      (sortOn SemOp.key l).filter (fun o => o.op.step == 5) = buckets SemOp.key (semKeys [5]) l := by
  have hsort : sortOn SemOp.key l = buckets SemOp.key (semKeys [0, 1, 2, 3]) l ++ buckets SemOp.key (semKeys [5]) l := by
    rw [← buckets_append, ← semKeys_append]
    exact sortOn_eq_buckets (semKeys_pairwise (by decide)) fun o ho => mem_semKeys (h o ho) (step_mem o.op)
  have hstep {ns : List Nat} : ∀ o ∈ buckets SemOp.key (semKeys ns) l, o.op.step ∈ ns := fun o ho =>
    step_mem_of_key_mem (h o (mem_buckets.mp ho).1) (mem_buckets.mp ho).2
  have hearly : ∀ o ∈ buckets SemOp.key (semKeys [0, 1, 2, 3]) l, o.op.step < 5 := fun o ho => by
    have := hstep o ho
    simp only [List.mem_cons, List.not_mem_nil, or_false] at this
    omega
  have hlate : ∀ o ∈ buckets SemOp.key (semKeys [5]) l, o.op.step = 5 := fun o ho => List.mem_singleton.mp (hstep o ho)
  rw [hsort, List.filter_append, List.filter_append, List.filter_eq_self.mpr fun o ho => decide_eq_true (hearly o ho),
    List.filter_eq_nil_iff.mpr fun o ho => by simp [hlate o ho], List.filter_eq_self.mpr fun o ho => beq_iff_eq.mpr (hlate o ho),
    List.filter_eq_nil_iff.mpr fun o ho => by simpa using (hearly o ho).ne]
  exact ⟨List.append_nil _, List.nil_append _⟩

/-- The operations of one step, of C, of X, of other tiles and of copies (R108). -/
def semTurns (l : List SemOp) (n : Nat) : List SemOp :=
  let by' (src : SemSrc) : List SemOp := l.filter fun o => o.op.step == n && o.src == src
  by' .c ++ by' .x ++ ((List.range 64).flatMap fun y => (List.range 64).flatMap fun x => by' (.remote y x)) ++ by' .copy

theorem filter_key {l : List SemOp} (h : ∀ o ∈ l, o.src.Near) {src : SemSrc} (hsrc : src.Near) (n : Nat) :
    (l.filter fun o => o.key == n * 8192 + src.rank) = l.filter fun o => o.op.step == n && o.src == src := by
  refine List.filter_congr fun o ho => ?_
  have hlt := (h o ho).rank_lt
  have hlt' := hsrc.rank_lt
  have hiff : o.key = n * 8192 + src.rank ↔ o.op.step = n ∧ o.src = src := by
    refine ⟨fun heq => ?_, fun ⟨hn, hs⟩ => by rw [SemOp.key, hn, hs]⟩
    rw [SemOp.key] at heq
    exact ⟨by omega, (h o ho).rank_inj hsrc (by omega)⟩
  rw [Bool.eq_iff_iff]
  simpa using hiff

theorem buckets_semKeys {l : List SemOp} (h : ∀ o ∈ l, o.src.Near) (n : Nat) :
    buckets SemOp.key (semKeys [n]) l = semTurns l n := by
  have hc : (l.filter fun o => o.key == n * 8192 + 0) = _ := filter_key h (src := .c) (by simp [SemSrc.Near]) n
  have hx : (l.filter fun o => o.key == n * 8192 + 1) = _ := filter_key h (src := .x) (by simp [SemSrc.Near]) n
  have hcopy : (l.filter fun o => o.key == n * 8192 + (2 + 64 * 64)) = _ :=
    filter_key h (src := .copy) (by simp [SemSrc.Near]) n
  have hremote (y x : Nat) (hy : y < 64) (hx : x < 64) : (l.filter fun o => o.key == n * 8192 + (2 + y * 64 + x)) = _ :=
    filter_key h (src := .remote y x) (by rintro _ _ ⟨rfl, rfl⟩; exact ⟨hy, hx⟩) n
  have hrows : ((List.range 64).flatMap fun y => (List.range 64).flatMap fun x =>
        l.filter fun o => o.key == n * 8192 + (2 + y * 64 + x)) =
      (List.range 64).flatMap fun y => (List.range 64).flatMap fun x =>
        l.filter fun o => o.op.step == n && o.src == .remote y x :=
    List.flatMap_congr fun y hy => List.flatMap_congr fun x hx => hremote y x (List.mem_range.mp hy) (List.mem_range.mp hx)
  dsimp only [semTurns]
  rw [← hc, ← hx, ← hcopy, ← hrows]
  simp only [buckets, semKeys, semRanks, List.flatMap_cons, List.flatMap_nil, List.append_nil, List.map_append, List.map_cons,
    List.map_nil, List.flatMap_append, List.map_flatMap, List.map_map, List.flatMap_assoc, List.flatMap_map,
    List.append_assoc, Function.comp]

theorem resolveOps_eq {l : List SemOp} (h : ∀ o ∈ l, o.src.Near) (z : SyncState) :
    let a := applyOps z (semTurns l 0 ++ semTurns l 1 ++ semTurns l 2 ++ semTurns l 3)
    let b := applyOps { a.1 with sem := a.1.sem.map Sem.complete } (semTurns l 5)
    resolveOps z l = (b.1, a.2 ++ b.2) := by
  obtain ⟨hearly, hlate⟩ := sortOn_key_filter h
  have hsteps : semKeys [0, 1, 2, 3] = semKeys [0] ++ semKeys [1] ++ semKeys [2] ++ semKeys [3] := by
    simp only [← semKeys_append, List.cons_append, List.nil_append]
  simp only [resolveOps, hearly, hlate, hsteps, buckets_append, buckets_semKeys h]

/-- What a delivery and the ceiling check leave alone of a tile's semaphore cycle. -/
structure Tile.Delivered (t u : Tile) : Prop where
  sem : u.sem = t.sem
  ring : u.ring = t.ring
  tl : u.tl = t.tl
  ops : t.semOps = [] → u.semOps = []
  haltC : (t.engOf .C).halted = true → (u.engOf .C).halted = true

theorem Tile.Delivered.refl (t : Tile) : t.Delivered t := ⟨rfl, rfl, rfl, id, id⟩

theorem Tile.Delivered.trans {t u v : Tile} (h : t.Delivered u) (h' : u.Delivered v) : t.Delivered v :=
  ⟨h'.sem.trans h.sem, h'.ring.trans h.ring, h'.tl.trans h.tl, h'.ops ∘ h.ops, h'.haltC ∘ h.haltC⟩

theorem Tile.suppress_delivered (t : Tile) (o : Own) (whole : Bool) (tau : Nat) : t.Delivered (t.suppress o whole tau) :=
  ⟨rfl, rfl, rfl, fun h => by simp [Tile.suppress, h], id⟩

theorem Tile.engOf_setEng (t : Tile) (e e' : Engine) (s : EngState) :
    (t.setEng e s).engOf e' = if e' = e then s else t.engOf e' := by
  have hidx : e'.idx = e.idx ↔ e' = e := by cases e <;> cases e' <;> simp [Engine.idx]
  have hlt : e.idx < 5 := by cases e <;> decide
  simp only [Tile.engOf, Tile.setEng, at'_setIfInBounds _ t.eng s hlt, hidx]

theorem Tile.halt_delivered (t : Tile) (e : Engine) : t.Delivered (t.setEng e { t.engOf e with halted := true }) :=
  ⟨rfl, rfl, rfl, id, fun h => by
    rw [Tile.engOf_setEng]
    split
    · rfl
    · exact h⟩

theorem Tile.record_delivered (t : Tile) (r : TrapRec) : t.Delivered (t.record r) :=
  ⟨t.record_sem r, t.record_ring r, t.record_tl r, (t.record_semOps r).trans, fun h => by
    rwa [Tile.engOf, Tile.record_eng]⟩

theorem Tile.trapWith_delivered (t : Tile) (c : Ctx) (code info data : Nat) : t.Delivered (t.trapWith c code info data) :=
  ((t.suppress_delivered (Tile.own c) true 0).trans (Tile.record_delivered _ _)).trans (Tile.halt_delivered _ c.eng)

theorem dropLooks_delivered (t : Tile) (op : SemDo) : t.Delivered (dropLooks t op) := ⟨rfl, rfl, rfl, id, id⟩

/-- A further effect in flight. -/
theorem Tile.pend_delivered (t : Tile) (l : List Pend) : t.Delivered { t with pend := l } := ⟨rfl, rfl, rfl, id, id⟩

/-- A further signal for the pitch. -/
theorem Tile.out_delivered (t : Tile) (l : List Sig) : t.Delivered { t with out := l } := ⟨rfl, rfl, rfl, id, id⟩

theorem deliverOut_delivered (env : Env) (t : Tile) (r : SemOp × SemOut) : t.Delivered (deliverOut env t r) := by
  obtain ⟨⟨src, gid, iid, op, rd, msg⟩, out⟩ := r
  cases out with
  | done v =>
    refine (dropLooks_delivered t op).trans ?_
    cases src with
    | c =>
      dsimp only [deliverOut]
      split
      · exact Tile.pend_delivered _ _
      · exact Tile.Delivered.refl _
    | x =>
      dsimp only [deliverOut]
      split
      · exact Tile.pend_delivered _ _
      · exact Tile.Delivered.refl _
    | remote y x => exact Tile.out_delivered _ _
    | copy => exact Tile.Delivered.refl _
  | wait =>
    cases src with
    | c => exact Tile.Delivered.refl t
    | x => exact t.suppress_delivered _ true 0
    | remote y x => exact Tile.Delivered.refl t
    | copy => exact Tile.Delivered.refl t
  | trap code data =>
    cases src with
    | c => exact Tile.Delivered.refl t
    | x => exact t.trapWith_delivered _ _ _ _
    | remote y x => exact t.out_delivered _
    | copy => exact t.out_delivered _

theorem foldl_deliverOut_delivered (env : Env) (l : List (SemOp × SemOut)) (t : Tile) :
    t.Delivered (l.foldl (deliverOut env) t) := by
  induction l generalizing t with
  | nil => exact Tile.Delivered.refl t
  | cons r l ih => exact (deliverOut_delivered env t r).trans (ih _)

/-- X has taken SEM_CEILING for a semaphore that arrivals have carried above its ceiling (R107). -/
def Tile.Ceiled (t : Tile) (n : Nat) : Prop :=
  (t.engOf .X).halted = true ∧ ∃ q ∈ t.traps, q.tau = t.tl ∧ q.eng = .X ∧ q.code = trapCeiling ∧ q.data = n

/-- What the ceiling check does for one semaphore. -/
def ceilingStep (q : Tile) (k : Nat) : Tile :=
  let s := at' {} q.sem k
  if s.arrive && decide (s.ceiling < s.count) then
    let pc := (q.engOf .X).pc
    (q.record { tau := q.tl, eng := .X, code := trapCeiling, info := pc, data := s.count, off := pc, word := pc }).setEng
      .X { q.engOf .X with halted := true }
  else q

theorem ceilingCheck_eq (t : Tile) : ceilingCheck t = (List.range 64).foldl ceilingStep t := rfl

theorem ceilingStep_delivered (q : Tile) (k : Nat) : q.Delivered (ceilingStep q k) := by
  unfold ceilingStep
  dsimp only
  split
  · exact (q.record_delivered _).trans (Tile.halt_delivered _ .X)
  · exact Tile.Delivered.refl q

theorem ceilingStep_ceiled {q : Tile} {n : Nat} (h : q.Ceiled n) (k : Nat) : (ceilingStep q k).Ceiled n := by
  unfold ceilingStep
  dsimp only
  split
  · obtain ⟨-, r, hr, hq⟩ := h
    refine ⟨?_, r, List.mem_append_left _ hr, hq⟩
    rw [Tile.engOf_setEng, if_pos rfl]
  · exact h

theorem ceilingStep_self {q : Tile} {k : Nat} (ha : (at' {} q.sem k).arrive = true)
    (hc : (at' {} q.sem k).ceiling < (at' {} q.sem k).count) : (ceilingStep q k).Ceiled (at' {} q.sem k).count := by
  rw [ceilingStep, if_pos (by simp only [ha, hc, decide_true, Bool.and_self])]
  refine ⟨?_, _, List.mem_append_right _ (List.mem_singleton.mpr rfl), rfl, rfl, rfl, rfl⟩
  rw [Tile.engOf_setEng, if_pos rfl]

/-- The ceiling check changes no semaphore, and X has trapped for each that is above its ceiling. -/
theorem ceilingCheck_spec (t : Tile) (n : Nat) :
    t.Delivered ((List.range n).foldl ceilingStep t) ∧
      ∀ k < n, (at' {} t.sem k).arrive = true → (at' {} t.sem k).ceiling < (at' {} t.sem k).count →
        ((List.range n).foldl ceilingStep t).Ceiled (at' {} t.sem k).count := by
  induction n with
  | zero => exact ⟨Tile.Delivered.refl t, fun k hk => absurd hk (Nat.not_lt_zero k)⟩
  | succ n ih =>
    obtain ⟨hkeep, hceiled⟩ := ih
    rw [List.range_succ, List.foldl_append, List.foldl_cons, List.foldl_nil]
    refine ⟨hkeep.trans (ceilingStep_delivered _ n), fun k hk ha hc => ?_⟩
    rcases Nat.lt_succ_iff_lt_or_eq.mp hk with hlt | rfl
    · exact ceilingStep_ceiled (hceiled k hlt ha hc) n
    · rw [← hkeep.sem] at ha hc ⊢
      exact ceilingStep_self ha hc

theorem firstFail_eq_none_iff (l : List (SemOp × SemOut)) :
    firstFail l = none ↔ ∀ p ∈ l, ∃ v, p.2 = .done v := by
  rw [firstFail, List.head?_eq_none_iff, sortOn_eq_nil, List.filterMap_eq_nil_iff]
  refine forall₂_congr fun p _ => ?_
  cases p.2 with
  | done v => simp
  | wait => simp
  | trap c d => simp

/-- The answers of C's operations among those of a cycle. -/
def answersOfC (l : List (SemOp × SemOut)) : List (SemOp × SemOut) := l.filter fun p => p.1.src == .c

theorem answersOfC_firstFail (l : List (SemOp × SemOut)) : firstFail (answersOfC l) = none ↔
    ¬ ∃ q ∈ l, q.1.src = .c ∧ (q.2 = .wait ∨ ∃ c d, q.2 = .trap c d) := by
  rw [firstFail_eq_none_iff]
  simp only [answersOfC, List.mem_filter, beq_iff_eq, not_exists, not_and]
  refine ⟨fun h q hq hc hbad => ?_, fun h q ⟨hq, hc⟩ => ?_⟩
  · obtain ⟨v, hv⟩ := h q ⟨hq, hc⟩
    rcases hbad with hw | ⟨c, d, ht⟩
    · exact SemOut.noConfusion (hv.symm.trans hw)
    · exact SemOut.noConfusion (hv.symm.trans ht)
  · cases hv : q.2 with
    | done v => exact ⟨v, rfl⟩
    | wait => exact absurd (.inl hv) (h q hq hc)
    | trap c d => exact absurd (.inr ⟨c, d, hv⟩) (h q hq hc)

/-- A cycle in which no operation of C fails: every operation applies, its answers are delivered, the ceilings checked. -/
theorem semCycle_of_none {env : Env} {t : Tile} (h : firstFail (answersOfC (resolveOps ⟨t.sem, t.ring⟩ t.semOps).2) = none) :
    let use := resolveOps ⟨t.sem, t.ring⟩ t.semOps
    semCycle env t = ceilingCheck (use.2.foldl (deliverOut env) { t with sem := use.1.sem, ring := use.1.ring, semOps := [] }) := by
  rw [answersOfC] at h
  simp only [semCycle, h]

theorem Tile.trapWith_tl (t : Tile) (c : Ctx) (code info data : Nat) : (t.trapWith c code info data).tl = t.tl :=
  (t.trapWith_delivered c code info data).tl

theorem Tile.trapWith_halted (t : Tile) (c : Ctx) (code info data : Nat) :
    ((t.trapWith c code info data).engOf c.eng).halted = true := by
  unfold Tile.trapWith
  dsimp only
  rw [Tile.engOf_setEng, if_pos rfl]

/-- A cycle in which one does: C's group traps, and the others apply as if it were absent. -/
theorem semCycle_of_some {env : Env} {t : Tile} {b : SemOp × Nat × Nat}
    (h : firstFail (answersOfC (resolveOps ⟨t.sem, t.ring⟩ t.semOps).2) = some b) :
    let use := resolveOps ⟨t.sem, t.ring⟩ (t.semOps.filter fun o => o.src != .c)
    ∃ u : Tile, u.tl = t.tl ∧ (u.engOf .C).halted = true ∧
      semCycle env t = ceilingCheck (use.2.foldl (deliverOut env) { u with sem := use.1.sem, ring := use.1.ring, semOps := [] }) := by
  obtain ⟨o, code, d⟩ := b
  rw [answersOfC] at h
  refine ⟨t.trapWith { eng := .C, gid := o.gid, gpc := (t.engOf .C).pc, pc := (t.engOf .C).pc } code (t.engOf .C).pc d,
    t.trapWith_tl _ _ _ _, t.trapWith_halted _ _ _ _, ?_⟩
  simp only [semCycle, h]
  rfl

/-- What the end of a cycle leaves, from the tile in which the operations have applied. -/
theorem ceilingCheck_foldl_spec (env : Env) (l : List (SemOp × SemOut)) (t : Tile) :
    let u := ceilingCheck (l.foldl (deliverOut env) t)
    t.Delivered u ∧ ∀ k < 64, (at' {} u.sem k).arrive = true → (at' {} u.sem k).ceiling < (at' {} u.sem k).count →
      u.Ceiled (at' {} u.sem k).count := by
  obtain ⟨hkeep, hceiled⟩ := ceilingCheck_spec (l.foldl (deliverOut env) t) 64
  rw [← ceilingCheck_eq] at hkeep hceiled
  refine ⟨(foldl_deliverOut_delivered env l t).trans hkeep, fun k hk ha hc => ?_⟩
  rw [hkeep.sem] at ha hc ⊢
  exact hceiled k hk ha hc

theorem saysSemaphoreCycle_holds : saysSemaphoreCycle := by
  unfold saysSemaphoreCycle
  intro stepOf turns
  have hstep (o : SemDo) : stepOf o = o.step := by cases o <;> rfl
  have hturns (l : List SemOp) (n : Nat) : turns l n = semTurns l n := by
    simp only [turns, semTurns, hstep]
  refine ⟨fun z l hl => ?_, ?_⟩
  · simp only [hturns]
    exact resolveOps_eq hl z
  · intro env t whole fails rest t'
    have hfails : firstFail (answersOfC whole.2) = none ↔ ¬ fails := answersOfC_firstFail whole.2
    have hend {u : Tile} {l : List (SemOp × SemOut)} (hrun : t' = ceilingCheck (l.foldl (deliverOut env) u))
        (htl : u.tl = t.tl) (hops : u.semOps = []) : u.Delivered t' ∧ t'.semOps = [] ∧
          ∀ k < 64, (at' {} t'.sem k).arrive = true → (at' {} t'.sem k).ceiling < (at' {} t'.sem k).count →
            (t'.engOf .X).halted = true ∧ ∃ q ∈ t'.traps, q.tau = t.tl ∧ q.eng = .X ∧ q.code = trapCeiling ∧
              q.data = (at' {} t'.sem k).count := by
      obtain ⟨hkeep, hceiled⟩ := ceilingCheck_foldl_spec env l u
      rw [← hrun] at hkeep hceiled
      refine ⟨hkeep, hkeep.ops hops, fun k hk ha hc => ?_⟩
      rw [← htl, ← hkeep.tl]
      exact hceiled k hk ha hc
    cases hbad : firstFail (answersOfC whole.2) with
    | none =>
      obtain ⟨hkeep, hops, hceiled⟩ := hend (semCycle_of_none hbad) rfl rfl
      exact ⟨fun _ => ⟨hkeep.sem, hkeep.ring⟩, fun hf => absurd hf (hfails.mp hbad), hops, hceiled⟩
    | some b =>
      have hf : fails := by
        by_contra hno
        rw [hfails.mpr hno] at hbad
        exact absurd hbad (Option.some_ne_none b).symm
      obtain ⟨u, htl, hhalt, hrun⟩ := semCycle_of_some hbad
      obtain ⟨hkeep, hops, hceiled⟩ := hend hrun htl rfl
      exact ⟨fun hno => absurd hf hno, fun _ => ⟨hkeep.sem, hkeep.ring, hkeep.haltC hhalt⟩, hops, hceiled⟩

/-- Settles O40: one semaphore, one ring, and the order of a cycle by its stable sort. -/
theorem semaphoreOps : Obligations.SemaphoreOps := ⟨saysSemaphore_holds, saysRing_holds, saysSemaphoreCycle_holds⟩

end Sys2Proof.Machine

/-! LDT, STT, LDSC, TZRO and TCPY at issue (R257, R269 to R273). -/

namespace Sys2Proof.Machine

/-- What an instruction stages first moves no stream. -/
theorem advance_not_mem_tail (p : Pre) (c : Ctx) (k : Nat) : Eff.advance k ∉ p.tail c := by
  intro h
  simp only [Pre.tail, Pre.moves, List.mem_append] at h
  rcases h with (((h | h) | h) | h) | h <;> split at h <;> simp at h

@[simp] theorem Tile.begun_streamAhead (t : Tile) (p : Pre) (c : Ctx) (k : Nat) :
    (t.begun p c).streamAhead k = t.streamAhead k := by
  have hnone : (c.ends t (p.tail c)).filter (fun q => q.eff == .advance k && decide (q.iss < t.tl)) = [] := by
    simp only [Ctx.ends, List.filter_eq_nil_iff, List.mem_map]
    rintro _ ⟨e, he, rfl⟩
    have hne : e ≠ .advance k := fun heq => advance_not_mem_tail p c k (heq ▸ he)
    simp [hne]
  have hpend : (t.begun p c).pend.filter (fun q => q.eff == .advance k && decide (q.iss < t.tl)) =
      t.pend.filter fun q => q.eff == .advance k && decide (q.iss < t.tl) := by
    rw [Tile.begun, List.filter_append, hnone, List.append_nil]
  rw [Tile.streamAhead, Tile.streamAhead, show (t.begun p c).tl = t.tl from rfl, hpend]
  rfl

/-- A tile after an issue of the transfer unit: the charge, the unit's occupancy and what is staged (R257, R260). -/
def Tile.xferred (t : Tile) (p : Pre) (c : Ctx) (occ : Nat) (l : List Pend) : Tile :=
  { t.charge c.env 0 1 with
    eng := t.eng.setIfInBounds 3 { t.engOf .M with busyB := t.tl + occ }
    pend := t.pend ++ c.ends t (p.tail c) ++ l }

theorem xferOccupy_begun (t : Tile) (p : Pre) (c : Ctx) (occ : Nat) : xferOccupy (t.begun p c) c occ = t.xferred p c occ [] := by
  rw [Tile.xferred, List.append_nil]
  rfl

theorem Tile.xferred_stage (t : Tile) (p : Pre) (c : Ctx) (occ : Nat) (l : List Pend) (k ph : Nat) (e : Eff) :
    (t.xferred p c occ l).stage c k ph e = t.xferred p c occ (l ++ c.one k ph e) := by
  rw [Tile.xferred, Tile.xferred, ← List.append_assoc]
  rfl

section
variable {t : Tile} {regs streams : List Nat}

theorem xferTrap_of_busy (h : t.tl < (t.engOf .M).busyB) : xferTrap t regs streams = some trapMiss := by
  rw [xferTrap, if_pos (decide_eq_true h)]

theorem xferTrap_of_stale (h : (t.engOf .M).busyB ≤ t.tl) (ht : t.staleTrap = true)
    (hs : (∃ r ∈ regs, t.descCur r = false) ∨ ∃ s ∈ streams, t.streamStale s = true) :
    xferTrap t regs streams = some trapStale := by
  rw [xferTrap, if_neg (by simpa using h), if_pos]
  simpa [ht] using hs

theorem xferTrap_eq_none (h : (t.engOf .M).busyB ≤ t.tl)
    (hs : t.staleTrap = false ∨ (∀ r ∈ regs, t.descCur r = true) ∧ ∀ s ∈ streams, t.streamStale s = false) :
    xferTrap t regs streams = none := by
  rw [xferTrap, if_neg (by simpa using h), if_neg]
  rcases hs with hs | ⟨hr, hs⟩
  · simp [hs]
  · simp only [Bool.and_eq_true, Bool.or_eq_true, List.any_eq_true, Bool.not_eq_true', not_and, not_or]
    exact fun _ => ⟨fun ⟨r, hmem, hno⟩ => by simp [hr r hmem] at hno, fun ⟨s, hmem, hno⟩ => by simp [hs s hmem] at hno⟩

end

section
variable {s : State} {pit : Pitch} {t : Tile} (hat : s.At pit t) (p : Pre)
include hat

theorem exec_ldt (r str : Nat) : exec (.ldt p r str) s =
    .next (s.become pit (ldtIssue (.ldt p r str) r str (t.begun p (s.ctxAt pit 1)) (s.ctxAt pit 1))) :=
  exec_eq_of_issue hat (body := fun c q => ldtIssue (.ldt p r str) r str q c) rfl fun _ => rfl

theorem exec_stt (r str rnd : Nat) (sat : Bool) : exec (.stt p r str sat rnd) s =
    .next (s.become pit (sttIssue (.stt p r str sat rnd) r str rnd (t.begun p (s.ctxAt pit 1)) (s.ctxAt pit 1))) :=
  exec_eq_of_issue hat (body := fun c q => sttIssue (.stt p r str sat rnd) r str rnd q c) rfl fun _ => rfl

theorem exec_ldsc (r str : Nat) : exec (.ldsc p r str) s =
    .next (s.become pit (ldscIssue (.ldsc p r str) r str (t.begun p (s.ctxAt pit 1)) (s.ctxAt pit 1))) :=
  exec_eq_of_issue hat (body := fun c q => ldscIssue (.ldsc p r str) r str q c) rfl fun _ => rfl

theorem exec_tzro (r : Nat) : exec (.tzro p r) s =
    .next (s.become pit (tzroIssue r (t.begun p (s.ctxAt pit 1)) (s.ctxAt pit 1))) :=
  exec_eq_of_issue hat (body := fun c q => tzroIssue r q c) rfl fun _ => rfl

theorem exec_tcpy (r k : Nat) : exec (.tcpy p r k) s =
    .next (s.become pit (tcpyIssue (.tcpy p r k) r k (t.begun p (s.ctxAt pit 1)) (s.ctxAt pit 1))) :=
  exec_eq_of_issue hat (body := fun c q => tcpyIssue (.tcpy p r k) r k q c) rfl fun _ => rfl

end

section
variable {t : Tile} {c : Ctx} {i : Instr} {r k str rnd code : Nat}

theorem ldtIssue_of_trap (h : xferTrap t [r] [str] = some code) : ldtIssue i r str t c = t.trap c code := by
  simp only [ldtIssue, h]

theorem sttIssue_of_trap (h : xferTrap t [r] [str] = some code) : sttIssue i r str rnd t c = t.trap c code := by
  simp only [sttIssue, h]

theorem ldscIssue_of_trap (h : xferTrap t [r] [str] = some code) : ldscIssue i r str t c = t.trap c code := by
  simp only [ldscIssue, h]

theorem tzroIssue_of_trap (h : xferTrap t [] [] = some code) : tzroIssue r t c = t.trap c code := by
  simp only [tzroIssue, h]

theorem tcpyIssue_of_trap (h : xferTrap t [k] [] = some code) : tcpyIssue i r k t c = t.trap c code := by
  simp only [tcpyIssue, h]

theorem ldtIssue_unconfigured (h : xferTrap t [r] [str] = none) (hr : t.configured r = false) :
    ldtIssue i r str t c = xferOccupy t c 1 := by
  simp only [ldtIssue, h, hr, Bool.not_false, if_true]

theorem ldscIssue_unconfigured (h : xferTrap t [r] [str] = none) (hr : t.configured r = false) :
    ldscIssue i r str t c = xferOccupy t c 1 := by
  simp only [ldscIssue, h, hr, Bool.not_false, if_true]

theorem ldscIssue_unscaled (h : xferTrap t [r] [str] = none) (hr : t.configured r = true) (hd : (t.descOf r).scaleOn = false) :
    ldscIssue i r str t c = t.trap c trapIllegal := by
  simp only [ldscIssue, h, hr, hd, Bool.not_true, Bool.not_false, Bool.false_eq_true, if_false, if_true]

theorem sttIssue_unconfigured {f : Fmt} (h : xferTrap t [r] [str] = none) (hf : Fmt.ofCode (t.streamAhead str).fmt = some f)
    (he8 : f ≠ .e8) (hts8 : f ≠ .ts8) (hr : t.configured r = false) : sttIssue i r str rnd t c = xferOccupy t c 1 := by
  have hformat : (f == .e8 || (f == .ts8 && rnd != 0)) = false := by simp [he8, hts8]
  simp only [sttIssue, h, hf, Option.getD_some, hformat, hr, Bool.false_eq_true, if_false, Bool.not_false, if_true]

theorem tzroIssue_begun (h : xferTrap t [] [] = none) (p : Pre) :
    tzroIssue r (t.begun p c) c = t.xferred p c 1 (c.one t.tl 2 (.epoch r)) := by
  replace h : xferTrap (t.begun p c) [] [] = none := h
  simp only [tzroIssue, h, xferOccupy_begun, Tile.xferred_stage, List.nil_append]
  rfl

/-- TCPY with the unit free and a descriptor that it can read (R273). -/
theorem tcpyIssue_begun (h : xferTrap t [k] [] = none) (p : Pre) :
    let rows := if t.configured k then (t.descOf k).rows else 0
    tcpyIssue i r k (t.begun p c) c = t.xferred p c (Nat.max 1 rows) (if r = k then [] else
      c.one t.tl 2 (.tdesc r (if rows = 0 then {} else t.descOf k)) ++ c.one t.tl 2 (.epoch r) ++
        if rows = 0 then [] else c.one t.tl 1 (.job i { d := t.descOf k } 0)) := by
  replace h : xferTrap (t.begun p c) [k] [] = none := h
  have hrows : (if (t.begun p c).configured k then ((t.begun p c).descOf k).rows else 0) =
      if t.configured k then (t.descOf k).rows else 0 := rfl
  simp only [tcpyIssue, h, hrows, xferOccupy_begun, Tile.xferred_stage, beq_iff_eq, List.nil_append]
  by_cases hrk : r = k
  · rw [if_pos hrk, if_pos hrk]
  · rw [if_neg hrk, if_neg hrk]
    generalize (if t.configured k then (t.descOf k).rows else 0) = rows
    by_cases hr : rows = 0 <;> simp only [hr, if_true, if_false, List.append_nil] <;> rfl

end

/-- An effect that a static engine stages for the end of its issue cycle. -/
theorem Ctx.one_eq_ends_of_ne {c : Ctx} (hc : c.eng ≠ .X) (t : Tile) (e : Eff) : c.one t.tl 2 e = c.ends t [e] := by
  simp [Ctx.one, Ctx.ends, Tile.now, hc]

/-- Settles O34: the traps by `xferTrap`, then each instruction's issue. -/
theorem transferIssue : Obligations.TransferIssue := by
  unfold Obligations.TransferIssue
  intro p r k str rnd sat s pit t hat hM c e d dk rows trap out
  have hc : c.eng ≠ .X := by rw [show c.eng = .M from hM]; decide
  have hout (occ : Nat) (l : List Pend) : .next (s.become pit (t.xferred p c occ l)) = out occ l := rfl
  have hnone (hfree : e.busyB ≤ t.tl)
      (h : t.staleTrap = false ∨ (t.descCur r = true ∧ t.descCur k = true ∧ t.streamStale str = false)) :
      xferTrap (t.begun p c) [r] [str] = none := xferTrap_eq_none (t := t) hfree (by simpa using h.imp_right fun h => ⟨h.1, h.2.2⟩)
  have hnoneK (hfree : e.busyB ≤ t.tl)
      (h : t.staleTrap = false ∨ (t.descCur r = true ∧ t.descCur k = true ∧ t.streamStale str = false)) :
      xferTrap t [k] [] = none := xferTrap_eq_none hfree (by simpa using h.imp_right fun h => h.2.1)
  refine ⟨fun hbusy i hi => ?_, fun hfree htrap => ⟨fun hst i hi => ?_, fun hst => ?_⟩, fun hfree => ?_,
    fun hfree hcur => ⟨fun hr => ⟨?_, ?_⟩, fun hr hf => ?_, fun hr hd => ?_, fun hrk => ?_, fun hrk => ?_⟩⟩
  · have hx (regs streams : List Nat) : xferTrap (t.begun p c) regs streams = some trapMiss := xferTrap_of_busy hbusy
    simp only [List.mem_cons, List.not_mem_nil, or_false] at hi
    rcases hi with rfl | rfl | rfl | rfl | rfl
    · rw [exec_ldt hat, ldtIssue_of_trap (hx _ _), Tile.begun_trap]
    · rw [exec_stt hat, sttIssue_of_trap (hx _ _), Tile.begun_trap]
    · rw [exec_ldsc hat, ldscIssue_of_trap (hx _ _), Tile.begun_trap]
    · rw [exec_tzro hat, tzroIssue_of_trap (hx _ _), Tile.begun_trap]
    · rw [exec_tcpy hat, tcpyIssue_of_trap (hx _ _), Tile.begun_trap]
  · have hx : xferTrap (t.begun p c) [r] [str] = some trapStale := xferTrap_of_stale (t := t) hfree htrap (by simpa using hst)
    simp only [List.mem_cons, List.not_mem_nil, or_false] at hi
    rcases hi with rfl | rfl | rfl
    · rw [exec_ldt hat, ldtIssue_of_trap hx, Tile.begun_trap]
    · rw [exec_stt hat, sttIssue_of_trap hx, Tile.begun_trap]
    · rw [exec_ldsc hat, ldscIssue_of_trap hx, Tile.begun_trap]
  · have hx : xferTrap (t.begun p c) [k] [] = some trapStale := xferTrap_of_stale (t := t) hfree htrap (by simpa using hst)
    rw [exec_tcpy hat, tcpyIssue_of_trap hx, Tile.begun_trap]
  · rw [exec_tzro hat, tzroIssue_begun (xferTrap_eq_none hfree (.inr (by simp))), Ctx.one_eq_ends_of_ne hc]
    exact hout 1 _
  · rw [exec_ldt hat, ldtIssue_unconfigured (hnone hfree hcur) hr, xferOccupy_begun, hout]
  · rw [exec_ldsc hat, ldscIssue_unconfigured (hnone hfree hcur) hr, xferOccupy_begun, hout]
  · obtain ⟨f, hcode, he8, hts8⟩ := hf
    rw [exec_stt hat, sttIssue_unconfigured (hnone hfree hcur) (by rw [Tile.begun_streamAhead, hcode]) he8 hts8 hr, xferOccupy_begun, hout]
  · rw [exec_ldsc hat, ldscIssue_unscaled (hnone hfree hcur) hr hd, Tile.begun_trap]
  · rw [exec_tcpy hat, tcpyIssue_begun (hnoneK hfree hcur), if_pos hrk]
    exact hout _ _
  · rw [exec_tcpy hat, tcpyIssue_begun (hnoneK hfree hcur), if_neg hrk, Ctx.one_eq_ends_of_ne hc, Ctx.one_eq_ends_of_ne hc,
      ← Ctx.ends_append]
    exact hout _ _

end Sys2Proof.Machine

/-! Landings on the stream plane: a granule, and the lanes of a line (R275, R279). -/

namespace Sys2Proof.Machine

theorem Fmt.width_mem (f : Fmt) : f.width = 4 ∨ f.width = 8 ∨ f.width = 16 ∨ f.width = 32 := by cases f <;> decide

theorem TDesc.w_mem (d : TDesc) : d.w = 4 ∨ d.w = 8 ∨ d.w = 16 ∨ d.w = 32 := d.format.width_mem

/-- A number's own bytes read back as it. -/
theorem leNat_bytes (n v : Nat) : leNat ((List.range n).map fun k => BitVec.ofNat 8 (v / 256 ^ k % 256)) = v % 256 ^ n := by
  induction n generalizing v with
  | zero => simp [leNat, Nat.mod_one]
  | succ n ih =>
    have htail : ((List.range n).map fun k => BitVec.ofNat 8 (v / 256 ^ (k + 1) % 256)) =
        (List.range n).map fun k => BitVec.ofNat 8 (v / 256 / 256 ^ k % 256) := by
      refine List.map_congr_left fun k _ => ?_
      rw [Nat.pow_succ', Nat.div_div_eq_div_mul]
    rw [List.range_succ_eq_map, List.map_cons, List.map_map, leNat]
    simp only [Function.comp_def, Nat.succ_eq_add_one, htail, ih]
    rw [Nat.pow_succ', Nat.mod_mul]
    simp

/-- A write of one nibble of a byte leaves that nibble with its value, and the other as it was (R53). -/
theorem nibble_write {old v c c' : Nat} (hv : v < 16) (h : c' / 2 = c / 2) :
    ((old &&& (255 - 15 * 16 ^ (c % 2))) ||| (v % 16 * 16 ^ (c % 2) &&& 15 * 16 ^ (c % 2))) / 16 ^ (c' % 2) % 16 =
      if c' = c then v else old / 16 ^ (c' % 2) % 16 := by
  have hlow (a : Nat) : a &&& 15 = a % 16 := Nat.and_two_pow_sub_one_eq_mod a 4
  have hdiv (a b : Nat) : (a ||| b) / 16 = a / 16 ||| b / 16 ∧ (a &&& b) / 16 = a / 16 &&& b / 16 :=
    ⟨Nat.or_div_two_pow (n := 4), Nat.and_div_two_pow (n := 4)⟩
  have hmod (a b : Nat) : (a ||| b) % 16 = a % 16 ||| b % 16 ∧ (a &&& b) % 16 = a % 16 &&& b % 16 :=
    ⟨Nat.or_mod_two_pow (n := 4), Nat.and_mod_two_pow (n := 4)⟩
  rcases Nat.mod_two_eq_zero_or_one c with hc | hc <;> rcases Nat.mod_two_eq_zero_or_one c' with hc' | hc'
  · rw [if_pos (by omega), hc, hc']
    simp [hmod, hlow, Nat.mod_eq_of_lt hv]
  · rw [if_neg (by omega), hc, hc']
    simp [hdiv, hlow, Nat.mod_eq_of_lt hv, Nat.div_eq_of_lt hv]
  · rw [if_neg (by omega), hc, hc']
    simp [hmod, hlow]
  · rw [if_pos (by omega), hc, hc']
    simp [hdiv, hlow, Nat.mod_eq_of_lt hv]

theorem elemBytes_mask (c w v : Nat) : ∀ b ∈ Tile.elemBytes c w v, b.mask < 256 := by
  have h16 : 16 ^ (c % 2) ≤ 16 := by rcases Nat.mod_two_eq_zero_or_one c with h | h <;> simp [h]
  unfold Tile.elemBytes
  split <;> simp
  omega

/-- The bytes of an element lie in its row. -/
theorem elemBytes_addr {c w : Nat} (v : Nat) (hw : w = 4 ∨ w = 8 ∨ w = 16 ∨ w = 32) (hc : c < 1024 / w) :
    ∀ b ∈ Tile.elemBytes c w v, b.addr < 128 := by
  unfold Tile.elemBytes
  rcases hw with rfl | rfl | rfl | rfl <;> simp <;> omega

/-- An element reads as it was written, the other elements of the register as before (R53, R90). -/
theorem Tile.gridElem_gridWrite {t : Tile} {r row c w v : Nat} (hwf : t.grid.wf = true) (hd : t.descCur r = true)
    (hepoch : 1 ≤ at' 1 t.epoch r) (hw : w = 4 ∨ w = 8 ∨ w = 16 ∨ w = 32) (hv : v < 2 ^ w) (hrow : row < 64) (hc : c < 1024 / w)
    {row' c' : Nat} (hrow' : row' < 64) (hc' : c' < 1024 / w) :
    (t.gridWrite r row (Tile.elemBytes c w v)).gridElem r row' c' w =
      if row' = row ∧ c' = c then v else t.gridElem r row' c' w := by
  have hbyte {k : Nat} (hk : k < 128) : (t.gridWrite r row (Tile.elemBytes c w v)).gridByte r row' k =
      if row' = row then writtenByte (t.gridByte r row' k) (Tile.elemBytes c w v) k else t.gridByte r row' k := by
    rw [Tile.gridByte_gridWrite hwf hd hepoch (elemBytes_mask c w v) (elemBytes_addr v hw hc) hrow hrow' hk]
    simp
  by_cases hsame : row' = row
  · simp only [hsame, true_and, if_true] at hbyte ⊢
    by_cases h4 : w = 4
    · subst h4
      have hk : c' / 2 < 128 := by omega
      simp only [Tile.gridElem, Tile.elemBytes, beq_self_eq_true, if_true, writtenByte_cons, writtenByte_nil] at hbyte ⊢
      rw [hbyte hk]
      by_cases h : c' / 2 = c / 2
      · rw [if_pos h, nibble_write hv h]
      · rw [if_neg h, if_neg (by omega)]
    · have hz : w = 8 * (w / 8) ∧ 0 < w / 8 := by omega
      have hpow : 2 ^ w = 256 ^ (w / 8) := by conv_lhs => rw [hz.1, Nat.pow_mul]
      have hrowend : c' * (w / 8) + w / 8 ≤ 128 := by rcases hw with rfl | rfl | rfl | rfl <;> omega
      have hwritten (old k : Nat) : writtenByte old (Tile.elemBytes c w v) k =
          if c * (w / 8) ≤ k ∧ k < c * (w / 8) + w / 8 then v / 256 ^ (k - c * (w / 8)) % 256 else old := by
        rw [Tile.elemBytes, if_neg (by simpa using h4)]
        exact writtenByte_row old _ _ (fun _ => Nat.mod_lt _ (by decide)) k
      simp only [Tile.gridElem, beq_iff_eq, h4, if_false]
      by_cases h : c' = c
      · rw [if_pos h]
        refine .trans (congrArg leNat (List.map_congr_left fun k hk => ?_)) ((leNat_bytes (w / 8) v).trans (Nat.mod_eq_of_lt (hpow ▸ hv)))
        replace hk := List.mem_range.mp hk
        rw [hbyte (by omega), hwritten, if_pos (by rw [h]; omega), h, Nat.add_sub_cancel_left]
      · rw [if_neg h]
        refine congrArg leNat (List.map_congr_left fun k hk => ?_)
        replace hk := List.mem_range.mp hk
        have hfar : c' * (w / 8) + w / 8 ≤ c * (w / 8) ∨ c * (w / 8) + w / 8 ≤ c' * (w / 8) := by
          rcases Nat.lt_or_gt_of_ne h with hlt | hgt
          · exact .inl (by rw [← Nat.succ_mul]; exact Nat.mul_le_mul_right _ hlt)
          · exact .inr (by rw [← Nat.succ_mul]; exact Nat.mul_le_mul_right _ hgt)
        rw [hbyte (by omega), hwritten, if_neg (by omega)]
  · simp only [hsame, false_and, if_false] at hbyte ⊢
    simp only [Tile.gridElem]
    rcases hw with rfl | rfl | rfl | rfl
    · simp [hbyte (k := c' / 2) (by omega)]
    all_goals
      simp only [Nat.reduceBEq, Bool.false_eq_true, if_false, Nat.reduceDiv]
      refine congrArg leNat (List.map_congr_left fun k hk => ?_)
      replace hk := List.mem_range.mp hk
      rw [hbyte (by omega)]

theorem lineLen_row {d : TDesc} {f : Nat} (h : gridDir f = 1) : lineLen d f = if d.rows ≤ f % 64 then 0 else d.cols := by
  simp only [lineLen, h]

theorem lineLen_col {d : TDesc} {f : Nat} (h : gridDir f ≠ 1) : lineLen d f = if d.cols ≤ f % 64 then 0 else d.rows := by
  unfold lineLen
  split
  · contradiction
  · rfl

/-- A lane stands inside its register. -/
theorem linePos_lt {d : TDesc} {f i : Nat} (h : i < lineLen d f) : (linePos d f i).1 < d.rows ∧ (linePos d f i).2 < d.cols := by
  by_cases h1 : gridDir f = 1
  · rw [lineLen_row h1] at h
    simp only [linePos, h1]
    split_ifs at h <;> omega
  · rw [lineLen_col h1] at h
    have hcols : f % 64 < d.cols := by split_ifs at h <;> omega
    have hi : i < d.rows := by split_ifs at h <;> omega
    unfold linePos
    split
    · contradiction
    · exact ⟨hi, hcols⟩
    · have hne : d.cols ≠ 0 := by omega
      simp only [beq_iff_eq, hne, if_false]
      exact ⟨hi, Nat.mod_lt _ (by omega)⟩

/-- Two lanes of a line are two elements. -/
theorem linePos_injective (d : TDesc) (f : Nat) : Function.Injective (linePos d f) := by
  intro i j h
  unfold linePos at h
  split at h
  · exact (Prod.mk.inj h).2
  · exact (Prod.mk.inj h).1
  · exact (Prod.mk.inj h).1

/-- The first `n` lanes of a line take their codes. -/
def Tile.writeLanes (t : Tile) (d : TDesc) (dst : Nat) (codes : List Nat) (n : Nat) : Tile :=
  (List.range n).foldl (fun q k =>
    q.gridWrite (fieldTile dst) (linePos d dst k).1 (Tile.elemBytes (linePos d dst k).2 d.w (codes.getD k 0))) t

section
variable {t : Tile} {d : TDesc} {dst : Nat} {codes : List Nat}

theorem Tile.writeLanes_succ (n : Nat) : t.writeLanes d dst codes (n + 1) =
    (t.writeLanes d dst codes n).gridWrite (fieldTile dst) (linePos d dst n).1
      (Tile.elemBytes (linePos d dst n).2 d.w (codes.getD n 0)) := by
  rw [Tile.writeLanes, List.range_succ, List.foldl_append]
  rfl

/-- Lanes change the grid and its row tags alone. -/
theorem Tile.writeLanes_frame (n : Nat) : ∃ m tags, t.writeLanes d dst codes n = { t with grid := m, gridTag := tags } := by
  induction n with
  | zero => exact ⟨t.grid, t.gridTag, rfl⟩
  | succ n ih =>
    obtain ⟨m, tags, h⟩ := ih
    rw [Tile.writeLanes_succ, h]
    exact Tile.gridWrite_frame _ _ _ _

variable (hwf : t.grid.wf = true) (hd : t.descCur (fieldTile dst) = true) (hepoch : 1 ≤ at' 1 t.epoch (fieldTile dst))
  (hrows : d.rows ≤ 64) (hcols : d.cols ≤ 1024 / d.w)
include hwf hd hepoch

/-- After some lanes the register can still be written. -/
theorem Tile.writeLanes_writable (n : Nat) : (t.writeLanes d dst codes n).grid.wf = true ∧
    (t.writeLanes d dst codes n).descCur (fieldTile dst) = true ∧
    1 ≤ at' 1 (t.writeLanes d dst codes n).epoch (fieldTile dst) := by
  refine ⟨?_, ?_⟩
  · induction n with
    | zero => exact hwf
    | succ n ih =>
      rw [Tile.writeLanes_succ]
      exact Tile.wf_gridWrite _ _ _ _ ih
  · obtain ⟨m, tags, hframe⟩ := Tile.writeLanes_frame (t := t) (d := d) (dst := dst) (codes := codes) n
    rw [hframe]
    exact ⟨hd, hepoch⟩

include hrows hcols

/-- A written lane reads as its code, a lane not yet written as before. -/
theorem Tile.gridElem_writeLanes (hcodes : ∀ k, codes.getD k 0 < 2 ^ d.w) {n : Nat} (hn : n ≤ lineLen d dst) {k : Nat}
    (hk : k < lineLen d dst) :
    (t.writeLanes d dst codes n).gridElem (fieldTile dst) (linePos d dst k).1 (linePos d dst k).2 d.w =
      if k < n then codes.getD k 0 else t.gridElem (fieldTile dst) (linePos d dst k).1 (linePos d dst k).2 d.w := by
  induction n with
  | zero => rfl
  | succ n ih =>
    have hin := linePos_lt hk
    have hin' := linePos_lt (i := n) hn
    obtain ⟨hwf', hcur, hep⟩ := Tile.writeLanes_writable (d := d) (codes := codes) hwf hd hepoch n
    rw [Tile.writeLanes_succ, Tile.gridElem_gridWrite hwf' hcur hep d.w_mem (hcodes n) (by omega)
      (lt_of_lt_of_le hin'.2 hcols) (by omega) (lt_of_lt_of_le hin.2 hcols), ih (Nat.le_of_succ_le hn)]
    have hsame : ((linePos d dst k).1 = (linePos d dst n).1 ∧ (linePos d dst k).2 = (linePos d dst n).2) ↔ k = n :=
      Prod.ext_iff.symm.trans (linePos_injective d dst).eq_iff
    simp only [hsame]
    rcases Nat.lt_trichotomy k n with h | h | h
    · rw [if_neg (by omega), if_pos h, if_pos (by omega)]
    · rw [if_pos h, if_pos (by omega), h]
    · rw [if_neg (by omega), if_neg (by omega), if_neg (by omega)]

theorem Tile.gridByte_writeLanes_other {n : Nat} (hn : n ≤ lineLen d dst) {r row b : Nat} (hr : r ≠ fieldTile dst)
    (hrow : row < 64) (hb : b < 128) : (t.writeLanes d dst codes n).gridByte r row b = t.gridByte r row b := by
  induction n with
  | zero => rfl
  | succ n ih =>
    have hin := linePos_lt (i := n) hn
    obtain ⟨hwf', hcur, hep⟩ := Tile.writeLanes_writable (d := d) (codes := codes) hwf hd hepoch n
    rw [Tile.writeLanes_succ, Tile.gridByte_gridWrite hwf' hcur hep (elemBytes_mask _ _ _)
      (elemBytes_addr _ d.w_mem (lt_of_lt_of_le hin.2 hcols)) (by omega) hrow hb, if_neg (by simp [hr]),
      ih (Nat.le_of_succ_le hn)]

end

theorem landWord_line_unconfigured {t : Tile} {dst w : Nat} {on : Bool} {codes : List Nat} (o : Own)
    (h : t.configured (fieldTile dst) = false) : landWord o (.line dst w on codes) t = t := by
  simp [landWord, h]

theorem landWord_line_of_width {t : Tile} {dst w : Nat} {on : Bool} {codes : List Nat} (o : Own)
    (h : t.configured (fieldTile dst) = true) (hw : on = true → (t.descOf (fieldTile dst)).w = w) :
    landWord o (.line dst w on codes) t =
      t.writeLanes (t.descOf (fieldTile dst)) dst codes (lineLen (t.descOf (fieldTile dst)) dst) := by
  have hno : ¬ (on && (t.descOf (fieldTile dst)).w != w) = true := by
    cases on
    · simp
    · simp [hw rfl]
  simp only [landWord, h, Bool.not_true, Bool.false_eq_true, if_false, hno]
  rfl

theorem landings : saysLandings := by
  intro env t own at_ iss hgen hspm hgrid
  simp only [applyEff]
  refine ⟨fun off data _ _ _ hdata a _ => ?_, fun dst w on codes => ⟨landWord_line_unconfigured own, fun h hon hw => ?_,
    fun h _ hepoch hlegal hw hcodes => ?_⟩⟩
  · have hbyte (i : Nat) : data.getD i 0 < 256 := by
      rw [List.getD_eq_getElem?_getD]
      rcases h : data[i]? with _ | v
      · decide
      · exact hdata v (List.mem_of_getElem? h)
    rw [landWord, Tile.spmByte_spmWrite hgen hspm (by simp), writtenByte_row _ _ _ hbyte]
  · simp [landWord, h, hon, hw]
  · have hd : t.descCur (fieldTile dst) = true := by
      rw [Tile.configured, Bool.and_eq_true] at h
      exact h.1
    obtain ⟨f, hf⟩ : ∃ f, Fmt.ofCode (t.descOf (fieldTile dst)).fmt = some f := by
      rw [← Option.ne_none_iff_exists']
      exact fun hnone => by simp [TDesc.illegal_of_none hnone] at hlegal
    have hshape : ¬ _ := mt (TDesc.illegal_iff hf).mpr (by simp [hlegal])
    simp only [not_or, Nat.not_lt] at hshape
    obtain ⟨hrows, _, hcols, _⟩ := hshape
    have hformat : f = (t.descOf (fieldTile dst)).format := by simp [TDesc.format, hf]
    rw [hformat] at hcols
    have hcode (k : Nat) : codes.getD k 0 < 2 ^ (t.descOf (fieldTile dst)).w := by
      rw [List.getD_eq_getElem?_getD]
      rcases h : codes[k]? with _ | v
      · exact Nat.two_pow_pos _
      · exact hcodes v (List.mem_of_getElem? h)
    rw [landWord_line_of_width own h hw]
    refine ⟨fun k hk => ?_, ?_⟩
    · rw [Tile.lane, if_pos hk]
      exact (Tile.gridElem_writeLanes hgrid hd hepoch hrows hcols hcode le_rfl hk).trans (if_pos hk)
    · obtain ⟨m, tags, hframe⟩ := Tile.writeLanes_frame (t := t) (d := t.descOf (fieldTile dst)) (dst := dst) (codes := codes)
        (lineLen (t.descOf (fieldTile dst)) dst)
      refine ⟨?_, ?_, ?_, fun k hk row b hrow hb => Tile.gridByte_writeLanes_other hgrid hd hepoch hrows hcols le_rfl hk hrow hb⟩
      all_goals rw [hframe]


end Sys2Proof.Machine

/-! SEND, SENDM and SENDL at issue (R260, R274 to R279). -/

namespace Sys2Proof.Machine

/-- A tile with more banks reserved and more effects staged. -/
def Tile.grow (t : Tile) (banks : List BankUse) (l : List Pend) : Tile := { t with banks := t.banks ++ banks, pend := t.pend ++ l }

@[simp] theorem Tile.grow_nil (t : Tile) : t.grow [] [] = t := by simp [Tile.grow]

@[simp] theorem Tile.grow_grow (t : Tile) (b b' : List BankUse) (l l' : List Pend) :
    (t.grow b l).grow b' l' = t.grow (b ++ b') (l ++ l') := by simp [Tile.grow]

theorem Tile.begun_eq_grow (t : Tile) (p : Pre) (c : Ctx) : t.begun p c = t.grow [] (c.ends t (p.tail c)) := by
  simp [Tile.begun, Tile.grow]

theorem Tile.stage_eq_grow (t : Tile) (c : Ctx) (k ph : Nat) (e : Eff) : t.stage c k ph e = t.grow [] (c.one k ph e) := by
  simp only [Tile.grow, List.append_nil]
  rfl

/-- The banks of an access (R99). -/
def Ctx.banksOf (c : Ctx) (k a n : Nat) : List BankUse :=
  (Tile.granules a n).map fun g => ⟨k, g % 16, Tile.own c, c.iss⟩

/-- Steps that each reserve banks and stage effects. -/
theorem Tile.foldl_grow {α : Type} {f : Tile → α → Tile} {b : α → List BankUse} {l : α → List Pend}
    (hf : ∀ t a, f t a = t.grow (b a) (l a)) (t : Tile) (xs : List α) : xs.foldl f t = t.grow (xs.flatMap b) (xs.flatMap l) := by
  induction xs generalizing t with
  | nil => simp
  | cons x xs ih => simp [ih, hf]

theorem Tile.useBanks_eq_grow (t : Tile) (c : Ctx) (k a n : Nat) : t.useBanks c k a n = t.grow (c.banksOf k a n) [] := by
  rw [Tile.useBanks, Tile.foldl_grow (b := fun g => [⟨k, g % 16, Tile.own c, c.iss⟩]) (l := fun _ => [])
    (fun t g => by simp [Tile.grow, Tile.useBank]), List.flatMap_eq_nil_iff.mpr fun _ _ => rfl, ← List.map_eq_flatMap]
  rfl

/-- The banks of several accesses. -/
theorem Tile.foldl_useBanks {α : Type} (t : Tile) (c : Ctx) (k a n : α → Nat) (xs : List α) :
    xs.foldl (fun q x => q.useBanks c (k x) (a x) (n x)) t = t.grow (xs.flatMap fun x => c.banksOf (k x) (a x) (n x)) [] := by
  rw [Tile.foldl_grow (fun q x => Tile.useBanks_eq_grow q c (k x) (a x) (n x)), List.flatMap_eq_nil_iff.mpr fun _ _ => rfl]

/-- The staging of several effects. -/
theorem Tile.foldl_stage {α : Type} (t : Tile) (c : Ctx) (k : α → Nat) (ph : Nat) (e : α → Eff) (xs : List α) :
    xs.foldl (fun q x => q.stage c (k x) ph (e x)) t = t.grow [] (xs.flatMap fun x => c.one (k x) ph (e x)) := by
  rw [Tile.foldl_grow (b := fun _ => []) (fun q x => Tile.stage_eq_grow q c (k x) ph (e x)),
    List.flatMap_eq_nil_iff.mpr fun _ _ => rfl]

/-- A charge reserves and stages nothing. -/
theorem Tile.grow_charge (t : Tile) (b : List BankUse) (l : List Pend) (env : Env) (code n : Nat) :
    (t.grow b l).charge env code n = (t.charge env code n).grow b l := rfl

/-- A charge leaves the units as they are. -/
theorem Tile.setEng_charge (t : Tile) (e : Engine) (u : EngState) (env : Env) (code n : Nat) :
    (t.setEng e u).charge env code n = (t.charge env code n).setEng e u := rfl

theorem Tile.grow_setEng (t : Tile) (b : List BankUse) (l : List Pend) (e : Engine) (u : EngState) :
    (t.grow b l).setEng e u = (t.setEng e u).grow b l := rfl

/-- The tile after an issue that charges, occupies a unit, reserves banks and stages effects, field by field. -/
theorem Tile.occupied_eq (t : Tile) (env : Env) (code n : Nat) (e : Engine) (u : EngState) (b : List BankUse) (l : List Pend) :
    ((t.charge env code n).setEng e u).grow b l = { t.charge env code n with
      eng := t.eng.setIfInBounds e.idx u, banks := t.banks ++ b, pend := t.pend ++ l } := rfl

theorem routeInside_ctxAt {s : State} {pit : Pitch} {x y n : Nat} {dx dy : Int} :
    routeInside (s.ctxAt pit n).env x y dx dy = true ↔
      0 ≤ (x : Int) + dx ∧ (x : Int) + dx < pit.img.w ∧ 0 ≤ (y : Int) + dy ∧ (y : Int) + dy < pit.img.h := by
  simp only [routeInside, Bool.and_eq_true, decide_eq_true_eq, and_assoc]
  rfl

section
variable {i : Instr} {dx dy : Int} {str off len : Nat} {t : Tile} {c : Ctx}

/-- The ranges of a send lie on granules inside the scratchpads, and its route inside the pitch (R274, R278). -/
def sendFits (env : Env) (t : Tile) (dx dy : Int) (off len cur : Nat) : Prop :=
  routeInside env t.x t.y dx dy = true ∧ Fits off (64 * len) 64 ∧ Fits cur (64 * len) 64

theorem sendIssue_of_busy (h : t.tl < (t.engOf .N).busyA) : sendIssue i dx dy str off len t c = t.trap c trapMiss := by
  rw [sendIssue, if_pos (decide_eq_true h)]

theorem sendIssue_of_stale (hfree : (t.engOf .N).busyA ≤ t.tl) (ht : t.staleTrap = true) (hs : t.streamStale str = true) :
    sendIssue i dx dy str off len t c = t.trap c trapStale := by
  rw [sendIssue, if_neg (by simpa using hfree), if_pos (by simp [ht, hs])]

theorem sendIssue_bounds_iff {cur : Nat} :
    (!routeInside c.env t.x t.y dx dy || off % 64 != 0 || decide (Config.spmSize < off + 64 * len) ||
      cur % 64 != 0 || decide (Config.spmSize < cur + 64 * len)) = true ↔ ¬ sendFits c.env t dx dy off len cur := by
  have hsize : Config.spmSize = 0xC0000 := rfl
  simp only [sendFits, Fits, hsize, Bool.or_eq_true, Bool.not_eq_true', bne_iff_ne, decide_eq_true_eq, not_and_or, Nat.not_le,
    Bool.not_eq_true, or_assoc]

variable (hfree : (t.engOf .N).busyA ≤ t.tl) (hs : t.staleTrap = false ∨ t.streamStale str = false)
include hfree hs

theorem sendIssue_of_not_fits (h : ¬ sendFits c.env t dx dy off len (t.streamAhead str).cur) :
    sendIssue i dx dy str off len t c = t.trap c trapBounds := by
  rw [sendIssue, if_neg (by simpa using hfree), if_neg (by rcases hs with hs | hs <;> simp [hs]),
    if_pos (sendIssue_bounds_iff.mpr h)]

theorem sendIssue_of_fits (h : sendFits c.env t dx dy off len (t.streamAhead str).cur) :
    sendIssue i dx dy str off len t c =
      let cur := (t.streamAhead str).cur
      ((t.charge c.env 0 1).setEng .N { t.engOf .N with busyA := t.tl + (len + 7) / 8 }).grow
        ((List.range ((len + 7) / 8)).flatMap fun b => c.banksOf (t.tl + b) (cur + 512 * b) (64 * Nat.min 8 (len - 8 * b)))
        (c.one t.tl 2 (.advance str) ++ c.one t.tl 1 (.job i { offs := [cur] } 0)) := by
  rw [sendIssue, if_neg (by simpa using hfree), if_neg (by rcases hs with hs | hs <;> simp [hs]),
    if_neg (mt sendIssue_bounds_iff.mp (not_not.mpr h))]
  simp only [Tile.foldl_useBanks, Tile.stage_eq_grow, Tile.grow_grow, Tile.grow_charge,
    Tile.setEng_charge, List.append_nil, List.nil_append]

end

theorem exec_send {s : State} {pit : Pitch} {t : Tile} (hat : s.At pit t) (p : Pre) (dx dy : Int) (str off len : Nat) :
    ∀ i ∈ [Instr.send p dx dy str off len, .sendm p dx dy str off len], exec i s = .next (s.become pit
      (sendIssue i dx dy str off len (t.begun p (s.ctxAt pit 2)) (s.ctxAt pit 2))) := by
  simp only [List.mem_cons, List.not_mem_nil, or_false, forall_eq_or_imp, forall_eq]
  exact ⟨exec_eq_of_issue hat (body := fun c q => sendIssue (.send p dx dy str off len) dx dy str off len q c) rfl fun _ => rfl,
    exec_eq_of_issue hat (body := fun c q => sendIssue (.sendm p dx dy str off len) dx dy str off len q c) rfl fun _ => rfl⟩

theorem sendAndSendm : saysSends := by
  unfold saysSends
  intro p dx dy str off len s pit t hat hN q hq c st beats inside good trap
  have hexec : exec q.1 s = .next (s.become pit (sendIssue q.1 dx dy str off len (t.begun p c) c)) := by
    refine exec_send hat p dx dy str off len q.1 ?_
    simp only [List.mem_cons, List.not_mem_nil, or_false] at hq ⊢
    rcases hq with rfl | rfl <;> simp
  have hst : (t.begun p c).streamAhead str = st := Tile.begun_streamAhead t p c str
  have hc : c.eng ≠ .X := by rw [show c.eng = .N from hN]; decide
  have hgood : sendFits c.env (t.begun p c) dx dy off len ((t.begun p c).streamAhead str).cur ↔ good := by
    rw [hst]
    exact and_congr_left fun _ => routeInside_ctxAt
  rw [hexec]
  refine ⟨fun hbusy => ?_, fun hfree ht hs => ?_, fun hfree hs => ⟨fun hno => ?_, fun hfit => ?_⟩⟩
  · rw [sendIssue_of_busy (t := t.begun p c) hbusy, Tile.begun_trap]
  · rw [sendIssue_of_stale (t := t.begun p c) hfree ht hs, Tile.begun_trap]
  · rw [sendIssue_of_not_fits (t := t.begun p c) hfree hs (mt hgood.mp hno), Tile.begun_trap]
  · rw [sendIssue_of_fits (t := t.begun p c) hfree hs (hgood.mpr hfit), hst, Tile.begun_eq_grow, Tile.grow_charge,
      Tile.grow_setEng, Tile.grow_grow, Tile.occupied_eq, ← List.append_assoc, ← List.append_assoc]
    refine congrArg (fun l => Host.Outcome.next (s.become pit { t.charge c.env 0 1 with
      eng := _, banks := _, pend := l ++ c.one t.tl 1 (.job q.1 { offs := [st.cur] } 0) })) ?_
    rw [Ctx.ends_append, ← Ctx.one_eq_ends_of_ne hc, ← List.append_assoc]
    rfl

/-- The charges of a beat of `units` times 64 B for its hops, from a tile that lags by `off`, each when the beat enters its
link (R260, R276, R428). -/
def chargesOf (c : Ctx) (off : Nat) (hops : List (Nat × Nat × Nat × Nat × Bool)) (units : Nat) : List Pend :=
  hops.flatMap fun h => c.one (h.2.2.2.1 - off) 2 (.charge 8 units 1) ++
    if h.2.2.2.2 then c.one (h.2.2.2.1 - off) 2 (.charge 10 units 1) else []

theorem chargeBeat_eq_grow (t : Tile) (c : Ctx) (hops : List (Nat × Nat × Nat × Nat × Bool)) (units : Nat) :
    chargeBeat t c hops units = t.grow [] (chargesOf c (c.env.off t.x t.y) hops units) := by
  simp only [chargeBeat, Tile.foldl_stage, List.flatMap_assoc]
  refine congrArg (t.grow []) (List.flatMap_congr fun h _ => ?_)
  cases h.2.2.2.2 <;> simp

/-- A line sent while a read of it may meet a stale row (R90, R225). -/
theorem laneStale_range_iff {t : Tile} {d : TDesc} {f : Nat} : t.laneStale d f (List.range (lineLen d f)) = true ↔
    ∃ k < lineLen d f, t.rowCur (fieldTile f) (linePos d f k).1 = false := by
  simp only [Tile.laneStale, List.any_eq_true, List.mem_range, Bool.and_eq_true, decide_eq_true_eq, Bool.not_eq_true']
  exact exists_congr fun k => ⟨fun ⟨h, _, hk⟩ => ⟨h, hk⟩, fun ⟨h, hk⟩ => ⟨h, h, hk⟩⟩

section
variable {dx dy : Int} {dst src : Nat} {t : Tile} {c : Ctx}

theorem sendlIssue_of_busy (h : t.tl < (t.engOf .N).busyA) : sendlIssue dx dy dst src t c = t.trap c trapMiss := by
  rw [sendlIssue, if_pos (decide_eq_true h)]

variable (hfree : (t.engOf .N).busyA ≤ t.tl)
include hfree

theorem sendlIssue_of_outside (h : routeInside c.env t.x t.y dx dy = false) :
    sendlIssue dx dy dst src t c = t.trap c trapBounds := by
  rw [sendlIssue, if_neg (by simpa using hfree), if_pos (by simp [h])]

variable (hin : routeInside c.env t.x t.y dx dy = true)
include hin

theorem sendlIssue_of_stale (h : t.staleTrap = true ∧ (t.descCur (fieldTile src) = false ∨
      ∃ k < lineLen (t.descOf (fieldTile src)) src, t.rowCur (fieldTile src) (linePos (t.descOf (fieldTile src)) src k).1 = false)) :
    sendlIssue dx dy dst src t c = t.trap c trapStale := by
  rw [sendlIssue, if_neg (by simpa using hfree), if_neg (by simp [hin]), if_pos]
  simpa [laneStale_range_iff] using h

theorem sendlIssue_of_current (h : ¬ (t.staleTrap = true ∧ (t.descCur (fieldTile src) = false ∨
      ∃ k < lineLen (t.descOf (fieldTile src)) src, t.rowCur (fieldTile src) (linePos (t.descOf (fieldTile src)) src k).1 = false))) :
    sendlIssue dx dy dst src t c =
      let d := t.descOf (fieldTile src)
      let lk := beatLinks c.env false t.x t.y (t.tl + c.env.off t.x t.y + 1) dx dy
      { t.charge c.env 0 1 with
        eng := t.eng.setIfInBounds 4 { t.engOf .N with busyA := t.tl + 1 }
        pend := t.pend ++ chargesOf c (c.env.off t.x t.y) lk.1 2
        out := t.out ++ (lk.1.map fun h => Sig.link h.1 h.2.1 h.2.2.1 h.2.2.2.1 (Tile.own c)) ++
          (lk.2.map fun d => Sig.link d.1 d.2.1 4 d.2.2 (Tile.own c)) ++
          [Sig.word ((t.x : Int) + dx).toNat ((t.y : Int) + dy).toNat
            (arrival c.env t.x t.y t.tl dx dy) (Tile.own c) (.line dst d.w (t.configured (fieldTile src))
              ((List.range (lineLen d src)).map (t.lane d src)))] } := by
  rw [sendlIssue, if_neg (by simpa using hfree), if_neg (by simp [hin]), if_neg (by simpa [laneStale_range_iff] using h)]
  simp only [chargeBeat_eq_grow, Tile.grow, List.append_nil]
  rfl

end

theorem sendLine : saysSendLine := by
  unfold saysSendLine
  intro p dx dy dst src s pit t hat hN c d inside trap lk cost stale
  have hexec : exec (.sendl p dx dy dst src) s = .next (s.become pit (sendlIssue dx dy dst src (t.begun p c) c)) :=
    exec_eq_of_issue hat (body := fun c q => sendlIssue dx dy dst src q c) rfl fun _ => rfl
  have hroute : routeInside c.env t.x t.y dx dy = true ↔ inside := routeInside_ctxAt
  rw [hexec]
  refine ⟨fun hbusy => ?_, fun hfree => ⟨fun hno => ?_, fun hin hst => ?_, fun hin hst => ?_⟩⟩
  · rw [sendlIssue_of_busy (t := t.begun p c) hbusy, Tile.begun_trap]
  · rw [sendlIssue_of_outside (t := t.begun p c) hfree (Bool.eq_false_iff.mpr (mt hroute.mp hno)), Tile.begun_trap]
  · rw [sendlIssue_of_stale (t := t.begun p c) hfree (hroute.mpr hin) hst, Tile.begun_trap]
  · rw [sendlIssue_of_current (t := t.begun p c) hfree (hroute.mpr hin) hst]
    rfl

/-- Settles O37: SEND and SENDM, SENDL, and the landings. -/
theorem sends : Obligations.Sends := ⟨sendAndSendm, sendLine, landings⟩

end Sys2Proof.Machine

/-! Whole-tile forms of V at issue and in the turns of their rows, with the turns of VLD and VST (R221 to R225, R244, R251). -/

namespace Sys2Proof.Machine

/-- A V instruction does in its tile what `vIssue` says, once its group's effects are staged. -/
theorem exec_vec {s : State} {pit : Pitch} {t : Tile} (hat : s.At pit t) {i : Instr} (hi : isVec i = true) :
    exec i s = .next (s.become pit (vIssue i (t.begun (preOfInstr i) (s.ctxAt pit 2)) (s.ctxAt pit 2))) := by
  have hissue : exec i s = s.atTile 2 (issueOf i) ∧ ∀ c, issueOf i t c = issue (preOfInstr i) t c fun q => vIssue i q c := by
    cases i <;> simp only [isVec, Bool.false_eq_true] at hi <;> exact ⟨rfl, fun _ => rfl⟩
  exact exec_eq_of_issue hat (body := fun c q => vIssue i q c) hissue.1 hissue.2

@[simp] theorem vCapture_begun (i : Instr) (t : Tile) (p : Pre) (c : Ctx) : vCapture i (t.begun p c) = vCapture i t := rfl

@[simp] theorem vTrap_begun (i : Instr) (t : Tile) (p : Pre) (c : Ctx) (cap : Cap) : vTrap i (t.begun p c) cap = vTrap i t cap := rfl

theorem Ctx.at_append (c : Ctx) (k : Nat) (l m : List Eff) : c.at k (l ++ m) = c.at k l ++ c.at k m := List.map_append

/-- An effect of the beginning of a cycle. -/
theorem Tile.stage_at (t : Tile) (c : Ctx) (k : Nat) (e : Eff) : t.stage c k 0 e = t.grow [] (c.at k [e]) :=
  Tile.stage_eq_grow t c k 0 e

/-- The tile after an issue that occupies a unit, field by field. -/
theorem Tile.begun_setEng_grow (t : Tile) (p : Pre) (c : Ctx) (e : Engine) (u : EngState) (b : List BankUse) (l : List Pend) :
    ((t.begun p c).setEng e u).grow b l = { t with
      eng := t.eng.setIfInBounds e.idx u, banks := t.banks ++ b, pend := t.pend ++ c.ends t (p.tail c) ++ l } := rfl

/-- The occupancy of unit L: its event in each cycle (R223, R228). -/
theorem vOccupy_line {i : Instr} (hi : vUnit i = .line) (t : Tile) (c : Ctx) (occ : Nat) : vOccupy i t c occ =
    (t.setEng .V { t.engOf .V with busyA := t.tl + occ }).grow [] (c.one t.tl 2 (.charge (vEvent i) 1 occ)) := by
  simp only [vOccupy, hi, Tile.stage_eq_grow]

/-- The occupancy of unit S (R223, R228). -/
theorem vOccupy_storage {i : Instr} (hi : vUnit i = .storage) (t : Tile) (c : Ctx) (occ : Nat) : vOccupy i t c occ =
    (t.setEng .V { t.engOf .V with busyB := t.tl + occ }).grow [] (c.one t.tl 2 (.charge 2 1 occ)) := by
  simp only [vOccupy, hi, Tile.stage_eq_grow]

/-- The lanes of a line as row writes (R218, R225). -/
theorem stageLanes_eq_grow (t : Tile) (c : Ctx) (k : Nat) (d : TDesc) (f : Nat) (l : List (Nat × Nat × Nat)) :
    stageLanes t c k d f l = t.grow [] (c.at k (laneWrites d f l)) := by
  rw [stageLanes, laneWrites]
  by_cases hf : gridDir f = 1
  · simp only [hf, beq_self_eq_true, if_true, List.isEmpty_iff]
    split
    · exact (Tile.grow_nil t).symm
    · rw [Tile.stage_at]
  · rw [if_neg (by simpa using hf), if_neg hf, Tile.foldl_stage, Ctx.at, List.map_map, List.map_eq_flatMap]
    rfl

/-- What a line operation writes (R224, R225, R233, R254). -/
theorem stageOut_eq_grow (i : Instr) (t : Tile) (c : Ctx) (k : Nat) (cap : Cap) (o : VOps) (fd fb : Nat) (r : LineOut) :
    stageOut i t c k cap o fd fb r = t.grow [] (c.at k (lineEffects i cap o fd fb r)) := by
  have hgrid : (if vGridD i then stageLanes t c k cap.d fd r.lanes else t) =
      t.grow [] (c.at k (if vGridD i then laneWrites cap.d fd r.lanes else [])) := by
    split
    · exact stageLanes_eq_grow _ _ _ _ _ _
    · exact (Tile.grow_nil t).symm
  have hbytes (q : Tile) : (if vWritesB i && cap.bOn && decide (fb % 64 < cap.b.rows) && !r.bytesB.isEmpty then
      q.stage c k 0 (.grid (fieldTile fb) (fb % 64) .vec r.bytesB) else q) =
      q.grow [] (c.at k (if vWritesB i = true ∧ cap.bOn = true ∧ fb % 64 < cap.b.rows ∧ r.bytesB ≠ [] then
        [.grid (fieldTile fb) (fb % 64) .vec r.bytesB] else [])) := by
    have hcond : (vWritesB i && cap.bOn && decide (fb % 64 < cap.b.rows) && !r.bytesB.isEmpty) = true ↔
        vWritesB i = true ∧ cap.bOn = true ∧ fb % 64 < cap.b.rows ∧ r.bytesB ≠ [] := by simp [and_assoc]
    simp only [hcond]
    split
    · exact Tile.stage_at _ _ _ _
    · exact (Tile.grow_nil q).symm
  have hflags (q : Tile) : (if r.flags == 0 then q else q.stage c k 0 (.vflags r.flags)) =
      q.grow [] (c.at k (if r.flags = 0 then [] else [.vflags r.flags])) := by
    simp only [beq_iff_eq]
    split
    · exact (Tile.grow_nil q).symm
    · exact Tile.stage_at _ _ _ _
  rw [stageOut]
  simp only [hgrid, hbytes, hflags, lineEffects, Ctx.at_append]
  cases r.mask <;> cases r.g <;> simp [Tile.stage_at, Ctx.at]

/-- What `lineRows` says of its instructions. -/
theorem lineRows_spec {q : (Pre → VOps → Instr) × Nat × Nat} (hq : q ∈ lineRows) (p : Pre) (o : VOps) :
    isVec (q.1 p o) = true ∧ preOfInstr (q.1 p o) = p ∧ vopsOf (q.1 p o) = o ∧ vUnit (q.1 p o) = .line ∧
      vLatency (q.1 p o) = q.2.1 ∧ vEvent (q.1 p o) = q.2.2 ∧ (∀ t c, vIssue (q.1 p o) t c = vLineIssue (q.1 p o) t c) ∧
      ∀ cap r t c, vJob (q.1 p o) cap r t c = vRowJob (q.1 p o) cap r t c := by
  fin_cases hq <;> exact ⟨rfl, rfl, rfl, rfl, rfl, rfl, fun _ _ => rfl, fun _ _ _ _ => rfl⟩

theorem vectorRowTurns : saysVectorRows := by
  intro q hq p o env t e cap r i whole fd fa fb o' v c n stale heff hV
  obtain ⟨_, _, hops, _, hlat, _, _, hjob⟩ := lineRows_spec hq p o
  have happly : applyEff env t e = vRowJob i cap r t c := by
    simp only [applyEff, heff, runJob, hV]
    exact hjob _ _ _ _
  have hd : (if (vGridD i && gridWhole o.d) = true then rowField o.d r else o.d) = fd := by
    simp only [fd, whole, rowField]; cases vGridD i <;> simp
  have ha : (if (vGridA i && gridWhole o.a) = true then rowField o.a r else o.a) = fa := by
    simp only [fa, whole, rowField]; cases vGridA i <;> simp
  have hb : (if (vGridB i && gridWhole o.b) = true then rowField o.b r else o.b) = fb := by
    simp only [fb, whole, rowField]; cases vGridB i <;> simp
  have hrow : vRowJob i cap r t c = if (t.staleTrap && stale) = true then t.trapAny (Tile.own c) c.iss t.tl trapStale else
      let t1 := stageOut i t c (t.tl + q.2.1) cap o' fd fb ((laneOf i).line v)
      if r + 1 < n then t1.stage c (t.tl + 1) 1 (.job i cap (r + 1)) else t1 := by
    simp only [vRowJob, show vopsOf i = o from hops, show vLatency i = q.2.1 from hlat, hd, ha, hb, vRows]
    rfl
  rw [happly, hrow]
  refine ⟨fun ht hs => if_pos (by simp [ht, hs]), fun hs => ?_⟩
  rw [if_neg (by rcases hs with hs | hs <;> simp [hs])]
  simp only [stageOut_eq_grow, Tile.stage_eq_grow, Tile.grow_grow]
  split <;> simp [Tile.grow]

/-- Effects staged without a bank. -/
theorem Tile.grow_pend (t : Tile) (l : List Pend) : t.grow [] l = { t with pend := t.pend ++ l } := by
  simp only [Tile.grow, List.append_nil]

/-- A row of VST that meets no stale row (R251). -/
theorem vStJob_current {t : Tile} (ht : t.staleTrap = false) (p : Pre) (o : VOps) (cap : Cap) (r : Nat) (c : Ctx) :
    vStJob (.vst p o) cap r t c =
      let f := if gridWhole o.a then rowField o.a r else o.a
      let bytes := ((List.range (lineLen cap.a f)).filter (laneActive o.mask cap.mask cap.a.w)).flatMap fun k =>
        (Tile.elemBytes k cap.a.w (t.lane cap.a f k)).map fun b => { b with addr := cap.offs.getD r 0 + b.addr }
      t.grow [] ((if bytes = [] then [] else c.one (t.tl + 2) 1 (.spm bytes)) ++
        if r + 1 < cap.offs.length then c.one (t.tl + 1) 1 (.job (.vst p o) cap (r + 1)) else []) := by
  have hstaged (bytes : List MByte) :
      (let t1 := if bytes.isEmpty then t else t.stage c (t.tl + 2) 1 (.spm bytes)
        if r + 1 < cap.offs.length then t1.stage c (t.tl + 1) 1 (.job (.vst p o) cap (r + 1)) else t1) =
      t.grow [] ((if bytes = [] then [] else c.one (t.tl + 2) 1 (.spm bytes)) ++
        if r + 1 < cap.offs.length then c.one (t.tl + 1) 1 (.job (.vst p o) cap (r + 1)) else []) := by
    by_cases hmore : r + 1 < cap.offs.length <;> cases bytes <;> simp [hmore, Tile.stage_eq_grow]
  rw [vStJob, if_neg (by simp [ht])]
  exact hstaged _

theorem vectorStorageRowTurns : saysVectorStorageRows := by
  intro p o env t e cap r hV ht c row off on next
  have happly {i : Instr} (heff : e.eff = .job i cap r) : applyEff env t e = vJob i cap r t c := by
    simp only [applyEff, heff, runJob, hV]
    rfl
  refine ⟨fun heff => ?_, fun heff => ?_⟩
  · rw [happly heff, vJob, vLdJob]
    simp only [ht, Bool.false_and, Bool.false_eq_true, if_false, stageLanes_eq_grow, Tile.stage_eq_grow, Tile.grow_grow]
    by_cases hmore : r + 1 < cap.offs.length
    · simp only [next, hmore, if_true, Tile.grow, List.append_nil, List.append_assoc]
      rfl
    · simp only [next, hmore, if_false, Tile.grow, List.append_nil]
      rfl
  · rw [happly heff, vJob, vStJob_current ht]
    refine (Tile.grow_pend t _).trans ?_
    rw [← List.append_assoc]
    rfl

/-- Settles O29: the turns of rows of whole-tile forms, and those of VLD and VST. -/
theorem vectorRows : Obligations.VectorRows := ⟨vectorRowTurns, vectorStorageRowTurns⟩

/-- The row of B that a whole-tile form reads once, at issue (R221, R255). -/
def fixedRow (i : Instr) (t : Tile) (d : TDesc) (f : Nat) : List Nat :=
  match i with
  | .vexpd _ _ => (List.range 64).map (metaNibble t d f)
  | _ => (List.range 256).map (t.lane d f)

/-- That read meets a stale row (R90, R221, R225). -/
def fixedStale (i : Instr) (t : Tile) (cap : Cap) (o : VOps) : Bool :=
  match i with
  | .vexpd _ _ => decide (o.b % 64 < cap.b.rows) && !t.rowCur (fieldTile o.b) (o.b % 64)
  | _ => t.laneStale cap.b o.b ((List.range cap.d.cols).filter (laneActive o.mask cap.mask cap.d.w))

/-- The row or a lane that the read takes is stale (R90, R221, R255; notes/assumptions/127.md). -/
def FixedReadStale (i : Instr) (t : Tile) (cap : Cap) (o : VOps) : Prop :=
  match i with
  | .vexpd _ _ => o.b % 64 < cap.b.rows ∧ t.rowCur (fieldTile o.b) (o.b % 64) = false
  | _ => ∃ k < cap.d.cols, laneActive o.mask cap.mask cap.d.w k = true ∧ k < lineLen cap.b o.b ∧
    t.rowCur (fieldTile o.b) (linePos cap.b o.b k).1 = false

theorem fixedStale_iff (i : Instr) (t : Tile) (cap : Cap) (o : VOps) : fixedStale i t cap o = true ↔ FixedReadStale i t cap o := by
  unfold fixedStale FixedReadStale
  split
  · simp
  · simp [Tile.laneStale]

/-- A whole-tile form reads its row of B and meets a stale element there (R221, R225). -/
def wholeStale (i : Instr) (t : Tile) : Bool :=
  vGridB i && !gridWhole (vopsOf i).b && !vWritesB i && vRows i (vCapture i t) != 0 && fixedStale i t (vCapture i t) (vopsOf i)

/-- The rows of B that a whole-tile form keeps from its issue (R221). -/
def keptRows (i : Instr) (t : Tile) : List (List Nat) :=
  if vGridB i && !gridWhole (vopsOf i).b && !vWritesB i then [fixedRow i t (vCapture i t).b (vopsOf i).b] else []

section
variable {i : Instr} {t : Tile} {c : Ctx} (htrap : vTrap i t (vCapture i t) = none) (hw : vWhole i = true)
include htrap hw

theorem vLineIssue_whole_of_stale (hs : (t.staleTrap && wholeStale i t) = true) : vLineIssue i t c = t.trap c trapStale := by
  simp only [vLineIssue, htrap, hw, if_true]
  exact if_pos hs

theorem vLineIssue_whole_of_current (hunit : vUnit i = .line) (hs : ¬ (t.staleTrap && wholeStale i t) = true) :
    vLineIssue i t c =
      (t.setEng .V { t.engOf .V with busyA := t.tl + Nat.max 1 (vRows i (vCapture i t)) }).grow []
        (c.one t.tl 2 (.charge (vEvent i) 1 (Nat.max 1 (vRows i (vCapture i t)))) ++
          if vRows i (vCapture i t) = 0 then [] else c.one t.tl 1 (.job i { vCapture i t with rows := keptRows i t } 0)) := by
  simp only [vLineIssue, htrap, hw, if_true]
  refine (if_neg hs).trans ?_
  rw [vOccupy_line hunit, Tile.stage_eq_grow, Tile.grow_grow]
  by_cases hn : vRows i (vCapture i t) = 0
  · simp only [hn, beq_self_eq_true, if_true, List.append_nil]
  · rw [if_neg (by simpa using hn), if_neg hn]
    rfl

end

/-- Settles O23: `vLineIssue` with its read of B, and what `lineRows` says of each instruction. -/
theorem vectorWholeForms : Obligations.VectorWholeForms := by
  intro q hq p o s pit t hat hV i cap c n fixed once stale rows htrap hw
  obtain ⟨hvec, hpre, hops, hunit, _, hev, hissue, _⟩ := lineRows_spec hq p o
  have hc : c.eng ≠ .X := by rw [show c.eng = .V from hV]; decide
  have hn : vRows i cap = n := congrArg (fun u : VOps => if vGridD i && gridWhole u.d then cap.d.rows else cap.a.rows) hops
  have hstale : stale ↔ wholeStale i t = true := by
    rw [wholeStale, show vopsOf i = o from hops, show vRows i (vCapture i t) = n from hn]
    simp only [Bool.and_eq_true, fixedStale_iff, Bool.not_eq_true', bne_iff_ne]
    exact ⟨fun ⟨⟨h1, h2, h3⟩, h4, h5⟩ => ⟨⟨⟨⟨h1, h2⟩, h3⟩, h4⟩, h5⟩, fun ⟨⟨⟨⟨h1, h2⟩, h3⟩, h4⟩, h5⟩ => ⟨⟨h1, h2, h3⟩, h4, h5⟩⟩
  have hrows : keptRows i t = rows := by
    rw [keptRows, show vopsOf i = o from hops]
    simp only [rows, once, Bool.and_eq_true, Bool.not_eq_true', and_assoc]
    rfl
  have hexec : exec i s = .next (s.become pit (vLineIssue i (t.begun p c) c)) := by
    rw [exec_vec hat hvec, hpre, hissue]
  rw [hexec]
  refine ⟨fun ht hs => ?_, fun hs => ?_⟩
  · have hstop : (t.staleTrap && wholeStale i t) = true := by rw [ht, hstale.mp hs]; rfl
    rw [vLineIssue_whole_of_stale (t := t.begun p c) htrap hw hstop, Tile.begun_trap]
  · have hgo : ¬ (t.staleTrap && wholeStale i t) = true := by
      rw [Bool.and_eq_true]
      exact fun ⟨ht, hno⟩ => hs.elim (fun h => Bool.false_ne_true (h.symm.trans ht)) fun h => h (hstale.mpr hno)
    rw [vLineIssue_whole_of_current (t := t.begun p c) htrap hw hunit hgo]
    rw [Tile.begun_setEng_grow, Ctx.ends_append, ← Ctx.one_eq_ends_of_ne hc, List.append_nil]
    simp only [vCapture_begun, show vRows i (vCapture i t) = n from hn, show vEvent i = q.2.2 from hev,
      show keptRows i (t.begun p c) = rows from hrows, List.append_assoc]
    rfl

end Sys2Proof.Machine

/-! VLD and VST at issue (R85, R99, R222, R223, R250, R251). -/

namespace Sys2Proof.Machine

/-- The accesses of VLD and VST: the line or the rows, each with its offset (R250). -/
def memPairs (t : Tile) (str f : Nat) (d : TDesc) : List (Nat × Nat) :=
  (vMemFields f d).zip (Stream.offsets (vMemFields f d).length (t.streamAhead str))

theorem Stream.length_offsets (n : Nat) (s : Stream) : (Stream.offsets n s).length = n := by
  induction n generalizing s with
  | zero => rfl
  | succ n ih => rw [Stream.offsets, List.length_cons, ih]

/-- Access r has the r-th field and the r-th offset. -/
theorem memPairs_getD {t : Tile} {str f : Nat} {d : TDesc} {r : Nat} (hr : r < (vMemFields f d).length) :
    (memPairs t str f d).getD r (0, 0) =
      ((vMemFields f d).getD r 0, (Stream.offsets (vMemFields f d).length (t.streamAhead str)).getD r 0) := by
  simp [memPairs, List.getD_eq_getElem?_getD, hr, Stream.length_offsets]

/-- Accesses that each reserve their banks and stage an effect in their cycle. -/
theorem Tile.foldl_useBanks_stage {α : Type} (t : Tile) (c : Ctx) (k a n : α → Nat) (ph : Nat) (e : Eff) (xs : List α) :
    xs.foldl (fun q x => (q.useBanks c (k x) (a x) (n x)).stage c (k x) ph e) t =
      t.grow (xs.flatMap fun x => c.banksOf (k x) (a x) (n x)) (xs.flatMap fun x => c.one (k x) ph e) :=
  Tile.foldl_grow (fun q x => by rw [Tile.useBanks_eq_grow, Tile.stage_eq_grow, Tile.grow_grow, List.append_nil, List.nil_append]) t xs

/-- Every access of VLD or VST is aligned to the element and ends inside the scratchpad (R250). -/
def MemFits (t : Tile) (str f : Nat) (d : TDesc) : Prop :=
  ∀ x ∈ memPairs t str f d, x.2 % Nat.max 1 (d.w / 8) = 0 ∧ x.2 + lineBytes d x.1 ≤ 0xC0000

theorem memFits_iff (t : Tile) (str f : Nat) (d : TDesc) :
    (!(memPairs t str f d).all fun x => spanOk x.2 d.w (lineSpan d x.1)) = true ↔ ¬ MemFits t str f d := by
  have hsize : Config.spmSize = 0xC0000 := rfl
  simp [MemFits, spanOk, lineSpan, hsize]

section
variable {i : Instr} {load : Bool} {t : Tile} {c : Ctx} {str f : Nat} {d : TDesc}
  (hstr : (if load then (vopsOf i).a else (vopsOf i).d) % 16 = str) (hf : (if load then (vopsOf i).d else (vopsOf i).a) = f)
  (hd : (if load then (vCapture i t).d else (vCapture i t).a) = d)
  (htrap : vTrap i t (vCapture i t) = none) (ht : t.staleTrap = false)
include hstr hf hd htrap ht

theorem vMemIssue_of_not_fits (h : ¬ MemFits t str f d) : vMemIssue i load t c = t.trap c trapBounds := by
  simp only [vMemIssue, htrap, ht, Bool.false_and, Bool.false_eq_true, if_false, hstr, hf, hd]
  exact if_pos ((memFits_iff _ _ _ _).mpr h)

theorem vMemIssue_of_fits (hunit : vUnit i = .storage) (h : MemFits t str f d) :
    vMemIssue i load t c =
      let fields := vMemFields f d
      let n := fields.length
      let offs := Stream.offsets n (t.streamAhead str)
      let base := t.tl + if load then 1 else 2
      let occ := if gridWhole f then Nat.max 1 n else Nat.max 1 ((lineBytes d f + 127) / 128)
      (t.setEng .V { t.engOf .V with busyB := t.tl + occ }).grow
        ((List.range n).flatMap fun r => c.banksOf (base + r) (offs.getD r 0) (lineBytes d (fields.getD r 0)))
        (c.one t.tl 2 (.charge 2 1 occ) ++ ((List.range n).flatMap fun r => c.one (base + r) 2 (.advance str)) ++
          if n = 0 then [] else
            c.one (if load then t.tl + 1 else t.tl) 1 (.job i { vCapture i t with offs := offs } 0)) := by
  have hbanks (base : Nat) : ((List.range (vMemFields f d).length).flatMap fun r =>
      c.banksOf (base + r) ((memPairs t str f d).getD r (0, 0)).2 (lineSpan d ((memPairs t str f d).getD r (0, 0)).1)) =
      (List.range (vMemFields f d).length).flatMap fun r =>
        c.banksOf (base + r) ((Stream.offsets (vMemFields f d).length (t.streamAhead str)).getD r 0)
          (lineBytes d ((vMemFields f d).getD r 0)) :=
    List.flatMap_congr fun r hr => by rw [memPairs_getD (List.mem_range.mp hr)]; rfl
  simp only [memPairs] at hbanks
  simp only [vMemIssue, htrap, ht, Bool.false_and, Bool.false_eq_true, if_false, hstr, hf, hd]
  refine (if_neg (mt (memFits_iff _ _ _ _).mp (not_not.mpr h))).trans ?_
  rw [Tile.foldl_useBanks_stage, vOccupy_storage hunit, Tile.grow_grow, Tile.stage_eq_grow, Tile.grow_grow]
  simp only [beq_iff_eq, hbanks, List.append_nil, List.nil_append]
  by_cases hn : (vMemFields f d).length = 0
  · rw [if_pos hn, if_pos hn, List.append_nil]
    rfl
  · rw [if_neg hn, if_neg hn]
    rfl

end

/-- Settles O28: `vMemIssue` of a load and of a store. -/
theorem vectorStorage : Obligations.VectorStorage := by
  intro p o s pit t hat hV ht q hq i c cap f d str fields n offs ok base occ uses htrap
  have hc : c.eng ≠ .X := by rw [show c.eng = .V from hV]; decide
  have hinstr : isVec i = true ∧ preOfInstr i = p ∧ vopsOf i = o ∧ vUnit i = .storage ∧
      ∀ u, vIssue i u c = vMemIssue i q.2 u c := by
    simp only [List.mem_cons, List.not_mem_nil, or_false] at hq
    rcases hq with rfl | rfl <;> exact ⟨rfl, rfl, rfl, rfl, fun _ => rfl⟩
  obtain ⟨hvec, hpre, hops, hunit, hissue⟩ := hinstr
  have hexec : exec i s = .next (s.become pit (vMemIssue i q.2 (t.begun p c) c)) := by rw [exec_vec hat hvec, hpre, hissue]
  have hstr : (if q.2 then (vopsOf i).a else (vopsOf i).d) % 16 = str := by rw [hops]
  have hf : (if q.2 then (vopsOf i).d else (vopsOf i).a) = f := by rw [hops]
  have hfits : MemFits (t.begun p c) str f d ↔ ok := by
    rw [MemFits, memPairs, Tile.begun_streamAhead]
    rfl
  rw [hexec]
  refine ⟨fun hno => ?_, fun hok => ?_⟩
  · rw [vMemIssue_of_not_fits (t := t.begun p c) hstr hf rfl htrap ht (mt hfits.mp hno), Tile.begun_trap]
  · rw [vMemIssue_of_fits (t := t.begun p c) hstr hf rfl htrap ht hunit (hfits.mpr hok)]
    simp only [Tile.begun_setEng_grow, Tile.begun_streamAhead]
    rw [Ctx.ends_append, ← Ctx.one_eq_ends_of_ne hc]
    simp only [List.append_assoc]
    rfl

end Sys2Proof.Machine

/-! The table of operand formats (R227, R240). -/

namespace Sys2Proof.Machine

theorem ifOn_iff {f : Option Fmt} {p : Fmt → Bool} : ifOn f p = true ↔ ∀ x, f = some x → p x = true := by
  cases f <;> simp [ifOn]

theorem ifBoth_iff {f g : Option Fmt} {p : Fmt → Fmt → Bool} :
    ifBoth f g p = true ↔ ∀ x y, f = some x → g = some y → p x y = true := by
  cases f <;> cases g <;> simp [ifBoth]

/-- The conditions of R227 in the order of the operands, each present or not. -/
structure Conds where
  d : Fmt → Bool := fun _ => true
  a : Fmt → Bool := fun _ => true
  b : Fmt → Bool := fun _ => true
  da : Fmt → Fmt → Bool := fun _ _ => true
  db : Fmt → Fmt → Bool := fun _ _ => true
  ab : Fmt → Fmt → Bool := fun _ _ => true

/-- A row of the table says what the conditions say: of each operand alone, and of two that both pass alone. -/
structure Conds.Says (k : Conds) (q : FormatRow) : Prop where
  d : ∀ x, k.d x = decide (x ∈ q.d)
  a : ∀ x, k.a x = decide (x ∈ q.a)
  b : ∀ x, k.b x = decide (x ∈ q.b)
  da : ∀ x ∈ q.d, ∀ y ∈ q.a, k.da x y = true ↔ q.da x y
  db : ∀ x ∈ q.d, ∀ y ∈ q.b, k.db x y = true ↔ q.db x y
  ab : ∀ x ∈ q.a, ∀ y ∈ q.b, k.ab x y = true ↔ q.ab x y

/-- What the conditions allow. -/
def Conds.allow (k : Conds) (scale : Bool) (d a b : Option Fmt) (scaleOn : Bool) : Bool :=
  ifOn d (fun x => k.d x && (!scale || scaleOn)) && ifOn a k.a && ifOn b k.b && ifBoth d a k.da && ifBoth d b k.db && ifBoth a b k.ab

theorem Conds.allow_iff {q : FormatRow} {k : Conds} (h : k.Says q) (d a b : Option Fmt) (scaleOn : Bool) :
    k.allow q.scale d a b scaleOn = true ↔
      (∀ x, d = some x → x ∈ q.d ∧ (q.scale = true → scaleOn = true)) ∧ (∀ y, a = some y → y ∈ q.a) ∧ (∀ z, b = some z → z ∈ q.b) ∧
      (∀ x y, d = some x → a = some y → q.da x y) ∧ (∀ x z, d = some x → b = some z → q.db x z) ∧
      ∀ y z, a = some y → b = some z → q.ab y z := by
  have hscale : (!q.scale || scaleOn) = true ↔ (q.scale = true → scaleOn = true) := by cases q.scale <;> simp
  simp only [Conds.allow, Bool.and_eq_true, ifOn_iff, ifBoth_iff, h.d, h.a, h.b, hscale, decide_eq_true_eq, and_assoc]
  refine and_congr_right fun hd => and_congr_right fun ha => and_congr_right fun hb => ?_
  refine and_congr ?_ (and_congr ?_ ?_)
  · exact forall₄_congr fun x y hx hy => h.da x (hd x hx).1 y (ha y hy)
  · exact forall₄_congr fun x y hx hy => h.db x (hd x hx).1 y (hb y hy)
  · exact forall₄_congr fun x y hx hy => h.ab x (ha x hx) y (hb y hy)

section
variable {l m : List Fmt}

theorem isFloat_eq_mem (x : Fmt) : x.isFloat = decide (x ∈ [.fp32, .fp16, .bf16]) := by cases x <;> rfl

theorem true_eq_mem (x : Fmt) : true = decide (x ∈ [.fp32, .fp16, .bf16, .f8a, .f8b, .f4, .ts8, .i8, .i32, .e8]) := by cases x <;> rfl

theorem byte_eq_mem (x : Fmt) : decide (8 ≤ x.width) = decide (x ∈ [.fp32, .fp16, .bf16, .f8a, .f8b, .ts8, .i8, .i32, .e8]) := by
  cases x <;> rfl

theorem notE8_eq_mem (x : Fmt) : notE8 x = decide (x ∈ [.fp32, .fp16, .bf16, .f8a, .f8b, .f4, .ts8, .i8, .i32]) := by cases x <;> rfl

theorem sums_eq_mem (x : Fmt) : (x.isFloat || x == .i32) = decide (x ∈ [.fp32, .fp16, .bf16, .i32]) := by cases x <;> rfl

theorem ints_eq_mem (x : Fmt) : (x == .i8 || x == .i32) = decide (x ∈ [.i8, .i32]) := by cases x <;> rfl

theorem quant_eq_mem (x : Fmt) : (x == .f8a || x == .f8b || x == .f4) = decide (x ∈ [.f8a, .f8b, .f4]) := by cases x <;> rfl

theorem eq_eq_mem (f x : Fmt) : (x == f) = decide (x ∈ [f]) := by cases x <;> cases f <;> rfl

theorem free_rel : ∀ x ∈ l, ∀ y ∈ m, true = true ↔ True := fun _ _ _ _ => Iff.rfl.trans (iff_of_true rfl trivial)

theorem eq_rel : ∀ x ∈ l, ∀ y ∈ m, (x == y) = true ↔ x = y := fun _ _ _ _ => beq_iff_eq

/-- The width of a format by its code in the list of all formats. -/
theorem width_of_code (f : Fmt) :
    ({ fmt := [.fp32, .fp16, .bf16, .f8a, .f8b, .f4, .ts8, .i8, .i32, .e8].idxOf f } : TDesc).w = f.width := by
  cases f <;> rfl

theorem width_rel : ∀ x ∈ l, ∀ y ∈ m, sameW x y = true ↔
    ({ fmt := [.fp32, .fp16, .bf16, .f8a, .f8b, .f4, .ts8, .i8, .i32, .e8].idxOf x } : TDesc).w =
      ({ fmt := [.fp32, .fp16, .bf16, .f8a, .f8b, .f4, .ts8, .i8, .i32, .e8].idxOf y } : TDesc).w := fun x _ y _ => by
  rw [width_of_code, width_of_code, sameW, beq_iff_eq]

theorem kind_rel : ∀ x ∈ [Fmt.fp32, .fp16, .bf16, .i32], ∀ y ∈ [Fmt.fp32, .fp16, .bf16, .i32],
    (x.isFloat == y.isFloat) = true ↔ (x = .i32 ↔ y = .i32) := by decide

end

/-- The conditions of R227 for the rows of its table, in their order. -/
def formatConds : List Conds :=
  let float := Fmt.isFloat
  let ints (f : Fmt) : Bool := f == .i8 || f == .i32
  let sums (f : Fmt) : Bool := f.isFloat || f == .i32
  let byte (f : Fmt) : Bool := decide (8 ≤ f.width)
  let kind (f g : Fmt) : Bool := f.isFloat == g.isFloat
  [{ d := float, a := float, b := float }, { d := float, a := float }, { d := (· == .fp32), a := float, b := float },
   { d := (· == .fp32), a := float }, { a := sums, b := sums, ab := kind }, { a := float },
   { d := ints, da := (· == ·), db := (· == ·) }, { da := sameW, db := sameW },
   { d := (· == .i32), a := (· == .i32), b := (· == .i32) }, { d := notE8 },
   { d := fun f => f == .f8a || f == .f8b || f == .f4, a := float }, { d := (· == .ts8), a := float },
   { d := float, a := notE8 }, { d := sums, a := sums, da := kind }, { d := float, a := float }, { d := ints, a := float },
   { da := sameW }, { d := byte, a := byte, da := sameW }, { d := byte, a := byte, b := byte, da := sameW, db := sameW },
   { b := ints, da := sameW }, { d := byte, da := sameW }, {}, { d := byte, a := (· == .i32) }, { a := byte, b := (· == .i32) }]

/-- The table with its conditions. -/
def formatTable : List (FormatRow × Conds) := operandFormats.zip formatConds

theorem formatTable_says {r : FormatRow × Conds} (hr : r ∈ formatTable) : r.2.Says r.1 := by
  fin_cases hr
  · exact ⟨isFloat_eq_mem, isFloat_eq_mem, isFloat_eq_mem, free_rel, free_rel, free_rel⟩
  · exact ⟨isFloat_eq_mem, isFloat_eq_mem, true_eq_mem, free_rel, free_rel, free_rel⟩
  · exact ⟨eq_eq_mem _, isFloat_eq_mem, isFloat_eq_mem, free_rel, free_rel, free_rel⟩
  · exact ⟨eq_eq_mem _, isFloat_eq_mem, true_eq_mem, free_rel, free_rel, free_rel⟩
  · exact ⟨true_eq_mem, sums_eq_mem, sums_eq_mem, free_rel, free_rel, kind_rel⟩
  · exact ⟨true_eq_mem, isFloat_eq_mem, true_eq_mem, free_rel, free_rel, free_rel⟩
  · exact ⟨ints_eq_mem, true_eq_mem, true_eq_mem, eq_rel, eq_rel, free_rel⟩
  · exact ⟨true_eq_mem, true_eq_mem, true_eq_mem, width_rel, width_rel, free_rel⟩
  · exact ⟨eq_eq_mem _, eq_eq_mem _, eq_eq_mem _, free_rel, free_rel, free_rel⟩
  · exact ⟨notE8_eq_mem, true_eq_mem, true_eq_mem, free_rel, free_rel, free_rel⟩
  · exact ⟨quant_eq_mem, isFloat_eq_mem, true_eq_mem, free_rel, free_rel, free_rel⟩
  · exact ⟨eq_eq_mem _, isFloat_eq_mem, true_eq_mem, free_rel, free_rel, free_rel⟩
  · exact ⟨isFloat_eq_mem, notE8_eq_mem, true_eq_mem, free_rel, free_rel, free_rel⟩
  · exact ⟨sums_eq_mem, sums_eq_mem, true_eq_mem, kind_rel, free_rel, free_rel⟩
  · exact ⟨isFloat_eq_mem, isFloat_eq_mem, true_eq_mem, free_rel, free_rel, free_rel⟩
  · exact ⟨ints_eq_mem, isFloat_eq_mem, true_eq_mem, free_rel, free_rel, free_rel⟩
  · exact ⟨true_eq_mem, true_eq_mem, true_eq_mem, width_rel, free_rel, free_rel⟩
  · exact ⟨byte_eq_mem, byte_eq_mem, true_eq_mem, width_rel, free_rel, free_rel⟩
  · exact ⟨byte_eq_mem, byte_eq_mem, byte_eq_mem, width_rel, width_rel, free_rel⟩
  · exact ⟨true_eq_mem, true_eq_mem, ints_eq_mem, width_rel, free_rel, free_rel⟩
  · exact ⟨byte_eq_mem, true_eq_mem, true_eq_mem, width_rel, free_rel, free_rel⟩
  · exact ⟨true_eq_mem, true_eq_mem, true_eq_mem, free_rel, free_rel, free_rel⟩
  · exact ⟨byte_eq_mem, eq_eq_mem _, true_eq_mem, free_rel, free_rel, free_rel⟩
  · exact ⟨true_eq_mem, byte_eq_mem, eq_eq_mem _, free_rel, free_rel, free_rel⟩

theorem ifOn_true (f : Option Fmt) : ifOn f (fun _ => true) = true := by cases f <;> rfl

theorem ifBoth_true (f g : Option Fmt) : ifBoth f g (fun _ _ => true) = true := by cases f <;> cases g <;> rfl

/-- The model tests each instruction of a row by the row's conditions. -/
theorem vFormatsOk_eq_allow {r : FormatRow × Conds} (hr : r ∈ formatTable) {make : Pre → VOps → Instr} (hmake : make ∈ r.1.ops)
    (p : Pre) (o : VOps) (d a b : Option Fmt) (scaleOn : Bool) :
    vFormatsOk (make p o) d a b scaleOn = r.2.allow r.1.scale d a b scaleOn := by
  fin_cases hr <;> fin_cases hmake <;>
    simp only [vFormatsOk, Conds.allow, ifOn_true, ifBoth_true, Bool.and_true, Bool.true_and, Bool.not_true, Bool.not_false,
      Bool.true_or, Bool.false_or, Bool.and_comm (ifBoth d a sameW) (ifOn b _)]

theorem formats : saysFormats := by
  refine ⟨fun q hq make hmake p o d a b scaleOn => ?_, fun p o d a b scaleOn => ?_, fun i t hi => ⟨rfl, rfl, rfl⟩⟩
  · have hfst : formatTable.map Prod.fst = operandFormats := rfl
    obtain ⟨r, hr, rfl⟩ := List.mem_map.mp (hfst ▸ hq)
    rw [vFormatsOk_eq_allow hr hmake, Conds.allow_iff (formatTable_says hr)]
  · have hd : ifOn d (fun f => notE8 f && (f != .ts8 || o.rnd == 0)) = true ↔ d ≠ some .e8 ∧ (d = some .ts8 → o.rnd = 0) := by
      cases d <;> simp [ifOn, notE8, or_iff_not_imp_left]
    have ha : ifOn a notE8 = true ↔ a ≠ some .e8 := by cases a <;> simp [ifOn, notE8]
    rw [vFormatsOk, Bool.and_eq_true, hd, ha, and_right_comm, and_assoc]

end Sys2Proof.Machine

/-! The traps of V at issue (R90, R188, R216, R220, R223, R227, R242). -/

namespace Sys2Proof.Machine

/-- The unit that an instruction uses is occupied (R223). -/
def vBusy (i : Instr) (t : Tile) : Bool :=
  match vUnit i with
  | .line => decide (t.tl < (t.engOf .V).busyA)
  | .storage => decide (t.tl < (t.engOf .V).busyB)
  | .scalar => false

/-- A mask or g register that an instruction reads beside its lane mask is stale (R188, R216, R235, R246, R256). -/
def vScalarStale (i : Instr) (t : Tile) : Bool :=
  match i with
  | .vsel _ _ => t.maskStale ((vopsOf i).imm % 8)
  | .vmand _ _ | .vmor _ _ => t.maskStale ((vopsOf i).a % 8) || t.maskStale ((vopsOf i).b % 8)
  | .vmnot _ _ | .vmpop _ _ => t.maskStale ((vopsOf i).a % 8)
  | .vbcst _ _ => t.regStale .V ((vopsOf i).a % 32)
  | _ => false

/-- A descriptor that an instruction reads is stale (R90, R216). -/
def vDescStale (i : Instr) (t : Tile) : Bool :=
  (vGridA i && !t.descCur (fieldTile (vopsOf i).a)) || (vGridB i && !vWritesB i && !t.descCur (fieldTile (vopsOf i).b)) ||
    (vReadsD i && !t.descCur (fieldTile (vopsOf i).d))

/-- Something that an instruction reads at its issue is stale. -/
def vStale (i : Instr) (t : Tile) : Bool :=
  ((vopsOf i).mask != 0 && t.maskStale (vopsOf i).mask) || vScalarStale i t || vDescStale i t

/-- The traps of a V instruction, in their order. -/
theorem vTrap_eq (i : Instr) (t : Tile) (cap : Cap) : vTrap i t cap =
    if vBusy i t then some trapMiss
    else if t.staleTrap && vStale i t then some trapStale
    else if !vFormatsOk i (fmtOn cap.dOn cap.d) (fmtOn cap.aOn cap.a) (fmtOn cap.bOn cap.b) cap.d.scaleOn then some trapIllegal
    else none := rfl

theorem vBusy_iff (i : Instr) (t : Tile) : vBusy i t = true ↔
    (vUnit i = .line ∧ t.tl < (t.engOf .V).busyA) ∨ (vUnit i = .storage ∧ t.tl < (t.engOf .V).busyB) := by
  rw [vBusy]
  cases vUnit i <;> simp

theorem vWritesB_eq_false_iff (i : Instr) : vWritesB i = false ↔ ∀ p u, i ≠ .vcmpr p u := by
  cases i <;> simp [vWritesB]

theorem vReadsD_iff (i : Instr) : vReadsD i = true ↔ ∃ p u, i = .vfma p u ∨ i = .vfms p u := by
  cases i <;> simp [vReadsD]

/-- A mask or g register that an instruction reads is stale, instruction by instruction. -/
def ScalarStale (i : Instr) (t : Tile) : Prop :=
  match i with
  | .vsel _ _ => t.maskStale ((vopsOf i).imm % 8) = true
  | .vmand _ _ => t.maskStale ((vopsOf i).a % 8) = true ∨ t.maskStale ((vopsOf i).b % 8) = true
  | .vmor _ _ => t.maskStale ((vopsOf i).a % 8) = true ∨ t.maskStale ((vopsOf i).b % 8) = true
  | .vmnot _ _ => t.maskStale ((vopsOf i).a % 8) = true
  | .vmpop _ _ => t.maskStale ((vopsOf i).a % 8) = true
  | .vbcst _ _ => t.regStale .V ((vopsOf i).a % 32) = true
  | _ => False

theorem vScalarStale_iff (i : Instr) (t : Tile) : vScalarStale i t = true ↔ ScalarStale i t := by
  cases i <;> simp [vScalarStale, ScalarStale]

theorem vStale_iff (i : Instr) (t : Tile) : vStale i t = true ↔ staleAtIssue i t := by
  simp only [vStale, vDescStale, Bool.or_eq_true, Bool.and_eq_true, Bool.not_eq_true', bne_iff_ne, vScalarStale_iff,
    vWritesB_eq_false_iff, vReadsD_iff, or_assoc, and_assoc]
  rfl

section
variable {i : Instr} {t : Tile} {c : Ctx}

/-- VQNT and VTS8 with an unconfigured D raise no trap but a busy unit (R242). -/
def MuteQuant (i : Instr) (t : Tile) : Prop := (vCapture i t).dOn = false ∧ ∃ p u, i = .vqnt p u ∨ i = .vts8 p u

/-- An instruction that finds one of `vTrap`'s traps takes it. -/
theorem vIssue_of_trap {code : Nat} (hmute : ¬ MuteQuant i t) (h : vTrap i t (vCapture i t) = some code) :
    vIssue i t c = t.trap c code := by
  have hquant (hd : (vCapture i t).dOn = true) : vQuantIssue i t c = t.trap c code := by simp [vQuantIssue, h, hd]
  have hline : vLineIssue i t c = t.trap c code := by simp only [vLineIssue, h]
  have hmem (load : Bool) : vMemIssue i load t c = t.trap c code := by simp only [vMemIssue, h]
  have hidx (load : Bool) : vIdxIssue i load t c = t.trap c code := by simp only [vIdxIssue, h]
  have hmask : vMaskIssue i t c = t.trap c code := by simp only [vMaskIssue, h]
  have htrn : vTrnIssue i t c = t.trap c code := by simp only [vTrnIssue, h]
  unfold vIssue
  split
  · exact hquant (by simpa [MuteQuant] using hmute)
  · exact hquant (by simpa [MuteQuant] using hmute)
  · exact htrn
  · exact hmem _
  · exact hmem _
  · exact hidx _
  · exact hidx _
  · exact hmask
  · exact hmask
  · exact hmask
  · exact hmask
  · exact hline

/-- A busy unit traps a mute instruction too (R223, R242; notes/assumptions/18.md). -/
theorem vIssue_of_busy (h : vBusy i t = true) : vIssue i t c = t.trap c trapMiss := by
  by_cases hmute : MuteQuant i t
  · obtain ⟨hd, p, u, rfl | rfl⟩ := hmute
    · have hbusy : t.tl < (t.engOf .V).busyA := by simpa [vBusy, vUnit] using h
      simp [vIssue, vQuantIssue, hd, hbusy]
    · have hbusy : t.tl < (t.engOf .V).busyA := by simpa [vBusy, vUnit] using h
      simp [vIssue, vQuantIssue, hd, hbusy]
  · exact vIssue_of_trap hmute (by rw [vTrap_eq, if_pos h])

end

theorem vectorIssueTraps : saysVectorTraps := by
  intro i s pit t hat hV hi cap allowed busy trap mute stale
  have hbusy : vBusy i t = true ↔ busy := vBusy_iff i t
  have hstale : (t.staleTrap && vStale i t) = true ↔ stale := by rw [Bool.and_eq_true, vStale_iff]
  rw [exec_vec hat hi]
  refine ⟨fun h => ?_, fun hb hm hs => ?_, fun hb hm hs ha => ?_, fun hb hs ha => ?_⟩
  · rw [vIssue_of_busy (t := t.begun _ _) (hbusy.mpr h), Tile.begun_trap]
  · rw [vIssue_of_trap (t := t.begun _ _) hm (code := trapStale), Tile.begun_trap]
    rw [vCapture_begun, vTrap_begun, vTrap_eq, if_neg (mt hbusy.mp hb), if_pos (hstale.mpr hs)]
  · rw [vIssue_of_trap (t := t.begun _ _) hm (code := trapIllegal), Tile.begun_trap]
    rw [vCapture_begun, vTrap_begun, vTrap_eq, if_neg (mt hbusy.mp hb), if_neg (mt hstale.mp hs), if_pos]
    simpa [allowed] using ha
  · rw [vTrap_eq, if_neg (mt hbusy.mp hb), if_neg (mt hstale.mp hs), if_neg]
    simpa [allowed] using ha

end Sys2Proof.Machine

/-! Stale reads of the storage instructions of V and of the turns of rows (R90, R225, R242, R243, R248, R250 to R253). -/

namespace Sys2Proof.Machine

/-- A range of the scratchpad with a byte in a stale granule (R90). -/
theorem Tile.spmStale_of_byte {t : Tile} {a n x : Nat} (hx : a ≤ x) (hxn : x < a + n) (h : t.spmCur (x / 64) = false) :
    t.spmStale a n = true := by
  have hlo : a / 64 ≤ x / 64 := Nat.div_le_div_right hx
  have hhi : x / 64 ≤ (a + n - 1) / 64 := Nat.div_le_div_right (by omega)
  simp only [Tile.spmStale, Bool.and_eq_true, bne_iff_ne, List.any_eq_true, List.mem_range, Bool.not_eq_true']
  exact ⟨by omega, x / 64 - a / 64, by omega, by rw [Nat.add_sub_cancel' hlo]; exact h⟩

theorem Tile.laneStale_of_lane {t : Tile} {d : TDesc} {f k : Nat} {l : List Nat} (hk : k ∈ l) (hlen : k < lineLen d f)
    (h : t.rowCur (fieldTile f) (linePos d f k).1 = false) : t.laneStale d f l = true := by
  simp only [Tile.laneStale, List.any_eq_true, Bool.and_eq_true, decide_eq_true_eq, Bool.not_eq_true']
  exact ⟨k, hk, hlen, h⟩

/-- The bytes of a lane in the scratchpad, by its place in bits (R53, R250). -/
theorem lanePlace_eq (off k : Nat) {w : Nat} (hw : w = 4 ∨ w = 8 ∨ w = 16 ∨ w = 32) :
    lanePlace off w k = (off + k * w / 8, Nat.max 1 (w / 8)) := by
  rcases hw with rfl | rfl | rfl | rfl <;> simp [lanePlace] <;> omega

/-- A granule joins those kept unless it is among them. -/
def keepNew (l : List Nat) (g : Nat) : List Nat := if l.contains g then l else l ++ [g]

theorem distinctGranules_eq (l : List (Nat × Nat)) :
    distinctGranules l = (l.flatMap fun p => Tile.granules p.1 p.2).foldl keepNew [] := by
  rw [List.foldl_flatMap]
  rfl

theorem mem_foldl_keepNew (l acc : List Nat) (g : Nat) : g ∈ l.foldl keepNew acc ↔ g ∈ acc ∨ g ∈ l := by
  induction l generalizing acc with
  | nil => simp
  | cons x l ih =>
    rw [List.foldl_cons, ih, keepNew]
    split <;> rename_i h <;> simp only [List.contains_iff_mem] at h <;> by_cases hg : g = x <;> simp_all

theorem nodup_foldl_keepNew {l acc : List Nat} (hacc : acc.Nodup) : (l.foldl keepNew acc).Nodup := by
  induction l generalizing acc with
  | nil => exact hacc
  | cons x l ih =>
    rw [List.foldl_cons, keepNew]
    split
    · exact ih hacc
    · rename_i h
      exact ih (hacc.append (List.nodup_singleton x) (by simpa using h))

/-- Of the granules that pass a test, the first stays the first. -/
theorem find?_foldl_keepNew (l acc : List Nat) (p : Nat → Bool) : (l.foldl keepNew acc).find? p = (acc ++ l).find? p := by
  induction l generalizing acc with
  | nil => simp
  | cons x l ih =>
    rw [List.foldl_cons, ih, keepNew]
    split
    · rename_i h
      simp only [List.contains_iff_mem] at h
      rw [List.find?_append, List.find?_append, List.find?_cons]
      rcases hx : p x with _ | _
      · rfl
      · obtain ⟨y, hy⟩ := Option.isSome_iff_exists.mp (List.find?_isSome.mpr ⟨x, h, hx⟩)
        rw [hy]
        rfl
    · rw [List.append_assoc]
      rfl

/-- Three granules of one bank (R253). -/
def ThreeInBank (l : List Nat) : Prop :=
  ∃ g ∈ l, ∃ h ∈ l, ∃ k ∈ l, g % 16 = h % 16 ∧ h % 16 = k % 16 ∧ g ≠ h ∧ g ≠ k ∧ h ≠ k

theorem threeInBank_of_bankOverflow {l : List Nat} (hnodup : l.Nodup) (h : bankOverflow l = true) : ThreeInBank l := by
  simp only [bankOverflow, List.any_eq_true, decide_eq_true_eq] at h
  obtain ⟨b, _, hlen⟩ := h
  have hmem (x : Nat) (hx : x ∈ l.filter fun g => g % 16 == b) : x ∈ l ∧ x % 16 = b := by simpa using hx
  have hdistinct : (l.filter fun g => g % 16 == b).Nodup := hnodup.filter _
  generalize l.filter (fun g => g % 16 == b) = m at *
  match m, hlen with
  | x :: y :: z :: m, _ =>
    obtain ⟨hx, hxb⟩ := hmem x (by simp)
    obtain ⟨hy, hyb⟩ := hmem y (by simp)
    obtain ⟨hz, hzb⟩ := hmem z (by simp)
    simp only [List.nodup_cons, List.mem_cons, not_or] at hdistinct
    exact ⟨x, hx, y, hy, z, hz, by omega, by omega, hdistinct.1.1, hdistinct.1.2.1, hdistinct.2.1.1⟩

section
variable {t : Tile} {c : Ctx} {i : Instr} (htrap : vTrap i t (vCapture i t) = none) (ht : t.staleTrap = true)
include htrap ht

theorem vMemIssue_of_stale {load : Bool} (h : t.streamStale ((if load then (vopsOf i).a else (vopsOf i).d) % 16) = true) :
    vMemIssue i load t c = t.trap c trapStale := by
  simp only [vMemIssue, htrap]
  exact if_pos (by rw [ht, h]; rfl)

/-- VGATH and VSCAT meet a stale stream, index row or row to store (R253). -/
theorem vIdxIssue_of_stale {load : Bool}
    (h : let data := if load then ((vCapture i t).d, (vopsOf i).d) else ((vCapture i t).a, (vopsOf i).a)
      let index := if load then ((vCapture i t).a, (vopsOf i).a) else ((vCapture i t).b, (vopsOf i).b)
      let lanes := (List.range (lineLen data.1 data.2)).filter fun k =>
        laneActive (vopsOf i).mask (vCapture i t).mask data.1.w k && decide (k < lineLen index.1 index.2)
      t.laneStale index.1 index.2 lanes = true ∨ (load = false ∧ t.laneStale data.1 data.2 lanes = true) ∨
        t.streamStale ((if load then (vopsOf i).b else (vopsOf i).d) % 16) = true) :
    vIdxIssue i load t c = t.trap c trapStale := by
  simp only [vIdxIssue, htrap, ht, Bool.true_and]
  refine if_pos ?_
  cases load <;> simpa [or_assoc] using h

end

theorem staleAtStorageIssue (p : Pre) (o : VOps) (s : State) (pit : Pitch) (t : Tile) (hat : s.At pit t)
    (ht : t.staleTrap = true) :
    let stops (i : Instr) : Prop := exec i s = .next (s.become pit (t.trap (s.ctxAt pit 2) trapStale))
    (∀ q ∈ [(Instr.vld p o, o.a), (.vst p o, o.d), (.vgath p o, o.b), (.vscat p o, o.d)], vTrap q.1 t (vCapture q.1 t) = none →
      t.streamStale (q.2 % 16) = true → stops q.1) ∧
    (∀ q ∈ [(Instr.vgath p o, true), (.vscat p o, false)], vTrap q.1 t (vCapture q.1 t) = none →
      let cap := vCapture q.1 t
      let data := if q.2 then (cap.d, o.d) else (cap.a, o.a)
      let index := if q.2 then (cap.a, o.a) else (cap.b, o.b)
      let lane (k : Nat) : Prop := k < lineLen data.1 data.2 ∧ laneActive o.mask cap.mask data.1.w k = true ∧
        k < lineLen index.1 index.2
      let stale (f : TDesc × Nat) (k : Nat) : Prop := t.rowCur (fieldTile f.2) (linePos f.1 f.2 k).1 = false
      (∃ k, lane k ∧ (stale index k ∨ (q.2 = false ∧ stale data k))) → stops q.1) := by
  intro stops
  have hstops {i : Instr} (hi : isVec i = true)
      (h : vIssue i (t.begun (preOfInstr i) (s.ctxAt pit 2)) (s.ctxAt pit 2) =
        (t.begun (preOfInstr i) (s.ctxAt pit 2)).trap (s.ctxAt pit 2) trapStale) : stops i := by
    simp only [stops, exec_vec hat hi, h, Tile.begun_trap]
  refine ⟨?_, ?_⟩
  · simp only [List.forall_mem_cons, List.not_mem_nil, IsEmpty.forall_iff, implies_true, and_true]
    exact ⟨fun htrap h => hstops rfl (vMemIssue_of_stale (t := t.begun _ _) (load := true) htrap ht h),
      fun htrap h => hstops rfl (vMemIssue_of_stale (t := t.begun _ _) (load := false) htrap ht h),
      fun htrap h => hstops rfl (vIdxIssue_of_stale (t := t.begun _ _) (load := true) htrap ht (.inr (.inr h))),
      fun htrap h => hstops rfl (vIdxIssue_of_stale (t := t.begun _ _) (load := false) htrap ht (.inr (.inr h)))⟩
  · rintro q hq htrap cap data index lane stale ⟨k, ⟨hdata, hactive, hindex⟩, hst⟩
    have hlane : k ∈ (List.range (lineLen data.1 data.2)).filter fun k =>
        laneActive o.mask cap.mask data.1.w k && decide (k < lineLen index.1 index.2) := by
      simp [hdata, hactive, hindex]
    have hreads : t.laneStale index.1 index.2 _ = true ∨ (q.2 = false ∧ t.laneStale data.1 data.2 _ = true) ∨
        t.streamStale ((if q.2 then o.b else o.d) % 16) = true :=
      hst.elim (fun h => .inl (Tile.laneStale_of_lane hlane hindex h))
        fun h => .inr (.inl ⟨h.1, Tile.laneStale_of_lane hlane hdata h.2⟩)
    simp only [List.mem_cons, List.not_mem_nil, or_false] at hq
    rcases hq with rfl | rfl
    · exact hstops rfl (vIdxIssue_of_stale (t := t.begun _ _) (load := true) htrap ht hreads)
    · exact hstops rfl (vIdxIssue_of_stale (t := t.begun _ _) (load := false) htrap ht hreads)

section
variable {t : Tile} {c : Ctx} {p : Pre} {o : VOps} {cap : Cap} {r : Nat} (ht : t.staleTrap = true)
include ht

theorem vQuantJob_of_stale {i : Instr} (hon : cap.aOn = true)
    (h : t.rowCur (fieldTile (vopsOf i).a) (if r < cap.d.rows then r else r - cap.d.rows) = false) :
    vQuantJob i cap r t c = t.trapAny (Tile.own c) c.iss t.tl trapStale := by
  rw [vQuantJob, if_pos]
  simpa [ht, hon] using h

theorem vTrnJob_of_stale (hr : r < cap.a.rows) (h : t.rowCur (fieldTile o.a) r = false) :
    vTrnJob (.vtrn p o) cap r t c = t.trapAny (Tile.own c) c.iss t.tl trapStale := by
  rw [vTrnJob, if_pos]
  simpa [ht, hr, vopsOf] using h

theorem vLdJob_of_stale {k a : Nat} (hk : k < lineLen cap.d (if gridWhole o.d then rowField o.d r else o.d))
    (hon : laneActive o.mask cap.mask cap.d.w k = true) (ha : cap.offs.getD r 0 + k * cap.d.w / 8 ≤ a)
    (hend : a < cap.offs.getD r 0 + k * cap.d.w / 8 + Nat.max 1 (cap.d.w / 8)) (h : t.spmCur (a / 64) = false) :
    vLdJob (.vld p o) cap r t c = t.trapAny (Tile.own c) c.iss t.tl trapStale := by
  rw [vLdJob, if_pos]
  simp only [ht, Bool.true_and, List.any_eq_true, List.mem_filter, List.mem_range]
  exact ⟨k, ⟨hk, hon⟩, by rw [lanePlace_eq _ _ cap.d.w_mem]; exact Tile.spmStale_of_byte ha hend h⟩

theorem vStJob_of_stale {k : Nat} (hk : k < lineLen cap.a (if gridWhole o.a then rowField o.a r else o.a))
    (hon : laneActive o.mask cap.mask cap.a.w k = true)
    (h : t.rowCur (fieldTile (if gridWhole o.a then rowField o.a r else o.a))
      (linePos cap.a (if gridWhole o.a then rowField o.a r else o.a) k).1 = false) :
    vStJob (.vst p o) cap r t c = t.trapAny (Tile.own c) c.iss t.tl trapStale := by
  rw [vStJob, if_pos]
  rw [ht, Bool.true_and]
  exact Tile.laneStale_of_lane (List.mem_filter.mpr ⟨List.mem_range.mpr hk, hon⟩) hk h

/-- A turn of VGATH that serves a stale granule, where no bank has a third granule (R253). -/
theorem vIdxJob_of_stale {l : List Nat} {g : Nat}
    (hl : (cap.offs.map fun a => (a, cap.d.w / 8)).flatMap (fun p => Tile.granules p.1 p.2) = l) (hbank : r = 0 → ¬ ThreeInBank l)
    (hg : g ∈ l) (hturn : (if l.find? (fun k => k % 16 == g % 16) = some g then 0 else 1) = r) (h : t.spmCur g = false) :
    vIdxJob (.vgath p o) true cap r t c = t.trapAny (Tile.own c) c.iss t.tl trapStale := by
  have hgrs : distinctGranules (cap.offs.map fun a => (a, cap.d.w / 8)) = l.foldl keepNew [] := by
    rw [distinctGranules_eq, hl]
  have hover : (r == 0 && bankOverflow (l.foldl keepNew [])) = false := by
    rw [Bool.eq_false_iff, Ne, Bool.and_eq_true, beq_iff_eq]
    rintro ⟨hr, hover⟩
    obtain ⟨x, hx, y, hy, z, hz, hthree⟩ := threeInBank_of_bankOverflow (nodup_foldl_keepNew List.nodup_nil) hover
    simp only [mem_foldl_keepNew, List.not_mem_nil, false_or] at hx hy hz
    exact hbank hr ⟨x, hx, y, hy, z, hz, hthree⟩
  simp only [vIdxJob, if_true, hgrs, hover, Bool.false_eq_true, if_false]
  refine if_pos ?_
  simp only [ht, Bool.true_and, List.any_eq_true, List.mem_filter, mem_foldl_keepNew, List.not_mem_nil, false_or, List.head?_filter,
    find?_foldl_keepNew, List.nil_append, beq_iff_eq, Bool.not_eq_true']
  exact ⟨g, ⟨hg, hturn⟩, h⟩

end

theorem vectorStaleReads : saysVectorStaleReads := by
  refine ⟨fun p o s pit t hat _ ht => staleAtStorageIssue p o s pit t hat ht, ?_⟩
  intro p o env t e cap r hV ht c stops row off on
  have happly {i : Instr} (heff : e.eff = .job i cap r) : applyEff env t e = vJob i cap r t c := by
    simp only [applyEff, heff, runJob, hV]
    rfl
  refine ⟨fun i hi heff hon hrow => ?_, fun heff hr hrow => ?_, fun heff => ?_, fun heff => ?_, fun heff hr hw => ?_⟩
  · simp only [List.mem_cons, List.not_mem_nil, or_false] at hi
    rcases hi with rfl | rfl
    · exact (happly heff).trans (vQuantJob_of_stale (i := .vqnt p o) ht hon hrow)
    · exact (happly heff).trans (vQuantJob_of_stale (i := .vts8 p o) ht hon hrow)
  · exact (happly heff).trans (vTrnJob_of_stale ht hr hrow)
  · rintro ⟨k, a, ⟨hk, hon⟩, ha, hend, h⟩
    exact (happly heff).trans (vLdJob_of_stale ht hk hon ha hend h)
  · rintro ⟨k, ⟨hk, hon⟩, h⟩
    exact (happly heff).trans (vStJob_of_stale ht hk hon h)
  · rintro z reached turn third hbank ⟨g, hg, hturn, h⟩
    have hl : (cap.offs.map fun a => (a, cap.d.w / 8)).flatMap (fun p => Tile.granules p.1 p.2) = reached := by
      rw [List.flatMap_map]
      refine List.flatMap_congr fun a _ => ?_
      have hz : cap.d.w / 8 ≠ 0 := by omega
      have hspan : (a + z - 1) / 64 - a / 64 + 1 = (a + z - 1) / 64 + 1 - a / 64 := by
        have : a / 64 ≤ (a + z - 1) / 64 := Nat.div_le_div_right (by omega)
        omega
      rw [Tile.granules, if_neg (by simpa using hz)]
      exact congrArg (fun n => (List.range n).map fun k => a / 64 + k) hspan
    exact (happly heff).trans (vIdxJob_of_stale ht hl hbank hg hturn h)

/-- Settles O26: the table of formats, the traps at issue, and the stale reads of the storage instructions and of rows. -/
theorem vectorTraps : Obligations.VectorTraps := ⟨formats, vectorIssueTraps, vectorStaleReads⟩

end Sys2Proof.Machine

/-! Slice semaphores from the host, the debug window and the protected interface (R98, R106, R375, R396, R397, R420). -/

namespace Sys2Proof.Machine

theorem fld_zero (v n : Nat) : fld v 0 n = v % 2 ^ n := by rw [fld, Nat.pow_zero, Nat.div_one]

/-- A debug access ends: BUSY clears, a read leaves its bytes in the window (R397). -/
def State.debugEnd (s : State) (n : Nat) (sl : Slice) (data : List Byte) (cur : Bool) : State :=
  s.onSlice n fun q => { q with
    dbgBusy := false, dbgData := if fld sl.dbgCtl 62 2 == 2 then q.dbgData else data, dbgNot := !cur }

/-- The launch that a debug access names (R397). -/
def State.debugLaunch (s : State) (n : Nat) (sl : Slice) : Option Launch :=
  s.launches.find? fun l => l.slice == n && l.chain == fld sl.dbgCtl 42 3 && l.index == fld sl.dbgCtl 0 32

section
variable {n k v : Nat} {s : State} {sl : Slice} (hsl : s.slice? n = some sl)
include hsl

theorem exec_sliceSemSet : exec (.sliceSemSet n k v) s = .next ((s.putSlice (sl.setSem k
    { count := v % 2 ^ 32, ceiling := v / 2 ^ 32 % 2 ^ 32, arrive := (sl.sem k).arrive })).wake n) := by
  simp only [exec, execSliceSemSet, hsl, fld_zero]
  rfl

theorem exec_sliceSemHostPost_of_room (h : (sl.sem k).count + v % 2 ^ 32 ≤ (sl.sem k).ceiling) : exec (.sliceSemHostPost n k v) s =
    .next ((s.putSlice (sl.setSem k { sl.sem k with count := (sl.sem k).count + v % 2 ^ 32 })).wake n) := by
  have hpost : (sl.sem k).post (v % 2 ^ 32) = ({ sl.sem k with count := (sl.sem k).count + v % 2 ^ 32 }, .done none) :=
    if_neg (Nat.not_lt.mpr h)
  simp only [exec, execSliceSemHostPost, hsl, fld_zero, hpost]

theorem exec_sliceSemHostPost_of_full (h : (sl.sem k).ceiling < (sl.sem k).count + v % 2 ^ 32) :
    exec (.sliceSemHostPost n k v) s = .next (s.putSlice { sl with ttStat := sl.ttStat ||| 2 }) := by
  have hpost : (sl.sem k).post (v % 2 ^ 32) =
      (sl.sem k, .trap trapCeiling (data64 (((sl.sem k).count + v % 2 ^ 32 : Nat) : Int))) := if_pos h
  simp only [exec, execSliceSemHostPost, hsl, fld_zero, hpost]

theorem exec_debugAccessDone_idle (h : sl.dbgBusy = false) : exec (.debugAccessDone n) s = .next s := by
  simp only [exec, execDebugAccessDone, hsl, h, Bool.not_false, if_true]

variable (hbusy : sl.dbgBusy = true)
include hbusy

theorem exec_debugAccessDone_refused (h : sl.mayDebug = false ∨ s.debugLaunch n sl = none) :
    exec (.debugAccessDone n) s = .next (s.debugEnd n sl (zeroBytes 64) false) := by
  simp only [State.debugLaunch] at h
  simp only [exec, execDebugAccessDone, hsl, hbusy, Bool.not_true, Bool.false_eq_true, if_false]
  rcases h with h | h
  · rw [h]
    rfl
  · rw [h]
    split
    · contradiction
    · rfl

variable (hmay : sl.mayDebug = true) {l : Launch} (hl : s.debugLaunch n sl = some l)
include hmay hl

theorem exec_debugAccessDone_no_hamper (hkind : fld sl.dbgCtl 60 2 = 2) (hh : l.hamper = none) :
    exec (.debugAccessDone n) s = .next (s.debugEnd n sl (zeroBytes 64) false) := by
  simp only [State.debugLaunch] at hl
  simp only [exec, execDebugAccessDone, hsl, hbusy, Bool.not_true, Bool.false_eq_true, if_false, hmay, hl, hkind,
    beq_self_eq_true, if_true, hh]
  rfl

/-- A debug access to the image of a hamper: a write does nothing, a read gives its bytes (R397; notes/assumptions/56.md). -/
theorem exec_debugAccessDone_hamper {h : Pitch} (hkind : fld sl.dbgCtl 60 2 = 2) (hh : l.hamper = some h) :
    exec (.debugAccessDone n) s = .next (if fld sl.dbgCtl 62 2 == 2 then s.debugEnd n sl [] false else s.debugEnd n sl
      (fit 64 (((if l.kind == 2 then l.plain else s.hamperPlain l h).drop (sl.dbgAddr / 64 * 64)).take 64)) true) := by
  simp only [State.debugLaunch] at hl
  simp only [exec, execDebugAccessDone, hsl, hbusy, Bool.not_true, Bool.false_eq_true, if_false, hmay, hl, hkind,
    beq_self_eq_true, if_true, hh]
  rfl

variable (hkind : (fld sl.dbgCtl 60 2 == 2) = false)
include hkind

theorem exec_debugAccessDone_no_pitch (hp : s.pitch? l.id = none) :
    exec (.debugAccessDone n) s = .next (s.debugEnd n sl (zeroBytes 64) false) := by
  simp only [State.debugLaunch] at hl
  simp only [exec, execDebugAccessDone, hsl, hbusy, Bool.not_true, Bool.false_eq_true, if_false, hmay, hl, hkind, hp]
  rfl

variable {p : Pitch} (hp : s.pitch? l.id = some p)
include hp

theorem exec_debugAccessDone_no_tile (h : p.img.w ≤ fld sl.dbgCtl 48 6 ∨
      p.tiles[fld sl.dbgCtl 54 6 * p.img.w + fld sl.dbgCtl 48 6]? = none) :
    exec (.debugAccessDone n) s = .next (s.debugEnd n sl (zeroBytes 64) false) := by
  simp only [State.debugLaunch] at hl
  simp only [exec, execDebugAccessDone, hsl, hbusy, Bool.not_true, Bool.false_eq_true, if_false, hmay, hl, hkind, hp]
  rcases h with h | h
  · rw [decide_eq_false (Nat.not_lt.mpr h)]
    split
    · contradiction
    · rfl
  · rw [h]
    rfl

/-- A debug access to a tile: it waits while the tile clears or its bank is served (R97, R397). -/
theorem exec_debugAccessDone_tile {t : Tile} (hx : fld sl.dbgCtl 48 6 < p.img.w)
    (ht : p.tiles[fld sl.dbgCtl 54 6 * p.img.w + fld sl.dbgCtl 48 6]? = some t) :
    exec (.debugAccessDone n) s = .next
      (if t.clearing.isSome || (fld sl.dbgCtl 60 2 == 0 && t.banksNow.contains (sl.dbgAddr / 64 % 16)) then s
      else if fld sl.dbgCtl 62 2 == 2 then
        (s.onTile p.id (fld sl.dbgCtl 54 6 * p.img.w + fld sl.dbgCtl 48 6) fun t =>
          t.debugPut (fld sl.dbgCtl 60 2) sl.dbgAddr sl.dbgData).debugEnd n sl [] (t.debugGet (fld sl.dbgCtl 60 2) sl.dbgAddr).2
      else s.debugEnd n sl (t.debugGet (fld sl.dbgCtl 60 2) sl.dbgAddr).1 (t.debugGet (fld sl.dbgCtl 60 2) sl.dbgAddr).2) := by
  simp only [State.debugLaunch] at hl
  simp only [exec, execDebugAccessDone, hsl, hbusy, Bool.not_true, Bool.false_eq_true, if_false, hmay, hl, hkind, hp,
    ht, decide_eq_true hx, State.debugEnd]
  split_ifs <;> rfl

end

theorem exec_debugStart (n v : Nat) (s : State) : exec (.debugRead n v) s = .next (s.debugStart n v) ∧
    exec (.debugWrite n v) s = .next (s.debugStart n v) := ⟨rfl, rfl⟩

/-- Settles O49: each register by the equations of its instruction. -/
theorem sliceRegisters : Obligations.SliceRegisters := by
  intro n k v s sl hsl out old fields start write kind x y may finish zeros named
  have hfinish (z : State) (data : List Byte) (cur : Bool) : z.debugEnd n sl data cur = finish z data cur := by
    simp only [State.debugEnd, finish, write, beq_iff_eq]
    rfl
  have hwrite : (fld sl.dbgCtl 62 2 == 2) = true ↔ write := beq_iff_eq
  have hnamed : s.debugLaunch n sl = named := by simp only [State.debugLaunch, fld_zero, named]; rfl
  have hstart : s.debugStart n v = s.onSlice n start := by
    simp only [State.debugStart, dbgFields, fld_zero, start, fields, Bool.or_eq_true, beq_iff_eq]
    rfl
  refine ⟨exec_sliceSemSet hsl, exec_sliceSemHostPost_of_room hsl, exec_sliceSemHostPost_of_full hsl,
    hstart ▸ (exec_debugStart n v s).1, hstart ▸ (exec_debugStart n v s).2, exec_debugAccessDone_idle hsl, fun hbusy h => ?_,
    fun l hbusy hmay hl => ⟨fun hkind hh => ?_, fun h hkind hh hw => ?_, fun h hkind hh hw => ?_, fun hkind hp => ?_,
      fun p hkind hp => ⟨fun h => ?_, fun t hx ht => ?_⟩⟩, ?_, fun hprot hlock => ?_, fun h => ?_, fun h => ?_, fun h => ?_⟩
  · rw [exec_debugAccessDone_refused hsl hbusy (hnamed.symm ▸ h), hfinish]
    rfl
  · rw [exec_debugAccessDone_no_hamper hsl hbusy hmay (hnamed.trans hl) hkind hh, hfinish]
    rfl
  · rw [exec_debugAccessDone_hamper hsl hbusy hmay (hnamed.trans hl) hkind hh, if_pos (hwrite.mpr hw), hfinish]
  · rw [exec_debugAccessDone_hamper hsl hbusy hmay (hnamed.trans hl) hkind hh, if_neg (mt hwrite.mp hw), hfinish]
    simp only [beq_iff_eq]
    rfl
  · rw [exec_debugAccessDone_no_pitch hsl hbusy hmay (hnamed.trans hl) (beq_eq_false_iff_ne.mpr hkind) hp, hfinish]
    rfl
  · rw [exec_debugAccessDone_no_tile hsl hbusy hmay (hnamed.trans hl) (beq_eq_false_iff_ne.mpr hkind) hp h, hfinish]
    rfl
  · intro wait got
    have hwait : (t.clearing.isSome || (fld sl.dbgCtl 60 2 == 0 && t.banksNow.contains (sl.dbgAddr / 64 % 16))) = true ↔ wait := by
      simp only [Bool.or_eq_true, Bool.and_eq_true, beq_iff_eq, List.contains_iff_mem, Option.isSome_iff_ne_none]
      rfl
    rw [exec_debugAccessDone_tile hsl hbusy hmay (hnamed.trans hl) (beq_eq_false_iff_ne.mpr hkind) hp hx ht]
    refine ⟨fun h => ?_, fun h hw => ?_, fun h hw => ?_⟩
    · rw [if_pos (hwait.mpr h)]
    · rw [if_neg (mt hwait.mp h), if_pos (hwrite.mpr hw), hfinish]
      rfl
    · rw [if_neg (mt hwait.mp h), if_neg (mt hwrite.mp hw), hfinish]
      rfl
  · simp only [exec, execTdispLockInterface, Bool.and_eq_true, beq_iff_eq, out]
  · simp only [exec, execTdispRun, hsl, hprot, hlock, beq_self_eq_true, Bool.and_self, if_true, out]
  · have hno : (sl.prot && sl.tdisp == .locked) = false := by rcases h with h | h <;> simp [h]
    simp only [exec, execTdispRun, hsl, hno, Bool.false_eq_true, if_false, out]
  · simp only [exec, execTdispError, hsl, h, beq_self_eq_true, if_true, out]
  · simp only [exec, execTdispError, hsl, beq_iff_eq, h, if_false, out]

end Sys2Proof.Machine

/-! Messages of remote and slice synchronisation, their replies, and fabric posts (R92, R105, R139, R140, R292 to R299, R303). -/

namespace Sys2Proof.Machine

/-- A look-up by key after a change of some items that keeps their keys. -/
theorem find?_mapIf {α : Type} {key : α → Nat} {p : α → Bool} {f : α → α} (l : List α) (n : Nat)
    (hf : ∀ x, p x = true → key (f x) = key x) :
    (mapIf p f l).find? (fun q => key q == n) = (l.find? fun q => key q == n).map fun x => if p x then f x else x := by
  have hkey : (fun q => key q == n) ∘ (fun q => if p q then f q else q) = fun q => key q == n := by
    funext q
    cases hp : p q <;> simp [hp, hf q]
  simp only [mapIf, List.find?_map, hkey]

theorem find?_filter_ne {α : Type} (key : α → Nat) (l : List α) (n : Nat) :
    (l.filter fun q => key q != n).find? (fun q => key q == n) = none := by
  simp

/-- The pitch `n` after a change of a tile of the pitch `m`. -/
theorem State.pitch?_onTile (s : State) (m k n : Nat) (f : Tile → Tile) : (s.onTile m k f).pitch? n =
    (s.pitch? n).map fun p => if p.id == m then { p with tiles := p.tiles.modify k f } else p :=
  find?_mapIf (key := Pitch.id) s.pitches n fun _ _ => rfl

theorem State.tile?_onTile {s : State} {n k : Nat} {t : Tile} (f : Tile → Tile) (h : s.tile? n k = some t) :
    (s.onTile n k f).tile? n k = some (f t) := by
  unfold State.tile? at h ⊢
  rw [State.pitch?_onTile]
  split at h
  · next p hp => simp [hp, State.pitch?_id hp, h]
  · contradiction

theorem State.msg?_dropMsg (s : State) (n : Nat) : (s.dropMsg n).msg? n = none := find?_filter_ne Msg.id s.msgs n

theorem Tile.halted_xTrap (t : Tile) (off code info data : Nat) (wr : Bool) :
    ((t.xTrap off code info data wr).engOf .X).halted = true := by
  rw [Tile.xTrap, Tile.engOf_setEng, if_pos rfl]

/-- X goes on past a wait by effects of the end of the cycle alone. -/
theorem finishWait_eq_grow (env : Env) (t : Tile) : ∃ l, finishWait env t = t.grow [] l := by
  unfold finishWait
  dsimp only
  split
  · exact ⟨[], t.grow_nil.symm⟩
  · split
    · exact ⟨[], t.grow_nil.symm⟩
    · exact ⟨_, (issue_eq ..).trans (Tile.begun_eq_grow ..)⟩

/-- The tile that asked, with the reply charged and the message forgotten (R280, R298). -/
def Msg.asked (m : Msg) (env : Env) (t0 : Tile) : Tile :=
  let t := chargeReply env m t0
  { t with xs := { t.xs with
    slots := t.xs.slots - 1
    asks := t.xs.asks.filter fun k => k != m.id
    waiting := if t.xs.waiting == some m.id then none else t.xs.waiting
    busyRegs := match m.rd with
      | some d => t.xs.busyRegs.erase d
      | none => t.xs.busyRegs } }

/-- What the slice-semaphore unit answers a message: one whose tile has stopped waits (R298, R299). -/
def Pitch.answer (p : Pitch) (m : Msg) (v : Sem) : Sem × SemOut := if p.stopped m then (v, .wait) else sliceApply v m.op

/-- The tile that posted, after the acknowledgement or the refusal (R292, R293). -/
def Msg.acked (m : Msg) (refused : Option Nat) (t : Tile) : Tile :=
  let v := { t with xs := { t.xs with slots := t.xs.slots - 1, asks := t.xs.asks.filter fun k => k != m.id } }
  match refused with
  | none => v
  | some d => v.xTrap m.off trapCeiling m.off d false

/-- The register that a reply writes (R298). -/
def Msg.write (m : Msg) (w : Nat) (t : Tile) : Tile :=
  match m.rd, m.result w with
  | some d, some v => t.setX d v
  | _, _ => t

/-- The tile that asked, after a reply (R106, R286, R298). -/
def Msg.replied (m : Msg) (env : Env) (w : Nat) (t : Tile) : Tile :=
  match m.trap with
  | some (code, data) => (m.asked env t).xTrap m.off code m.off data false
  | none => if m.wait then finishWait env (m.write w (m.asked env t)) else m.write w (m.asked env t)

section
variable (m : Msg) (env : Env) (w : Nat) (t : Tile)

theorem Msg.asked_frame : (m.asked env t).xs.slots = t.xs.slots - 1 ∧
    (m.asked env t).xs.asks = (t.xs.asks.filter fun k => k != m.id) ∧ (m.asked env t).traps = t.traps ∧
    (m.asked env t).tl = t.tl ∧ (m.asked env t).gen = t.gen := by
  cases hd : m.dest <;> simp [Msg.asked, chargeReply, hd, chargeMessage]

theorem Msg.write_xs : (m.write w t).xs = t.xs := by
  unfold Msg.write
  split <;> simp

theorem Msg.replied_xs : (m.replied env w t).xs = (m.asked env t).xs := by
  unfold Msg.replied
  split
  · rfl
  · split
    · obtain ⟨l, hl⟩ := finishWait_eq_grow env (m.write w (m.asked env t))
      rw [hl]
      exact m.write_xs w _
    · exact m.write_xs w _

variable {m}

theorem Msg.replied_of_trap {code data : Nat} (h : m.trap = some (code, data)) :
    m.replied env w t = (m.asked env t).xTrap m.off code m.off data false := by
  simp only [Msg.replied, h]

theorem Msg.replied_reg {d : Nat} {v : Word} (htrap : m.trap = none) (hrd : m.rd = some d) (hd : d < 16) (hgen : t.gen ≠ 0)
    (hv : m.result w = some v) : (m.replied env w t).reg .X d = v := by
  have hwrite : m.write w (m.asked env t) = (m.asked env t).setX d v := by simp only [Msg.write, hrd, hv]
  have hreg : ((m.asked env t).setX d v).reg .X d = v := by
    obtain ⟨-, -, -, -, hg⟩ := m.asked_frame env t
    rw [Tile.reg_setX (hg ▸ hgen) hd, if_pos rfl]
  simp only [Msg.replied, htrap, hwrite]
  split
  · obtain ⟨l, hl⟩ := finishWait_eq_grow env ((m.asked env t).setX d v)
    rw [hl]
    exact hreg
  · exact hreg

end

section
variable {s : State} {m : Msg} {p : Pitch} (hm : s.msg? m.id = some m) (hp : s.pitch? m.pitch = some p)
include hm

section
include hp

section
variable {k : Nat} {t : Tile} (hdest : m.dest = .tile k) (hgoing : m.phase = .going) (ht : p.tiles[k]? = some t)
include hdest hgoing ht

theorem exec_remoteSyncArrival_clearing (h : t.clearing ≠ none) : exec (.remoteSyncArrival m.id) s = .next s := by
  simp only [exec, execRemoteSyncArrival, hm, hdest, hgoing, hp, ht, Option.isSome_iff_ne_none.mpr h, if_true]

theorem exec_remoteSyncArrival_stale (hc : t.clearing = none) (h : t.pitchGen ≠ m.pgen) :
    exec (.remoteSyncArrival m.id) s = .next ((s.onTile m.pitch k Tile.staleArrival).dropMsg m.id) := by
  simp only [exec, execRemoteSyncArrival, hm, hdest, hgoing, hp, ht, hc, Option.isSome_none, Bool.false_eq_true, if_false,
    bne_iff_ne.mpr h, if_true]

theorem exec_remoteSyncArrival_current (hc : t.clearing = none) (h : t.pitchGen = m.pgen) :
    exec (.remoteSyncArrival m.id) s = .next (if waitsAt m.op = true then s.putMsg { m with phase := .trying }
      else (s.putMsg { m with phase := .trying }).onTile m.pitch k
        (stageRemote m (p.tiles.getD m.tile {}).y (p.tiles.getD m.tile {}).x)) := by
  simp only [exec, execRemoteSyncArrival, hm, hdest, hgoing, hp, ht, hc, h, Option.isSome_none, Bool.false_eq_true, if_false,
    bne_self_eq_false]
  split <;> rfl

end

theorem exec_remoteSyncReply_back (h : m.phase = .back) : exec (.remoteSyncReply m.id) s =
    .next ((s.onTile m.pitch m.tile (m.replied (s.envOf p m.tile) p.img.w)).dropMsg m.id) := by
  simp only [exec, execRemoteSyncReply, hm, h, hp]
  rfl

section
variable {sl : Slice} {k : Nat} (hsl : s.slice? p.slice = some sl)
  (hdest : m.dest = .slice k ∨ ∃ pkg dst, m.dest = .fabric pkg dst k) (hphase : (m.phase == .back) = false)
include hsl hdest hphase

variable {z : Sem}

theorem exec_sliceSemOp_wait (h : p.answer m (sl.sem k) = (z, .wait)) :
    exec (.sliceSemOp m.id) s = .next (s.putMsg { m with phase := .trying }) := by
  simp only [Pitch.answer] at h
  simp only [exec, execSliceSemOp, hm, hp, hsl, hphase]
  obtain hd | ⟨pkg, dst, hd⟩ := hdest <;> simp only [hd, h]

theorem exec_sliceSemOp_done {v : Option Word} (h : p.answer m (sl.sem k) = (z, .done v)) : exec (.sliceSemOp m.id) s =
    .next (((s.putSlice (sl.setSem k z)).putMsg { m with phase := .back, val := v }).wake p.slice) := by
  simp only [Pitch.answer] at h
  simp only [exec, execSliceSemOp, hm, hp, hsl, hphase]
  obtain hd | ⟨pkg, dst, hd⟩ := hdest <;> simp only [hd, h]

theorem exec_sliceSemOp_trap {code data : Nat} (h : p.answer m (sl.sem k) = (z, .trap code data)) :
    exec (.sliceSemOp m.id) s = .next (s.putMsg { m with phase := .back, trap := some (code, data) }) := by
  simp only [Pitch.answer] at h
  simp only [exec, execSliceSemOp, hm, hp, hsl, hphase]
  obtain hd | ⟨pkg, dst, hd⟩ := hdest <;> simp only [hd, h]

end
end

theorem exec_fabricPostAck {pkg dst k : Nat} {refused : Option Nat} (hd : m.dest = .fabric pkg dst k) :
    exec (.fabricPostAck m.id refused) s = .next ((s.onTile m.pitch m.tile (m.acked refused)).dropMsg m.id) := by
  simp only [exec, execFabricPostAck, hm, hd]
  rfl

end

theorem Slice.bound_iff (q : Slice) (pkg src : Nat) : q.bound pkg src = true ↔ (pkg, src) ∈ q.bind := by
  simp only [Slice.bound, List.any_eq_true, Bool.and_eq_true, beq_iff_eq]
  exact ⟨fun ⟨_, hb, h1, h2⟩ => h1 ▸ h2 ▸ hb, fun h => ⟨_, h, rfl, rfl⟩⟩

section
variable {s : State} {q : Slice} {r : PostRoute} {ss amt : Nat} (hq : s.slice? r.slice = some q)
include hq

theorem exec_fabricPostDelivery_of_room (hb : (r.pkg, r.src) ∈ q.bind) (h : (q.sem ss).count + amt ≤ (q.sem ss).ceiling) :
    exec (.fabricPostDelivery r ss amt) s =
      .next ((s.putSlice (q.setSem ss { q.sem ss with count := (q.sem ss).count + amt })).wake r.slice) := by
  have hpost : (q.sem ss).post amt = ({ q.sem ss with count := (q.sem ss).count + amt }, .done none) :=
    if_neg (Nat.not_lt.mpr h)
  simp only [exec, execFabricPostDelivery, hq, (q.bound_iff _ _).mpr hb, hpost, Bool.not_true, Bool.false_eq_true, if_false]

theorem exec_fabricPostDelivery_refused (h : (r.pkg, r.src) ∉ q.bind ∨ (q.sem ss).ceiling < (q.sem ss).count + amt) :
    exec (.fabricPostDelivery r ss amt) s = .next s := by
  by_cases hb : (r.pkg, r.src) ∈ q.bind
  · have hpost : (q.sem ss).post amt =
        (q.sem ss, .trap trapCeiling (data64 (((q.sem ss).count + amt : Nat) : Int))) := if_pos (h.resolve_left (not_not.mpr hb))
    simp only [exec, execFabricPostDelivery, hq, hpost, ite_self]
  · have hb' : q.bound r.pkg r.src = false := Bool.eq_false_iff.mpr (mt (q.bound_iff _ _).mp hb)
    simp only [exec, execFabricPostDelivery, hq, hb', Bool.not_false, if_true]

end

theorem Pitch.answer_of_stopped {p : Pitch} {m : Msg} (v : Sem) (h : p.stopped m = true) : p.answer m v = (v, .wait) := if_pos h

theorem Pitch.answer_of_not_stopped {p : Pitch} {m : Msg} (v : Sem) (h : p.stopped m = false) :
    p.answer m v = sliceApply v m.op := if_neg (by rw [h]; exact Bool.false_ne_true)

theorem Pitch.stopped_iff (p : Pitch) (m : Msg) : p.stopped m = true ↔
    waitsAt m.op = true ∧ (p.allStopped = true ∨ (p.tiles.getD m.tile {}).mode = .frozen) := by
  simp only [Pitch.stopped, Bool.and_eq_true, Bool.or_eq_true, beq_iff_eq]

/-- What a reply leaves in the tile that asked (R106, R139, R298, R303). -/
theorem exec_remoteSyncReply_leaves {s : State} {m : Msg} {p : Pitch} {t : Tile} (hm : s.msg? m.id = some m)
    (hp : s.pitch? m.pitch = some p) (hback : m.phase = .back) (ht : p.tiles[m.tile]? = some t) :
    ∃ z, exec (.remoteSyncReply m.id) s = .next z ∧ z.msg? m.id = none ∧
      z.tile? m.pitch m.tile = some (m.replied (s.envOf p m.tile) p.img.w t) := by
  have htile : s.tile? m.pitch m.tile = some t := by simp only [State.tile?, hp, ht]
  exact ⟨_, exec_remoteSyncReply_back hm hp hback, State.msg?_dropMsg _ _, State.tile?_onTile _ htile⟩

/-- Settles O60: each event by its own equation; a reply through what it leaves in the tile that asked. -/
theorem messages : Obligations.Messages := by
  unfold Obligations.Messages
  intro s m p sl ss amt refused hm hp hsl out asker stops
  have hstops : stops ↔ p.stopped m = true := (p.stopped_iff m).symm
  refine ⟨fun k t hd hg ht => ⟨exec_remoteSyncArrival_clearing hm hp hd hg ht, exec_remoteSyncArrival_stale hm hp hd hg ht,
    exec_remoteSyncArrival_current hm hp hd hg ht⟩, ?_, ?_, ?_, ?_, fun pkg dst k hd => exec_fabricPostAck hm hd⟩
  · intro k hd hph
    have hph' := beq_eq_false_iff_ne.mpr hph
    have hgoes (h : ¬ stops) : p.answer m (sl.sem k) = sliceApply (sl.sem k) m.op :=
      Pitch.answer_of_not_stopped _ (Bool.eq_false_iff.mpr (mt hstops.mpr h))
    refine ⟨fun h => exec_sliceSemOp_wait hm hp hsl hd hph' (Pitch.answer_of_stopped _ (hstops.mp h)), fun z hz => ?_,
      fun z v h hz => exec_sliceSemOp_done hm hp hsl hd hph' ((hgoes h).trans hz),
      fun z code data h hz => exec_sliceSemOp_trap hm hp hsl hd hph' ((hgoes h).trans hz)⟩
    by_cases h : stops
    · exact exec_sliceSemOp_wait hm hp hsl hd hph' (Pitch.answer_of_stopped _ (hstops.mp h))
    · exact exec_sliceSemOp_wait hm hp hsl hd hph' ((hgoes h).trans hz)
  · intro hph
    cases hc : m.phase with
    | back => exact absurd hc hph
    | going => simp only [exec, execRemoteSyncReply, hm, hc]; rfl
    | trying => simp only [exec, execRemoteSyncReply, hm, hc]; rfl
  · intro t hback ht
    obtain ⟨z, hz, hmsg, htile⟩ := exec_remoteSyncReply_leaves hm hp hback ht
    obtain ⟨hslots, hasks, htraps, htl, -⟩ := m.asked_frame (s.envOf p m.tile) t
    refine ⟨z, _, hz, hmsg, htile, ?_, ?_, fun code data htrap => ?_, fun d w htrap hrd hd hgen hval => ?_⟩
    · rw [Msg.replied_xs, hslots]
    · rw [Msg.replied_xs, hasks]
    · rw [Msg.replied_of_trap _ _ _ htrap]
      exact ⟨_, congrArg (· ++ _) htraps, htl, rfl, rfl, rfl, rfl, Tile.halted_xTrap ..⟩
    · refine Msg.replied_reg _ _ _ htrap hrd hd hgen ?_
      unfold Msg.result
      rw [hval]
      split <;> simp_all
  · intro q r hq old bound
    exact ⟨exec_fabricPostDelivery_of_room hq, exec_fabricPostDelivery_refused hq⟩

end Sys2Proof.Machine

/-! Copies: look-ups, and what their steps change (R127, R130, R133, R427). -/

namespace Sys2Proof.Machine

theorem State.copy?_id {s : State} {n : Nat} {c : CopyRec} (h : s.copy? n = some c) : c.id = n := by
  simpa using List.find?_some h

theorem State.copy?_congr {s z : State} (h : z.copies = s.copies) (n : Nat) : z.copy? n = s.copy? n := by
  simp only [State.copy?, h]

theorem State.copy?_putCopy {s : State} {c d : CopyRec} {n : Nat} (h : s.copy? n = some c) (hd : d.id = n) :
    (s.putCopy d).copy? n = some d := by
  subst hd
  exact find?_mapIf_same h rfl

theorem State.tile?_congr {s z : State} (h : z.pitches = s.pitches) (n k : Nat) : z.tile? n k = s.tile? n k := by
  simp only [State.tile?, State.pitch?, h]

/-- A change of a tile as any tile sees it. -/
theorem State.tile?_onTile_eq (s : State) (m j n k : Nat) (f : Tile → Tile) :
    (s.onTile m j f).tile? n k = if n = m ∧ j = k then (s.tile? n k).map f else s.tile? n k := by
  unfold State.tile?
  rw [State.pitch?_onTile]
  cases hp : s.pitch? n with
  | none => simp
  | some p =>
    have hid := State.pitch?_id hp
    by_cases hn : n = m <;> by_cases hk : j = k <;> simp [hid, hn, hk]

/-- A change of one tile leaves another as it was. -/
theorem State.tile?_onTile_or {s : State} {n k : Nat} {t : Tile} (h : s.tile? n k = some t) (m j : Nat) (f : Tile → Tile) :
    (s.onTile m j f).tile? n k = some t ∨ (s.onTile m j f).tile? n k = some (f t) := by
  rw [State.tile?_onTile_eq, h]
  by_cases hk : n = m ∧ j = k
  · exact .inr (if_pos hk)
  · exact .inl (if_neg hk)

/-- Requests of one identity, changed. -/
theorem mapIf_reqs (l : List Req) (n : Nat) (f : Req → Req) :
    mapIf (fun q => q.id == n) f l = l.map fun q => if q.id = n then f q else q :=
  List.map_congr_left fun q _ => by simp only [beq_iff_eq]

theorem State.mayUse_iff {s : State} {c : CopyRec} {sd : Side} : s.mayUse c sd = true ↔
    (CopyRec.locOf sd = some 1 → ∃ sl, s.slice? c.slice = some sl ∧ sl.active = true) := by
  cases hs : s.slice? c.slice with
  | none => simp [State.mayUse, hs]
  | some sl =>
    by_cases hl : CopyRec.locOf sd = some 1 <;> simp [State.mayUse, hs, hl]

/-! What the steps of a copy change: its record, the tiles, and the supply of identities. -/

/-- The parts that bytes of a copy join are all that they change of it. -/
theorem gatherParts_eq (c : CopyRec) (m k ph g : Nat) (bs : List (Nat × Option Nat)) :
    ∃ ps, (gatherParts c m k ph g bs).1 = { c with parts := ps } := by
  unfold gatherParts
  refine List.foldlRecOn (motive := fun r : CopyRec × Nat => ∃ ps, r.1 = { c with parts := ps }) bs _ ⟨c.parts, rfl⟩ ?_
  rintro ⟨_, m⟩ ⟨ps, rfl⟩ b -
  dsimp only
  split <;> exact ⟨_, rfl⟩

/-- Bytes that reach the destination of a copy change its parts, and take identities for new ones. -/
theorem State.toParts_eq (s : State) (c : CopyRec) (g : Nat) (bs : List (Nat × Option Nat)) :
    ∃ ps m, s.toParts c g bs = ({ s with fresh := m }, { c with parts := ps }) := by
  obtain ⟨ps, hps⟩ : ∃ ps, (c.spmDst.1.foldl (fun (r : CopyRec × Nat) k =>
      gatherParts r.1 r.2 k ((s.placeOf c k).getD 0) g bs) (c, s.fresh)).1 = { c with parts := ps } := by
    refine List.foldlRecOn (motive := fun r : CopyRec × Nat => ∃ ps, r.1 = { c with parts := ps }) _ _ ⟨c.parts, rfl⟩ ?_
    rintro ⟨_, m⟩ ⟨ps, rfl⟩ k -
    exact gatherParts_eq { c with parts := ps } m k _ g bs
  refine ⟨(s.toParts c g bs).2.parts, (s.toParts c g bs).1.fresh, Prod.ext rfl ?_⟩
  unfold State.toParts
  dsimp only
  rw [hps]

section
variable (s : State) (c : CopyRec) (n : Nat)

/-- What freeing slots leaves. -/
theorem State.freeSlots_frame : (s.freeSlots c n).copies = s.copies ∧ (s.freeSlots c n).host = s.host ∧
    (s.freeSlots c n).hbm = s.hbm ∧ (c.left ≠ [] → (s.freeSlots c n).pitches = s.pitches) := by
  unfold State.freeSlots
  split <;> simp_all

theorem State.freeSlots_copy? (k : Nat) : (s.freeSlots c n).copy? k = s.copy? k :=
  State.copy?_congr (s.freeSlots_frame c n).1 k

theorem State.freeSlots_of_left (h : c.left = []) : s.freeSlots c n =
    s.onTile c.pitch c.tile fun t => { t with xs := { t.xs with slots := t.xs.slots - n } } := by
  simp only [State.freeSlots, h, List.isEmpty_nil, if_true]

end

/-- A state that differs in charges, ports and slices: the copies, the memories, the seams and the work of every tile's X stand. -/
structure State.SameWork (s z : State) : Prop where
  copies : z.copies = s.copies
  host : z.host = s.host
  hbm : z.hbm = s.hbm
  dev : z.dev = s.dev
  tiles : ∀ n k t, s.tile? n k = some t → ∃ v, z.tile? n k = some v ∧ v.xs = t.xs

theorem State.SameWork.refl (s : State) : s.SameWork s := ⟨rfl, rfl, rfl, rfl, fun _ _ t h => ⟨t, h, rfl⟩⟩

theorem State.SameWork.trans {a b c : State} (h : a.SameWork b) (h' : b.SameWork c) : a.SameWork c where
  copies := h'.copies.trans h.copies
  host := h'.host.trans h.host
  hbm := h'.hbm.trans h.hbm
  dev := h'.dev.trans h.dev
  tiles n k t ht := by
    obtain ⟨v, hv, hxs⟩ := h.tiles n k t ht
    obtain ⟨w, hw, hws⟩ := h'.tiles n k v hv
    exact ⟨w, hw, hws.trans hxs⟩

/-- Equal pitches are enough for the tiles. -/
theorem State.SameWork.of_pitches {s z : State} (hcopies : z.copies = s.copies) (hhost : z.host = s.host) (hhbm : z.hbm = s.hbm)
    (hdev : z.dev = s.dev) (hpitches : z.pitches = s.pitches) : s.SameWork z :=
  ⟨hcopies, hhost, hhbm, hdev, fun n k t ht => ⟨t, (State.tile?_congr hpitches n k).trans ht, rfl⟩⟩

theorem State.sameWork_onTile (s : State) (n k : Nat) {f : Tile → Tile} (hf : ∀ t, (f t).xs = t.xs) :
    s.SameWork (s.onTile n k f) := by
  refine ⟨rfl, rfl, rfl, rfl, fun m j t ht => ?_⟩
  rcases State.tile?_onTile_or ht n k f with h | h
  · exact ⟨t, h, rfl⟩
  · exact ⟨f t, h, hf t⟩

theorem State.sameWork_ifExhausted (s : State) (n : Nat) (b : Bool) : s.SameWork (s.ifExhausted n b) := by
  unfold State.ifExhausted
  split
  · exact .refl s
  · split
    · exact .of_pitches rfl rfl rfl rfl rfl
    · exact .refl s

theorem State.sameWork_chargeFar (s : State) (n pid k m j : Nat) : s.SameWork (s.chargeFar n pid k m j) := by
  unfold State.chargeFar
  dsimp only
  split
  · exact s.sameWork_onTile _ _ fun _ => rfl
  · split
    · exact .of_pitches rfl rfl rfl rfl rfl
    · refine .trans ?_ (State.sameWork_ifExhausted ..)
      exact .of_pitches rfl rfl rfl rfl rfl

theorem State.chargeHbm_copies (s : State) (n pid k line r w : Nat) : (s.chargeHbm n pid k line r w).copies = s.copies := by
  unfold State.chargeHbm
  dsimp only
  split
  · rfl
  · exact (State.sameWork_chargeFar ..).copies

theorem foldl_copies {α : Type} {f : State → α → State} (hf : ∀ s a, (f s a).copies = s.copies) (l : List α) (s : State) :
    (l.foldl f s).copies = s.copies := by
  induction l generalizing s with
  | nil => rfl
  | cons a l ih => rw [List.foldl_cons, ih, hf]

theorem State.readTensor_copies (s : State) (c : CopyRec) (r : Req) : (s.readTensor c r).1.copies = s.copies := by
  unfold State.readTensor
  split
  · split
    · rfl
    · split
      · rfl
      · split
        · rfl
        · split
          · rfl
          · refine foldl_copies (fun z ln => ?_) _ _
            split
            · exact State.chargeHbm_copies ..
            · rfl
  · rfl
  · rfl

end Sys2Proof.Machine

/-! A copy reads its source (R90, R130, R285, R375). -/

namespace Sys2Proof.Machine

/-- A copy with its request `n` in the phase `ph`. -/
def CopyRec.withPhase (c : CopyRec) (n : Nat) (ph : ReqPhase) : CopyRec :=
  { c with reqs := mapIf (fun q => q.id == n) (fun q => { q with phase := ph }) c.reqs }

theorem CopyRec.withPhase_eq (c : CopyRec) (n : Nat) (ph : ReqPhase) : c.withPhase n ph =
    { c with reqs := c.reqs.map fun q => if q.id = n then { q with phase := ph } else q } := by
  rw [CopyRec.withPhase, mapIf_reqs]

/-- The bytes of the request `n` go on their way to a tensor, or into the parts of a scratchpad (R285). -/
def State.received (s : State) (c : CopyRec) (r : Req) (n : Nat) (bytes : List Nat) : State :=
  if c.toTensor then s.putCopy (c.withPhase n (.carry bytes))
  else
    let q := s.toParts (c.withPhase n .landing) r.pgen (((c.ks r).zip bytes).map fun b => (b.1, some b.2))
    q.1.putCopy q.2

section
variable (s : State) {c : CopyRec} (r : Req) (n : Nat) (bytes : List Nat)

theorem State.received_of_tensor (h : c.toTensor = true) : s.received c r n bytes = s.putCopy (c.withPhase n (.carry bytes)) :=
  if_pos h

/-- Bytes for a scratchpad leave the request landing. -/
theorem State.received_of_scratchpad (h : c.toTensor = false) {d : CopyRec} (hc : s.copy? c.id = some d) :
    ∃ d, (s.received c r n bytes).copy? c.id = some d ∧ d.reqs = (c.withPhase n .landing).reqs ∧
      (s.received c r n bytes).host = s.host ∧ (s.received c r n bytes).hbm = s.hbm ∧
      (s.received c r n bytes).pitches = s.pitches := by
  obtain ⟨ps, m, hparts⟩ := s.toParts_eq (c.withPhase n .landing) r.pgen (((c.ks r).zip bytes).map fun b => (b.1, some b.2))
  have hrec : s.received c r n bytes = State.putCopy { s with fresh := m } { c.withPhase n .landing with parts := ps } := by
    rw [State.received, if_neg (by rw [h]; exact Bool.false_ne_true), hparts]
  rw [hrec]
  exact ⟨_, State.copy?_putCopy (s := { s with fresh := m }) hc rfl, rfl, rfl, rfl, rfl⟩

end

/-- The granules of a scratchpad that a request reads (R280, R285). -/
theorem mem_spmGranules {off g : Nat} {ks : List Nat} : g ∈ spmGranules off ks ↔ ∃ k ∈ ks, (off + k) / 64 = g := by
  have hmap : spmGranules off ks = (ks.map fun k => (off + k) / 64).foldl keepNew [] := by
    rw [List.foldl_map]
    rfl
  rw [hmap, mem_foldl_keepNew]
  simp

/-- A tile's source banks are not free for the request, or it is being cleared (R91, R285). -/
def Tile.sourceBusy (t : Tile) (off : Nat) (ks : List Nat) : Bool :=
  t.clearing.isSome || ((spmGranules off ks).map fun g => g % 16).any fun b => t.banksNow.contains b

/-- A granule that the request reads is stale, in trap mode (R90). -/
def Tile.sourceStale (t : Tile) (off : Nat) (ks : List Nat) : Bool :=
  t.staleTrap && (spmGranules off ks).any fun g => !t.spmCur g

theorem Tile.sourceBusy_iff {t : Tile} {off : Nat} {ks : List Nat} : t.sourceBusy off ks = true ↔
    t.clearing ≠ none ∨ ∃ k ∈ ks, (off + k) / 64 % 16 ∈ t.banksNow := by
  simp only [Tile.sourceBusy, Bool.or_eq_true, Option.isSome_iff_ne_none, List.any_eq_true, List.mem_map, mem_spmGranules,
    List.contains_iff_mem]
  refine or_congr Iff.rfl ⟨?_, ?_⟩
  · rintro ⟨_, ⟨_, ⟨k, hk, rfl⟩, rfl⟩, hb⟩
    exact ⟨k, hk, hb⟩
  · rintro ⟨k, hk, hb⟩
    exact ⟨_, ⟨_, ⟨k, hk, rfl⟩, rfl⟩, hb⟩

theorem Tile.sourceStale_iff {t : Tile} {off : Nat} {ks : List Nat} : t.sourceStale off ks = true ↔
    t.staleTrap = true ∧ ∃ k ∈ ks, t.spmCur ((off + k) / 64) = false := by
  simp only [Tile.sourceStale, Bool.and_eq_true, List.any_eq_true, mem_spmGranules, Bool.not_eq_true']
  refine and_congr Iff.rfl ⟨?_, ?_⟩
  · rintro ⟨_, ⟨k, hk, rfl⟩, hcur⟩
    exact ⟨k, hk, hcur⟩
  · rintro ⟨k, hk, hcur⟩
    exact ⟨_, ⟨k, hk, rfl⟩, hcur⟩

section
variable {s : State} {c : CopyRec} {n : Nat} {r : Req} (hc : s.copy? c.id = some c)
include hc

theorem exec_copySourceRead_none (h : c.reqs.find? (fun r => r.id == n && (r.phase == .fetch || r.phase == .slow)) = none) :
    exec (.copySourceRead c.id n) s = .next s := by
  simp only [exec, execCopySourceRead, hc, h]

variable (hr : c.reqs.find? (fun r => r.id == n && (r.phase == .fetch || r.phase == .slow)) = some r)
include hr

theorem exec_copySourceRead_kept {ts : List Nat} {off : Nat} (hsrc : c.src = .spm ts off) (hleft : c.left ≠ []) :
    exec (.copySourceRead c.id n) s = .next (s.received c r n ((c.ks r).map fun k => c.kept.getD k 0)) := by
  have hl : c.left.isEmpty = false := by simpa using hleft
  simp only [exec, execCopySourceRead, State.received, CopyRec.withPhase, hc, hr, hsrc, hl, Bool.not_false, if_true]

theorem exec_copySourceRead_spm {p : Pitch} {t : Tile} {ts : List Nat} {off : Nat} (hp : s.pitch? c.pitch = some p)
    (ht : s.tile? c.pitch c.tile = some t) (hsrc : c.src = .spm ts off) (hleft : c.left = []) :
    exec (.copySourceRead c.id n) s =
      if t.sourceBusy off (c.ks r) then .next s
      else if t.sourceStale off (c.ks r) then
        .next ((s.dropCopy c.id).onTile c.pitch c.tile fun t => t.xTrap c.off trapStale c.off 0 false)
      else .next (State.received (s.onTile c.pitch c.tile fun t =>
        { t with banksNow := ((spmGranules off (c.ks r)).map fun g => g % 16) ++ t.banksNow }.charge (s.envOf p c.tile) 1
          (spmGranules off (c.ks r)).length) c r n ((c.ks r).map fun k => (t.spmByte (off + k)).toNat)) := by
  simp only [exec, execCopySourceRead, State.received, CopyRec.withPhase, hc, hr, hsrc, hleft, List.isEmpty_nil,
    Bool.not_true, Bool.false_eq_true, if_false, hp, ht]
  rfl

/-- A request whose source is no scratchpad reads its tensor, or its pattern (R285, R375). -/
theorem exec_copySourceRead_tensor (hsrc : ∀ ts off, c.src ≠ .spm ts off) : exec (.copySourceRead c.id n) s =
    if !s.mayUse c c.src then .next s else .next ((s.readTensor c r).1.received c r n (s.readTensor c r).2) := by
  cases h : c.src with
  | spm ts off => exact absurd h (hsrc ts off)
  | region d idx e =>
    simp only [exec, execCopySourceRead, State.received, CopyRec.withPhase, hc, hr, h]
  | pattern v =>
    simp only [exec, execCopySourceRead, State.received, CopyRec.withPhase, hc, hr, h]

end

theorem saysLeftReads_holds : saysLeftReads := by
  unfold saysLeftReads
  intro s c n r ts off hc hleft hsrc hr read reqs
  refine ⟨fun htens => ?_, fun htens => ?_⟩
  · rw [exec_copySourceRead_kept hc hr hsrc hleft, State.received_of_tensor _ _ _ _ htens, CopyRec.withPhase_eq]
  · obtain ⟨d, hd, hreqs, hframe⟩ := s.received_of_scratchpad r n read htens hc
    exact ⟨_, d, exec_copySourceRead_kept hc hr hsrc hleft, hd, by rw [hreqs, CopyRec.withPhase_eq], hframe⟩

end Sys2Proof.Machine

/-! Writes, completion and losses of a copy (R109, R120, R125, R130, R134). -/

namespace Sys2Proof.Machine

theorem CopyRec.waitsFor_iff {c : CopyRec} {r : Req} :
    c.waitsFor r = true ↔ ∃ q ∈ c.reqs, q.k0 < r.k0 ∧ c.shares q r = true := by
  simp only [CopyRec.waitsFor, List.any_eq_true, Bool.and_eq_true, decide_eq_true_eq]

theorem Req.carries_iff {r : Req} : r.carries = true ↔ ∃ bytes, r.phase = .carry bytes := by
  unfold Req.carries
  cases r.phase <;> simp

theorem Req.carries_of {r : Req} {bytes : List Nat} (h : r.phase = .carry bytes) : r.carries = true :=
  Req.carries_iff.mpr ⟨bytes, h⟩

/-- A request reads HBM: at its source, or in a line that it writes in part (R120). -/
theorem CopyRec.readsHbm_iff {c : CopyRec} {r : Req} : c.readsHbm r = true ↔
    (CopyRec.locOf c.src = some 0 ∧ r.phase = .fetch) ∨
      (CopyRec.locOf c.dst = some 0 ∧ (∃ bytes, r.phase = .carry bytes) ∧
        ∃ i < 64, ∀ k ∈ c.ks r, ∀ a, c.dstByte k = some a → a % 64 ≠ i) := by
  simp only [CopyRec.readsHbm, Bool.or_eq_true, Bool.and_eq_true, beq_iff_eq, Req.carries_iff, Bool.not_eq_true',
    List.all_eq_false, List.mem_range, List.any_eq_true, Option.any_eq_true, not_exists, not_and, and_assoc]

section
variable {s : State} {c : CopyRec} {n : Nat} (hc : s.copy? c.id = some c)
include hc

theorem exec_copyComplete_not (h : c.complete = false) : exec (.copyComplete c.id) s = .next s := by
  simp only [exec, execCopyComplete, hc, h, Bool.false_eq_true, if_false]

theorem exec_copyComplete (h : c.complete = true) :
    exec (.copyComplete c.id) s = .next ((s.postCopy c).putCopy { c with done := true }) := by
  simp only [exec, execCopyComplete, hc, h, if_true]

section
variable {r : Req} {bytes : List Nat} (hr : c.reqs.find? (fun r => r.id == n) = some r) (hph : r.phase = .carry bytes)
include hr hph

theorem exec_tensorWritePerform_waits (h : c.waitsFor r = true) : exec (.tensorWritePerform c.id n) s = .next s := by
  simp only [exec, execTensorWritePerform, hc, hr, hph, h, if_true]

theorem exec_tensorWritePerform (h : c.waitsFor r = false) : exec (.tensorWritePerform c.id n) s =
    .next (((if s.mayUse c c.dst then s.writeTensor c r bytes else s).putCopy
      { c with reqs := c.reqs.filter fun q => q.id != n }).freeSlots c 1) := by
  simp only [exec, execTensorWritePerform, hc, hr, hph, h, Bool.false_eq_true, if_false]

end

theorem exec_hbmUncorrectableRead_none (h : ¬ ∃ r ∈ c.reqs, r.id = n ∧ c.readsHbm r = true) :
    exec (.hbmUncorrectableRead c.id n) s = .next s := by
  have hany : (c.reqs.any fun r => r.id == n && c.readsHbm r) = false := by
    simpa [List.any_eq_false] using h
  simp only [exec, execHbmUncorrectableRead, hc, hany, Bool.false_eq_true, if_false]

theorem exec_hbmUncorrectableRead (h : ∃ r ∈ c.reqs, r.id = n ∧ c.readsHbm r = true) :
    exec (.hbmUncorrectableRead c.id n) s = .next (s.putCopy { c with
      slow := true
      reqs := c.reqs.map fun r => if r.phase = .fetch then { r with phase := .slow }
        else if r.id = n then { r with retry := true } else r }) := by
  have hany : (c.reqs.any fun r => r.id == n && c.readsHbm r) = true := by
    simpa [List.any_eq_true] using h
  simp only [exec, execHbmUncorrectableRead, hc, hany, if_true, beq_iff_eq]

theorem exec_remoteFailureReport : exec (.remoteFailureReport c.id) s =
    .next ((s.dropCopy c.id).onTile c.pitch c.tile fun t =>
      let v := t.xTrap c.off trapTensor c.off 0 false
      { v with xs := { v.xs with
        copies := v.xs.copies.filter fun k => k != c.id
        slots := v.xs.slots - c.reqs.length
        copying := if v.xs.copying = some c.id then none else v.xs.copying } }) := by
  simp only [exec, execRemoteFailureReport, hc, beq_iff_eq]

end

/-! A loss of a request's data (R109, R130). -/

/-- The source lines of a request, each once. -/
def CopyRec.srcLines (c : CopyRec) (r : Req) : List Nat :=
  ((c.ks r).filterMap fun k => (c.srcByte k).map fun a => a / 64).foldl keepNew []

theorem CopyRec.mem_srcLines {c : CopyRec} {r : Req} {l : Nat} :
    l ∈ c.srcLines r ↔ l ∈ (c.ks r).filterMap fun k => (c.srcByte k).map fun a => a / 64 := by
  simp only [CopyRec.srcLines, mem_foldl_keepNew, List.not_mem_nil, false_or]

/-- The lines of a request that a loss of `line`, or of all, hits. -/
def CopyRec.hitLines (c : CopyRec) (r : Req) (line : Option Nat) : List Nat :=
  (c.srcLines r).filter fun l => line.all fun k => k == l

theorem CopyRec.hitLines_of_not_mem {c : CopyRec} {r : Req} {l : Nat} (h : l ∉ c.srcLines r) : c.hitLines r (some l) = [] :=
  List.filter_eq_nil_iff.mpr fun x hx hl => h ((beq_iff_eq.mp hl : l = x) ▸ hx)

theorem CopyRec.hitLines_of_mem {c : CopyRec} {r : Req} {l : Nat} (h : l ∈ c.srcLines r) : c.hitLines r (some l) = [l] := by
  have hnodup : (c.srcLines r).Nodup := nodup_foldl_keepNew List.nodup_nil
  have hcount : (c.srcLines r).count l = 1 := List.count_eq_one_of_mem hnodup h
  have hbeq : (fun x => (some l).all fun k => k == x) = fun x => x == l := funext fun x => BEq.comm
  rw [CopyRec.hitLines, hbeq, List.filter_beq, hcount]
  rfl

/-- The request is gone with its slot (R130). -/
def State.dropped (s : State) (c : CopyRec) (n : Nat) : State :=
  (s.putCopy { c with lost := true, reqs := c.reqs.filter fun q => q.id != n }).freeSlots c 1

/-- All of a request's bytes for a scratchpad are lost: they count as such in its parts, and parts of nothing else are gone. -/
def State.landLost (s : State) (c : CopyRec) (n : Nat) (r : Req) : State :=
  let q := s.toParts (CopyRec.withPhase { c with lost := true } n .landing) r.pgen ((c.ks r).map fun k => (k, none))
  q.1.settle { q.2 with parts := q.2.parts.filter fun x => !(x.stage != 0 && x.bytes.isEmpty) }

section
variable (s : State) {c : CopyRec} {n : Nat} {r : Req} (hr : c.reqs.find? (fun r => r.id == n && r.phase != .landing) = some r)
include hr

theorem State.loseRequest_of_carries (hcar : r.carries = true) (line : Option Nat) : s.loseRequest c n line =
    if line.all fun l => (c.dstByte r.k0).any fun a => a / 64 == l then s.dropped c n else s := by
  simp only [State.loseRequest, hr, hcar, if_true]
  rfl

theorem State.loseRequest_of_reads (hcar : r.carries = false) (line : Option Nat) : s.loseRequest c n line =
    if !line.isNone && (c.hitLines r line).isEmpty then s
    else if line.isSome && decide ((c.hitLines r line).length < (c.srcLines r).length) then
      s.putCopy { c with
        lost := true, reqs := mapIf (fun q => q.id == n) (fun q => { q with bad := c.hitLines r line ++ q.bad }) c.reqs }
    else if c.toTensor then s.dropped c n else s.landLost c n r := by
  simp only [State.loseRequest, hr, hcar, Bool.false_eq_true, if_false]
  rfl

end

/-- What a request that loses all its bytes for a scratchpad leaves: the copy has lost data, and slots may be free. -/
theorem State.landLost_eq (s : State) (c : CopyRec) (n : Nat) (r : Req) : ∃ d k m,
    s.landLost c n r = (State.putCopy { s with fresh := m } d).freeSlots c k ∧
      d.id = c.id ∧ d.lost = true ∧ d.slow = c.slow ∧ d.next = c.next := by
  obtain ⟨ps, m, hparts⟩ :=
    s.toParts_eq (CopyRec.withPhase { c with lost := true } n .landing) r.pgen ((c.ks r).map fun k => (k, none))
  rw [State.landLost, hparts]
  exact ⟨_, _, m, rfl, rfl, rfl, rfl, rfl⟩

theorem State.freeSlots_eq (s : State) (c : CopyRec) (k : Nat) : s.freeSlots c k =
    if c.left = [] then s.onTile c.pitch c.tile fun t => { t with xs := { t.xs with slots := t.xs.slots - k } } else s := by
  simp only [State.freeSlots, List.isEmpty_iff]

/-- The instruction `i` reports a loss of `line` to the request `n`, if that is in a state to which `P` applies. -/
structure Reports (s : State) (c : CopyRec) (n line : Nat) (i : Instr) (P : Req → Prop) : Prop where
  lose : ∀ r ∈ c.reqs, r.id = n → P r → exec i s = .next (s.loseRequest { c with slow := true } n (some line))
  skip : (∀ r ∈ c.reqs, r.id = n → ¬ P r) → exec i s = .next s
  moves : ∀ r, P r → r.phase ≠ .landing

theorem CopyRec.reportable_iff {c : CopyRec} {r : Req} : c.reportable r = true ↔ r.phase = .slow ∨
    (r.phase = .fetch ∧ CopyRec.locOf c.src = some 2) ∨
      ((∃ bytes, r.phase = .carry bytes) ∧ (CopyRec.locOf c.dst = some 2 ∨ r.retry = true)) := by
  unfold CopyRec.reportable
  cases r.phase <;> simp

section
variable {s : State} {c : CopyRec} {n line : Nat} (hc : s.copy? c.id = some c)
include hc

theorem reports_slowPathLossReport : Reports s c n line (.slowPathLossReport c.id ⟨n, line⟩) fun r => r.phase = .slow ∨
    (r.phase = .fetch ∧ CopyRec.locOf c.src = some 2) ∨
      ((∃ bytes, r.phase = .carry bytes) ∧ (CopyRec.locOf c.dst = some 2 ∨ r.retry = true)) where
  lose r hr hid hP := by
    have hany : (c.reqs.any fun r => r.id == n && c.reportable r) = true :=
      List.any_eq_true.mpr ⟨r, hr, by simp [hid, CopyRec.reportable_iff.mpr hP]⟩
    simp only [exec, execSlowPathLossReport, hc, hany, if_true]
  skip h := by
    have hany : (c.reqs.any fun r => r.id == n && c.reportable r) = false := by
      simp only [List.any_eq_false, Bool.and_eq_true, beq_iff_eq, CopyRec.reportable_iff]
      exact fun r hr ⟨hid, hP⟩ => h r hr hid hP
    simp only [exec, execSlowPathLossReport, hc, hany, Bool.false_eq_true, if_false]
  moves r hP := by
    rintro hl
    simp [hl] at hP

theorem reports_pcieCompletionError : Reports s c n line (.pcieCompletionError c.id ⟨n, line⟩) fun r =>
    (r.phase = .fetch ∨ r.phase = .slow) ∧ CopyRec.locOf c.src = some 1 where
  lose r hr hid hP := by
    have hany : (c.reqs.any fun r => r.id == n && (r.phase == .fetch || r.phase == .slow)) = true :=
      List.any_eq_true.mpr ⟨r, hr, by simp [hid, hP.1]⟩
    simp only [exec, execPcieCompletionError, hc, hany, hP.2, beq_self_eq_true, Bool.and_self, if_true]
  skip h := by
    have hany : (CopyRec.locOf c.src == some 1 && c.reqs.any fun r => r.id == n && (r.phase == .fetch || r.phase == .slow)) =
        false := by
      simp only [← Bool.not_eq_true, Bool.and_eq_true, Bool.or_eq_true, List.any_eq_true, beq_iff_eq]
      exact fun ⟨hloc, r, hr, hid, hP⟩ => h r hr hid ⟨hP, hloc⟩
    simp only [exec, execPcieCompletionError, hc, hany, Bool.false_eq_true, if_false]
  moves r hP := by
    rintro hl
    simp [hl] at hP

end

/-- A copy with a lost line in its request `n` (R130). -/
theorem State.loseRequest_of_other {s : State} {c : CopyRec} {n l o : Nat} {r : Req}
    (hr : c.reqs.find? (fun r => r.id == n && r.phase != .landing) = some r) (hcar : r.carries = false)
    (hl : l ∈ c.srcLines r) (ho : o ∈ c.srcLines r) (hne : o ≠ l) : s.loseRequest c n (some l) = s.putCopy { c with
      lost := true, reqs := c.reqs.map fun z => if z.id = n then { z with bad := l :: z.bad } else z } := by
  have hlen : 1 < (c.srcLines r).length := by
    by_contra h
    obtain ⟨x, hx⟩ := List.length_eq_one_iff.mp (show (c.srcLines r).length = 1 by
      have := List.length_pos_of_mem hl
      omega)
    rw [hx, List.mem_singleton] at hl ho
    exact hne (ho.trans hl.symm)
  rw [State.loseRequest_of_reads s hr hcar, CopyRec.hitLines_of_mem hl, if_neg (by simp), if_pos (by simpa using hlen),
    mapIf_reqs]
  rfl

theorem State.loseRequest_of_only {s : State} {c : CopyRec} {n l : Nat} {r : Req}
    (hr : c.reqs.find? (fun r => r.id == n && r.phase != .landing) = some r) (hcar : r.carries = false)
    (hl : l ∈ c.srcLines r) (honly : ∀ o ∈ c.srcLines r, o = l) :
    s.loseRequest c n (some l) = if c.toTensor then s.dropped c n else s.landLost c n r := by
  have hnodup : (c.srcLines r).Nodup := nodup_foldl_keepNew List.nodup_nil
  have hlen : ¬ 1 < (c.srcLines r).length := by
    have hsub : (c.srcLines r).length ≤ [l].length :=
      (List.subperm_of_subset hnodup fun o ho => List.mem_singleton.mpr (honly o ho)).length_le
    simpa using hsub
  rw [State.loseRequest_of_reads s hr hcar, CopyRec.hitLines_of_mem hl, if_neg (by simp), if_neg (by simpa using hlen)]

end Sys2Proof.Machine

/-! A part of a copy lands (R91, R92, R133, R286, R289). -/

namespace Sys2Proof.Machine

/-- A tile whose scratchpad and operations of the cycle are these. -/
def Tile.Holds (v : Tile) (spm : Mem) (ops : List SemOp) : Prop := v.spm = spm ∧ v.semOps = ops

section
variable {s : State} {n k : Nat} {spm : Mem} {ops : List SemOp}

theorem State.onTile_holds {f : Tile → Tile} (hf : ∀ t, (f t).spm = t.spm ∧ (f t).semOps = t.semOps) (m j : Nat)
    (h : ∃ v, s.tile? n k = some v ∧ v.Holds spm ops) : ∃ v, (s.onTile m j f).tile? n k = some v ∧ v.Holds spm ops := by
  obtain ⟨v, hv, hspm, hops⟩ := h
  obtain ⟨hfs, hfo⟩ := hf v
  rcases State.tile?_onTile_or hv m j f with h | h
  · exact ⟨v, h, hspm, hops⟩
  · exact ⟨f v, h, hfs.trans hspm, hfo.trans hops⟩

theorem State.settle_holds (c : CopyRec) (h : ∃ v, s.tile? n k = some v ∧ v.Holds spm ops) :
    ∃ v, (s.settle c).tile? n k = some v ∧ v.Holds spm ops := by
  unfold State.settle
  dsimp only
  rw [State.freeSlots_eq]
  split
  · exact State.onTile_holds (fun t => by exact ⟨rfl, rfl⟩) _ _ h
  · exact h

end

/-- A post of a copy, as its tile's operation (R286). -/
def CopyRec.postReq (c : CopyRec) (o : SemDo) : SemOp := { src := .copy, gid := 0, iid := 0, op := o, msg := c.id }

theorem State.postAt_holds {s : State} {n k : Nat} {spm : Mem} {ops : List SemOp} (c : CopyRec) (a : CopySem)
    (h : ∃ v, s.tile? n k = some v ∧ v.Holds spm ops) : ∃ v more, (s.postAt c a).tile? n k = some v ∧
      v.Holds spm (ops ++ more) ∧ ∀ e ∈ more, ∃ o, c.postOf a = some o ∧ e = c.postReq o := by
  obtain ⟨v, hv, hspm, hops⟩ := h
  have hsame : v.Holds spm (ops ++ []) := ⟨hspm, by rw [hops, List.append_nil]⟩
  unfold State.postAt
  split
  · next o p j ho _ =>
    rcases State.tile?_onTile_or hv p.id j (fun t => if t.pitchGen != c.pgen then t.staleArrival
        else { t with semOps := t.semOps ++ [c.postReq o] }) with h | h
    · exact ⟨v, [], h, hsame, by simp⟩
    · refine ⟨_, if v.pitchGen != c.pgen then [] else [c.postReq o], h, ?_, ?_⟩
      · split
        · exact hsame
        · exact ⟨hspm, congrArg (· ++ _) hops⟩
      · split
        · simp
        · exact fun e he => ⟨o, ho, List.mem_singleton.mp he⟩
  · exact ⟨v, [], hv, hsame, by simp⟩

theorem State.postLanded_holds {s : State} {n k : Nat} {spm : Mem} {ops : List SemOp} (c : CopyRec) (j : Nat)
    (h : ∃ v, s.tile? n k = some v ∧ v.Holds spm ops) : ∃ v more, (s.postLanded c j).tile? n k = some v ∧
      v.Holds spm (ops ++ more) ∧ ((∀ p o, c.instr ≠ .cbc p o) → more = []) ∧
        ∀ e ∈ more, ∃ a ∈ c.posts, ∃ o, a.tile = j ∧ c.postOf a = some o ∧ e = c.postReq o := by
  have hsame : ∃ v more, s.tile? n k = some v ∧ v.Holds spm (ops ++ more) ∧ ((∀ p o, c.instr ≠ .cbc p o) → more = []) ∧
      ∀ e ∈ more, ∃ a ∈ c.posts, ∃ o, a.tile = j ∧ c.postOf a = some o ∧ e = c.postReq o := by
    obtain ⟨v, hv, hspm, hops⟩ := h
    exact ⟨v, [], hv, ⟨hspm, by rw [hops, List.append_nil]⟩, fun _ => rfl, by simp⟩
  unfold State.postLanded
  split
  · next p o i hi hfind =>
    split
    · next a ha =>
      split
      · obtain ⟨v, more, hv, hholds, hmore⟩ :=
          State.postAt_holds (s := s.putCopy { c with posted := c.posted ++ [i] }) c a h
        have htile : a.tile = j := by
          obtain ⟨hlt, htile, -⟩ := List.findIdx?_eq_some_iff_getElem.mp hfind
          rw [List.getElem?_eq_getElem hlt] at ha
          cases ha
          exact beq_iff_eq.mp htile
        exact ⟨v, more, hv, hholds, fun h => absurd hi (h p o), fun e he =>
          let ⟨o, ho, heq⟩ := hmore e he
          ⟨a, List.mem_of_getElem? ha, o, htile, ho, heq⟩⟩
      · exact hsame
    · exact hsame
  · exact hsame

/-- A copy after a part has landed, with the post of a tile that has all of its bytes (R134, R289). -/
def State.landed (s : State) (c : CopyRec) (j : Nat) : State :=
  match (s.settle c).copy? c.id with
  | some d => (s.settle c).postLanded d j
  | none => s.settle c

theorem State.settle_copy? {s : State} {c d : CopyRec} (h : s.copy? c.id = some d) :
    ∃ rs, (s.settle c).copy? c.id = some { c with reqs := rs } := by
  unfold State.settle
  dsimp only
  rw [State.freeSlots_copy?]
  exact ⟨_, State.copy?_putCopy h rfl⟩

theorem State.landed_holds {s : State} {n k : Nat} {spm : Mem} {ops : List SemOp} {c d : CopyRec} (j : Nat)
    (hc : s.copy? c.id = some d) (h : ∃ v, s.tile? n k = some v ∧ v.Holds spm ops) :
    ∃ v more, (s.landed c j).tile? n k = some v ∧ v.Holds spm (ops ++ more) ∧ ((∀ p o, c.instr ≠ .cbc p o) → more = []) ∧
      ∀ e ∈ more, ∃ a ∈ c.posts, ∃ o, a.tile = j ∧ c.postOf a = some o ∧ e = c.postReq o := by
  obtain ⟨rs, hrs⟩ := State.settle_copy? hc
  simp only [State.landed, hrs]
  exact State.postLanded_holds _ j (State.settle_holds c h)

/-- A tile in which a part lands (R91, R133). -/
def CopyRec.landPart (c : CopyRec) (part : Part) (t : Tile) : Tile :=
  let v := ({ t with banksNow := part.lo / 64 % 16 :: t.banksNow } : Tile).spmWrite
    (part.bytes.map fun b => { addr := b.1, val := b.2 })
  { v with semOps := v.semOps ++
    (c.posts.filter fun a => a.arr && a.tile == part.tile).map fun a => c.postReq (.arrive a.sem part.bytes.length) }

/-- A tile charged for a part of its copy that has landed: granules, and on the copy plane what it was carried (R280). -/
def Tile.chargePart (plane : Bool) (env : Env) (granules units : Nat) (rc : Nat × Nat) (t : Tile) : Tile :=
  let v := t.charge env 1 granules
  if plane then (v.charge env 9 (rc.1 * units)).charge env 10 (rc.2 * units) else v

theorem Tile.chargePart_frame (plane : Bool) (env : Env) (granules units : Nat) (rc : Nat × Nat) (t : Tile) :
    (chargePart plane env granules units rc t).spm = t.spm ∧ (chargePart plane env granules units rc t).semOps = t.semOps := by
  cases plane <;> simp [Tile.chargePart]

section
variable {s : State} {c : CopyRec} {n : Nat} {part : Part} (hc : s.copy? c.id = some c)
  (hpart : c.parts.find? (fun q => q.id == n && q.stage != 0) = some part)
include hc hpart

theorem exec_copyPartArrival_nowhere (h : s.atPhys part.phys = none) : exec (.copyPartArrival c.id n) s =
    .next (s.settle { c with parts := c.parts.filter fun r => r.id != n }) := by
  simp only [exec, execCopyPartArrival, hc, hpart, h]

variable {q : Pitch} {k : Nat} {u : Tile} (hat : s.atPhys part.phys = some (q, k)) (hu : q.tiles[k]? = some u)
include hat hu

theorem exec_copyPartArrival_stale (h : u.pitchGen ≠ part.pgen) : exec (.copyPartArrival c.id n) s =
    .next ((s.settle { c with parts := c.parts.filter fun r => r.id != n }).onTile q.id k Tile.staleArrival) := by
  simp only [exec, execCopyPartArrival, hc, hpart, hat, hu, bne_iff_ne.mpr h, if_true]

theorem exec_copyPartArrival_busy (h : u.pitchGen = part.pgen)
    (hbusy : u.clearing ≠ none ∨ part.lo / 64 % 16 ∈ u.banksNow) : exec (.copyPartArrival c.id n) s = .next s := by
  have hb : (u.clearing.isSome || u.banksNow.contains (part.lo / 64 % 16)) = true := by
    simpa [Option.isSome_iff_ne_none] using hbusy
  simp only [exec, execCopyPartArrival, hc, hpart, hat, hu, h, bne_self_eq_false, Bool.false_eq_true, if_false, hb, if_true]

/-- A part lands: its bytes stand in the scratchpad, it counts for the ARRIVE semaphores of its tile, and what follows posts at
most (R91, R133, R286, R289). -/
theorem exec_copyPartArrival_lands (h : u.pitchGen = part.pgen) (hclear : u.clearing = none)
    (hbank : part.lo / 64 % 16 ∉ u.banksNow) (hq : s.pitch? q.id = some q) :
    ∃ z v more, exec (.copyPartArrival c.id n) s = .next z ∧ z.tile? q.id k = some v ∧
      v.Holds (u.spmWrite (part.bytes.map fun b => { addr := b.1, val := b.2 })).spm (u.semOps ++
        ((c.posts.filter fun a => a.arr && a.tile == part.tile).map fun a => c.postReq (.arrive a.sem part.bytes.length)) ++
          more) ∧
      ((∀ p o, c.instr ≠ .cbc p o) → more = []) ∧
        ∀ e ∈ more, ∃ a ∈ c.posts, ∃ o, a.tile = part.tile ∧ c.postOf a = some o ∧ e = c.postReq o := by
  have hb : (u.clearing.isSome || u.banksNow.contains (part.lo / 64 % 16)) = false := by
    simpa [hclear] using hbank
  have ht : s.tile? q.id k = some u := by simp only [State.tile?, hq, hu]
  have hland : ∃ v, (s.onTile q.id k (c.landPart part)).tile? q.id k = some v ∧
      v.Holds (u.spmWrite (part.bytes.map fun b => { addr := b.1, val := b.2 })).spm (u.semOps ++
        (c.posts.filter fun a => a.arr && a.tile == part.tile).map fun a => c.postReq (.arrive a.sem part.bytes.length)) :=
    ⟨_, State.tile?_onTile _ ht, rfl, rfl⟩
  obtain ⟨plane, env, g, units, rc, hexec⟩ : ∃ plane env g units rc, exec (.copyPartArrival c.id n) s =
      .next (((s.onTile q.id k (c.landPart part)).onTile q.id c.tile (Tile.chargePart plane env g units rc)).landed
        (CopyRec.land { c with parts := c.parts.filter fun r => r.id != n } part) part.tile) := by
    simp only [exec, execCopyPartArrival, hc, hpart, hat, hu, h, bne_self_eq_false, Bool.false_eq_true, if_false, hb]
    exact ⟨_, _, _, _, _, rfl⟩
  obtain ⟨v, more, hv, hholds, hmore⟩ := State.landed_holds
    (c := CopyRec.land { c with parts := c.parts.filter fun r => r.id != n } part) part.tile (by exact hc)
    (State.onTile_holds (Tile.chargePart_frame plane env g units rc) q.id c.tile hland)
  exact ⟨_, v, more, hexec, hv, hholds, hmore⟩

end

end Sys2Proof.Machine

/-! The progress of a copy (R90 to R92, R116, R117, R120, R130, R133, R134, R285, R286, R375). -/

namespace Sys2Proof.Machine

/-- A loss in a request that carries its bytes to a tensor: its line is lost whole, another line changes nothing (R130). -/
theorem Reports.carries {s : State} {c : CopyRec} {n line : Nat} {i : Instr} {P : Req → Prop} (h : Reports s c n line i P)
    {r : Req} {bytes : List Nat} (hr : r ∈ c.reqs) (hid : r.id = n) (hP : P r)
    (hfind : c.reqs.find? (fun r => r.id == n && r.phase != .landing) = some r) (hph : r.phase = .carry bytes) : exec i s =
      if (c.dstByte r.k0).map (fun a => a / 64) = some line then .next (s.dropped { c with slow := true } n) else .next s := by
  have hline : ((some line).all fun l => (c.dstByte r.k0).any fun a => a / 64 == l) = true ↔
      (c.dstByte r.k0).map (fun a => a / 64) = some line := by
    cases c.dstByte r.k0 <;> simp
  have hlose := State.loseRequest_of_carries s (c := { c with slow := true }) hfind (Req.carries_of hph) (some line)
  rw [h.lose r hr hid hP, hlose]
  by_cases hl : (c.dstByte r.k0).map (fun a => a / 64) = some line
  · rw [if_pos hl]
    exact congrArg Host.Outcome.next (if_pos (hline.mpr hl))
  · rw [if_neg hl]
    exact congrArg Host.Outcome.next (if_neg (mt hline.mp hl))

/-- The one request of an identity is found by it. -/
theorem find?_moving {l : List Req} {n : Nat} {r : Req} (hr : r ∈ l) (hid : r.id = n) (hph : r.phase ≠ .landing)
    (huniq : ∀ o ∈ l, o.id = n → o = r) : l.find? (fun r => r.id == n && r.phase != .landing) = some r := by
  have hsome : (l.find? fun r => r.id == n && r.phase != .landing).isSome = true :=
    List.find?_isSome.mpr ⟨r, hr, by simp [hid, hph]⟩
  obtain ⟨o, ho⟩ := Option.isSome_iff_exists.mp hsome
  have hoid : o.id = n := by
    have := List.find?_some ho
    simp only [Bool.and_eq_true, beq_iff_eq] at this
    exact this.1
  rw [ho, huniq o (List.mem_of_find?_eq_some ho) hoid]

/-- The reads, the writes, the completion, the losses and the landings, each by the equations of its event. -/
theorem saysCopyProgress_holds : saysCopyProgress := by
  unfold saysCopyProgress
  intro s c p t n ⟨hc, hp, ht⟩ out keep slot may open_
  have htile : s.tile? c.pitch c.tile = some t := by simp only [State.tile?, hp, ht]
  have hslot (z : State) : slot z = z.freeSlots c 1 := (z.freeSlots_eq c 1).symm
  refine ⟨fun h => exec_copySourceRead_none hc h, ?_, ?_, exec_copyComplete_not hc, exec_copyComplete hc, ?_, ?_,
    exec_remoteFailureReport hc, ?_⟩
  · intro r hr carry
    have hcarry (b : List Nat) : carry b = c.withPhase n (.carry b) := (c.withPhase_eq n (.carry b)).symm
    have hlanding : (c.withPhase n .landing).reqs = c.reqs.map fun q => if q.id = n then { q with phase := .landing } else q :=
      congrArg CopyRec.reqs (c.withPhase_eq n .landing)
    refine ⟨?_, ?_, ?_, ?_⟩
    · intro ts off hsrc hleft waits stale
      have hread := exec_copySourceRead_spm hc hr hp htile hsrc hleft
      have hbusy : t.sourceBusy off (c.ks r) = true ↔ waits := Tile.sourceBusy_iff
      have hstale : t.sourceStale off (c.ks r) = true ↔ stale := Tile.sourceStale_iff
      refine ⟨fun hw => ?_, fun hw hs => ?_, fun hw hs htens => ?_, fun hw hs htens => ?_⟩
      · rw [hread, if_pos (hbusy.mpr hw)]
      · rw [hread, if_neg (mt hbusy.mp hw), if_pos (hstale.mpr hs)]
      · rw [if_neg (mt hbusy.mp hw), if_neg (mt hstale.mp hs), State.received_of_tensor _ _ _ _ htens] at hread
        exact ⟨_, _, hread, State.copy?_putCopy (s := s.onTile _ _ _) hc rfl, (hcarry _).symm, rfl, rfl⟩
      · rw [if_neg (mt hbusy.mp hw), if_neg (mt hstale.mp hs)] at hread
        obtain ⟨d, hd, hreqs, hhost, hhbm, -⟩ := 
          State.received_of_scratchpad (s.onTile c.pitch c.tile _) r n _ htens (by exact hc)
        exact ⟨_, d, hread, hd, hreqs.trans hlanding, hhost, hhbm⟩
    · intro hsrc hmay
      rw [exec_copySourceRead_tensor hc hr hsrc, if_pos (by simpa using mt State.mayUse_iff.mp hmay)]
    · intro hsrc hmay htens
      rw [exec_copySourceRead_tensor hc hr hsrc, if_neg (by simpa using State.mayUse_iff.mpr hmay),
        State.received_of_tensor _ _ _ _ htens, hcarry]
    · intro htens hsrc hmay
      have hc' : (s.readTensor c r).1.copy? c.id = some c := (State.copy?_congr (s.readTensor_copies c r) _).trans hc
      obtain ⟨d, hd, hreqs, -⟩ := State.received_of_scratchpad _ r n (s.readTensor c r).2 htens hc'
      refine ⟨_, d, ?_, hd, hreqs.trans hlanding⟩
      rw [exec_copySourceRead_tensor hc hr hsrc, if_neg (by simpa using State.mayUse_iff.mpr hmay)]
  · intro r bytes hr hph earlier
    have hwaits : c.waitsFor r = true ↔ earlier := CopyRec.waitsFor_iff
    have hwrite (h : ¬ earlier) := exec_tensorWritePerform hc hr hph (Bool.eq_false_iff.mpr (mt hwaits.mp h))
    refine ⟨fun h => exec_tensorWritePerform_waits hc hr hph (hwaits.mpr h), fun h hmay => ?_, fun h hmay => ?_⟩
    · rw [hwrite h, if_pos (State.mayUse_iff.mpr hmay), hslot]
    · rw [hwrite h, if_neg (mt State.mayUse_iff.mp hmay), hslot]
  · intro part reads
    have hreads : reads ↔ ∃ r ∈ c.reqs, r.id = n ∧ c.readsHbm r = true := by
      simp only [CopyRec.readsHbm_iff]
      rfl
    exact ⟨fun h => exec_hbmUncorrectableRead_none hc (mt hreads.mpr h), fun h => exec_hbmUncorrectableRead hc (hreads.mp h)⟩
  · intro line q hq
    have hrep : Reports s c n line q.1 q.2 := by
      simp only [List.mem_cons, List.not_mem_nil, or_false] at hq
      rcases hq with rfl | rfl
      · exact reports_slowPathLossReport hc
      · exact reports_pcieCompletionError hc
    refine ⟨hrep.skip, ?_⟩
    intro r hr hid huniq hP here gone
    have hgone : gone = out (s.dropped { c with slow := true } n) := congrArg Host.Outcome.next (hslot _)
    have hfind : c.reqs.find? (fun r => r.id == n && r.phase != .landing) = some r := by
      exact find?_moving hr hid (hrep.moves r hP) huniq
    have hmem (l : Nat) : l ∈ CopyRec.srcLines { c with slow := true } r ↔ l ∈ here := CopyRec.mem_srcLines
    have hread (hph : ∀ bytes, r.phase ≠ .carry bytes) : r.carries = false :=
      Bool.eq_false_iff.mpr (mt Req.carries_iff.mp (not_exists.mpr hph))
    refine ⟨fun bytes hph => ?_,
      fun hph => ⟨fun hl => ?_, fun hl ho => ?_, fun hl ho => ⟨fun htens => ?_, fun htens => ?_⟩⟩⟩
    · rw [hgone]
      exact hrep.carries hr hid hP hfind hph
    · rw [hrep.lose r hr hid hP, State.loseRequest_of_reads (c := { c with slow := true }) s hfind (hread hph),
        CopyRec.hitLines_of_not_mem (mt (hmem line).mp hl)]
      rfl
    · obtain ⟨o, ho, hne⟩ := ho
      rw [hrep.lose r hr hid hP, State.loseRequest_of_other (c := { c with slow := true }) hfind (hread hph)
        ((hmem line).mpr hl) ((hmem o).mpr ho) hne]
    · rw [hrep.lose r hr hid hP, State.loseRequest_of_only (c := { c with slow := true }) hfind (hread hph)
        ((hmem line).mpr hl) fun o h => ho o ((hmem o).mp h), hgone]
      exact congrArg Host.Outcome.next (if_pos htens)
    · obtain ⟨d, k, m, hland, hid', hlost, hslow, -⟩ := s.landLost_eq { c with slow := true } n r
      have hlose : exec q.1 s = .next (s.landLost { c with slow := true } n r) := by
        rw [hrep.lose r hr hid hP, State.loseRequest_of_only (c := { c with slow := true }) hfind (hread hph)
          ((hmem line).mpr hl) fun o h => ho o ((hmem o).mp h)]
        exact congrArg Host.Outcome.next (if_neg (Bool.eq_false_iff.mp htens))
      rw [hland] at hlose
      obtain ⟨-, hhost, hhbm, -⟩ := State.freeSlots_frame (State.putCopy { s with fresh := m } d) { c with slow := true } k
      refine ⟨_, d, hlose, ?_, hlost, hslow, hhost, hhbm⟩
      rw [State.freeSlots_copy?]
      exact State.copy?_putCopy (s := { s with fresh := m }) hc hid'
  · intro part hpart left
    refine ⟨exec_copyPartArrival_nowhere hc hpart, fun q k u hat hu => ⟨exec_copyPartArrival_stale hc hpart hat hu,
      exec_copyPartArrival_busy hc hpart hat hu, fun hgen hclear hbank hq => ?_⟩⟩
    obtain ⟨z, v, more, hexec, hv, ⟨hspm, hops⟩, hmore⟩ :=
      exec_copyPartArrival_lands hc hpart hat hu hgen hclear hbank hq
    exact ⟨z, v, hexec, hv, hspm, more, hops, hmore⟩

/-- Settles O59: the requests of a copy that stayed behind, and those of one that is with its pitch. -/
theorem copyProgress : Obligations.CopyProgress := ⟨saysLeftReads_holds, saysCopyProgress_holds⟩

end Sys2Proof.Machine

/-! What charges and flits leave, and the boundaries that cut a request off (R116, R280, R398, R412). -/

namespace Sys2Proof.Machine

theorem State.sameWork_sendFlit (s : State) (n pid k pkg ty : Nat) : s.SameWork (s.sendFlit n pid k pkg ty) := by
  unfold State.sendFlit
  split
  · exact .refl s
  · split
    · exact .refl s
    · exact .trans (.trans (b := s.putPort _ _) (.of_pitches rfl rfl rfl rfl rfl) (State.sameWork_chargeFar ..))
        (.of_pitches rfl rfl rfl rfl rfl)

/-- The flits of a request for one side of a copy (R116, R280). -/
def State.sideFlits (s : State) (c : CopyRec) (sd : Side) : State :=
  match sd with
  | .region _ _ e => if entLoc e == 2 then s.sendFlit c.slice c.pitch c.tile (wfld (at' 0 e 3) 50 14) 0 else s
  | .spm _ _ => s
  | .pattern _ => s

theorem State.sameWork_sideFlits (s : State) (c : CopyRec) (sd : Side) : s.SameWork (s.sideFlits c sd) := by
  unfold State.sideFlits
  split
  · split
    · exact State.sameWork_sendFlit ..
    · exact .refl s
  · exact .refl s
  · exact .refl s

theorem State.sideFlits_of_here {s : State} {c : CopyRec} {sd : Side} (h : CopyRec.locOf sd ≠ some 2) :
    s.sideFlits c sd = s := by
  unfold State.sideFlits
  split
  · next e =>
    exact if_neg fun he => h (congrArg some (beq_iff_eq.mp he))
  · rfl
  · rfl

theorem State.remoteFlits_eq (s : State) (c : CopyRec) : s.remoteFlits c = (s.sideFlits c c.src).sideFlits c c.dst := rfl

theorem State.sameWork_remoteFlits (s : State) (c : CopyRec) : s.SameWork (s.remoteFlits c) :=
  (s.sameWork_sideFlits c c.src).trans (State.sameWork_sideFlits ..)

theorem State.remoteFlits_of_here {s : State} {c : CopyRec}
    (h : ¬ (CopyRec.locOf c.src = some 2 ∨ CopyRec.locOf c.dst = some 2)) :
    s.remoteFlits c = s := by
  obtain ⟨hs, hd⟩ := not_or.mp h
  rw [State.remoteFlits_eq, State.sideFlits_of_here hs, State.sideFlits_of_here hd]

/-- A boundary is named where no way is left between two dies (R398, R412). -/
theorem failed_of_diesCut {failed : Nat → Bool} {a b : Nat} (h : diesCut failed a b = true) : ∃ k < 4, failed k = true := by
  unfold diesCut at h
  dsimp only at h
  split_ifs at h
  · simp only [Bool.and_eq_true, Bool.or_eq_true] at h
    rcases h.1 with h | h
    · exact ⟨0, by omega, h⟩
    · exact ⟨3, by omega, h⟩
  · simp only [Bool.and_eq_true, Bool.or_eq_true] at h
    rcases h.1 with h | h
    · exact ⟨0, by omega, h⟩
    · exact ⟨2, by omega, h⟩
  all_goals exact ⟨_, by omega, h⟩

/-- A request is cut off by a boundary that has failed (R412). -/
theorem State.failed_of_cutOff {s : State} {c : CopyRec} {r : Req} (h : s.cutOff c r = true) :
    ∃ b < 4, at' 0 s.dev.seams b = 3 := by
  suffices hb : ∃ b < 4, s.failed b = true by
    obtain ⟨b, hlt, hf⟩ := hb
    exact ⟨b, hlt, beq_iff_eq.mp hf⟩
  simp only [State.cutOff, Bool.or_eq_true] at h
  rcases h with h | h <;>
  · split at h
    · simp only [Option.any_eq_true, List.any_eq_true, List.mem_range, Bool.and_eq_true] at h
      obtain ⟨_, -, _, -, b, hlt, hf, -⟩ := h
      exact ⟨b, hlt, hf⟩
    · simp only [Option.any_eq_true, List.any_eq_true, Bool.and_eq_true] at h
      obtain ⟨-, _, -, _, -, _, -, _, -, hcut⟩ := h
      exact failed_of_diesCut hcut
    · contradiction

end Sys2Proof.Machine

/-! A copy's next request, and its loss where a boundary cuts it off (R117, R126, R128, R284, R412). -/

namespace Sys2Proof.Machine

/-- A request that its dispatch makes: the bytes of `run`, not yet among the parts of a scratchpad (R117, R126). -/
structure Req.Fresh (r : Req) (id : Nat) (run : Nat × Nat) (tlb : List Nat) (pgen : Nat) : Prop where
  id : r.id = id
  k0 : r.k0 = run.1
  k1 : r.k1 = run.2
  tlb : r.tlb = tlb
  pgen : r.pgen = pgen
  moves : r.phase ≠ .landing

/-- The request that a dispatch makes; one of a pattern has its bytes at once (R117, R126, R291). -/
def State.newReq (s : State) (c : CopyRec) (run : Nat × Nat) (tlb : List Nat) (age pgen : Nat) : Req :=
  let r0 : Req := { id := s.fresh, k0 := run.1, k1 := run.2, phase := if c.slow then .slow else .fetch, verS := s.verAt c c.src,
                    verD := s.verAt c c.dst, tlb := tlb, age := age, pgen := pgen }
  match c.src with
  | .pattern _ => { r0 with phase := .carry (s.readTensor c r0).2 }
  | _ => r0

theorem State.newReq_fresh (s : State) (c : CopyRec) (run : Nat × Nat) (tlb : List Nat) (age pgen : Nat) :
    (s.newReq c run tlb age pgen).Fresh s.fresh run tlb pgen := by
  have hfetch : (if c.slow then ReqPhase.slow else .fetch) ≠ .landing := by cases c.slow <;> simp
  unfold State.newReq
  dsimp only
  split
  · exact ⟨rfl, rfl, rfl, rfl, rfl, ReqPhase.noConfusion⟩
  · exact ⟨rfl, rfl, rfl, rfl, rfl, hfetch⟩

theorem State.request_eq (s : State) (c : CopyRec) (run : Nat × Nat) (tlb : List Nat) (age pgen : Nat) : ∃ r ps m,
    s.request c run tlb age pgen =
      ({ s with fresh := m }, { c with next := c.after run.1, reqs := c.reqs ++ [r], parts := ps }) ∧
    r.Fresh s.fresh run tlb pgen := by
  obtain ⟨ps, m, hparts⟩ := State.toParts_eq { s with fresh := s.fresh + 1 }
    { c with next := c.after run.1, reqs := c.reqs ++ [s.newReq c run tlb age pgen] } pgen
    (padBytes c c.next (c.after run.1))
  exact ⟨_, ps, m, hparts, s.newReq_fresh c run tlb age pgen⟩

/-- A request that loses all its bytes: the copy has lost data, and slots may be free (R130). -/
theorem State.loseRequest_all {s : State} {c : CopyRec} {n : Nat} {r : Req}
    (hr : c.reqs.find? (fun r => r.id == n && r.phase != .landing) = some r) : ∃ d k m,
    s.loseRequest c n none = (State.putCopy { s with fresh := m } d).freeSlots c k ∧
      d.id = c.id ∧ d.lost = true ∧ d.slow = c.slow ∧ d.next = c.next := by
  have hdrop : ∃ d k m, s.dropped c n = (State.putCopy { s with fresh := m } d).freeSlots c k ∧
      d.id = c.id ∧ d.lost = true ∧ d.slow = c.slow ∧ d.next = c.next := ⟨_, 1, s.fresh, rfl, rfl, rfl, rfl, rfl⟩
  cases hcar : r.carries with
  | true =>
    rw [State.loseRequest_of_carries s hr hcar]
    exact hdrop
  | false =>
    rw [State.loseRequest_of_reads s hr hcar, if_neg (by simp), if_neg (by simp)]
    split
    · exact hdrop
    · exact s.landLost_eq c n r

/-- A request that has just been dispatched stays, or a boundary that has failed cuts it off and it is lost (R412). -/
theorem State.loseIfCut_cases {s : State} {c : CopyRec} {i n : Nat} (hc : s.copy? i = some c)
    (h : ∃ r ∈ c.reqs, r.id = n ∧ r.phase ≠ .landing) : s.loseIfCut i n = s ∨
      (∃ b < 4, at' 0 s.dev.seams b = 3) ∧ ∃ d k m,
        s.loseIfCut i n = (State.putCopy { s with fresh := m } d).freeSlots c k ∧
          d.id = i ∧ d.lost = true ∧ d.slow = true ∧ d.next = c.next := by
  obtain rfl := State.copy?_id hc
  unfold State.loseIfCut
  simp only [hc]
  split
  · exact .inl rfl
  · split
    · next r _ hcut =>
      obtain ⟨o, ho, hoid, hph⟩ := h
      obtain ⟨q, hq⟩ := Option.isSome_iff_exists.mp
        (List.find?_isSome (p := fun r : Req => r.id == n && r.phase != .landing).mpr ⟨o, ho, by simp [hoid, hph]⟩)
      exact .inr ⟨State.failed_of_cutOff hcut, State.loseRequest_all (c := { c with slow := true }) hq⟩
    · exact .inl rfl

/-- The TLB entries that translate a list of pages: the tile's own TLB takes those of its die, with new identities (R128). -/
theorem State.useTlb_eq (s : State) (n home : Nat) (l : List (Nat × Bool)) :
    ∃ m tlb, (s.useTlb n home l).1 = { s with fresh := m, tlb := tlb } := by
  unfold State.useTlb
  refine List.foldlRecOn (motive := fun r : State × List Nat => ∃ m tlb, r.1 = { s with fresh := m, tlb := tlb }) l _
    ⟨s.fresh, s.tlb, rfl⟩ ?_
  rintro ⟨_, ids⟩ ⟨m, tlb, rfl⟩ q -
  dsimp only
  split
  · exact ⟨_, _, rfl⟩
  · split <;> exact ⟨_, _, rfl⟩

/-- A copy after the dispatch of its next request: its record holds the request (R126). -/
def State.dispatched (s : State) (c : CopyRec) (run : Nat × Nat) (tlb : List Nat) (age pgen : Nat) : State :=
  let q := s.request c run tlb age pgen
  (q.1.putCopy q.2).remoteFlits c

theorem State.dispatched_spec {s : State} {c : CopyRec} (hc : s.copy? c.id = some c) (run : Nat × Nat) (tlb : List Nat)
    (age pgen : Nat) : ∃ r ps, r.Fresh s.fresh run tlb pgen ∧
      (s.dispatched c run tlb age pgen).copy? c.id =
        some { c with next := c.after run.1, reqs := c.reqs ++ [r], parts := ps } ∧
      (s.dispatched c run tlb age pgen).host = s.host ∧ (s.dispatched c run tlb age pgen).hbm = s.hbm ∧
      (s.dispatched c run tlb age pgen).dev = s.dev ∧
      (¬ (CopyRec.locOf c.src = some 2 ∨ CopyRec.locOf c.dst = some 2) →
        (s.dispatched c run tlb age pgen).pitches = s.pitches) ∧
      ∀ n k t, s.tile? n k = some t → ∃ v, (s.dispatched c run tlb age pgen).tile? n k = some v ∧ v.xs = t.xs := by
  obtain ⟨r, ps, m, hreq, hfresh⟩ := s.request_eq c run tlb age pgen
  have heq : s.dispatched c run tlb age pgen = (State.putCopy { s with fresh := m }
      { c with next := c.after run.1, reqs := c.reqs ++ [r], parts := ps }).remoteFlits c := by
    rw [State.dispatched, hreq]
  obtain ⟨hcopies, hhost, hhbm, hdev, htiles⟩ := State.sameWork_remoteFlits (State.putCopy { s with fresh := m }
    { c with next := c.after run.1, reqs := c.reqs ++ [r], parts := ps }) c
  rw [heq]
  exact ⟨r, ps, hfresh, (State.copy?_congr hcopies _).trans (State.copy?_putCopy (s := { s with fresh := m }) hc rfl), hhost,
    hhbm, hdev, fun hr => by rw [State.remoteFlits_of_here hr]; rfl, htiles⟩

theorem State.mayIssue_iff {s : State} {c : CopyRec} {sl : Slice} (hsl : s.slice? c.slice = some sl) : s.mayIssue c = true ↔
    (CopyRec.locOf c.src = some 1 ∨ CopyRec.locOf c.dst = some 1 → sl.active = true) := by
  simp only [State.mayIssue, Bool.and_eq_true, State.mayUse_iff, hsl, Option.some.injEq, exists_eq_left', or_imp]

/-- The slow path, or X, lets padding at the end of a copy go without a request (R126, R284). -/
theorem State.padded_spec {s : State} {c : CopyRec} (hc : s.copy? c.id = some c) (g : Nat) (bs : List (Nat × Option Nat)) :
    ∃ ps m, (s.toParts { c with next := c.total } g bs).1.putCopy (s.toParts { c with next := c.total } g bs).2 =
        State.putCopy { s with fresh := m } { c with next := c.total, parts := ps } ∧
      (State.putCopy { s with fresh := m } { c with next := c.total, parts := ps }).copy? c.id =
        some { c with next := c.total, parts := ps } := by
  obtain ⟨ps, m, hparts⟩ := s.toParts_eq { c with next := c.total } g bs
  exact ⟨ps, m, by rw [hparts], State.copy?_putCopy (s := { s with fresh := m }) hc rfl⟩

end Sys2Proof.Machine

/-! Requests of a copy that stayed behind a freeze (R92, R130, R375, R412). -/

namespace Sys2Proof.Machine

section
variable {s : State} {c : CopyRec} (hc : s.copy? c.id = some c)
include hc

theorem exec_copyRequestDispatch_left (hleft : c.left ≠ []) : exec (.copyRequestDispatch c.id) s =
    .next (if decide (c.next < c.total) && s.mayIssue c then s.requestLeft c else s) := by
  have hl : c.left.isEmpty = false := by simpa using hleft
  simp only [exec, execCopyRequestDispatch, hc, hl, Bool.not_false, if_true]

/-- The next request of a copy that stayed behind: the record and the memories after it, and the places of the pitch (R92, R130). -/
theorem requestLeft_spec (hleft : c.left ≠ []) : ∃ d, (s.requestLeft c).copy? c.id = some d ∧
    (s.requestLeft c).host = s.host ∧ (s.requestLeft c).hbm = s.hbm ∧
    (¬ (CopyRec.locOf c.src = some 2 ∨ CopyRec.locOf c.dst = some 2) → (s.requestLeft c).pitches = s.pitches) ∧
    (c.total ≤ c.nextRun.1 → d.next = c.total ∧ d.reqs = c.reqs) ∧
    (c.nextRun.1 < c.total → d.next = c.after c.nextRun.1 ∧
      ((∃ r, d.reqs = c.reqs ++ [r] ∧ r.k0 = c.nextRun.1 ∧ r.k1 = c.nextRun.2 ∧ r.tlb = [] ∧ r.pgen = c.pgen) ∨
        (d.lost = true ∧ d.slow = true ∧ ∃ b < 4, at' 0 s.dev.seams b = 3))) := by
  by_cases hend : c.total ≤ c.nextRun.1
  · obtain ⟨ps, m, heq, hcopy⟩ := State.padded_spec hc c.pgen (padBytes c c.next c.total)
    have hleft : s.requestLeft c = State.putCopy { s with fresh := m } { c with next := c.total, parts := ps } :=
      (if_pos hend).trans heq
    rw [hleft]
    exact ⟨_, hcopy, rfl, rfl, fun _ => rfl, fun _ => ⟨rfl, rfl⟩, fun h => absurd hend (Nat.not_le.mpr h)⟩
  · have hreq : s.requestLeft c = (s.dispatched c c.nextRun [] 0 c.pgen).loseIfCut c.id s.fresh := if_neg hend
    obtain ⟨r, ps, hr, hcopy, hhost, hhbm, hdev, hpitches, -⟩ := State.dispatched_spec hc c.nextRun [] 0 c.pgen
    rw [hreq]
    have hmem : r ∈ c.reqs ++ [r] := List.mem_append_right _ (List.mem_singleton_self r)
    rcases State.loseIfCut_cases (n := s.fresh) hcopy ⟨r, hmem, hr.id, hr.moves⟩
      with heq | ⟨hcut, d, k, m, heq, hid, hlost, hslow, hnext⟩
    · rw [heq]
      exact ⟨_, hcopy, hhost, hhbm, hpitches, fun h => absurd h hend, fun _ =>
        ⟨rfl, .inl ⟨r, rfl, hr.k0, hr.k1, hr.tlb, hr.pgen⟩⟩⟩
    · rw [heq]
      obtain ⟨-, hhost', hhbm', hpitches'⟩ := State.freeSlots_frame (State.putCopy { s.dispatched c c.nextRun [] 0 c.pgen with
        fresh := m } d) { c with next := c.after c.nextRun.1, reqs := c.reqs ++ [r], parts := ps } k
      refine ⟨d, ?_, hhost'.trans hhost, hhbm'.trans hhbm, fun h => (hpitches' hleft).trans (hpitches h),
        fun h => absurd h hend, fun _ => ⟨hnext, .inr ⟨hlost, hslow, hdev ▸ hcut⟩⟩⟩
      rw [State.freeSlots_copy?]
      exact State.copy?_putCopy (s := { s.dispatched c c.nextRun [] 0 c.pgen with fresh := m }) hcopy hid

end

theorem saysLeftDispatch_holds : saysLeftDispatch := by
  unfold saysLeftDispatch
  intro s c sl hc hsl hleft out ofHost remote may run
  have hexec := exec_copyRequestDispatch_left hc hleft
  have hmay : (decide (c.next < c.total) && s.mayIssue c) = true ↔ may := by
    simp only [Bool.and_eq_true, decide_eq_true_eq, State.mayIssue_iff hsl]
    rfl
  refine ⟨fun h => ?_, fun h => ?_⟩
  · rw [hexec, if_neg (mt hmay.mp h)]
  · rw [if_pos (hmay.mpr h)] at hexec
    obtain ⟨d, hd⟩ := requestLeft_spec hc hleft
    exact ⟨_, d, hexec, hd⟩

end Sys2Proof.Machine

/-! Requests that X dispatches, and translation walks (R126 to R129, R137, R284, R375, R392, R412). -/

namespace Sys2Proof.Machine

/-- X may dispatch the next request of a copy (R126, R137, R375). -/
def State.copyGoes (s : State) (c : CopyRec) (p : Pitch) (t : Tile) : Bool :=
  t.xs.copying == some c.id && !t.xs.stopped && c.walk.isNone && !p.xStop t && !(t.engOf .X).halted &&
    t.clearing.isNone && decide (t.xs.slots < Config.slotLimit) && s.mayIssue c &&
    (t.xs.fence.all fun k => !t.xs.copies.contains k || k == c.id)

theorem State.copyGoes_iff {s : State} {c : CopyRec} {sl : Slice} (hsl : s.slice? c.slice = some sl) (p : Pitch) (t : Tile) :
    s.copyGoes c p t = true ↔ t.xs.copying = some c.id ∧ t.xs.stopped = false ∧ c.walk = none ∧ p.xStop t = false ∧
      (t.engOf .X).halted = false ∧ t.clearing = none ∧ t.xs.slots < Config.slotLimit ∧
      (CopyRec.locOf c.src = some 1 ∨ CopyRec.locOf c.dst = some 1 → sl.active = true) ∧
      ∀ k ∈ t.xs.fence, k ∈ t.xs.copies → k = c.id := by
  have hfence : (t.xs.fence.all fun k => !t.xs.copies.contains k || k == c.id) = true ↔
      ∀ k ∈ t.xs.fence, k ∈ t.xs.copies → k = c.id := by
    simp only [List.all_eq_true, Bool.or_eq_true, Bool.not_eq_true', beq_iff_eq, List.contains_eq_mem, decide_eq_false_iff_not,
      imp_iff_not_or]
  simp only [State.copyGoes, Bool.and_eq_true, beq_iff_eq, Bool.not_eq_true', Option.isNone_iff_eq_none, decide_eq_true_eq,
    State.mayIssue_iff hsl, hfence, and_assoc]

/-- X's own record of a copy's dispatch: a slot is taken, and the copy is done with at its end (R126, R137). -/
def CopyRec.sent (c : CopyRec) (after : Nat) (t : Tile) : Tile :=
  { t with xs := { t.xs with
    slots := t.xs.slots + 1
    copying := if c.total ≤ after then none else t.xs.copying
    lastSent := decide (c.total ≤ after) } }

/-- The state after X has dispatched a request (R126, R412). -/
def State.sentByX (s : State) (c : CopyRec) (run : Nat × Nat) (ids : List Nat) (age pgen : Nat) : State :=
  ((s.dispatched c run ids age pgen).onTile c.pitch c.tile (c.sent (c.after run.1))).loseIfCut c.id s.fresh

section
variable {s : State} {c : CopyRec} {p : Pitch} {t : Tile} (hc : s.copy? c.id = some c) (hp : s.pitch? c.pitch = some p)
  (ht : s.tile? c.pitch c.tile = some t) (hleft : c.left = [])
include hc hp ht hleft

theorem exec_copyRequestDispatch_stays (h : s.copyGoes c p t = false) : exec (.copyRequestDispatch c.id) s = .next s := by
  simp only [State.copyGoes] at h
  simp only [exec, execCopyRequestDispatch, hc, hp, ht, hleft, List.isEmpty_nil, Bool.not_true, Bool.false_eq_true, if_false, h,
    Bool.not_false, if_true]

variable (h : s.copyGoes c p t = true)
include h

theorem exec_copyRequestDispatch_end (hend : c.total ≤ c.nextRun.1) : exec (.copyRequestDispatch c.id) s =
    .next (((s.toParts { c with next := c.total } p.gen (padBytes c c.next c.total)).1.putCopy
      (s.toParts { c with next := c.total } p.gen (padBytes c c.next c.total)).2).onTile c.pitch c.tile fun t =>
        { t with xs := { t.xs with copying := none } }) := by
  simp only [State.copyGoes] at h
  simp only [exec, execCopyRequestDispatch, hc, hp, ht, hleft, List.isEmpty_nil, Bool.not_true, Bool.false_eq_true, if_false, h,
    hend, if_true]

variable (hmore : c.nextRun.1 < c.total)
include hmore

theorem exec_copyRequestDispatch_fault {sl : Slice} {va : Nat} {wr : Bool} (hsl : s.slice? c.slice = some sl)
    (hmiss : s.firstMiss c.slice (p.physOf t.x t.y) (c.needs c.nextRun.1 c.nextRun.2) = some (va, wr, true)) :
    exec (.copyRequestDispatch c.id) s = .next (s.onTile c.pitch c.tile fun t => t.xFault va wr c.off sl.fqOn) := by
  simp only [State.copyGoes] at h
  simp only [exec, execCopyRequestDispatch, hc, hp, ht, hleft, List.isEmpty_nil, Bool.not_true, Bool.false_eq_true, if_false, h,
    Nat.not_le.mpr hmore, hmiss, hsl]

theorem exec_copyRequestDispatch_walk {va : Nat} {wr : Bool}
    (hmiss : s.firstMiss c.slice (p.physOf t.x t.y) (c.needs c.nextRun.1 c.nextRun.2) = some (va, wr, false)) :
    exec (.copyRequestDispatch c.id) s = .next (s.putCopy { c with walk := some (va, wr) }) := by
  simp only [State.copyGoes] at h
  simp only [exec, execCopyRequestDispatch, hc, hp, ht, hleft, List.isEmpty_nil, Bool.not_true, Bool.false_eq_true, if_false, h,
    Nat.not_le.mpr hmore, hmiss]

theorem exec_copyRequestDispatch_goes
    (hmiss : s.firstMiss c.slice (p.physOf t.x t.y) (c.needs c.nextRun.1 c.nextRun.2) = none) :
    ∃ tlb ids m, exec (.copyRequestDispatch c.id) s =
      .next (State.sentByX { s with fresh := m, tlb := tlb } c c.nextRun ids p.wall p.gen) := by
  obtain ⟨m, tlb, hu⟩ := s.useTlb_eq c.slice (p.physOf t.x t.y) (c.needs c.nextRun.1 c.nextRun.2)
  refine ⟨tlb, (s.useTlb c.slice (p.physOf t.x t.y) (c.needs c.nextRun.1 c.nextRun.2)).2, m, ?_⟩
  simp only [State.copyGoes] at h
  simp only [exec, execCopyRequestDispatch, hc, hp, ht, hleft, List.isEmpty_nil, Bool.not_true, Bool.false_eq_true, if_false, h,
    Nat.not_le.mpr hmore, hmiss, hu]
  rfl

end

section
variable {s : State} {c : CopyRec} (hc : s.copy? c.id = some c)
include hc

theorem exec_translationWalkDone_none (h : c.walk = none) : exec (.translationWalkDone c.id) s = .next s := by
  simp only [exec, execTranslationWalkDone, hc, h]

variable {p : Pitch} {t : Tile} {sl : Slice} {va : Nat} {wr : Bool} (hp : s.pitch? c.pitch = some p)
  (ht : s.tile? c.pitch c.tile = some t) (hsl : s.slice? c.slice = some sl) (hw : c.walk = some (va, wr))
include hp ht hsl hw

theorem exec_translationWalkDone_fault (h : sl.walk va (Config.fires (s.fresh + 1) s.tick) = none) :
    exec (.translationWalkDone c.id) s = .next ((s.putCopy { c with walk := none }).onTile c.pitch c.tile fun t =>
      t.xFault va wr c.off sl.fqOn) := by
  simp only [exec, execTranslationWalkDone, hc, hw, hsl, hp, ht, h]

theorem exec_translationWalkDone_fill {lf : Leaf} (h : sl.walk va (Config.fires (s.fresh + 1) s.tick) = some lf) :
    let e : TlbEnt := { id := s.fresh, slice := c.slice, home := p.physOf t.x t.y, va := va / lf.size * lf.size, size := lf.size
                        base := lf.base, rd := lf.rd, wr := lf.wr }
    exec (.translationWalkDone c.id) s = .next { s.putCopy { c with walk := none } with
      fresh := s.fresh + 2
      tlb := s.tlb ++ [e, { e with id := s.fresh + 1, home := 2304 + dieOf (p.physOf t.x t.y) }] } := by
  simp only [exec, execTranslationWalkDone, hc, hw, hsl, hp, ht, h]

end

/-- A request that X has dispatched: it takes a slot, or a boundary that has failed cuts it off and it is lost with what it held
(R126, R412). -/
theorem State.sentByX_spec {s : State} {c : CopyRec} {t : Tile} (run : Nat × Nat) (ids : List Nat) (age pgen : Nat)
    (hc : s.copy? c.id = some c) (ht : s.tile? c.pitch c.tile = some t) (hleft : c.left = []) :
    ∃ d v, (s.sentByX c run ids age pgen).copy? c.id = some d ∧ d.next = c.after run.1 ∧
      (s.sentByX c run ids age pgen).tile? c.pitch c.tile = some v ∧ (s.sentByX c run ids age pgen).host = s.host ∧
      (s.sentByX c run ids age pgen).hbm = s.hbm ∧
      ∃ n, v.xs = { t.xs with
          slots := n, copying := if c.total ≤ c.after run.1 then none else t.xs.copying
          lastSent := decide (c.total ≤ c.after run.1) } ∧
        ((n = t.xs.slots + 1 ∧ ∃ r, d.reqs = c.reqs ++ [r] ∧ r.k0 = run.1 ∧ r.k1 = run.2 ∧ r.pgen = pgen) ∨
          ((∃ b < 4, at' 0 s.dev.seams b = 3) ∧ n ≤ t.xs.slots + 1 ∧ d.lost = true ∧ d.slow = true)) := by
  obtain ⟨r, ps, hr, hcopy, hhost, hhbm, hdev, -, htiles⟩ := State.dispatched_spec hc run ids age pgen
  obtain ⟨w, hw, hxs⟩ := htiles _ _ _ ht
  have hsent : ((s.dispatched c run ids age pgen).onTile c.pitch c.tile (c.sent (c.after run.1))).tile? c.pitch c.tile =
      some (c.sent (c.after run.1) w) := State.tile?_onTile _ hw
  have hmem : r ∈ c.reqs ++ [r] := List.mem_append_right _ (List.mem_singleton_self r)
  rcases State.loseIfCut_cases (n := s.fresh)
    (s := (s.dispatched c run ids age pgen).onTile c.pitch c.tile (c.sent (c.after run.1))) hcopy ⟨r, hmem, hr.id, hr.moves⟩
    with heq | ⟨hcut, d, k, m, heq, hid, hlost, hslow, hnext⟩
  · rw [State.sentByX, heq]
    exact ⟨_, _, hcopy, rfl, hsent, hhost, hhbm, t.xs.slots + 1, by simp only [CopyRec.sent, hxs],
      .inl ⟨rfl, r, rfl, hr.k0, hr.k1, hr.pgen⟩⟩
  · rw [State.sentByX, heq, State.freeSlots_of_left (h := by exact hleft)]
    refine ⟨d, _, State.copy?_putCopy (s := { State.onTile _ _ _ _ with fresh := m }) hcopy hid, hnext,
      State.tile?_onTile _ hsent, hhost, hhbm, t.xs.slots + 1 - k, ?_, .inr ⟨hdev ▸ hcut, Nat.sub_le .., hlost, hslow⟩⟩
    simp only [CopyRec.sent, hxs]

theorem saysDispatch_holds : saysDispatch := by
  unfold saysDispatch
  intro s c p t sl ⟨hc, hp, ht'⟩ hsl out x ofHost goes run after home miss faulted cut
  have ht : s.tile? c.pitch c.tile = some t := by simp only [State.tile?, hp, ht']
  have hgoes : goes ↔ c.left = [] ∧ s.copyGoes c p t = true := and_congr_right fun _ => (State.copyGoes_iff hsl p t).symm
  refine ⟨fun hleft h => ?_, fun h hend => ?_, fun h hmore => ⟨fun va wr hmiss => ?_, fun va wr hmiss => ?_, fun hmiss => ?_⟩,
    exec_translationWalkDone_none hc, fun va wr hw => ⟨exec_translationWalkDone_fault hc hp ht hsl hw,
      fun lf => exec_translationWalkDone_fill hc hp ht hsl hw⟩⟩
  · exact exec_copyRequestDispatch_stays hc hp ht hleft (Bool.eq_false_iff.mpr fun hgo => h (hgoes.mpr ⟨hleft, hgo⟩))
  · obtain ⟨hleft, hgo⟩ := hgoes.mp h
    obtain ⟨ps, m, heq, hcopy⟩ := State.padded_spec hc p.gen (padBytes c c.next c.total)
    have hexec := exec_copyRequestDispatch_end hc hp ht hleft hgo hend
    rw [heq] at hexec
    exact ⟨_, _, _, hexec, hcopy, rfl, rfl,
      State.tile?_onTile (s := State.putCopy { s with fresh := m } { c with next := c.total, parts := ps }) _ ht, rfl, rfl, rfl⟩
  · obtain ⟨hleft, hgo⟩ := hgoes.mp h
    exact exec_copyRequestDispatch_fault hc hp ht hleft hgo hmore hsl hmiss
  · obtain ⟨hleft, hgo⟩ := hgoes.mp h
    exact exec_copyRequestDispatch_walk hc hp ht hleft hgo hmore hmiss
  · obtain ⟨hleft, hgo⟩ := hgoes.mp h
    obtain ⟨tlb, ids, m, hexec⟩ := exec_copyRequestDispatch_goes hc hp ht hleft hgo hmore hmiss
    obtain ⟨d, v, hd⟩ := State.sentByX_spec (s := { s with fresh := m, tlb := tlb }) c.nextRun ids p.wall p.gen hc ht hleft
    exact ⟨_, d, v, hexec, hd⟩

/-- Settles O58: the requests of a copy that stayed behind, and those that X dispatches. -/
theorem copyDispatch : Obligations.CopyDispatch := ⟨saysLeftDispatch_holds, saysDispatch_holds⟩

end Sys2Proof.Machine

/-! What the invariant of every step speaks of, and that the shared operations leave it alone (R376, R377, R402, R436, R442). -/

namespace Sys2Proof.Machine

/-- The registers and the memory that the invariant is about. -/
structure Guarded where
  owner : Nat
  result : Nat
  next : Nat
  interval : Nat
  running : Nat
  enable : Bool
  log2n : Nat
  pkg : Nat
  host : Mem

/-- Their part of a state. -/
def State.guarded (s : State) : Guarded :=
  { owner := s.mb.owner, result := s.mb.result, next := s.mb.next, interval := s.rc.interval, running := s.rc.running
    enable := s.rc.enable, log2n := s.rc.log2n, pkg := s.dev.pkg, host := s.host }

/-- What the invariant asks of them. -/
structure Guarded.Ok (g : Guarded) : Prop where
  owner : g.owner < 0xFFFF
  result : g.result ≤ 3
  next : g.next ≤ 3
  interval : 100 ≤ g.interval ∧ g.interval ≤ 10000
  running : 100 ≤ g.running ∧ g.running ≤ 10000
  ring : g.enable = true → 10 ≤ g.log2n ∧ g.log2n ≤ 20
  pkg : g.pkg < 2 ^ 14
  host : g.host.wf = true

theorem State.inv_iff (s : State) : s.Inv ↔ s.guarded.Ok :=
  ⟨fun ⟨h, hw⟩ => ⟨h.owner, h.result, h.next, h.interval, h.running, h.ring, h.pkg, hw⟩,
    fun h => ⟨⟨h.owner, h.result, h.next, h.interval, h.running, h.ring, h.pkg⟩, h.host⟩⟩

theorem foldl_guarded {α : Type} {f : State → α → State} (hf : ∀ s a, (f s a).guarded = s.guarded) (l : List α) (s : State) :
    (l.foldl f s).guarded = s.guarded :=
  List.foldlRecOn (motive := fun z => State.guarded z = s.guarded) l f rfl fun z hz a _ => (hf z a).trans hz

/-! Charges, ports and the till. -/

theorem State.guarded_ifExhausted (s : State) (n : Nat) (b : Bool) : (s.ifExhausted n b).guarded = s.guarded := by
  obtain ⟨more, h⟩ := s.ifExhausted_eq n b
  rw [h]
  rfl

theorem State.guarded_chargeFar (s : State) (n pid k m j : Nat) : (s.chargeFar n pid k m j).guarded = s.guarded := by
  unfold State.chargeFar
  dsimp only
  split
  · rfl
  · split
    · rfl
    · exact State.guarded_ifExhausted ..

theorem State.guarded_sendFlit (s : State) (n pid k pkg ty : Nat) : (s.sendFlit n pid k pkg ty).guarded = s.guarded := by
  unfold State.sendFlit
  split
  · rfl
  · split
    · rfl
    · exact State.guarded_chargeFar ..

theorem State.guarded_chargeHbm (s : State) (n pid k line r w : Nat) : (s.chargeHbm n pid k line r w).guarded = s.guarded := by
  unfold State.chargeHbm
  dsimp only
  split
  · rfl
  · exact State.guarded_chargeFar ..

theorem State.guarded_flush (s : State) (n : Nat) : (s.flush n).guarded = s.guarded := by
  unfold State.flush
  split
  · rfl
  · split
    · rfl
    · exact State.guarded_ifExhausted ..

theorem State.guarded_flushAll (s : State) : s.flushAll.guarded = s.guarded :=
  foldl_guarded (fun z (p : Pitch) => z.guarded_flush p.id) ..

theorem State.guarded_schedule (s : State) (n : Nat) : (s.schedule n).guarded = s.guarded := by
  obtain ⟨more, area, h⟩ := s.scheduled_schedule n
  rw [h]
  rfl

theorem State.guarded_wake (s : State) (n : Nat) : (s.wake n).guarded = s.guarded := by
  unfold State.wake
  split
  · rfl
  · rfl

/-! Requests, parts and posts of copies. -/

theorem State.guarded_freeSlots (s : State) (c : CopyRec) (n : Nat) : (s.freeSlots c n).guarded = s.guarded := by
  unfold State.freeSlots
  split
  · rfl
  · rfl

theorem State.guarded_settle (s : State) (c : CopyRec) : (s.settle c).guarded = s.guarded := State.guarded_freeSlots ..

theorem State.guarded_toParts (s : State) (c : CopyRec) (g : Nat) (bs : List (Nat × Option Nat)) :
    (s.toParts c g bs).1.guarded = s.guarded := rfl

theorem State.guarded_request (s : State) (c : CopyRec) (run : Nat × Nat) (tlb : List Nat) (age g : Nat) :
    (s.request c run tlb age g).1.guarded = s.guarded := rfl

theorem State.guarded_useTlb (s : State) (n home : Nat) (l : List (Nat × Bool)) : (s.useTlb n home l).1.guarded = s.guarded := by
  obtain ⟨m, tlb, h⟩ := s.useTlb_eq n home l
  rw [h]
  rfl

theorem State.guarded_sideFlits (s : State) (c : CopyRec) (sd : Side) : (s.sideFlits c sd).guarded = s.guarded := by
  unfold State.sideFlits
  split
  · split
    · exact State.guarded_sendFlit ..
    · rfl
  · rfl
  · rfl

theorem State.guarded_remoteFlits (s : State) (c : CopyRec) : (s.remoteFlits c).guarded = s.guarded :=
  (State.guarded_sideFlits ..).trans (State.guarded_sideFlits ..)

theorem State.guarded_postAt (s : State) (c : CopyRec) (a : CopySem) : (s.postAt c a).guarded = s.guarded := by
  unfold State.postAt
  split
  · rfl
  · rfl

theorem State.guarded_postCopy (s : State) (c : CopyRec) : (s.postCopy c).guarded = s.guarded := by
  refine foldl_guarded (fun z n => ?_) _ _
  split
  · split
    · rfl
    · exact State.guarded_postAt ..
  · rfl

theorem State.guarded_postLanded (s : State) (c : CopyRec) (k : Nat) : (s.postLanded c k).guarded = s.guarded := by
  unfold State.postLanded
  split
  · split
    · split
      · exact State.guarded_postAt ..
      · rfl
    · rfl
  · rfl

theorem State.guarded_loseRequest (s : State) (c : CopyRec) (n : Nat) (line : Option Nat) :
    (s.loseRequest c n line).guarded = s.guarded := by
  cases hr : c.reqs.find? (fun r => r.id == n && r.phase != .landing) with
  | none => simp only [State.loseRequest, hr]
  | some r =>
    have hdrop : (s.dropped c n).guarded = s.guarded := State.guarded_freeSlots ..
    cases hcar : r.carries with
    | true =>
      rw [State.loseRequest_of_carries s hr hcar]
      split
      · exact hdrop
      · rfl
    | false =>
      rw [State.loseRequest_of_reads s hr hcar]
      split
      · rfl
      · split
        · rfl
        · split
          · exact hdrop
          · exact State.guarded_settle ..

theorem State.guarded_loseIfCut (s : State) (id rid : Nat) : (s.loseIfCut id rid).guarded = s.guarded := by
  unfold State.loseIfCut
  split
  · rfl
  · split
    · rfl
    · split
      · exact State.guarded_loseRequest ..
      · rfl

theorem State.guarded_requestLeft (s : State) (c : CopyRec) : (s.requestLeft c).guarded = s.guarded := by
  unfold State.requestLeft
  dsimp only
  split
  · rfl
  · exact (State.guarded_loseIfCut ..).trans (State.guarded_remoteFlits ..)

theorem State.guarded_loseCopies (s : State) (f : CopyRec → Req → Bool) : (s.loseCopies f).guarded = s.guarded := by
  refine foldl_guarded (fun z c => foldl_guarded (fun y r => ?_) _ _) _ _
  split
  · exact State.guarded_loseRequest ..
  · rfl

theorem State.guarded_loseParts (s : State) (b : Nat) : (s.loseParts b).guarded = s.guarded := by
  refine foldl_guarded (fun z c => ?_) _ _
  dsimp only
  split
  · split
    · exact State.guarded_settle ..
    · rfl
  · rfl

/-! Tensors and device virtual memory: HBM only. -/

theorem State.guarded_readTensor (s : State) (c : CopyRec) (r : Req) : (s.readTensor c r).1.guarded = s.guarded := by
  unfold State.readTensor
  split
  · split
    · rfl
    · split
      · rfl
      · split
        · rfl
        · split
          · rfl
          · refine foldl_guarded (fun z ln => ?_) _ _
            split
            · exact State.guarded_chargeHbm ..
            · rfl
  · rfl
  · rfl

theorem State.guarded_writeHbm (s : State) (c : CopyRec) (r : Req) (d : RegionDesc) (e : Vector Word 4) (ws : List (Nat × Nat)) :
    (s.writeHbm c r d e ws).guarded = s.guarded := by
  unfold State.writeHbm
  split
  · split
    · rfl
    · exact (foldl_guarded (fun z (l : Line) => State.guarded_chargeHbm z ..) _ _).trans (State.guarded_chargeHbm ..)
  · rfl

theorem State.guarded_writeVa (s : State) (sl : Slice) (va : Nat) (b : List Byte) : (s.writeVa sl va b).guarded = s.guarded := by
  refine foldl_guarded (fun z i => ?_) _ _
  dsimp only
  split
  · rfl
  · rfl

/-! Placements, freezes and hampers. -/

theorem State.guarded_storeHamper (s : State) (l : Launch) (p : Pitch) : (s.storeHamper l p).guarded = s.guarded := by
  unfold State.storeHamper
  split
  · rfl
  · exact State.guarded_writeVa ..

theorem State.guarded_keepHamper (s : State) (sl : Slice) (l : Launch) (p : Pitch) :
    (s.keepHamper sl l p).guarded = s.guarded := by
  unfold State.keepHamper
  dsimp only
  split
  · rfl
  · exact State.guarded_storeHamper ..

theorem State.guarded_evict (s : State) (sl : Slice) (l : Launch) (q : Place) : (s.evict sl l q).guarded = s.guarded := by
  unfold State.evict
  split
  · rfl
  · refine foldl_guarded (fun z n => ?_) _ _
    split
    · rfl
    · rfl

theorem State.guarded_keepPhys (s : State) (p : Pitch) : (s.keepPhys p).guarded = s.guarded := by
  refine foldl_guarded (fun z k => ?_) _ _
  rfl

theorem State.guarded_pinCode (s : State) (sl : Slice) (p : Pitch) : (s.pinCode sl p).guarded = s.guarded := by
  unfold State.pinCode
  split
  · rfl
  · refine foldl_guarded (fun z k => ?_) _ _
    dsimp only
    split
    · rfl
    · rfl

theorem State.guarded_clearTiles (s : State) (ks : List Nat) : (s.clearTiles ks).guarded = s.guarded := by
  refine foldl_guarded (fun z k => ?_) _ _
  dsimp only
  split
  · rfl
  · rfl

theorem State.guarded_wrapOr {s : State} {k : Nat → State} (hk : ∀ g, (k g).guarded = s.guarded) (l : Launch) (ks : List Nat) :
    (s.wrapOr l ks k).guarded = s.guarded := by
  unfold State.wrapOr
  dsimp only
  split
  · rfl
  · exact hk _

theorem State.guarded_place (s : State) (l : Launch) : (s.place l).guarded = s.guarded := by
  unfold State.place
  split
  · rfl
  · refine (State.guarded_wrapOr (fun g => ?_) _ _).trans (State.guarded_evict ..)
    exact State.guarded_schedule ..

theorem State.guarded_wrapClear (s : State) (l : Launch) : (s.wrapClear l).guarded = s.guarded := by
  unfold State.wrapClear
  dsimp only
  split
  · rfl
  · split
    · rfl
    · exact State.guarded_clearTiles ..

theorem State.guarded_keepTranslation (s : State) (f : List Byte) (i : Image) : (s.keepTranslation f i).guarded = s.guarded := by
  unfold State.keepTranslation
  dsimp only
  split
  · rfl
  · rfl

/-! Tiles that are retired or woken, and slices that are gone. -/

theorem State.guarded_retire (s : State) (k : Nat) : (s.retire k).guarded = s.guarded := by
  unfold State.retire
  split
  · rfl
  · rfl

theorem State.guarded_dropPins (s : State) (ks : List Nat) : (s.dropPins ks).guarded = s.guarded := rfl

theorem State.guarded_wakeSquares (s : State) (squares : Nat) : (s.wakeSquares squares).guarded = s.guarded := by
  unfold State.wakeSquares
  rw [State.guarded_dropPins]
  refine foldl_guarded (fun z k => ?_) _ _
  rfl

theorem State.guarded_dropSlice (s : State) (id : Nat) : (s.dropSlice id).guarded = s.guarded := by
  cases h : s.flushAll.slice? id with
  | none => simpa only [State.dropSlice, h] using s.guarded_flushAll
  | some sl =>
    simp only [State.dropSlice, h]
    exact s.guarded_flushAll

end Sys2Proof.Machine

/-! The wall cycle of a placed pitch leaves the guarded registers and host memory alone (R13 to R34, R126, R293). -/

namespace Sys2Proof.Machine

/-- A tile's signal makes messages and copies, and changes its pitch. -/
theorem absorbSig_guarded (p : Pitch) (k : Nat) (r : State × Pitch) (g : Sig) : (absorbSig p k r g).1.guarded = r.1.guarded := by
  cases g with
  | reply m v trap =>
    dsimp only [absorbSig]
    split
    · rfl
    · rfl
  | refused c data =>
    dsimp only [absorbSig]
    split
    · rfl
    · rfl
  | word | link | remote | slice | fpost | copy => rfl

theorem absorbAll_guarded (s : State) (p : Pitch) : (absorbAll s p).1.guarded = s.guarded := by
  refine List.foldlRecOn (motive := fun r : State × Pitch => r.1.guarded = s.guarded) _ _ rfl fun r hr k _ => ?_
  exact List.foldlRecOn (motive := fun r : State × Pitch => r.1.guarded = s.guarded) _ _ hr fun q hq g _ =>
    (absorbSig_guarded p k q g).trans hq

section
variable (s : State) (n k : Nat)

theorem State.guarded_cycleStart : (s.cycleStart n).guarded = s.guarded := by
  unfold State.cycleStart
  split
  · rfl
  · rfl

theorem State.guarded_pushGroup (e : Engine) (gpc : Nat) (l : List Placed) :
    (s.pushGroup n k e gpc l).guarded = s.guarded := rfl

theorem State.guarded_openGroup (e : Engine) : (s.openGroup n k e).guarded = s.guarded := by
  unfold State.openGroup
  split
  · dsimp only
    split
    · rfl
    · rfl
    · rfl
    · rfl
    · split
      · split
        · rfl
        · rfl
      · rfl
  · rfl

theorem State.guarded_tryRemotes (p : Pitch) : (s.tryRemotes p).guarded = s.guarded := by
  refine foldl_guarded (fun z m => ?_) _ _
  split
  · rfl
  · rfl

theorem State.guarded_cycleMid : (s.cycleMid n).guarded = s.guarded := by
  unfold State.cycleMid
  split
  · rfl
  · exact State.guarded_tryRemotes (State.putPitch _ _) _

theorem State.guarded_bankStart : (s.bankStart n).guarded = s.guarded := by
  unfold State.bankStart
  split
  · rfl
  · rfl

theorem State.guarded_cycleReads : (s.cycleReads n).guarded = s.guarded := by
  unfold State.cycleReads
  split
  · rfl
  · rfl

theorem State.guarded_xTurn : (s.xTurn n k).guarded = s.guarded := by
  unfold State.xTurn
  split
  · extract_lets r s0 s1 env stop u s2 s3
    have hs0 : s0.guarded = s.guarded := by
      dsimp only [s0]
      split
      · rfl
      · rfl
    clear_value s0
    split
    · exact hs0
    · split
      · extract_lets c moved met
        split
        · exact hs0
        · exact hs0
      · exact hs0
      · split
        · exact hs0
        · exact hs0
  · rfl

theorem State.guarded_cycleEnd : (s.cycleEnd n).guarded = s.guarded := by
  unfold State.cycleEnd
  split
  · rfl
  · rfl

theorem State.guarded_sendPosts (p : Pitch) (first : Nat) : (s.sendPosts p first).guarded = s.guarded := by
  refine foldl_guarded (fun z m => ?_) _ _
  split
  · split
    · rfl
    · exact State.guarded_sendFlit ..
  · rfl
  · rfl

theorem State.guarded_dropDone : (s.dropDone n).guarded = s.guarded := by
  unfold State.dropDone
  dsimp only
  split
  · rfl
  · rfl

theorem State.guarded_pitchEnd : (s.pitchEnd n).guarded = s.guarded := by
  unfold State.pitchEnd
  split
  · rfl
  · extract_lets first r s1
    have hs1 : s1.guarded = s.guarded :=
      (State.guarded_dropDone ..).trans ((State.guarded_sendPosts ..).trans (absorbAll_guarded ..))
    clear_value s1
    split
    · exact hs1
    · extract_lets p2 s2 p3 s3
      have hs3 : s3.guarded = s.guarded := hs1
      clear_value s3
      split
      · exact hs3
      · split
        · exact hs3
        · split
          · exact hs3
          · exact hs3

end

end Sys2Proof.Machine

/-! Host memory is written byte by byte, which keeps its canonical form: tensors of the host, records, hampers (R116, R125, R383). -/

namespace Sys2Proof.Machine

theorem Guarded.Ok.of_eq {g g' : Guarded} (h : g.Ok) (e : g' = g) : g'.Ok := e ▸ h

/-- Host memory in canonical form takes the place of the old one. -/
theorem Guarded.Ok.with_host {g : Guarded} (h : g.Ok) {m : Mem} (hm : m.wf = true) : Guarded.Ok { g with host := m } :=
  { h with host := hm }

theorem foldl_ok {α : Type} {f : State → α → State} (hf : ∀ s a, s.guarded.Ok → (f s a).guarded.Ok) (l : List α) {s : State}
    (h : s.guarded.Ok) : (l.foldl f s).guarded.Ok :=
  List.foldlRecOn (motive := fun z => z.guarded.Ok) l f h fun z hz a _ => hf z a hz

section
variable {s : State} (h : s.guarded.Ok)
include h

theorem State.ok_writeHost (a : Nat) (b : List Byte) : ({ s with host := s.host.writeAll a b } : State).guarded.Ok :=
  h.with_host (Mem.wf_writeAll a b h.host)

theorem State.ok_writeTensor (c : CopyRec) (r : Req) (bytes : List Nat) : (s.writeTensor c r bytes).guarded.Ok := by
  unfold State.writeTensor
  split
  · extract_lets lost ws host
    split
    · exact h
    · split
      · exact h.of_eq (State.guarded_writeHbm ..)
      · split
        · exact h.with_host (List.foldlRecOn (motive := fun m : Mem => m.wf = true) ws _ h.host fun m hm w _ => Mem.wf_write hm)
        · exact h
  · exact h
  · exact h

theorem State.ok_ringWrite (sl : Slice) (loc : Bool) (a : Nat) (b : List Byte) : (s.ringWrite sl loc a b).guarded.Ok := by
  cases loc with
  | false => exact State.ok_writeHost h a b
  | true => exact h.of_eq (State.guarded_writeVa ..)

theorem State.ok_writeRecord (l : Launch) (r : Rec) : (s.writeRecord l r).guarded.Ok := by
  unfold State.writeRecord
  split
  · exact h
  · extract_lets c s1
    split
    · exact h
    · exact State.ok_ringWrite h ..

theorem State.ok_endLaunch (l : Launch) (r : Rec) : (s.endLaunch l r).guarded.Ok := by
  unfold State.endLaunch
  extract_lets v
  split
  · exact h
  · exact State.ok_writeRecord h ..

theorem State.ok_payRecords : s.payRecords.guarded.Ok := by
  refine foldl_ok (fun z l hz => ?_) _ h
  split
  · exact hz
  · split
    · exact hz
    · exact State.ok_writeRecord hz ..

theorem State.ok_faultImage (l : Launch) (p : Pitch) (r : Rec) : (s.faultImage l p r).guarded.Ok := by
  obtain ⟨b, hb⟩ := s.faultImage_eq l p r
  have hstore : ((s.storeHamper (l.faulted p b) p).unpin l.id).guarded.Ok := h.of_eq (State.guarded_storeHamper ..)
  rw [hb]
  exact State.ok_endLaunch hstore ..

theorem State.ok_resume (l : Launch) : (s.resume l).guarded.Ok := by
  unfold State.resume
  split
  · next sl i q ks p _ _ =>
    split
    · exact State.ok_endLaunch (s := (s.unpin l.id).onSlice l.slice _) h ..
    · extract_lets s0
      have hs0 : s0.guarded = s.guarded := by
        dsimp only [s0]
        split
        · exact State.guarded_evict ..
        · exact State.guarded_evict ..
      have h0 : s0.guarded.Ok := h.of_eq hs0
      clear_value s0
      split
      · exact State.ok_endLaunch (s := s0.unpin l.id) h0 ..
      · refine h0.of_eq (State.guarded_wrapOr (fun g => ?_) ..)
        exact State.guarded_schedule ..
  · exact h

theorem State.ok_freezeNow (p : Pitch) : (s.freezeNow p).guarded.Ok := by
  unfold State.freezeNow
  extract_lets s0 gone
  have h0 : s0.guarded.Ok := h.of_eq (State.guarded_flush ..)
  clear_value s0
  split
  · extract_lets q s1 l1 s3 s2 seams
    have h1 : s1.guarded.Ok := h0.of_eq (State.guarded_keepPhys ..)
    clear_value s1
    have h2 : s2.guarded.Ok := by
      dsimp only [s2]
      split
      · exact State.ok_faultImage (s := s1.onSlice _ _) h1 ..
      · split
        · exact State.ok_faultImage h1 ..
        · refine Guarded.Ok.of_eq ?_ (State.guarded_keepHamper ..)
          dsimp only [s3]
          split
          · exact h1
          · exact h1.of_eq (State.guarded_pinCode ..)
    clear_value s2
    exact h2.of_eq (State.guarded_schedule ..)
  · exact h

theorem State.ok_completeNow (p : Pitch) : (s.completeNow p).guarded.Ok := by
  unfold State.completeNow
  extract_lets s0
  have h0 : s0.guarded.Ok := h.of_eq (State.guarded_flush ..)
  clear_value s0
  split
  · extract_lets s1 s2 s3
    have h2 : s2.guarded.Ok := h0.of_eq (State.guarded_keepPhys ..)
    have h3 : s3.guarded.Ok := State.ok_endLaunch h2 ..
    clear_value s3
    exact h3.of_eq (State.guarded_schedule ..)
  · exact h

theorem State.ok_readDescriptor (n chain : Nat) : (s.readDescriptor n chain).guarded.Ok := by
  unfold State.readDescriptor
  split
  · exact h
  · extract_lets c b desc l s1
    have h1 : s1.guarded.Ok := h
    clear_value s1
    split
    · exact h
    · split
      · exact State.ok_endLaunch h1 ..
      · split
        · exact h1
        · exact h1

theorem State.ok_endNow (l : Launch) (why : FreezeWhy) (discard : Bool) : (s.endNow l why discard).guarded.Ok := by
  unfold State.endNow
  split
  · exact h
  · split
    · exact h
    · split
      · extract_lets r
        split
        · exact State.ok_endLaunch (s := s.unpin l.id) h ..
        · exact State.ok_faultImage h ..
      · exact State.ok_endLaunch h ..

theorem State.ok_endAll (n : Nat) (why : FreezeWhy) (discard : Bool) : (s.endAll n why discard).guarded.Ok := by
  refine foldl_ok (fun z l hz => ?_) _ h
  split
  · exact State.ok_endNow hz ..
  · exact hz

theorem State.ok_remoteRequest (pkg src n handle at_ len : Nat) (bytes : Option (List Byte)) :
    (s.remoteRequest pkg src n handle at_ len bytes).guarded.Ok := by
  unfold State.remoteRequest
  split
  · exact h
  · next sl _ =>
    split
    · exact h
    · extract_lets wr e ok c q a s1
      have hq : q.1.guarded.Ok := by
        dsimp only [q]
        split
        · exact h
        · refine List.foldlRecOn (motive := fun z : State × List Nat => z.1.guarded.Ok) _ _ h fun z hz k _ => ?_
          split
          · exact State.ok_writeTensor hz ..
          · exact hz.of_eq (State.guarded_readTensor ..)
      clear_value q
      have h1 : s1.guarded.Ok := by
        dsimp only [s1]
        split
        · exact hq
        · exact hq
      exact h1

end

/-! Boot and reset give every guarded register its reset value, and leave host memory (R402, R417). -/

theorem State.guarded_afterReset (s : State) : s.afterReset.guarded = { State.reset.guarded with host := s.host } := rfl

theorem State.ok_reset : State.reset.guarded.Ok where
  owner := by decide
  result := by decide
  next := by decide
  interval := by decide
  running := by decide
  ring := by decide
  pkg := by decide
  host := by decide

section
variable {s : State} (h : s.guarded.Ok)
include h

theorem State.ok_afterReset : s.afterReset.guarded.Ok :=
  (State.ok_reset.with_host h.host).of_eq s.guarded_afterReset

theorem State.ok_bootImage (f : List Byte) : (s.bootImage f).guarded.Ok := 
  (State.ok_reset.with_host h.host).of_eq rfl

theorem State.ok_bootFlash : s.bootFlash.guarded.Ok := by
  unfold State.bootFlash
  extract_lets f r
  split
  · exact State.ok_bootImage h f
  · exact State.ok_afterReset (s := s) h

/-- A command begins with one of the four results (R376). -/
theorem State.ok_begin (code : Nat) {n : Nat} (hn : n ≤ 3) (resp : Option Nat) : (s.begin code n resp).guarded.Ok :=
  { h with next := hn }

end

end Sys2Proof.Machine

/-! Every event keeps the guarded registers good and host memory canonical. Most leave both alone in each of their branches, and
are passed by splitting those; the others go through what the shared operations leave. -/

namespace Sys2Proof.Machine

/-- An outcome whose next state, where there is one, has the guarded registers good. -/
def GoodOut (o : Out) : Prop :=
  match o with
  | .next t => t.guarded.Ok
  | .fault _ => True
  | .refused _ => True

/-- Bytes that a request has received change its copy. -/
theorem State.guarded_received (s : State) (c : CopyRec) (r : Req) (n : Nat) (bytes : List Nat) :
    (s.received c r n bytes).guarded = s.guarded := by
  unfold State.received
  split
  · rfl
  · rfl

/-- Repairs of lanes leave the package number. -/
theorem Dev.repair_pkg (d : Dev) (b key : Nat) : (d.repair b key).pkg = d.pkg := by
  unfold Dev.repair
  split
  · rfl
  · rfl

section
variable {s : State} (h : s.guarded.Ok)
include h

/-- An instruction changes its tile and nothing else. -/
theorem State.good_atTile (n : Nat) (f : Tile → Ctx → Tile) : GoodOut (s.atTile n f) := by
  unfold State.atTile
  split
  · trivial
  · split
    · trivial
    · exact h

/-! Tiles and pitches. -/

theorem execLookahead_good (pid k : Nat) : GoodOut (execLookahead pid k s) := by
  unfold execLookahead
  split
  · extract_lets env t1 q
    split
    · exact h
    · split
      · exact h
      · exact h
  · exact h

theorem execHoldRelease_good (pid stop : Nat) : GoodOut (execHoldRelease pid stop s) := by
  unfold execHoldRelease
  (repeat' split) <;> exact h

theorem execRendezvousResume_good (pid : Nat) : GoodOut (execRendezvousResume pid s) := by
  unfold execRendezvousResume
  (repeat' split) <;> exact h

theorem execFreezeRequestPost_good (pid : Nat) (why : FreezeWhy) : GoodOut (execFreezeRequestPost pid why s) := by
  unfold execFreezeRequestPost
  (repeat' split) <;> exact h

theorem execGraceWindowExpiry_good (pid : Nat) : GoodOut (execGraceWindowExpiry pid s) := by
  unfold execGraceWindowExpiry
  (repeat' split) <;> exact h

theorem execFreeze_good (pid : Nat) : GoodOut (execFreeze pid s) := by
  unfold execFreeze
  split
  · exact h
  · split
    · exact State.ok_freezeNow h _
    · exact h

theorem execPitchComplete_good (pid : Nat) : GoodOut (execPitchComplete pid s) := by
  unfold execPitchComplete
  split
  · exact h
  · split
    · exact State.ok_completeNow h _
    · exact h

theorem execPitchPlacement_good (n : Nat) : GoodOut (execPitchPlacement n s) := by
  unfold execPitchPlacement
  split
  · exact h
  · split
    · exact h
    · exact h.of_eq (State.guarded_place ..)

theorem execPitchResume_good (n : Nat) : GoodOut (execPitchResume n s) := by
  unfold execPitchResume
  split
  · exact h
  · exact State.ok_resume h _

theorem execGenerationWrapClear_good (n : Nat) : GoodOut (execGenerationWrapClear n s) := by
  unfold execGenerationWrapClear
  split
  · exact h
  · split
    · exact h.of_eq (State.guarded_wrapClear ..)
    · exact h

theorem execPitchMove_good (n : Nat) : GoodOut (execPitchMove n s) := by
  unfold execPitchMove
  (repeat' split) <;> exact h

theorem execQuantumEnd_good (pid : Nat) : GoodOut (execQuantumEnd pid s) := by
  unfold execQuantumEnd
  split
  · exact h
  · exact Guarded.Ok.of_eq (g := s.guarded) h (State.guarded_schedule ..)

theorem execHardClearDone_good (pid k : Nat) : GoodOut (execHardClearDone pid k s) := h

theorem execSeamFault_good (pid k at_ : Nat) : GoodOut (execSeamFault pid k at_ s) := h

/-! Copies, messages and posts. -/

theorem execCopyRequestDispatch_good (id : Nat) : GoodOut (execCopyRequestDispatch id s) := by
  unfold execCopyRequestDispatch
  split
  · exact h
  · split
    · split
      · exact h.of_eq (State.guarded_requestLeft ..)
      · exact h
    · split
      · extract_lets go run home r on u q s3 s4
        have h4 : s4.guarded.Ok := h.of_eq ((State.guarded_remoteFlits ..).trans (State.guarded_useTlb ..))
        clear_value s4
        split
        · exact h
        · split
          · exact h
          · split
            · exact h
            · exact h
            · exact h4.of_eq (State.guarded_loseIfCut ..)
      · exact h

theorem execTranslationWalkDone_good (id : Nat) : GoodOut (execTranslationWalkDone id s) := by
  unfold execTranslationWalkDone
  (repeat' split) <;> exact h

theorem execFaultQueueWrite_good (n pid k : Nat) : GoodOut (execFaultQueueWrite n pid k s) := by
  unfold execFaultQueueWrite
  split
  · split
    · exact h
    · extract_lets w0 entry s1 s2
      have h1 : s1.guarded.Ok := State.ok_writeHost h ..
      clear_value s1
      exact h1
  · exact h

theorem execCopySourceRead_good (id rid : Nat) : GoodOut (execCopySourceRead id rid s) := by
  unfold execCopySourceRead
  split
  · exact h
  · split
    · exact h
    · extract_lets c1 put q
      have hput (z : State) (hz : z.guarded.Ok) (bytes : List Nat) : (put z bytes).guarded.Ok :=
        hz.of_eq (State.guarded_received z _ _ rid bytes)
      clear_value put
      split
      · split
        · exact hput s h _
        · split
          · extract_lets grs banks s1
            split
            · exact h
            · split
              · exact h
              · exact hput s1 h _
          · exact h
      · split
        · exact h
        · exact hput _ (h.of_eq (State.guarded_readTensor ..)) _

theorem execCopyPartArrival_good (id pid : Nat) : GoodOut (execCopyPartArrival id pid s) := by
  unfold execCopyPartArrival
  split
  · exact h
  · split
    · exact h
    · extract_lets c0 c1
      split
      · exact h.of_eq (State.guarded_settle ..)
      · split
        · exact h.of_eq (State.guarded_settle ..)
        · split
          · exact h.of_eq (State.guarded_settle ..)
          · split
            · exact h
            · extract_lets env origin rc charged s1 s2
              have h2 : s2.guarded.Ok := h.of_eq (State.guarded_settle ..)
              clear_value s2
              split
              · exact h2.of_eq (State.guarded_postLanded ..)
              · exact h2

theorem execTensorWritePerform_good (id rid : Nat) : GoodOut (execTensorWritePerform id rid s) := by
  unfold execTensorWritePerform
  split
  · exact h
  · split
    · exact h
    · split
      · split
        · exact h
        · extract_lets s1
          have h1 : s1.guarded.Ok := by
            dsimp only [s1]
            split
            · exact State.ok_writeTensor h ..
            · exact h
          clear_value s1
          exact h1.of_eq (State.guarded_freeSlots ..)
      · exact h

theorem execCopyComplete_good (id : Nat) : GoodOut (execCopyComplete id s) := by
  unfold execCopyComplete
  split
  · exact h
  · split
    · exact h.of_eq (State.guarded_postCopy ..)
    · exact h

theorem execHbmUncorrectableRead_good (id rid : Nat) : GoodOut (execHbmUncorrectableRead id rid s) := by
  unfold execHbmUncorrectableRead
  (repeat' split) <;> exact h

theorem execSlowPathLossReport_good (id : Nat) (l : ReqLine) : GoodOut (execSlowPathLossReport id l s) := by
  unfold execSlowPathLossReport
  split
  · exact h
  · split
    · exact h.of_eq (State.guarded_loseRequest ..)
    · exact h

theorem execPcieCompletionError_good (id : Nat) (l : ReqLine) : GoodOut (execPcieCompletionError id l s) := by
  unfold execPcieCompletionError
  split
  · exact h
  · split
    · exact h.of_eq (State.guarded_loseRequest ..)
    · exact h

theorem execRemoteFailureReport_good (id : Nat) : GoodOut (execRemoteFailureReport id s) := by
  unfold execRemoteFailureReport
  (repeat' split) <;> exact h

theorem execRemoteSyncArrival_good (id : Nat) : GoodOut (execRemoteSyncArrival id s) := by
  unfold execRemoteSyncArrival
  (repeat' split) <;> exact h

theorem execRemoteSyncReply_good (id : Nat) : GoodOut (execRemoteSyncReply id s) := by
  unfold execRemoteSyncReply
  (repeat' split) <;> exact h

theorem execSliceSemOp_good (id : Nat) : GoodOut (execSliceSemOp id s) := by
  unfold execSliceSemOp
  split
  · exact h
  · split
    · exact h
    · split
      · extract_lets act
        have hact (k : Nat) : GoodOut (act k) := by
          dsimp only [act]
          split
          · exact h
          · exact Guarded.Ok.of_eq (g := s.guarded) h (State.guarded_wake ..)
          · exact h
        clear_value act
        split
        · exact hact _
        · exact hact _
        · exact h
      · exact h

theorem execFabricPostDelivery_good (r : PostRoute) (ss amt : Nat) : GoodOut (execFabricPostDelivery r ss amt s) := by
  unfold execFabricPostDelivery
  split
  · exact h
  · split
    · exact h
    · extract_lets o
      split
      · exact Guarded.Ok.of_eq (g := s.guarded) h (State.guarded_wake ..)
      · exact h
      · exact h

theorem execFabricPostAck_good (id : Nat) (refused : Option Nat) : GoodOut (execFabricPostAck id refused s) := by
  unfold execFabricPostAck
  (repeat' split) <;> exact h

/-! Seams, storage errors, fabric and sweeps. -/

theorem execSeamLaneThreshold_good (b : Nat) (plane : Bool) (c : Nat) : GoodOut (execSeamLaneThreshold b plane c s) := h

theorem execSeamServiceRepair_good (b : Nat) : GoodOut (execSeamServiceRepair b s) := by
  unfold execSeamServiceRepair
  extract_lets waits mine d s1
  split
  · exact h
  · have hd : d.pkg = s.dev.pkg :=
      List.foldlRecOn (motive := fun z => Dev.pkg z = s.dev.pkg) mine _ rfl fun z hz q _ => (z.repair_pkg b q.2).trans hz
    clear_value d
    have h1 : s1.guarded.Ok := { h with pkg := hd.trans_lt h.pkg }
    exact h1.of_eq (foldl_guarded (fun z (v : Slice) => z.guarded_schedule v.id) ..)

theorem execCopyPlaneCrossingDown_good (b c : Nat) : GoodOut (execCopyPlaneCrossingDown b c s) := by
  unfold execCopyPlaneCrossingDown
  extract_lets k down all dev d cut
  have hcut : cut.guarded.Ok := h
  clear_value cut
  split
  · exact hcut.of_eq ((State.guarded_loseParts ..).trans (State.guarded_loseCopies ..))
  · exact h

theorem execSramCorrectedError_good (k : Nat) : GoodOut (execSramCorrectedError k s) := by
  unfold execSramCorrectedError
  extract_lets v errs s1
  have h1 : s1.guarded.Ok := h
  clear_value s1
  split
  · exact h1.of_eq (State.guarded_retire ..)
  · exact h1

theorem execSramUncorrectableError_good (k : Nat) (live : Bool) : GoodOut (execSramUncorrectableError k live s) := by
  unfold execSramUncorrectableError
  extract_lets s1
  have h1 : s1.guarded.Ok := by
    dsimp only [s1]
    split
    · exact h
    · exact h
  clear_value s1
  exact h1.of_eq (State.guarded_retire ..)

theorem execFabricFlitReceive_good (port : Nat) (flit : List Nat) : GoodOut (execFabricFlitReceive port flit s) := by
  unfold execFabricFlitReceive
  extract_lets
  split
  · exact h
  · split
    · exact h
    · split
      · exact h
      · exact h

theorem execFabricNackReceive_good (port seq : Nat) : GoodOut (execFabricNackReceive port seq s) := by
  unfold execFabricNackReceive
  extract_lets v
  split
  · exact h
  · split
    · exact h
    · split
      · exact h
      · exact Guarded.Ok.of_eq (g := s.guarded) h (State.guarded_loseCopies ..)

theorem execFabricKeyRotation_good (port key salt : Nat) : GoodOut (execFabricKeyRotation port key salt s) := by
  unfold execFabricKeyRotation
  extract_lets
  split
  · exact h
  · split
    · exact h
    · exact h

theorem execSweepChunkDone_good (channel : Nat) : GoodOut (execSweepChunkDone channel s) := by
  unfold execSweepChunkDone
  (repeat' split) <;> exact h

/-! Launches and their chains. -/

theorem execLaunchReady_good (n : Nat) : GoodOut (execLaunchReady n s) := by
  unfold execLaunchReady
  split
  · exact h
  · split
    · exact h
    · split
      · exact h
      · next sl _ _ =>
        extract_lets kept
        have hkept (i : Image) : (kept i).guarded.Ok := h.of_eq (State.guarded_keepTranslation ..)
        clear_value kept
        split
        · exact (hkept _).of_eq (State.guarded_schedule ..)
        · exact State.ok_endLaunch h ..
        · exact State.ok_endLaunch (hkept _) ..
        · exact State.ok_endLaunch (hkept _) ..

theorem execDescriptorRead_good (n chain : Nat) : GoodOut (execDescriptorRead n chain s) := State.ok_readDescriptor h ..

theorem execChTailWrite_good (n chain v : Nat) : GoodOut (execChTailWrite n chain v s) := by
  unfold execChTailWrite
  split
  · exact h
  · extract_lets
    split
    · exact h
    · exact h

theorem execChainEnable_good (n chain v : Nat) : GoodOut (execChainEnable n chain v s) := by
  unfold execChainEnable
  split
  · exact h
  · extract_lets
    split
    · exact h
    · split
      · exact h
      · exact h

theorem execChainDisable_good (n chain v : Nat) : GoodOut (execChainDisable n chain v s) := by
  unfold execChainDisable
  (repeat' split) <;> exact h

theorem execChCancel_good (n chain v : Nat) : GoodOut (execChCancel n chain v s) := by
  unfold execChCancel
  split
  · exact h
  · exact State.ok_endNow h ..

/-! Registers of a slice. -/

theorem execXctlResume_good (n v : Nat) : GoodOut (execXctlResume n v s) := by
  unfold execXctlResume
  (repeat' split) <;> exact h

theorem execXctlFatal_good (n v : Nat) : GoodOut (execXctlFatal n v s) := by
  unfold execXctlFatal
  split
  · exact h
  · exact State.ok_faultImage (s := s.onSlice n _) h ..
  · exact h

theorem execPtDataWrite_good (n v : Nat) : GoodOut (execPtDataWrite n v s) := by
  unfold execPtDataWrite
  (repeat' split) <;> exact h

theorem execShootdownGo_good (n v : Nat) : GoodOut (execShootdownGo n v s) := by
  unfold execShootdownGo
  split
  · exact h
  · extract_lets
    split
    · exact h
    · exact h

theorem execShootdownDone_good (n : Nat) : GoodOut (execShootdownDone n s) := by
  unfold execShootdownDone
  (repeat' split) <;> exact h

theorem execTensorEntryStage_good (n handle word v : Nat) : GoodOut (execTensorEntryStage n handle word v s) := h

theorem execTensorEntryCommit_good (n handle v : Nat) : GoodOut (execTensorEntryCommit n handle v s) := by
  unfold execTensorEntryCommit
  split
  · exact h
  · extract_lets
    split
    · exact h
    · exact h

theorem execSliceSemSet_good (n k v : Nat) : GoodOut (execSliceSemSet n k v s) := by
  unfold execSliceSemSet
  split
  · exact h
  · exact Guarded.Ok.of_eq (g := s.guarded) h (State.guarded_wake ..)

theorem execSliceSemHostPost_good (n k v : Nat) : GoodOut (execSliceSemHostPost n k v s) := by
  unfold execSliceSemHostPost
  split
  · exact h
  · extract_lets o
    split
    · exact h
    · exact Guarded.Ok.of_eq (g := s.guarded) h (State.guarded_wake ..)

theorem execDebugRead_good (n v : Nat) : GoodOut (execDebugRead n v s) := h

theorem execDebugWrite_good (n v : Nat) : GoodOut (execDebugWrite n v s) := h

theorem execDebugAccessDone_good (n : Nat) : GoodOut (execDebugAccessDone n s) := by
  unfold execDebugAccessDone
  split
  · exact h
  · split
    · exact h
    · extract_lets v wr kind finish l x y
      have hfinish (z : State) (hz : z.guarded.Ok) (data : List Byte) (cur : Bool) : (finish z data cur).guarded.Ok := hz
      clear_value finish l
      split
      · split
        · split
          · split
            · exact hfinish s h ..
            · exact hfinish s h ..
          · exact hfinish s h ..
        · split
          · exact hfinish s h ..
          · split
            · split
              · exact h
              · split
                · exact hfinish (s.onTile ..) h ..
                · exact hfinish s h ..
            · exact hfinish s h ..
      · exact hfinish s h ..

theorem execTdispLockInterface_good (n : Nat) : GoodOut (execTdispLockInterface n s) := h

theorem execTdispRun_good (n : Nat) : GoodOut (execTdispRun n s) := by
  unfold execTdispRun
  split
  · exact h
  · split
    · exact Guarded.Ok.of_eq (g := s.guarded) h ((State.guarded_schedule ..).trans (State.guarded_wake ..))
    · exact h

theorem execTdispError_good (n : Nat) : GoodOut (execTdispError n s) := by
  unfold execTdispError
  split
  · exact h
  · split
    · exact State.ok_endAll (s := s.putSlice _) h ..
    · exact h

/-! The mailbox and its commands (R376 to R378). -/

theorem execMbLock_good (v : Nat) : GoodOut (execMbLock v s) := by
  unfold execMbLock
  extract_lets id
  split
  · next hfree =>
    simp only [Bool.and_eq_true, bne_iff_ne, ne_eq] at hfree
    obtain ⟨-, hmax⟩ := hfree
    have hid : id < 2 ^ 16 := Nat.mod_lt _ (by decide)
    have howner : id < 0xFFFF := by omega
    exact { h with owner := howner }
  · exact h

theorem execMbUnlock_good (v : Nat) : GoodOut (execMbUnlock v s) := by
  unfold execMbUnlock
  split
  · exact { h with owner := (by decide : 0 < 0xFFFF) }
  · exact h

theorem execMbLockTimeout_good : GoodOut (execMbLockTimeout s) := by
  unfold execMbLockTimeout
  split
  · exact { h with owner := (by decide : 0 < 0xFFFF) }
  · exact h

theorem execPfFlr_good : GoodOut (execPfFlr s) := { h with owner := (by decide : 0 < 0xFFFF) }

/-- A command that is accepted acts, and one that is not leaves the state. -/
theorem State.good_command (requester code : Nat) {k : State → State} (hk : (k s).guarded.Ok) :
    GoodOut (s.command requester code k) := by
  unfold State.command
  split
  · exact hk
  · exact h

theorem execMbBadCmd_good (r code : Nat) : GoodOut (execMbBadCmd r code s) :=
  State.good_command h r code (State.ok_begin h code (by decide) none)

end

end Sys2Proof.Machine

/-! The commands of the mailbox (R376, R378, R403 to R406, R418, R434, R444). -/

namespace Sys2Proof.Machine

theorem fld_lt (v lo n : Nat) : fld v lo n < 2 ^ n := Nat.mod_lt _ (Nat.two_pow_pos n)

section
variable {s : State} (h : s.guarded.Ok)
include h

theorem State.ok_wakeSquares (squares : Nat) : (s.wakeSquares squares).guarded.Ok := h.of_eq (s.guarded_wakeSquares squares)

theorem State.ok_later (more : List Slot) : (s.later more).guarded.Ok := h

theorem execSliceCreate_good (r : Nat) : GoodOut (execSliceCreate r s) := by
  refine State.good_command h r 1 ?_
  split
  · exact State.ok_begin h 1 (by decide) _
  · extract_lets id tensors pts ok
    split
    · next k _ _ =>
      have hwake := State.ok_wakeSquares (s := { s with fresh := s.fresh + 1, slices := s.slices ++ [s.newSlice k] }) h
        (s.newSlice k).squares
      exact State.ok_begin hwake 1 (by decide) _
    · exact State.ok_begin h 1 (by decide) _

theorem execSliceDestroy_good (r : Nat) : GoodOut (execSliceDestroy r s) := by
  refine State.good_command h r 2 ?_
  dsimp only
  split
  · exact State.ok_begin h 2 (by decide) _
  · exact State.ok_begin (State.ok_endAll (s := s.putSlice _) h ..) 2 (by decide) _

theorem execSliceResize_good (r : Nat) : GoodOut (execSliceResize r s) := by
  refine State.good_command h r 3 ?_
  extract_lets id sq
  split
  · exact State.ok_begin h 3 (by decide) _
  · split
    · exact State.ok_begin h 3 (by decide) _
    · extract_lets gone added must keep small fits ok v
      split
      · exact State.ok_begin h 3 (by decide) _
      · have hwake : ((s.putSlice v).wakeSquares added).guarded.Ok := State.ok_wakeSquares (s := s.putSlice v) h added
        exact State.ok_begin (State.ok_later hwake _) 3 (by decide) _

theorem execSliceParams_good (r : Nat) : GoodOut (execSliceParams r s) := by
  refine State.good_command h r 4 ?_
  split
  · exact State.ok_begin h 4 (by decide) _
  · split
    · extract_lets v
      split
      · exact State.ok_begin h 4 (by decide) _
      · exact State.ok_begin (s := s.putSlice v) h 4 (by decide) _
    · exact State.ok_begin h 4 (by decide) _

theorem execDebugGrant_good (r : Nat) : GoodOut (execDebugGrant r s) := by
  refine State.good_command h r 5 ?_
  split
  · exact State.ok_begin h 5 (by decide) _
  · extract_lets on
    split
    · exact State.ok_begin h 5 (by decide) _
    · exact State.ok_begin (s := s.putSlice _) h 5 (by decide) _

theorem execPurseSet_good (r : Nat) : GoodOut (execPurseSet r s) := by
  refine State.good_command h r 6 ?_
  split
  · exact State.ok_begin h 6 (by decide) _
  · extract_lets p b x action w l0 lim l v
    split
    · exact State.ok_begin h 6 (by decide) _
    · split
      · exact State.ok_begin h 6 (by decide) _
      · have hpurse (n : Nat) (b : Bool) : ((s.putSlice v).ifExhausted n b).guarded.Ok :=
          Guarded.Ok.of_eq (g := s.guarded) h (State.guarded_ifExhausted ..)
        exact State.ok_begin (State.ok_later (hpurse ..) _) 6 (by decide) _

theorem execAttest_good (r : Nat) : GoodOut (execAttest r s) := by
  refine State.good_command h r 7 ?_
  split
  · exact State.ok_begin h 7 (by decide) _
  · extract_lets t
    split
    · exact State.ok_begin h 7 (by decide) _
    · exact State.ok_begin (State.ok_writeHost h ..) 7 (by decide) _

theorem execFwStageBoot_good (r : Nat) : GoodOut (execFwStageBoot r s) := by
  refine State.good_command h r 8 ?_
  split
  · exact State.ok_begin h 8 (by decide) _
  · split
    · exact State.ok_begin h 8 (by decide) _
    · exact State.ok_bootImage h _

theorem execFwStageFlash_good (r : Nat) : GoodOut (execFwStageFlash r s) := by
  refine State.good_command h r 8 ?_
  split
  · exact State.ok_begin h 8 (by decide) _
  · split
    · exact State.ok_begin h 8 (by decide) _
    · exact State.ok_bootFlash (s := { s with dev := { s.dev with flash := some _ } }) h

theorem execMbCommandComplete_good : GoodOut (execMbCommandComplete s) := by
  unfold execMbCommandComplete
  split
  · exact h
  · extract_lets id s1 resp
    have h1 : s1.guarded.Ok := by
      dsimp only [s1]
      split
      · exact h
      · split
        · exact h
        · exact h.of_eq (State.guarded_dropSlice ..)
        · exact h
        · exact h
    clear_value s1
    exact { h1 with result := h.next }

/-! Device registers (R5, R376, R402, R429, R436, R442). -/

theorem execPkgWrite_good (v : Nat) : GoodOut (execPkgWrite v s) := by
  unfold execPkgWrite
  split
  · exact { h with pkg := fld_lt v 0 14 }
  · exact h

theorem execRcCfgEnable_good (v : Nat) : GoodOut (execRcCfgEnable v s) := by
  have hring (b : Bool) (n : Nat) (hb : (b && decide (10 ≤ n) && decide (n ≤ 20)) = true) : 10 ≤ n ∧ n ≤ 20 := by
    simp only [Bool.and_eq_true, decide_eq_true_eq] at hb
    obtain ⟨⟨-, hlo⟩, hhi⟩ := hb
    exact ⟨hlo, hhi⟩
  exact { h with ring := hring (bit v 8) (fld v 0 5) }

theorem execRcIntWrite_good (v : Nat) : GoodOut (execRcIntWrite v s) := by
  unfold execRcIntWrite
  extract_lets n
  split
  · next hn =>
    simp only [Bool.and_eq_true, decide_eq_true_eq] at hn
    exact { h with interval := hn }
  · exact h

theorem execRcHeadWrite_good (v : Nat) : GoodOut (execRcHeadWrite v s) := h

theorem execRegisterWrite_good (fn bar off v : Nat) : GoodOut (execRegisterWrite fn bar off v s) := by
  unfold execRegisterWrite
  (repeat' split) <;> exact h

/-! Boot, power, the till and the clock (R407, R409, R417, R424, R427, R430 to R443). -/

theorem execBoot_good : GoodOut (execBoot s) := State.ok_bootFlash h

theorem execPowerCut_good : GoodOut (execPowerCut s) := State.ok_afterReset (s := s) h

theorem execPowerCapTick_good : GoodOut (execPowerCapTick s) := h

theorem execStepChange_good : GoodOut (execStepChange s) := h

theorem execChargeArrival_good (pid : Nat) : GoodOut (execChargeArrival pid s) := h.of_eq (State.guarded_flush ..)

theorem execTillMsAccounting_good : GoodOut (execTillMsAccounting s) := by
  unfold execTillMsAccounting
  extract_lets s0 s1
  have h1 : s1.guarded.Ok := h.of_eq s.guarded_flushAll
  clear_value s1
  exact h1.of_eq (foldl_guarded (fun z (v : Slice) => z.guarded_ifExhausted v.id v.exhausted) ..)

theorem execPurseResumeThreshold_good : GoodOut (execPurseResumeThreshold s) := by
  unfold execPurseResumeThreshold
  extract_lets due s1
  have h1 : s1.guarded.Ok := h
  clear_value s1
  exact h1.of_eq (foldl_guarded (fun z (v : Slice) => z.guarded_schedule v.id) ..)

/-- The next interval is as long as RC_INT says (R436). -/
theorem execReceiptIntervalEnd_good : GoodOut (execReceiptIntervalEnd s) := by
  unfold execReceiptIntervalEnd
  extract_lets z
  have hz : z.guarded.Ok := h.of_eq s.guarded_flushAll
  clear_value z
  exact { hz with running := hz.interval }

theorem execReceiptBatchRelease_good : GoodOut (execReceiptBatchRelease s) := by
  unfold execReceiptBatchRelease
  split
  · exact h
  · split
    · exact h
    · extract_lets n host
      have hhost : host.wf = true :=
        List.foldlRecOn (motive := fun m : Mem => m.wf = true) (List.range n) _ h.host fun m hm i _ => Mem.wf_writeAll _ _ hm
      exact h.with_host hhost

end

/-! One step of the machine. -/

section
variable {s : State} (h : s.guarded.Ok)
include h

/-- Every instruction and event: an instruction issues in a tile, and so do the two events of an engine's turn. -/
theorem exec_good (i : Instr) : GoodOut (exec i s) := by
  cases i
  case rendezvousResume p => exact execRendezvousResume_good h p
  case hardClearDone p t => exact execHardClearDone_good h p t
  case lookahead p t => exact execLookahead_good h p t
  case holdRelease p c => exact execHoldRelease_good h p c
  case freezeRequestPost p why => exact execFreezeRequestPost_good h p why
  case graceWindowExpiry p => exact execGraceWindowExpiry_good h p
  case freeze p => exact execFreeze_good h p
  case pitchResume l => exact execPitchResume_good h l
  case pitchPlacement l => exact execPitchPlacement_good h l
  case generationWrapClear l => exact execGenerationWrapClear_good h l
  case pitchMove l => exact execPitchMove_good h l
  case pitchComplete p => exact execPitchComplete_good h p
  case copyRequestDispatch c => exact execCopyRequestDispatch_good h c
  case translationWalkDone c => exact execTranslationWalkDone_good h c
  case faultQueueWrite n p t => exact execFaultQueueWrite_good h n p t
  case copySourceRead c r => exact execCopySourceRead_good h c r
  case copyPartArrival c q => exact execCopyPartArrival_good h c q
  case tensorWritePerform c r => exact execTensorWritePerform_good h c r
  case copyComplete c => exact execCopyComplete_good h c
  case remoteSyncArrival m => exact execRemoteSyncArrival_good h m
  case remoteSyncReply m => exact execRemoteSyncReply_good h m
  case sliceSemOp m => exact execSliceSemOp_good h m
  case fabricPostDelivery r k n => exact execFabricPostDelivery_good h r k n
  case fabricPostAck m d => exact execFabricPostAck_good h m d
  case remoteFailureReport c => exact execRemoteFailureReport_good h c
  case hbmUncorrectableRead c r => exact execHbmUncorrectableRead_good h c r
  case pcieCompletionError c l => exact execPcieCompletionError_good h c l
  case slowPathLossReport c l => exact execSlowPathLossReport_good h c l
  case seamFault p t k => exact execSeamFault_good h p t k
  case seamLaneThreshold b plane c => exact execSeamLaneThreshold_good h b plane c
  case seamServiceRepair b => exact execSeamServiceRepair_good h b
  case copyPlaneCrossingDown b c => exact execCopyPlaneCrossingDown_good h b c
  case sramCorrectedError k => exact execSramCorrectedError_good h k
  case sramUncorrectableError k live => exact execSramUncorrectableError_good h k live
  case quantumEnd p => exact execQuantumEnd_good h p
  case launchReady l => exact execLaunchReady_good h l
  case descriptorRead n c => exact execDescriptorRead_good h n c
  case chTailWrite n c v => exact execChTailWrite_good h n c v
  case chainEnable n c v => exact execChainEnable_good h n c v
  case chainDisable n c v => exact execChainDisable_good h n c v
  case chCancel n c v => exact execChCancel_good h n c v
  case xctlResume n v => exact execXctlResume_good h n v
  case xctlFatal n v => exact execXctlFatal_good h n v
  case ptDataWrite n v => exact execPtDataWrite_good h n v
  case shootdownGo n v => exact execShootdownGo_good h n v
  case shootdownDone n => exact execShootdownDone_good h n
  case tensorEntryStage n k w v => exact execTensorEntryStage_good h n k w v
  case tensorEntryCommit n k v => exact execTensorEntryCommit_good h n k v
  case sliceSemSet n k v => exact execSliceSemSet_good h n k v
  case sliceSemHostPost n k v => exact execSliceSemHostPost_good h n k v
  case debugRead n v => exact execDebugRead_good h n v
  case debugWrite n v => exact execDebugWrite_good h n v
  case debugAccessDone n => exact execDebugAccessDone_good h n
  case mbLock v => exact execMbLock_good h v
  case mbUnlock v => exact execMbUnlock_good h v
  case sliceCreate r => exact execSliceCreate_good h r
  case sliceDestroy r => exact execSliceDestroy_good h r
  case sliceResize r => exact execSliceResize_good h r
  case sliceParams r => exact execSliceParams_good h r
  case debugGrant r => exact execDebugGrant_good h r
  case purseSet r => exact execPurseSet_good h r
  case attest r => exact execAttest_good h r
  case fwStageBoot r => exact execFwStageBoot_good h r
  case fwStageFlash r => exact execFwStageFlash_good h r
  case mbBadCmd r code => exact execMbBadCmd_good h r code
  case pkgWrite v => exact execPkgWrite_good h v
  case rcCfgEnable v => exact execRcCfgEnable_good h v
  case rcIntWrite v => exact execRcIntWrite_good h v
  case rcHeadWrite v => exact execRcHeadWrite_good h v
  case registerWrite fn bar off v => exact execRegisterWrite_good h fn bar off v
  case tdispLockInterface n => exact execTdispLockInterface_good h n
  case tdispRun n => exact execTdispRun_good h n
  case tdispError n => exact execTdispError_good h n
  case chargeArrival p => exact execChargeArrival_good h p
  case sweepChunkDone c => exact execSweepChunkDone_good h c
  case fabricFlitReceive p f => exact execFabricFlitReceive_good h p f
  case fabricNackReceive p n => exact execFabricNackReceive_good h p n
  case fabricKeyRotation p k salt => exact execFabricKeyRotation_good h p k salt
  case mbLockTimeout => exact execMbLockTimeout_good h
  case mbCommandComplete => exact execMbCommandComplete_good h
  case pfFlr => exact execPfFlr_good h
  case boot => exact execBoot_good h
  case powerCut => exact execPowerCut_good h
  case powerCapTick => exact execPowerCapTick_good h
  case stepChange => exact execStepChange_good h
  case tillMsAccounting => exact execTillMsAccounting_good h
  case purseResumeThreshold => exact execPurseResumeThreshold_good h
  case receiptIntervalEnd => exact execReceiptIntervalEnd_good h
  case receiptBatchRelease => exact execReceiptBatchRelease_good h
  all_goals exact State.good_atTile h _ _

/-- An input writes host memory, or leaves it and the guarded registers (R374, R410, R423). -/
theorem State.ok_input (i : Input) : (s.input i).guarded.Ok := by
  cases i with
  | event e =>
    dsimp only [State.input]
    split
    · exact h
    · exact h
  | write fn bar off size v mctp =>
    dsimp only [State.input]
    split
    · exact h
    · exact h
  | host a b => exact State.ok_writeHost h a b
  | laneError b plane c lane =>
    dsimp only [State.input, State.laneError]
    split
    · exact h
    · exact h
  | sensor id =>
    dsimp only [State.input]
    split
    · exact h
    · exact h
  | remote pkg src slice handle at_ n bytes => exact State.ok_remoteRequest h ..
  | read | ideKey | config => exact h

theorem State.ok_advance : s.advance.guarded.Ok := by
  unfold State.advance
  split
  · next q _ => exact State.ok_input (s := { s with inputs := s.inputs.erase q }) h q.2
  · split
    · exact h
    · exact State.ok_payRecords h

theorem runAt_good (c : Cursor) : GoodOut (runAt c s) := by
  unfold runAt
  split
  · exact h
  · split
    · exact exec_good (s := { s with cur := c }) h _
    · exact exec_good (s := { s with cur := c }) h _

theorem runSlot_good (k : Slot) : GoodOut (runSlot k s) := by
  cases k with
  | ev i => exact exec_good h i
  | instr c => exact runAt_good h c
  | group p t e => exact h.of_eq (State.guarded_openGroup ..)
  | cycleStart p => exact h.of_eq (State.guarded_cycleStart ..)
  | cycleMid p => exact h.of_eq (State.guarded_cycleMid ..)
  | bankTurns p => exact h.of_eq (State.guarded_bankStart ..)
  | cycleReads p => exact h.of_eq (State.guarded_cycleReads ..)
  | xTurn p t => exact h.of_eq (State.guarded_xTurn ..)
  | cycleEnd p => exact h.of_eq (State.guarded_cycleEnd ..)
  | pitchEnd p => exact h.of_eq (State.guarded_pitchEnd ..)

theorem step_good : GoodOut (step s) := by
  unfold step
  split
  · exact State.ok_advance h
  · next k rest _ => exact runSlot_good (s := { s with agenda := rest }) h k

end

/-- Settles O20: what the invariant speaks of stays good through every event, every slot of a wall cycle and every tick. -/
theorem stepsKeepInv : Obligations.StepsKeepInv := by
  intro s t hs hstep
  have hgood := step_good ((State.inv_iff s).mp hs)
  rw [hstep] at hgood
  exact (State.inv_iff t).mpr hgood

end Sys2Proof.Machine

/-! Fabric posts, fences and reads of the tensor table (R114, R137, R177, R292, R294, R295). -/

namespace Sys2Proof.Machine

/-- This package, and those that the slice has bound (R292, R403). -/
theorem State.posts_iff (s : State) (p : Pitch) (k pkg : Nat) :
    (pkg != (s.envOf p k).pkg && !(s.envOf p k).bound.contains pkg) = true ↔
      ¬ (pkg = s.dev.pkg ∨ ∃ sl, s.slice? p.slice = some sl ∧ pkg ∈ sl.bind.map Prod.fst) := by
  cases hsl : s.slice? p.slice <;> simp [State.envOf, hsl, not_or]

section
variable {t : Tile} {c : Ctx}

/-- FSPOST with readable operands: its post, or TENSOR_BOUNDS where its package is not bound (R292). -/
theorem fspostIssue_eq {xp xa : Nat} (h : t.Readable c.eng [xp, xa]) (p : Pre) (pr ar : Bool) (index pkg amt : Nat) :
    let k := if pr then (t.reg .X xp).toNat % 2 ^ 14 else pkg
    let n := if ar then (t.reg .X xa).toNat % 2 ^ 32 else amt
    fspostIssue p xp xa pr ar index pkg amt t c =
      if k != c.env.pkg && !c.env.bound.contains k then t.trap c trapTensor
      else { t.issued1 c (c.ends t (p.tail c)) with out := t.out ++ [.fpost index k n c.gpc] } := by
  have hregs : t.Readable c.eng ((if pr then [xp] else []) ++ if ar then [xa] else []) :=
    h.mono fun r hr => List.append_subset.mpr ⟨by split <;> simp, by split <;> simp⟩ hr
  simp only [fspostIssue, Tile.withRegs_eq hregs, issue_eq, wfld, fld, pow_zero, Nat.div_one]
  rfl

theorem cfenIssue_eq (p : Pre) : cfenIssue p t c =
    { t.issued1 c (c.ends t (p.tail c)) with xs := { t.xs with fence := t.xs.copies } } := by
  simp only [cfenIssue, issue_eq, id_eq, chargeCtl_pend]
  rfl

theorem tinfoIssue_eq {xa : Nat} (h : t.Readable c.eng [xa]) (p : Pre) (xd word : Nat) : tinfoIssue p xd xa word t c =
    t.issued1 c (c.ends t (p.tail c) ++
      c.result t xd (at' 0 (tensorOf c.env.tensors ((t.reg .X xa).toNat % 2 ^ 16)) word)) := by
  simp only [tinfoIssue, issue_regOp h, wfld, fld, pow_zero, Nat.div_one]
  rfl

end

/-- Settles O14: FSPOST by whether its package is bound, CFEN and TINFO by what they stage. -/
theorem postsFencesInfo : Obligations.PostsFencesInfo := by
  unfold Obligations.PostsFencesInfo
  intro p xp xa index pkg amt xd word pr ar s pit t hat hx hreads c c2 k n bound
  have hregs : t.Readable s.cur.eng [xp, xa] := hx ▸ hreads
  have hpost : exec (.fspost p xp xa pr ar index pkg amt) s =
      .next (s.become pit (fspostIssue p xp xa pr ar index pkg amt t c2)) := State.atTile_eq hat 2 _
  have hfence : exec (.cfen p) s = .next (s.become pit (cfenIssue p t c)) := State.atTile_eq hat 1 _
  have hinfo : exec (.tinfo p xd xa word) s = .next (s.become pit (tinfoIssue p xd xa word t c)) := State.atTile_eq hat 1 _
  have hbound : (k != c2.env.pkg && !c2.env.bound.contains k) = true ↔ ¬ bound := s.posts_iff pit s.cur.tile k
  refine ⟨fun h => ?_, fun h => ?_, ?_, ?_⟩
  · rw [hpost, fspostIssue_eq hregs]
    exact congrArg (fun u => Host.Outcome.next (s.become pit u)) (if_neg (mt hbound.mp (not_not_intro h)))
  · rw [hpost, fspostIssue_eq hregs]
    exact congrArg (fun u => Host.Outcome.next (s.become pit u)) (if_pos (hbound.mpr h))
  · rw [hfence, cfenIssue_eq]
  · rw [hinfo, tinfoIssue_eq (hregs.mono (by simp))]

end Sys2Proof.Machine

/-! Copies between one scratchpad and another or a region: their operands, their checks and the command (R122, R175, R176,
R283, R286 to R288). -/

namespace Sys2Proof.Machine

/-- The bytes of a descriptor operand: its granule, with those of an index list (R122, R288). -/
def operandSpan (count : Nat) (gathered : Bool) : Nat := if gathered then 64 + (count + 15) / 16 * 64 else 64

theorem operandSpan_granules (count : Nat) (gathered : Bool) :
    (if gathered then descSpan count / 64 else 1) = operandSpan count gathered / 64 := by
  cases gathered <;> simp [operandSpan, descSpan]

section
variable {t : Tile} {v : Word} {count : Nat} {gathered : Bool}

theorem operand_outside_iff : (v.toNat % 64 != 0 || decide (Config.spmSize < v.toNat + operandSpan count gathered)) = true ↔
    ¬ Fits v.toNat (operandSpan count gathered) 64 := by
  have hsize : Config.spmSize = 0xC0000 := rfl
  rw [Fits, Bool.or_eq_true, bne_iff_ne, decide_eq_true_eq, hsize, not_and_or, Nat.not_le]

/-- A descriptor operand out of the scratchpad or off its granule (R283). -/
theorem readDesc_outside (h : ¬ Fits v.toNat (operandSpan count gathered) 64) :
    readDesc t v count gathered = .error trapBounds :=
  if_pos (operand_outside_iff.mpr h)

theorem readDesc_inside (h : Fits v.toNat (operandSpan count gathered) 64) : readDesc t v count gathered =
    if t.staleTrap && t.spmStale v.toNat (operandSpan count gathered) then .error trapStale
    else .ok (RegionDesc.ofBytes (t.spmBytes v.toNat 64), if gathered then indexList t v.toNat count else []) :=
  if_neg (mt operand_outside_iff.mp (not_not_intro h))

/-- A stale descriptor operand in trap mode (R90). -/
theorem readDesc_stale (h : Fits v.toNat (operandSpan count gathered) 64) (htrap : t.staleTrap = true)
    (hstale : t.spmStale v.toNat (operandSpan count gathered) = true) : readDesc t v count gathered = .error trapStale := by
  rw [readDesc_inside h, if_pos (by simp [htrap, hstale])]

/-- A descriptor operand that can be read, with its index list (R122, R288). -/
theorem readDesc_read (h : Fits v.toNat (operandSpan count gathered) 64)
    (hcur : t.staleTrap = false ∨ t.spmStale v.toNat (operandSpan count gathered) = false) : readDesc t v count gathered =
      .ok (RegionDesc.ofBytes (t.spmBytes v.toNat 64), if gathered then indexList t v.toNat count else []) := by
  rw [readDesc_inside h, if_neg (by rcases hcur with h | h <;> simp [h])]

end

/-- CLD and CGA, or CST and CSC, at issue. -/
def regionCopy (load : Bool) : Pre → Instr → XcOps → Bool → Tile → Ctx → Tile :=
  match load with
  | true => loadIssue
  | false => storeIssue

section
variable {t : Tile} {c : Ctx} {o : XcOps} (h : t.Readable c.eng [o.xd, o.xs])
include h

/-- CPT by its two spans of whole granules and its target (R287). -/
theorem cptIssue_eq (p : Pre) (i : Instr) :
    let d := (opDst t o).toNat
    let x := d / 2 ^ 20 % 64
    let y := d / 2 ^ 26 % 64
    cptIssue p i o t c =
      if spmSideOk (opSrc t o).toNat o.aux 64 = true ∧ spmSideOk (d % 2 ^ 20) o.aux 64 = true ∧ x < c.env.w ∧ y < c.env.h then
        emitCopy p i o 0 (.spm [t.y * c.env.w + t.x] (opSrc t o).toNat) (.spm [y * c.env.w + x] (d % 2 ^ 20)) (64 * o.aux) 1
          (copyPosts [y * c.env.w + x] o) t c
      else t.trap c trapBounds := by
  simp only [cptIssue, Tile.withRegs_eq h, xcOpS_eq, xcOpD_eq, wfld, fld, pow_zero, Nat.div_one, show 2 ^ 6 = 64 from rfl]
  rw [← ite_not]
  refine if_congr ?_ rfl rfl
  simp only [spmSideOk_iff, Fits, Bool.or_eq_true, Bool.not_eq_true', decide_eq_true_eq, bne_iff_ne, ← Bool.not_eq_true]
  omega

variable {p : Pre} {i : Instr} {load gathered : Bool}

theorem regionCopy_of_error {code : Nat}
    (hread : readDesc t (if load then opSrc t o else opDst t o) o.aux gathered = .error code) :
    regionCopy load p i o gathered t c = t.trap c code := by
  cases load with
  | true =>
    replace hread : readDesc t (opSrc t o) o.aux gathered = .error code := hread
    simp only [regionCopy, loadIssue, Tile.withRegs_eq h, xcOpS_eq, hread]
  | false =>
    replace hread : readDesc t (opDst t o) o.aux gathered = .error code := hread
    simp only [regionCopy, storeIssue, Tile.withRegs_eq h, xcOpD_eq, hread]

/-- The copies of a region on a descriptor that they have read: its checks, those of the scratchpad side, and the command. -/
theorem regionCopy_of_read {d : RegionDesc} {idx : List Int}
    (hread : readDesc t (if load then opSrc t o else opDst t o) o.aux gathered = .ok (d, idx)) :
    let e := tensorOf c.env.tensors d.handle
    let n := d.count idx gathered
    let off := (if load then opDst t o else opSrc t o).toNat
    let me := t.y * c.env.w + t.x
    regionCopy load p i o gathered t c =
      if regionOk d idx gathered (!load) e = false then t.trap c trapTensor
      else if spmSideOk off n d.z = false then t.trap c trapBounds
      else emitCopy p i o (operandSpan o.aux gathered / 64) (if load then .region d idx e else .spm [me] off)
        (if load then .spm [me] off else .region d idx e) n d.z (copyPosts [me] o) t c := by
  simp only [← operandSpan_granules]
  cases load with
  | true =>
    replace hread : readDesc t (opSrc t o) o.aux gathered = .ok (d, idx) := hread
    simp only [regionCopy, loadIssue, Tile.withRegs_eq h, xcOpS_eq, xcOpD_eq, hread, Bool.not_eq_true']
    rfl
  | false =>
    replace hread : readDesc t (opDst t o) o.aux gathered = .ok (d, idx) := hread
    simp only [regionCopy, storeIssue, Tile.withRegs_eq h, xcOpS_eq, xcOpD_eq, hread, Bool.not_eq_true']
    rfl

end

/-- CPT: its checks and its command. -/
theorem copyPush : saysCopyPush := by
  intro p o s pit t hat hx hreads c d x y n good
  have hregs : t.Readable c.eng [o.xd, o.xs] := by
    rw [show c.eng = .X from hx]
    exact hreads
  have hexec : exec (.cpt p o) s = .next (s.become pit (cptIssue p (.cpt p o) o t c)) := State.atTile_eq hat 3 _
  have hgood : spmSideOk (opSrc t o).toNat o.aux 64 = true ∧ spmSideOk (d % 2 ^ 20) o.aux 64 = true ∧ x < c.env.w ∧
      y < c.env.h ↔ good := by
    simp only [spmSideOk_iff, Nat.mul_comm o.aux 64]
    rfl
  refine ⟨fun hg => ?_, fun hg => ?_⟩
  · rw [hexec, cptIssue_eq hregs, emitCopy_eq]
    exact congrArg (fun u => Host.Outcome.next (s.become pit u)) (if_pos (hgood.mpr hg))
  · rw [hexec, cptIssue_eq hregs]
    exact congrArg (fun u => Host.Outcome.next (s.become pit u)) (if_neg (mt hgood.mp hg))

theorem exec_regionCopy {s : State} {pit : Pitch} {t : Tile} (hat : s.At pit t) (p : Pre) (o : XcOps) :
    ∀ q ∈ [(Instr.cld p o, true, false), (.cga p o, true, true), (.cst p o, false, false), (.csc p o, false, true)],
      exec q.1 s = .next (s.become pit (regionCopy q.2.1 p q.1 o q.2.2 t (s.ctxAt pit 3))) := by
  simp only [List.forall_mem_cons, List.not_mem_nil, false_imp_iff, implies_true, and_true]
  exact ⟨State.atTile_eq hat 3 _, State.atTile_eq hat 3 _, State.atTile_eq hat 3 _, State.atTile_eq hat 3 _⟩

/-- CLD, CGA, CST and CSC: their descriptor, its checks and the command. -/
theorem copyRegions : saysCopyRegion := by
  intro p o s pit t hat hx hreads q hq load gathered c a off span d idx e n me bad
  have hregs : t.Readable c.eng [o.xd, o.xs] := by
    rw [show c.eng = .X from hx]
    exact hreads
  have hexec := exec_regionCopy hat p o q hq
  refine ⟨fun hout => ?_, fun hin htrap hstale => ?_, fun hin hcur => ?_⟩
  · rw [hexec, regionCopy_of_error hregs (readDesc_outside hout)]
  · rw [hexec, regionCopy_of_error hregs (readDesc_stale hin htrap hstale)]
  · have hread := regionCopy_of_read (p := p) (i := q.1) hregs (readDesc_read hin hcur)
    rw [hexec, hread]
    refine ⟨fun hok => ?_, fun hok hfit => ?_, fun hok hfit => ?_⟩
    · exact congrArg (fun u => Host.Outcome.next (s.become pit u)) (if_pos hok)
    · exact congrArg (fun u => Host.Outcome.next (s.become pit u)) ((if_neg (ne_false_of_eq_true hok)).trans
        (if_pos (eq_false_of_ne_true (mt (spmSideOk_iff _ _ _).mp hfit))))
    · exact congrArg (fun u => Host.Outcome.next (s.become pit u)) ((if_neg (ne_false_of_eq_true hok)).trans
        ((if_neg (ne_false_of_eq_true ((spmSideOk_iff _ _ _).mpr hfit))).trans (emitCopy_eq ..)))

end Sys2Proof.Machine

/-! A region descriptor's fields, from its 64 bytes, and the index list that follows it (R122, R288). -/

namespace Sys2Proof.Machine

theorem leNat_append (a b : List Byte) : leNat (a ++ b) = leNat a + 256 ^ a.length * leNat b := by
  induction a with
  | nil => simp [leNat]
  | cons x a ih =>
    rw [List.cons_append, leNat, leNat, ih, List.length_cons, Nat.pow_succ']
    ring

/-- A pattern in two's complement, as the bit vector's own reading. -/
theorem toSigned_eq_toInt {n v : Nat} (hn : 0 < n) (hv : v < 2 ^ n) : toSigned n v = (BitVec.ofNat n v).toInt := by
  have hhalf : v < 2 ^ (n - 1) ↔ 2 * v < 2 ^ n := by
    obtain ⟨m, rfl⟩ : ∃ m, n = m + 1 := ⟨n - 1, by omega⟩
    rw [Nat.pow_succ, Nat.add_sub_cancel]
    omega
  rw [toSigned, BitVec.toInt_eq_toNat_cond, BitVec.toNat_ofNat, Nat.mod_eq_of_lt hv]
  exact if_congr hhalf rfl (by rfl)

/-- Word `k` of a list of bytes, 32 bits long. -/
def wordOf (b : List Byte) (k : Nat) : Nat := leNat ((b.drop (4 * k)).take 4)

theorem wordOf_lt (b : List Byte) (k : Nat) : wordOf b k < 2 ^ 32 :=
  (leNat_lt _).trans_le ((Nat.pow_le_pow_right (by decide) (List.length_take_le _ _)).trans (by decide))

/-- A doubleword is its two words, the low one first. -/
theorem leNat_doubleword {b : List Byte} {k : Nat} (h : 8 * k + 4 ≤ b.length) :
    leNat ((b.drop (8 * k)).take 8) = wordOf b (2 * k) + 2 ^ 32 * wordOf b (2 * k + 1) := by
  have hlow : ((b.drop (8 * k)).take 4).length = 4 := by
    rw [List.length_take, List.length_drop]
    omega
  rw [show 8 = 4 + 4 from rfl, List.take_add, leNat_append, hlow, List.drop_drop]
  simp only [wordOf, show 4 * (2 * k) = 8 * k by omega, show 4 * (2 * k + 1) = 8 * k + 4 by omega]
  rfl

/-- A doubleword's two halves are its two words. -/
theorem doubleword_halves {b : List Byte} {k : Nat} (h : 8 * k + 4 ≤ b.length) :
    leNat ((b.drop (8 * k)).take 8) % 2 ^ 32 = wordOf b (2 * k) ∧
      leNat ((b.drop (8 * k)).take 8) / 2 ^ 32 % 2 ^ 32 = wordOf b (2 * k + 1) := by
  have hlow := wordOf_lt b (2 * k)
  have hhigh := wordOf_lt b (2 * k + 1)
  rw [leNat_doubleword h]
  omega

/-- The words of two doublewords, as a descriptor takes its four starts, strides or extents from them. -/
theorem at'_fourWords {α : Type} (z : α) (f : Nat → α) {b : List Byte} {m k : Nat} (h : 8 * (m + 1) + 4 ≤ b.length)
    (hk : k < 4) :
    let w (k : Nat) : Nat := leNat ((b.drop (8 * k)).take 8)
    at' z (#v[w m % 2 ^ 32, w m / 2 ^ 32 % 2 ^ 32, w (m + 1) % 2 ^ 32, w (m + 1) / 2 ^ 32 % 2 ^ 32].map f) k =
      f (wordOf b (2 * m + k)) := by
  intro w
  obtain ⟨h0, h1⟩ := doubleword_halves (b := b) (k := m) (by omega)
  obtain ⟨h2, h3⟩ := doubleword_halves h
  simp only [w, h0, h1, h2, h3]
  match k with
  | 0 | 1 | 2 | 3 => simp [at', Nat.mul_add]

/-- The layout of a descriptor in its bytes (R122). -/
theorem ofBytes_fields {b : List Byte} (hb : b.length = 64) :
    let r := RegionDesc.ofBytes b
    let signed (k : Nat) : Int := (BitVec.ofNat 32 (wordOf b k)).toInt
    r.handle = wordOf b 1 / 2 ^ 16 ∧ r.pad = (wordOf b 0).testBit 7 ∧ r.clip = (wordOf b 0).testBit 6 ∧
      r.esize = wordOf b 0 % 8 ∧ r.offset = (BitVec.ofNat 64 (wordOf b 2 + 2 ^ 32 * wordOf b 3)).toInt ∧
      ∀ k < 4, at' 0 r.start k = signed (4 + k) ∧ at' 0 r.stride k = signed (8 + k) ∧ at' 0 r.extent k = wordOf b (12 + k) := by
  have hlt := wordOf_lt b
  have hfirst : leNat ((b.drop (8 * 0)).take 8) = wordOf b 0 + 2 ^ 32 * wordOf b 1 := leNat_doubleword (by omega)
  have hsecond : leNat ((b.drop (8 * 1)).take 8) = wordOf b 2 + 2 ^ 32 * wordOf b 3 := leNat_doubleword (by omega)
  have hflag (k : Nat) (hk : k < 32) : bit (leNat ((b.drop (8 * 0)).take 8)) k = (wordOf b 0).testBit k := by
    rw [bit_eq_testBit, hfirst, Nat.add_comm, Nat.testBit_two_pow_mul_add _ (hlt 0), if_pos hk]
  have hsigned (k : Nat) : toSigned 32 (wordOf b k) = (BitVec.ofNat 32 (wordOf b k)).toInt :=
    toSigned_eq_toInt (by decide) (hlt k)
  refine ⟨?_, hflag 7 (by decide), hflag 6 (by decide), ?_, ?_, fun k hk => ⟨?_, ?_, ?_⟩⟩
  · have hlow := hlt 0
    have hhigh := hlt 1
    simp only [RegionDesc.ofBytes, fld, hfirst]
    omega
  · simp only [RegionDesc.ofBytes, fld, hfirst]
    omega
  · have hlow := hlt 2
    have hhigh := hlt 3
    simp only [RegionDesc.ofBytes, hsecond]
    exact toSigned_eq_toInt (by decide) (by omega)
  · exact (at'_fourWords 0 (toSigned 32) (m := 2) (by omega) hk).trans (hsigned _)
  · exact (at'_fourWords 0 (toSigned 32) (m := 4) (by omega) hk).trans (hsigned _)
  · exact (congrArg (at' 0 · k) (Vector.map_id _)).symm.trans (at'_fourWords 0 id (m := 6) (by omega) hk)

/-- The index list has a signed word of four bytes for each item. -/
theorem indexList_getD (t : Tile) (off : Nat) {count k : Nat} (hk : k < count) :
    (indexList t off count).getD k 0 = (BitVec.ofNat 32 (leNat (t.spmBytes (off + 64 + 4 * k) 4))).toInt := by
  have hlt : leNat (t.spmBytes (off + 64 + 4 * k) 4) < 2 ^ 32 := by
    simpa [Tile.spmBytes] using leNat_lt (t.spmBytes (off + 64 + 4 * k) 4)
  rw [← toSigned_eq_toInt (by decide) hlt]
  simp [indexList, hk]

theorem length_indexList (t : Tile) (off count : Nat) : (indexList t off count).length = count := by simp [indexList]

end Sys2Proof.Machine

/-! Region addresses: products that stay in 64 bits, the corners that decide them, and the order of the elements (R115, R123,
R124, R288). -/

namespace Sys2Proof.Machine

/-- A value of 64 signed bits (R123). -/
def InWord (z : Int) : Prop := -(2 ^ 63) ≤ z ∧ z < 2 ^ 63

theorem fit64_eq_some_iff {z v : Int} : fit64 z = some v ↔ InWord z ∧ v = z := by
  rw [fit64, Option.ite_none_left_eq_some, Option.some.injEq, @eq_comm _ v]
  exact and_congr_left' (by simp [InWord])

theorem fit64_of_inWord {z : Int} (h : InWord z) : fit64 z = some z := fit64_eq_some_iff.mpr ⟨h, rfl⟩

theorem fit64_of_not_inWord {z : Int} (h : ¬ InWord z) : fit64 z = none :=
  Option.eq_none_iff_forall_not_mem.mpr fun _ hv => h (fit64_eq_some_iff.mp hv).1

/-- One product onto an address, as the overflow checks of R123 do it. -/
def addProduct (a : Option Int) (p : Int) : Option Int := a.bind fun x => (fit64 p).bind fun q => fit64 (x + q)

theorem addTerm_eq (a : Option Int) (start j stride : Int) :
    addTerm a start j stride = addProduct a ((start + j) * stride) := by
  cases a <;> cases h : fit64 ((start + j) * stride) <;> simp [addTerm, addProduct, h]

/-- An address formed product by product stays in 64 signed bits all the way (R123). -/
def Formed (z : Int) (l : List Int) : Prop := (∀ p ∈ l, InWord p) ∧ ∀ n ≤ l.length, InWord (z + (l.take n).sum)

@[simp] theorem formed_nil {z : Int} : Formed z [] ↔ InWord z := by simp [Formed]

theorem formed_cons {z p : Int} {l : List Int} : Formed z (p :: l) ↔ InWord z ∧ InWord p ∧ Formed (z + p) l := by
  have hpartial : (∀ n ≤ (p :: l).length, InWord (z + ((p :: l).take n).sum)) ↔
      InWord z ∧ ∀ n ≤ l.length, InWord (z + p + (l.take n).sum) := by
    constructor
    · intro h
      refine ⟨by simpa using h 0 (Nat.zero_le _), fun n hn => ?_⟩
      simpa [add_assoc] using h (n + 1) (by simpa using hn)
    · rintro ⟨hz, h⟩ (_ | n) hn
      · simpa using hz
      · simpa [add_assoc] using h n (by simpa using hn)
  rw [Formed, hpartial, List.forall_mem_cons, Formed]
  tauto

theorem Formed.start {z : Int} {l : List Int} (h : Formed z l) : InWord z := by simpa using h.2 0 (Nat.zero_le _)

theorem foldl_addProduct_none (l : List Int) : l.foldl addProduct none = none := by
  induction l with
  | nil => rfl
  | cons p l ih => exact ih

theorem addProduct_of_inWord {z p : Int} (hz : InWord z) (hp : InWord p) : addProduct (fit64 z) p = fit64 (z + p) := by
  simp [addProduct, fit64_of_inWord, hz, hp]

theorem addProduct_of_not_inWord {z p : Int} (h : ¬ (InWord z ∧ InWord p)) : addProduct (fit64 z) p = none := by
  rcases not_and_or.mp h with h | h <;> simp [addProduct, fit64_of_not_inWord h]

/-- Products added one by one with their checks: the sum, where every step stays in range. -/
theorem foldl_addProduct_eq_some_iff {z v : Int} {l : List Int} :
    l.foldl addProduct (fit64 z) = some v ↔ Formed z l ∧ v = z + l.sum := by
  induction l generalizing z with
  | nil => simp [fit64_eq_some_iff]
  | cons p l ih =>
    rw [List.foldl_cons, formed_cons, List.sum_cons]
    by_cases hzp : InWord z ∧ InWord p
    · rw [addProduct_of_inWord hzp.1 hzp.2, ih, ← add_assoc]
      simp [hzp]
    · rw [addProduct_of_not_inWord hzp, foldl_addProduct_none]
      exact iff_of_false nofun fun h => hzp ⟨h.1.1, h.1.2.1⟩

theorem InWord.between {lo z hi : Int} (hlo : InWord lo) (hhi : InWord hi) (h : lo ≤ z ∧ z ≤ hi) : InWord z :=
  ⟨hlo.1.trans h.1, h.2.trans_lt hhi.2⟩

/-- Between two addresses that stay in range, product by product, every other one does. -/
theorem Formed.between {lo l hi : List Int} (hlo : List.Forall₂ (· ≤ ·) lo l) (hhi : List.Forall₂ (· ≤ ·) l hi)
    {zlo z zhi : Int} (hz : zlo ≤ z ∧ z ≤ zhi) (hflo : Formed zlo lo) (hfhi : Formed zhi hi) : Formed z l := by
  induction hlo generalizing hi zlo z zhi with
  | nil =>
    cases hhi
    exact formed_nil.mpr (hflo.start.between hfhi.start hz)
  | cons hp _ ih =>
    obtain _ | ⟨hq, hhi⟩ := hhi
    rw [formed_cons] at hflo hfhi ⊢
    obtain ⟨hz1, hp1, hl1⟩ := hflo
    obtain ⟨hz2, hp2, hl2⟩ := hfhi
    exact ⟨hz1.between hz2 hz, hp1.between hp2 ⟨hp, hq⟩, ih hhi ⟨by omega, by omega⟩ hl1 hl2⟩

end Sys2Proof.Machine

/-! The elements of a region: its corners decide the check of each of them, and the order they come in (R115, R122 to R124,
R288). -/

namespace Sys2Proof.Machine

section
variable (d : RegionDesc) (idx : List Int) (e : Vector Word 4) (write : Bool)

/-- The product of index `j` in dimension `k` (R123). -/
def RegionDesc.product (j : Int) (k : Nat) : Int := (at' 0 d.start k + j) * at' 0 d.stride k

/-- The products of an element of a region (R123). -/
def RegionDesc.plainProducts (j : Nat → Nat) : List Int := (List.range 4).map fun k => d.product (j k) k

/-- The products of element `j` of an item of the index list (R288). -/
def RegionDesc.listedProducts (j item : Nat) : List Int := [d.product j 0, d.product (idx.getD item 0) 1]

/-- An address that an element of this side may have: inside the tensor, or outside with PAD or CLIP (R123). -/
def RegionDesc.Covers (x : Int) : Prop :=
  (if write then d.clip else d.pad) = true ∨ (0 ≤ x ∧ x + 2 ^ d.esize ≤ entSize e)

/-- An element that passes its checks (R123). -/
def RegionDesc.Admits (l : List Int) : Prop := Formed d.offset l ∧ d.Covers e write (d.offset + l.sum)

theorem RegionDesc.addrAt_eq (j : Nat → Nat) :
    d.addrAt [j 0, j 1, j 2, j 3] = (d.plainProducts j).foldl addProduct (fit64 d.offset) := by
  simp only [RegionDesc.addrAt, addTerm_eq]
  rfl

theorem RegionDesc.addrGather_eq (j item : Nat) :
    d.addrGather idx j item = (d.listedProducts idx j item).foldl addProduct (fit64 d.offset) := by
  simp only [RegionDesc.addrGather, addTerm_eq]
  rfl

variable {d idx e write}

/-- A formed address that may be used is that of an element that passes its checks. -/
theorem RegionDesc.admits_iff {l : List Int} :
    (∃ x, l.foldl addProduct (fit64 d.offset) = some x ∧ d.Covers e write x) ↔ d.Admits e write l := by
  simp only [foldl_addProduct_eq_some_iff, RegionDesc.Admits]
  constructor
  · rintro ⟨x, ⟨hf, rfl⟩, hc⟩
    exact ⟨hf, hc⟩
  · rintro ⟨hf, hc⟩
    exact ⟨_, ⟨hf, rfl⟩, hc⟩

/-- Between two elements that pass their checks, product by product, every other one does. -/
theorem RegionDesc.Admits.between {lo l hi : List Int} (hlo : List.Forall₂ (· ≤ ·) lo l) (hhi : List.Forall₂ (· ≤ ·) l hi)
    (halo : d.Admits e write lo) (hahi : d.Admits e write hi) : d.Admits e write l := by
  obtain ⟨hflo, hclo⟩ := halo
  obtain ⟨hfhi, hchi⟩ := hahi
  refine ⟨Formed.between hlo hhi ⟨le_rfl, le_rfl⟩ hflo hfhi, ?_⟩
  have hsum := hlo.sum_le_sum
  have hsum' := hhi.sum_le_sum
  rcases hclo with h | ⟨h0, -⟩
  · exact .inl h
  · rcases hchi with h | ⟨-, h1⟩
    · exact .inl h
    · exact .inr ⟨by omega, by omega⟩

variable (d) in
/-- The end of dimension `k` with the smallest product. -/
def RegionDesc.lowEnd (k : Nat) : Nat := if 0 ≤ at' 0 d.stride k then 0 else at' 0 d.extent k - 1

variable (d) in
/-- The end of dimension `k` with the largest product. -/
def RegionDesc.highEnd (k : Nat) : Nat := if 0 ≤ at' 0 d.stride k then at' 0 d.extent k - 1 else 0

theorem RegionDesc.lowEnd_mem (k : Nat) : d.lowEnd k ∈ [0, at' 0 d.extent k - 1] := by
  rw [RegionDesc.lowEnd]
  split <;> simp

theorem RegionDesc.highEnd_mem (k : Nat) : d.highEnd k ∈ [0, at' 0 d.extent k - 1] := by
  rw [RegionDesc.highEnd]
  split <;> simp

/-- An index's product lies between those of the ends of its dimension (R124). -/
theorem RegionDesc.product_lowEnd_le {j k : Nat} (hj : j < at' 0 d.extent k) :
    d.product (d.lowEnd k) k ≤ d.product j k := by
  rw [RegionDesc.product, RegionDesc.product, RegionDesc.lowEnd]
  split
  case isTrue h => exact mul_le_mul_of_nonneg_right (by omega) h
  case isFalse h => exact mul_le_mul_of_nonpos_right (by omega) (by omega)

theorem RegionDesc.le_product_highEnd {j k : Nat} (hj : j < at' 0 d.extent k) :
    d.product j k ≤ d.product (d.highEnd k) k := by
  rw [RegionDesc.product, RegionDesc.product, RegionDesc.highEnd]
  split
  case isTrue h => exact mul_le_mul_of_nonneg_right (by omega) h
  case isFalse h => exact mul_le_mul_of_nonpos_right (by omega) (by omega)

theorem RegionDesc.plainProducts_le {i j : Nat → Nat} (h : ∀ k < 4, d.product (i k) k ≤ d.product (j k) k) :
    List.Forall₂ (· ≤ ·) (d.plainProducts i) (d.plainProducts j) := by
  simpa [RegionDesc.plainProducts, List.forall₂_map_left_iff, List.forall₂_map_right_iff, List.forall₂_same] using h

/-- The corners of a region are the elements with an end of every dimension for index (R124). -/
theorem RegionDesc.forall_corners_plain {P : Option Int → Prop} : (∀ a ∈ d.corners idx false, P a) ↔
    ∀ j : Nat → Nat, (∀ k < 4, j k ∈ [0, at' 0 d.extent k - 1]) → P (d.addrAt [j 0, j 1, j 2, j 3]) := by
  simp only [RegionDesc.corners, Bool.false_eq_true, if_false, List.mem_flatMap, List.mem_map]
  constructor
  · intro h j hj
    exact h _ ⟨j 0, hj 0 (by decide), j 1, hj 1 (by decide), j 2, hj 2 (by decide), j 3, hj 3 (by decide), rfl⟩
  · rintro h _ ⟨a, ha, b, hb, c, hc, f, hf, rfl⟩
    refine h (fun k => [a, b, c, f].getD k 0) fun k hk => ?_
    match k with
    | 0 => exact ha
    | 1 => exact hb
    | 2 => exact hc
    | 3 => exact hf

theorem RegionDesc.forall_corners_gathered {P : Option Int → Prop} : (∀ a ∈ d.corners idx true, P a) ↔
    ∀ item < idx.length, ∀ j ∈ [0, at' 0 d.extent 0 - 1], P (d.addrGather idx j item) := by
  simp only [RegionDesc.corners, if_true, List.mem_flatMap, List.mem_map, List.mem_range]
  constructor
  · intro h item hitem j hj
    exact h _ ⟨item, hitem, j, hj, rfl⟩
  · rintro h _ ⟨item, hitem, j, hj, rfl⟩
    exact h item hitem j hj

theorem RegionDesc.count_plain_eq_zero_iff : d.count idx false = 0 ↔ ∃ k < 4, at' 0 d.extent k = 0 := by
  simp only [RegionDesc.count, Bool.false_eq_true, if_false, Nat.mul_eq_zero]
  constructor
  · rintro (((h | h) | h) | h)
    exacts [⟨0, by decide, h⟩, ⟨1, by decide, h⟩, ⟨2, by decide, h⟩, ⟨3, by decide, h⟩]
  · rintro ⟨k, hk, h⟩
    match k with
    | 0 => exact .inl (.inl (.inl h))
    | 1 => exact .inl (.inl (.inr h))
    | 2 => exact .inl (.inr h)
    | 3 => exact .inr h

theorem RegionDesc.count_gathered_eq_zero_iff : d.count idx true = 0 ↔ at' 0 d.extent 0 = 0 ∨ idx.length = 0 := by
  simp [RegionDesc.count]

theorem end_lt {j m : Nat} (hm : m ≠ 0) (hj : j ∈ [0, m - 1]) : j < m := by
  simp only [List.mem_cons, List.not_mem_nil, or_false] at hj
  omega

variable (d idx e write) in
/-- Each corner that the check looks at has an address, and one that it may have (R124). -/
def RegionDesc.CornersAdmitted (gathered : Bool) : Prop :=
  d.count idx gathered = 0 ∨ ∀ a ∈ d.corners idx gathered, ∃ x, a = some x ∧ d.Covers e write x

/-- The corners of a region decide the check of its every element (R124). -/
theorem RegionDesc.cornersAdmitted_plain_iff : d.CornersAdmitted idx e write false ↔
    ∀ j : Nat → Nat, (∀ k < 4, j k < at' 0 d.extent k) → d.Admits e write (d.plainProducts j) := by
  rw [RegionDesc.CornersAdmitted, RegionDesc.forall_corners_plain, RegionDesc.count_plain_eq_zero_iff]
  simp only [RegionDesc.addrAt_eq, RegionDesc.admits_iff]
  constructor
  · rintro (⟨k, hk, hzero⟩ | h) j hj
    · exact absurd (hj k hk) (by omega)
    · refine RegionDesc.Admits.between ?_ ?_ (h _ fun k _ => d.lowEnd_mem k) (h _ fun k _ => d.highEnd_mem k)
      · exact RegionDesc.plainProducts_le fun k hk => d.product_lowEnd_le (hj k hk)
      · exact RegionDesc.plainProducts_le fun k hk => d.le_product_highEnd (hj k hk)
  · intro h
    refine or_iff_not_imp_left.mpr fun hne j hj => h j fun k hk => end_lt (fun hzero => hne ⟨k, hk, hzero⟩) (hj k hk)

theorem RegionDesc.cornersAdmitted_gathered_iff : d.CornersAdmitted idx e write true ↔
    ∀ item < idx.length, ∀ j < at' 0 d.extent 0, d.Admits e write (d.listedProducts idx j item) := by
  rw [RegionDesc.CornersAdmitted, RegionDesc.forall_corners_gathered, RegionDesc.count_gathered_eq_zero_iff]
  simp only [RegionDesc.addrGather_eq, RegionDesc.admits_iff]
  constructor
  · rintro (hzero | h) item hitem j hj
    · omega
    · refine RegionDesc.Admits.between ?_ ?_ (h item hitem _ (d.lowEnd_mem 0)) (h item hitem _ (d.highEnd_mem 0))
      · simpa [RegionDesc.listedProducts] using d.product_lowEnd_le hj
      · simpa [RegionDesc.listedProducts] using d.le_product_highEnd hj
  · intro h
    exact or_iff_not_imp_left.mpr fun hne item hitem j hj => h item hitem j (end_lt (fun hzero => hne (.inl hzero)) hj)

end

/-- A copy may use a valid entry with access, on HBM one with an aligned base inside 2^52 (R115). -/
theorem entUsable_iff {e : Vector Word 4} {write : Bool} :
    let bits (k lo n : Nat) : Nat := (at' 0 e k).toNat / 2 ^ lo % 2 ^ n
    entUsable e write = true ↔ bits 3 0 1 = 1 ∧ bits 3 4 2 ≠ 3 ∧ bits 3 (if write then 2 else 1) 1 = 1 ∧
      (bits 3 4 2 = 0 → bits 0 0 52 % 64 = 0 ∧ bits 0 0 52 + bits 1 0 48 ≤ 2 ^ 52) := by
  simp only [entUsable, Bool.and_eq_true, Bool.or_eq_true, beq_iff_eq, bne_iff_ne, decide_eq_true_eq, and_assoc,
    ne_eq, ← imp_iff_not_or]
  rfl

/-- A region side's checks (R115, R122 to R124). -/
theorem regionOk_iff {d : RegionDesc} {idx : List Int} {gathered write : Bool} {e : Vector Word 4} :
    regionOk d idx gathered write e = true ↔ entUsable e write = true ∧ d.esize ≤ 4 ∧
      (gathered = true → at' 0 d.extent 1 = 1 ∧ at' 0 d.extent 2 = 1 ∧ at' 0 d.extent 3 = 1) ∧
      d.CornersAdmitted idx e write gathered := by
  simp only [regionOk, Bool.and_eq_true, decide_eq_true_eq, and_assoc]
  refine and_congr_right' (and_congr_right' (and_congr ?_ ?_))
  · cases gathered <;> simp [and_assoc]
  · rw [Bool.or_eq_true, beq_iff_eq, List.all_eq_true]
    refine or_congr_right (forall₂_congr fun a _ => ?_)
    cases a <;> simp [RegionDesc.Covers, RegionDesc.inRange, RegionDesc.z]

/-- A number's low digit in base `m` divided away. -/
theorem lowDigit_div {a m : Nat} (h : a < m) (x : Nat) : (a + m * x) / m = x := by
  rw [Nat.add_mul_div_left _ _ (by omega), Nat.div_eq_of_lt h, Nat.zero_add]

theorem lowDigit_mod {a m : Nat} (h : a < m) (x : Nat) : (a + m * x) % m = a := by
  rw [Nat.add_mul_mod_self_left, Nat.mod_eq_of_lt h]

/-- Element `j` of a plain region by its place in region order, the innermost index fastest (R123). -/
theorem RegionDesc.addr_plain (d : RegionDesc) {j : Nat → Nat} (hj : ∀ k < 4, j k < at' 0 d.extent k) :
    d.addr [] (j 0 + at' 0 d.extent 0 * (j 1 + at' 0 d.extent 1 * (j 2 + at' 0 d.extent 2 * j 3))) =
      d.addrAt [j 0, j 1, j 2, j 3] := by
  have h0 := hj 0 (by decide)
  have h1 := hj 1 (by decide)
  have h2 := hj 2 (by decide)
  simp only [RegionDesc.addr, List.isEmpty_nil, if_true, beq_iff_eq, Nat.mul_eq_zero, Nat.ne_zero_of_lt h0,
    Nat.ne_zero_of_lt h1, Nat.ne_zero_of_lt h2, or_self, if_false, ← Nat.div_div_eq_div_mul, lowDigit_div h0,
    lowDigit_div h1, lowDigit_div h2, lowDigit_mod h0, lowDigit_mod h1, lowDigit_mod h2]

/-- Element `j` of an item of the index list by its place in region order (R288). -/
theorem RegionDesc.addr_listed (d : RegionDesc) {idx : List Int} {j item : Nat} (hitem : item < idx.length)
    (hj : j < at' 0 d.extent 0) : d.addr idx (j + at' 0 d.extent 0 * item) = d.addrGather idx j item := by
  have hne : idx ≠ [] := List.ne_nil_of_length_pos (by omega)
  simp [RegionDesc.addr, hne, Nat.ne_zero_of_lt hj, lowDigit_div hj, Nat.mod_eq_of_lt hj]

/-- A region: its descriptor's fields, its checks and its order. -/
theorem regions : saysRegions := by
  intro b t at_ count d idx gathered write e word signed r bits base size usable extent term fits formed good plain listed
  have hformed {l : List Int} (h : formed l) : l.foldl addProduct (fit64 d.offset) = some (d.offset + l.sum) :=
    foldl_addProduct_eq_some_iff.mpr ⟨h, rfl⟩
  refine ⟨fun hb => ofBytes_fields hb, length_indexList t at_ count, fun k hk => indexList_getD t at_ hk, rfl, rfl, rfl, ?_,
    fun j hj hf => ?_, fun item hitem j hj hf => ?_⟩
  · rw [regionOk_iff]
    refine and_congr entUsable_iff (and_congr_right' (and_congr_right' ?_))
    cases gathered with
    | true => exact RegionDesc.cornersAdmitted_gathered_iff
    | false => exact RegionDesc.cornersAdmitted_plain_iff
  · rw [RegionDesc.addr_plain d hj, RegionDesc.addrAt_eq]
    exact hformed hf
  · rw [RegionDesc.addr_listed d hitem hj, RegionDesc.addrGather_eq]
    exact hformed hf

/-- Settles O12: the copies at issue, and the region's layout, checks and order that they rest on. -/
theorem copyRegion : Obligations.CopyRegion := ⟨copyPush, copyRegions, regions⟩

end Sys2Proof.Machine
